-- ==== Sys2Proof/Syntax.lean ====
section
/-! DEFINITION. The commands of the block: one constructor of `Instr` per row of spec/opcode_table.json, and the
types of their operands. A command stands for one indivisible step of the part (spec/95_what_each_step_holds.md). What
the outside world decides in such a step (a measurement, a test result, bytes that DMA brought, a packet) is its operand. -/

namespace Sys2Proof

/-- The classes of a condition (R354). -/
inductive CondClass where
  | note | replay | retire | contain | job | fatal
  deriving DecidableEq, Repr

/-- Severities, most severe first (R443, bits [162:160]). -/
inductive Severity where
  | fatal | error | warning | notice | info
  deriving DecidableEq, Repr

/-- What a condition names as its source (R359, R443 SRC_KIND). Tiles are physical, numbered 144d + 12r + c. -/
inductive Source where
  | device
  | tile (p : Nat)
  | hbm (s : Nat)
  | ddr (c : Nat)
  | port (p : Nat)
  | region (g : Nat)
  | die (i : Nat)
  | host
  deriving DecidableEq, Repr

/-- Every condition of R357 Table 2, R406 Table 8, R442 Table 12 and R459 Table 8. -/
inductive Cond where
  | tickReplay | tickOverrun | replayLimit | slipLimit | unbackedLoss | fillUndeclared | drainRefused
  | steerSkew | schedDeviation | drainTimeout | configParity | staleToken | repeatFault | streamOrder | bankBudget
  | msgOversize
  | padParity | indexRange | arbHoldCutoff | queueResidue | queueCycle
  | trayOverflow | scaleExhausted | nonfinite
  | versionSpace | dirEccCe | dirEccUe | pinOverflow | regionSlow | rotation | taskUnfit
  | sliceParity | hbmCe | ddrCe | hbmUe | ddrUe | memUeIdle | memRepair | memLost
  | laneSpared | portUntrained | portDown | portFlap | portAuthFail | coordMismatch | linkDrop | routeDrop | floodLate
  | routeDegraded | routeOverflow | circuitLost | windowClosed | windowDenied | remoteFlag | remoteTimeout
  | fabricPathFail | routeStale
  | chunkReissue | peerSlow | a2aTruncated | collPeerLost | timeHoldover | timeBudget
  | hostLinkReduced | stickyCleared
  | crumbMismatch | crumbUnresolved | reserveLow | reserveExhausted | reserveTestFail | fenumWatchdog | fenumLockstep
  | fenumFail | resetFail | healthBand
  | droopStretch | thermThrottle | thermTrip | powerLimit | crossCalFail | sensorFail
  | startCold | startWarm | bootSlotFallback | testFail | startHalt | identityFail | shutdownDone | fastShutdown
  | svnRaised | lifecycleChange | keyChange | debugUnlocked | signatureRefused
  | eventsCleared | dumpCaptured | dumpPersistAbandoned | syncConflict | norWriteFail
  deriving DecidableEq, Repr

/-- One raising of a condition: its code, the class and severity it is raised with, its source, the logical tile of
a tile source and the payload words (R443, R444). -/
structure Raise where
  cond : Cond
  cls : CondClass
  sev : Severity
  src : Source
  logical : BitVec 16 := 0xFFFF
  w0 : Word64 := 0
  w1 : Word64 := 0
  w2 : Word64 := 0
  w3 : Word64 := 0
  deriving DecidableEq, Repr

/-- The temperature sensors of R401. Region sensors are formed from tile sensors. -/
inductive Sensor where
  | tile (p : Nat)
  | hbm (s : Nat)
  | base (d : Nat)
  | portDie (i : Nat)
  | hub
  deriving DecidableEq, Repr

/-- What the check of a memory read finds (R143, R232, R236, R239). -/
inductive ReadOutcome where
  /-- no error found -/
  | clean
  /-- a parity error in a slice line (R232) -/
  | parity
  /-- a corrected HBM4 or DDR5 error, in this row (R240, R243) -/
  | corrected (row : Nat)
  /-- an uncorrectable HBM4 or DDR5 error, in this row (R241, R243) -/
  | uncorrectable (row : Nat)
  /-- an error of an HBM4 line that the check takes for another, one it corrects, in this row: these bytes are returned and written back in the line's
  place (R236, R240) -/
  | miscorrected (row : Nat) (data : List Byte)
  /-- an uncorrectable error of the loaf's directory entry (R192) -/
  | dirUncorrectable
  /-- a corrected error of the loaf's directory entry (R192) -/
  | dirCorrected
  deriving DecidableEq, Repr

/-- A line of a loaf that is read, and what its check finds. -/
structure MemRead where
  loaf : Nat
  line : Nat
  outcome : ReadOutcome
  deriving DecidableEq, Repr

/-- A line of a frame of a reserved area that is read or written, and what its check finds (R241). -/
structure AreaRead where
  frame : Nat
  line : Nat
  outcome : ReadOutcome
  deriving DecidableEq, Repr

/-- A row of a stack's pseudo-channel, or of a channel's subchannel (R235, R239, R243). -/
structure RowRef where
  unit : Source
  sub : Nat
  row : Nat
  deriving DecidableEq, Repr

/-- A command of a mailbox that reads memory for the host, and what its reads meet, where not clean (R232, R240, R241). -/
structure HostRead where
  mb : Nat
  reads : List MemRead := []
  deriving DecidableEq, Repr

/-- The issue of a collective entry's stage 0, and what its reads of source and counts meet, where not clean (R232, R240, R241, R301). -/
structure StageStart where
  coll : Nat
  reads : List MemRead := []
  deriving DecidableEq, Repr

/-- Which transfer a completion with an error status ends: that of a mailbox's command, or the write of a completion record (R318, R352). -/
inductive DmaTarget where
  | command (mb : Nat)
  | record
  deriving DecidableEq, Repr

/-- A physical tile, and its region's speed measured since the boundary, in 1/10,000 (R210, R388). -/
structure TileSpeed where
  tile : Nat
  speed : Nat := 10000
  deriving DecidableEq, Repr

/-- The sending tile of a retried message, and whether a staging line it reads fails its parity (R143, R150). -/
structure RetrySend where
  sender : Nat
  upset : Bool := false
  deriving DecidableEq, Repr

/-- What a configuration copy meets: its read of the slice tier, and its parity on the chain (R121, R143, R232). -/
structure CopyOutcome where
  read : ReadOutcome := .clean
  padUpset : Bool := false
  deriving DecidableEq, Repr

/-- A configuration copy that runs ahead on a physical tile. -/
structure AheadCopy where
  tile : Nat
  copy : CopyOutcome := {}
  deriving DecidableEq, Repr

/-- Which firing a weave command is: a physical tile, a unit of its weave (R89) and the fold slot of the record. -/
structure Firing where
  tile : Nat
  unit : Nat
  fold : Nat
  deriving DecidableEq, Repr

/-- One 16-byte DMA descriptor as read from host memory (R332, Table 6). -/
structure Descriptor where
  addr : Word64
  bytes : BitVec 24
  last : Bool
  chain : Bool
  rsv : BitVec 38 := 0
  deriving DecidableEq, Repr

/-- A fabric packet (R261, Table 7) with its payload. -/
structure Packet where
  dest : BitVec 24 := 0
  src : BitVec 24 := 0
  typ : BitVec 6 := 0
  cls : BitVec 2 := 0
  phase : Bool := false
  ddim : BitVec 3 := 0
  rgen : BitVec 4 := 0
  window : BitVec 12 := 0
  wgen : BitVec 4 := 0
  offset : BitVec 32 := 0
  status : BitVec 4 := 0
  e2eSeq : BitVec 32 := 0
  flow : BitVec 16 := 0
  chunk : BitVec 32 := 0
  epoch : BitVec 8 := 0
  coll : BitVec 16 := 0
  payload : List Byte := []
  /-- date-line bit of the data channel it travels on (R256 Table 6, R269) -/
  dateline : Bool := false
  deriving DecidableEq, Repr

/-- A packet of a window operation, and what the read of its line meets, or of the version that a first write copies (R64, R232, R240, R241). -/
structure WindowOp where
  packet : Packet
  read : ReadOutcome := .clean
  deriving DecidableEq, Repr

/-- A flit header (R256, Table 6) with what the receiver's checks found. -/
structure Flit where
  fseq : BitVec 12 := 0
  fack : BitVec 12 := 0
  vc : BitVec 4 := 13
  sop : Bool := false
  eop : Bool := false
  nak : Bool := false
  abort : Bool := false
  /-- bytes 4 to 251; those past the end of the list are zero -/
  data : List Byte := []
  /-- of a link-control flit: the credits it returns for each VC (R260); the spec gives them no place in its bytes -/
  credits : List (Nat × Nat) := []
  deriving DecidableEq, Repr

/-- A flit as it arrives: the CRC-32 it carries, and how many symbols arrived wrong in each FEC codeword that holds a part of it (R256 to R258). -/
structure FlitArrival where
  flit : Flit
  crc : BitVec 32
  symbolErrors : List Nat := []
  deriving DecidableEq, Repr

/-- Two time stamps in ps, of a flit's sending by its sender's time and of its receipt by the receiver's (R291). -/
structure Stamps where
  sent : Int
  received : Int
  deriving DecidableEq, Repr

/-- A HELLO payload (R263, Table 9). -/
structure Hello where
  serial : BitVec 128 := 0
  generation : BitVec 16 := 4
  port : BitVec 8 := 0
  caps : BitVec 8 := 0
  fabricAddr : BitVec 32 := 0
  planId : Word64 := 0
  nonce : BitVec 128 := 0
  peerNonce : BitVec 128 := 0
  keyHash : BitVec 128 := 0
  signature : BitVec 768 := 0
  deriving DecidableEq, Repr

/-- A flood event of R284: the device whose bundle changed, the dimension and direction (`true` is +), the fabric
tick of detection and the per-device event number. -/
structure Flood where
  device : Nat
  dim : Nat
  plus : Bool
  up : Bool
  tick : Nat
  event : Nat
  /-- a port went down or came up while its bundle stays as it is: the event changes no route (R284) -/
  noRoute : Bool := false
  deriving DecidableEq, Repr

/-- What the part measures over a slot, taken at its boundary. -/
structure SlotMeasure where
  /-- mean package input power over the last tick, watts (R398) -/
  powerW : Nat := 0
  /-- power of the compute-die rails over the last slot, watts (R398) -/
  compW : Nat := 0
  /-- for each region named, the tile cycles it completed in the slot (R388); a region not named completed all -/
  cycles : List (Nat × Nat) := []
  /-- measured mean latency of HBM4 and of DDR5 over the last slot, nominal cycles; none where nothing was read (R204) -/
  latHbm : Option Nat := none
  latDdr : Option Nat := none
  /-- mean fill rate per filling tile from HBM4 and from DDR5, thousandths of a byte per nominal cycle; none where nothing was filled (R204) -/
  rateHbm : Option Nat := none
  rateDdr : Option Nat := none
  /-- loaves whose migration copy had not ended at the boundary (R199) -/
  unfinished : List Nat := []
  /-- what reads of the placement engine met in the slot, where not clean: lines of loaves that a migration or the merge copy of a write that was
  applied again copied (R78, R200, R240, R241) -/
  copies : List MemRead := []
  /-- what accesses to reserved areas met in the slot, where not clean: the image area, the inbound journal, outbound staging, the scale
  blocks (R240, R241) -/
  areas : List AreaRead := []
  deriving DecidableEq, Repr

/-- Where a REGISTER_WRITE goes (R320, R316). -/
inductive RegTarget where
  /-- a BAR0 offset -/
  | bar0 (offset : Nat)
  /-- a BAR4 offset -/
  | bar4 (offset : Nat)
  /-- Max Payload Size, and Max Read Request Size, in bytes -/
  | payloadSize
  | readRequestSize
  /-- the Bus Master Enable bit of the PCI Express command register -/
  | busMaster
  /-- the power-state field of the function: 0 is D0, 3 is D3hot -/
  | powerState
  deriving DecidableEq, Repr

/-- What the tests of a start or of a shutdown find (R415, R417, R422). -/
structure TestResult where
  tiles : List Nat := []
  hbm : List Nat := []
  ddr : List Nat := []
  baseDies : List Nat := []
  portDies : List Nat := []
  ports : List Nat := []
  sensors : List Nat := []
  /-- rows that a march test of REQUALIFY found and repairs softly (R376) -/
  rows : List RowRef := []
  deriving DecidableEq, Repr

/-- The test access port instructions that drive the pins (R436). -/
inductive TapInstr where
  | extest | clamp | highz
  deriving DecidableEq, Repr

/-- One wavelength of a fibre-attach unit's laser feed as measured (R249 Table 2): power in 0.01 dBm, distance from the grid of Table 1 in GHz,
relative intensity noise in dB/Hz, the slow axis, and extinction in dB. -/
structure Feed where
  power : Int := 0
  offGrid : Int := 0
  noise : Int := 0
  slowAxis : Bool := false
  extinction : Int := 0
  deriving DecidableEq, Repr

/-- A wavelength within Table 2 of R249. -/
def Feed.nominal : Feed := { power := 1750, noise := -150, slowAxis := true, extinction := 20 }

/-- The outcome of one training attempt of a port (R252 to R254): the lanes locked in each direction, as masks of
nine bits, and whether the HELLO exchange ended in time. -/
structure Training where
  txLock : BitVec 9
  rxLock : BitVec 9
  hello : Bool
  /-- the attempt is only at the start of its HELLO phase, not at its end (R252) -/
  atHello : Bool := false
  /-- the laser feed as the LIGHT phase measured it, for wavelengths 0 to 8 (R249) -/
  feed : List Feed := List.replicate 9 Feed.nominal
  deriving DecidableEq, Repr

/-- A request to the DOE mailbox (R433, R434). -/
inductive DoeRequest where
  | getVersion | getCapabilities | negotiateAlgorithms | getDigests
  | getCertificate (slot : Nat)
  | challenge (nonce : BitVec 256)
  | getMeasurements (index : Nat) (nonce : BitVec 256)
  | keyExchange (pub : BitVec 768)
  | finish
  | endSession
  | ideKeyProgram (stream : Nat) (key : BitVec 256)
  | ideKeyStart (stream : Nat)
  | ideKeyStop (stream : Nat)
  | other (code : Nat)
  deriving DecidableEq, Repr

/-- The commands: one constructor per row of spec/opcode_table.json, in the table's order. -/
inductive Instr where
  -- power, pins and start
  | vaux3On (udsMatches : Bool) (addrSel : BitVec 2)
  | vin12Ready (calFail : List Nat)
  | vin12AbsentTimeout
  | startTests (memIdHash : BitVec 384)
  | startComplete (found : TestResult)
  | pwrOkLow
  | syncInLow
  | syncInEdge (stamp : Nat)
  | perstNAssert
  | hotReset
  | perstNRelease
  | powerRemoved
  | tapEnterExtest (which : TapInstr)
  | tapLeaveExtest
  | vddqDdrFault
  | thermalComparatorTrip (die : Nat)
  | sensorRead (readings : List (Sensor × Int))
  | timeUtcWrite (value : Word64)
  | timeUtcTick
  | recLengthWrite (value : Word32)
  | recDataWrite (value : Word32)
  | recVerifyDone
  -- host link
  | registerWrite (target : RegTarget) (width : Nat) (value : Word64)
  | crEntriesWrite (value : Word32)
  | hostLinkTrained (width gts : Nat)
  | dmaCompletionTimeout (mb : Nat)
  | dmaWaitTimeout (mb : Nat)
  | dmaCompletionError (target : DmaTarget)
  | completionCoalesceTimer
  | mb00Scan
  | slowMailboxScan
  | statusPageSlowRefresh
  -- mailbox commands and their completions
  | unknownCommand (mb : Nat)
  | identify (mb : Nat)
  | getStatus (mb : Nat)
  | setPolicy (mb : Nat)
  | loadImage (mb : Nat)
  | openJob (mb : Nat)
  | declareLoaves (mb : Nat)
  | hostFill (mb : Nat)
  | hostFillDmaComplete (mb : Nat) (list : List Descriptor) (data : List Byte)
  | hostDrain (cmd : HostRead)
  | hostDrainComplete (mb : Nat) (list : List Descriptor)
  | startJob (mb : Nat)
  | pauseJob (mb : Nat)
  | pauseEnterReady
  | resumeJob (mb : Nat)
  | stopJob (mb : Nat)
  | checkpointSave (cmd : HostRead)
  | checkpointRestore (mb : Nat)
  | checkpointTransferComplete (mb : Nat) (list : List Descriptor) (data : List Byte)
  | fabricPlan (mb : Nat)
  | fabricCommit (mb : Nat)
  | windowOpen (mb : Nat)
  | windowCloseLocal (mb : Nat)
  | windowCloseProxy (mb : Nat)
  | crumbCheck (mb : Nat)
  | crumbCheckBegin
  | crumbProgramComplete (tile partner : Nat) (out outPartner : List Word64) (reruns : List (Nat × List Word64))
  | requalify (mb : Nat)
  | readEvents (mb : Nat)
  | clearEventsNonce (mb : Nat)
  | clearEventsClear (mb : Nat)
  | clearSticky (mb : Nat)
  | getDump (mb : Nat)
  | resetCompute (mb : Nat)
  | computeResetComplete (failTiles : List Nat) (lostUnits : List Source)
  | shutdown (mb : Nat)
  | shutdownTestComplete
  | fwStage (mb : Nat)
  | fwActivate (mb : Nat)
  | fwActivateAtBoot (mb : Nat)
  | lifecycleGetNonce (mb : Nat)
  | lifecycleTransition (mb : Nat)
  | lifecycleInstallKey (mb : Nat)
  | lifecycleDebugUnlock (mb : Nat)
  -- the tick
  | tickBoundary (m : SlotMeasure)
  | runPhaseOpen
  | marginOpen
  | taskBegin (at_ : TileSpeed)
  | fillLineReturn (tile : Nat) (runAhead : Bool) (entry line : Nat) (outcome : ReadOutcome)
  | fillListComplete (tile : Nat)
  | weaveStart (tile : Nat) (configParity : Bool)
  -- matrix and vector units
  | mstream (f : Firing)
  | mstreamAcc (f : Firing)
  | fma (f : Firing)
  | mul (f : Firing)
  | add (f : Firing)
  | sub (f : Firing)
  | accum (f : Firing)
  | min (f : Firing)
  | max (f : Firing)
  | cmp (f : Firing)
  | iadd (f : Firing)
  | isub (f : Firing)
  | and (f : Firing)
  | or (f : Firing)
  | xor (f : Firing)
  | shift (f : Firing)
  | exp2 (f : Firing)
  | log2 (f : Firing)
  | rcp (f : Firing)
  | rsqrt (f : Firing)
  | rng (f : Firing)
  | cvt (f : Firing)
  | reduce (f : Firing)
  -- steering units
  | route (f : Firing)
  | select (f : Firing)
  | filter (f : Firing)
  | compact (f : Firing)
  | count (f : Firing)
  | merge (f : Firing)
  | union (f : Firing)
  | intersect (f : Firing)
  -- address units; `upset`: the parity check of the pad cells read fails (R143)
  | rowRead (f : Firing) (upset : Bool)
  | rowWrite (f : Firing)
  | columnRead (f : Firing) (upset : Bool)
  | columnWrite (f : Firing)
  | stridedRead (f : Firing) (upset : Bool)
  | stridedWrite (f : Firing)
  | indexedRowRead (f : Firing) (upset : Bool)
  | indexedRowWrite (f : Firing)
  | gather (f : Firing) (upset : Bool)
  | scatter (f : Firing)
  | probe (f : Firing) (upset : Bool)
  | append (f : Firing)
  | send (f : Firing)
  | take (f : Firing) (upset : Bool)
  | pull (f : Firing) (upset : Bool)
  -- the end of a task
  | weaveHoldLimit (tile : Nat)
  | schedDeviation (tile : Nat) (measured : Nat)
  | weaveDrainEnd (tile : Nat) (padUpset : Option Nat) (merge : List (Nat × ReadOutcome))
  | drainTimeout (tile : Nat)
  | drainComplete (tile : Nat)
  | errorReport (r : Option Raise)
  | failureBroadcast
  | messageRingWrite (sender receiver : Nat) (upset : Bool)
  | ringSendRetry (retry : RetrySend)
  | ringArbHoldCutoff (sender receiver : Nat)
  | configLoad (tile : Nat) (copy : CopyOutcome) (recordUpset : Bool)
  | runAheadConfigLoad (ahead : AheadCopy)
  | runAheadFillIssue (tile : Nat)
  -- stealing
  | tileIdle (at_ : TileSpeed)
  | stealReq (thief : Nat) (victim : TileSpeed)
  | stealGrant (thief : Nat)
  | stealRefusal (thief : Nat)
  -- placement and reserve tiles
  | directorySweep (loaf : Nat) (outcome : ReadOutcome)
  | accessDecay
  | regionSlow (region : Nat)
  | parkedTileVerified (tile : Nat)
  | rotation
  | tileExchange (logical : Nat)
  | reserveProgramComplete (a b : Nat) (outA outB : List Word64) (third : Option (Nat × List Word64))
  | healthScoreUpdate
  | fenumWatchdog
  | fenumLockstep
  | firmwareRunning (started : Bool)
  | dumpPersist
  | eventPersist (writeFails : Bool)
  -- clocks and memories
  | droopTrip (region : Nat)
  | limiterInterval (meanW : Nat)
  | patrolLine (frame line : Nat) (outcome : ReadOutcome)
  | ddrWriteCrcError (frame line : Nat) (retriesFailed : Nat)
  | hbmArbHoldCutoff (stack pc : Nat)
  -- ports and links
  | portTrainingAttempt (port : Nat) (t : Training)
  | portRetryTimer (port : Nat)
  | portLossOfLock (port lane : Nat)
  | portIdleTimeout (port : Nat)
  | flitReceive (port : Nat) (f : FlitArrival)
  | linkControlFlit (port : Nat) (request answer : Stamps) (peerBudget : Option Nat) (peerDepth : Nat)
  | hello (port : Nat) (h : Hello)
  | helloCert (port : Nat) (chain : BitVec 384)
  | coord (port : Nat) (addr : BitVec 24) (dim : Nat) (plus : Bool)
  | transitPacket (port : Nat) (p : Packet)
  | portDownFlood (port : Nat) (e : Flood)
  | portUpFlood (port : Nat) (e : Flood)
  | injectionStop
  | fabricTableSwap
  | injectionResume
  | fabricArbHoldCutoff (port : Nat) (p : Packet)
  -- windows
  | windowPut (op : WindowOp)
  | windowGet (op : WindowOp)
  | windowAdd (op : WindowOp)
  | windowCas (op : WindowOp)
  | reply (p : Packet)
  | e2eTimeout (peer : Nat)
  -- collectives
  | barrier (p : Packet)
  | chunkData (p : Packet)
  | chunkAck (p : Packet)
  | chunkCount (p : Packet)
  | chunkTimeout (coll : Nat) (chunk peer : Nat)
  | collectiveStage0Start (start : StageStart)
  | collectiveStageComplete (coll : Nat)
  | peerSlow (coll : Nat)
  -- completions
  | loadImageDmaComplete (mb : Nat) (list : List Descriptor) (data : List Byte)
  | fabricPlanDmaComplete (mb : Nat) (list : List Descriptor) (data : List Byte)
  | fwStageDmaComplete (mb : Nat) (list : List Descriptor) (data : List Byte)
  | getDumpDmaComplete (mb : Nat) (list : List Descriptor)
  | requalifyTestComplete (found : TestResult)
  | shutdownPhaseComplete (found : TestResult) (repairs : List RowRef)
  | eventPersistComplete
  | dumpPersistComplete
  | doeRequest (r : DoeRequest)
  | fenceNotice (port : Nat) (p : Packet)
  deriving DecidableEq, Repr

end Sys2Proof
end

