-- ==== Sys2Proof/Decode.lean ====
section
/-! DEFINITION. The decoder of the command table: its rows have no bits (spec/opcode_table.json gives no field of any
row), so no word spells a command. -/

namespace Sys2Proof

/-- The command that a word of the table spells: the table gives no row any bits, so none. -/
def decodeTableWord (_nbits _w : Nat) : Option Instr := none

end Sys2Proof
end

