-- ==== Sys2Proof/Config.lean ====
section
/-! DEFINITION. What the spec names and does not compute, and the free values. Every constant here has no body: nothing
can be proved of its values, so what is proved holds whatever they are (notes/assumptions/4.md and 5.md). -/

namespace Sys2Proof.Config

/-- SHA-384, which R44, R45, R343, R418 and R426 use and the spec does not spell out. -/
opaque sha384 : List Byte → BitVec 384

/-- HMAC-SHA-384 under the device's record key (R430), of a serialised record. -/
opaque recordMac : List Byte → BitVec 384

/-- ECDSA P-384 verification of a digest under a public key (R45, R426, R438, R452). -/
opaque ecdsaVerify : List Byte → BitVec 384 → BitVec 768 → Bool

/-- Whether a certificate chain, by its digest, verifies to the fused Serrazor root and gives a key of this hash (R263, R432). -/
opaque chainVerify : BitVec 384 → BitVec 128 → Bool

/-- Whether a HELLO signature verifies over its fields under the key its chain gives (R263). -/
opaque helloVerify : BitVec 384 → List Byte → BitVec 768 → Bool

/-- The DeviceID public key of the part with this serial number, as IDENTITY_HASH covers it (R334, R430). -/
opaque deviceKey : BitVec 128 → List Byte

/-- The Alias public key of the part with this serial number, the n-th that its boots derived (R430, R432). -/
opaque aliasKey : BitVec 128 → Nat → List Byte

/-- The n-th value drawn where the spec leaves a value open: a nonce, a sweep seed, an answer of a standard protocol. -/
opaque freeValue : Nat → BitVec 128

/-- Byte of a section of the n-th crash dump, by the section's type and the offset in it, where the spec gives the section's content in
words only (R453 Table 5). -/
opaque dumpByte : Nat → Nat → Nat → Byte

/-- The synchroniser setting that a crossing calibration stored for a crossing at a performance state, which the spec leaves open: calibration,
crossing (a tile's vertical one by the tile's number, a region's horizontal one by 1,152 plus the region's), MHz (R391). -/
opaque crossSetting : Nat → Nat → Nat → Nat

/-- The measurement of the boot ROM's identity, fixed in mask (R433 Table 6). -/
opaque bootRomId : BitVec 384

/-- Serrazor's manufacturer identity in the JTAG IDCODE (R436). -/
opaque manufacturer : BitVec 11

end Sys2Proof.Config
end

