-- ==== Sys2Proof/Machine/State.lean ====
section
/-! DEFINITION. The state of the block: every register, queue, buffer, counter, mode and pin the spec gives it, as plain
data, its reasons to stop, and the state after reset. Each field's comment names the rule of spec/ that gives it and its
reset value. "Free choice n" marks a value the spec does not give; notes/assumptions/n.md holds it. -/

namespace Sys2Proof.Machine

/-- Why a step can stop with a fault. -/
inductive Fault where
  /-- Raised by a command that names a unit the part does not have (a tile above 1,151, a port above 23, a mailbox
  above 15 ...): such a command cannot arise on the part. Safe: the model stops where nothing can happen. -/
  | noSuchUnit
  deriving DecidableEq, Repr

/-- Why a step can be refused. -/
inductive Refusal where
  /-- The command has no meaning in this model yet. Safe: nothing is claimed of it. -/
  | notModelled (mnemonic : String)
  deriving DecidableEq, Repr

/-- Bytes by address, in one canonical form: addresses strictly rising, no entry zero (an unlisted byte reads zero). -/
abbrev Memory := List Host.Cell

/-! ## Records of a job image (chapter 1) -/

/-- Task table entry (R29, chapter 1 Table 4). -/
structure Task where
  weaveCycles : Nat := 0
  drainBound : Nat := 0
  wave : Nat := 0
  gang : Nat := 0
  configSet : Nat := 0
  fillList : Nat := 0xFFFFFFFF
  drainList : Nat := 0xFFFFFFFF
  dataTrays : Nat := 0
  queueMask : Nat := 0
  stealable : Bool := false
  homeMsg : Bool := false
  sends : Bool := false
  remoteAdd : Bool := false
  collective : Bool := false
  affinity : Nat := 0
  fillBytes : Nat := 0
  drainBytes : Nat := 0
  collectiveId : Nat := 0
  deriving DecidableEq, Repr

/-- Fill and drain entry (R34, chapter 1 Table 6). -/
structure Entry where
  loaf : Nat := 0
  line : Nat := 0
  count : Nat := 0
  padLine : Nat := 0
  kind : Nat := 0
  indexLine : Nat := 0
  tensor : Nat := 0
  deriving DecidableEq, Repr

/-- Loaf declaration record (R40, chapter 1 Table 7). -/
structure Decl where
  first : Nat := 0
  count : Nat := 0
  unbacked : Bool := false
  keepInSlice : Bool := false
  streamOnce : Bool := false
  preferDdr : Bool := false
  hostIn : Bool := false
  hostOut : Bool := false
  affinity : Nat := 0
  tensor : Nat := 0
  deriving DecidableEq, Repr

/-- Numerics policy entry (R42, chapter 1 Table 8). -/
structure Numeric where
  tensor : Nat := 0
  format : Nat := 0
  cls : Nat := 0
  current : Bool := false
  headroom : Nat := 0
  bf16 : Bool := false
  deriving DecidableEq, Repr

/-- Address stream pattern (chapter 3 Table 9). -/
structure Pattern where
  mode : Nat := 0
  baseLine : Nat := 0
  step0 : Int := 0
  count0 : Nat := 0
  step1 : Int := 0
  count1 : Nat := 0
  budget : Nat := 0
  queue : Nat := 0
  msgTokens : Nat := 0
  maxProbes : Nat := 0
  destTask : Nat := 0
  destDyn : Bool := false
  key32 : Bool := false
  startVisit : Nat := 0
  deriving DecidableEq, Repr

/-- Configuration record (chapter 3 Table 8). -/
structure Record where
  op : Nat := 0
  mode : Nat := 0
  inA : Nat := 0
  inB : Nat := 0
  inC : Nat := 0
  out0 : Nat := 0
  out1 : Nat := 0
  beatOffset : Nat := 0
  govern : Nat := 0
  foldCheck : Bool := false
  expectFold : Nat := 0
  span : Nat := 1
  fireStart : Nat := 0
  fireStride : Nat := 1
  fireCount : Nat := 0
  firstVisit : Nat := 0
  fireLimit : Nat := 0
  tensor : Nat := 0
  chainLen : Nat := 0
  panelTokens : Nat := 0
  swapEvery : Nat := 0
  elemBase : Nat := 0
  elemStride : Nat := 0
  taskStride : Nat := 0
  bHold : Bool := false
  holdLane : Nat := 0
  holdStep : Nat := 0
  holdFirings : Nat := 0
  split : Nat := 0
  group : Nat := 0
  /-- the constant token's 64 bytes of a unit that is no address unit -/
  constant : List Byte := []
  patA : Pattern := {}
  patB : Pattern := {}
  deriving DecidableEq, Repr

/-- The express channels of R90 Table 2: X0 and X1 of a row, Y0 and Y1 of a column. -/
inductive Wire where
  | row (r i : Nat)
  | column (c i : Nat)
  deriving DecidableEq, Repr

/-- A configuration set (R33): its fold sequence and, for each fold slot, 32 records in unit order. -/
structure ConfigSet where
  seq : List Nat := []
  folds : List (List Record) := []
  /-- for each express channel, the units that take its tokens, in the order of the takes; the records fix it and OPEN_JOB
  finds it with the schedule length (R90; notes/assumptions/71.md) -/
  takers : List (Wire × List Nat) := []
  deriving DecidableEq, Repr

/-- Collective plan entry (R297, chapter 9 Table 4). -/
structure CollEntry where
  op : Nat := 0
  algo : Nat := 0
  k : Nat := 1
  group : Nat := 0
  root : Nat := 0
  chunk : Nat := 0
  useCircuit : Bool := false
  rBf16 : Bool := false
  circuitNo : Nat := 0
  srcLoaf : Nat := 0
  srcLines : Nat := 0
  dstLoaf : Nat := 0
  dstLines : Nat := 0
  stageLoaf : Nat := 0
  stageLines : Nat := 0
  countLoaf : Nat := 0
  stages : Nat := 0
  deriving DecidableEq, Repr

/-- Group record (R298, chapter 9 Table 5). -/
structure Group where
  list : Bool := false
  dimMask : Nat := 0
  listFirst : Nat := 0
  listLen : Nat := 0
  deriving DecidableEq, Repr

/-- A job image read from its bytes (R26, chapter 1 Table 2 and its sections). -/
structure Image where
  imageBytes : Nat := 0
  /-- offset and length of the eight sections, in TYPE order (R28) -/
  sections : List (Nat × Nat) := []
  taskCount : Nat := 0
  tickUs : Nat := 32
  loafCount : Nat := 0
  tensorCount : Nat := 0
  waveCount : Nat := 1
  signed : Bool := false
  deterministic : Bool := true
  queueRotate : Bool := false
  flags : Nat := 0
  queueSizes : List Nat := []
  compilerBuild : Word64 := 0
  reportHash : BitVec 384 := 0
  taskHash : BitVec 384 := 0
  tasks : List Task := []
  sets : List ConfigSet := []
  /-- byte offset of each configuration set in the image, and of a malformed one that ends the walk (R33) -/
  setAt : List Nat := []
  badSet : Option Nat := none
  /-- the FILL_DRAIN section's bytes, which the lists of the tasks lie in -/
  lists : List Byte := []
  decls : List Decl := []
  numerics : List Numeric := []
  collPresent : Bool := false
  chunkTimeout : Nat := 10
  colls : List CollEntry := []
  groups : List Group := []
  addrs : List Nat := []
  deriving DecidableEq, Repr

/-! ## The weave and the tile (chapters 3 and 4) -/

/-- An exact value between the products and the one rounding (R97, R169): NaN, an infinity, or sign × mant × 2^exp. -/
inductive Exact where
  | nan
  | inf (neg : Bool)
  | fin (neg : Bool) (mant : Nat) (exp : Int)
  deriving DecidableEq, Repr

/-- A token (R93): 64 data bytes and the tag of chapter 3 Table 3. -/
structure Token where
  data : List Byte := []
  beat : Nat := 0
  fold : Nat := 0
  epoch : Nat := 0
  valid : Bool := false
  last : Bool := false
  deriving DecidableEq, Repr

/-- An output token of a set operation whose keys have not all come over the pull link: the steering unit, its fold slot,
the output's number and the latency of the channel it stands in (R104). -/
structure Owed where
  unit : Nat
  fold : Nat
  number : Nat
  latency : Nat
  deriving DecidableEq, Repr

/-- A token in a channel: the cycle from which it can be consumed, whether it stands in the consuming queue of 4 yet
(R90), and whether a second token of the channel in its cycle has spoilt it (R91). -/
structure InFlight where
  avail : Nat
  token : Token
  queued : Bool := false
  spoilt : Bool := false
  owed : Option Owed := none
  deriving DecidableEq, Repr

/-- The consuming ends of the channels of R90 Table 2, each with a queue of 4: a neighbour link into a unit (side 1 to 4 of the
consumer), an express channel at the unit that takes from it (32: no firing takes the token), the pull link into a unit. -/
inductive Channel where
  | neighbour (unit side : Nat)
  | express (w : Wire) (unit : Nat)
  | pull (unit : Nat)
  deriving DecidableEq, Repr

/-- What a state bank keeps for one access stream of an address unit (R114). Reset: cleared. -/
structure StreamBank where
  /-- accesses made (R113) -/
  access : Nat := 0
  /-- slots of the stream passed, and the schedule cycle up to which its last access keeps it busy (R108) -/
  passed : Nat := 0
  busyUntil : Nat := 0
  /-- APPEND: the running offset in cells (R482) -/
  offset : Nat := 0
  /-- PROBE: s and the key width of the table header, held since the first access (R142) -/
  probeHead : Option (Nat × Nat) := none
  /-- SEND: staging lines of the message being written, each with whether its token was valid, and its destination task (R119) -/
  sendLines : List (Nat × Bool) := []
  sendDest : Nat := 0
  /-- TAKE: ring offset of the current message, in 16-byte units (R118) -/
  takeAt : Option Nat := none
  deriving DecidableEq, Repr

/-- The state bank a unit keeps for one fold slot (R114). Reset: cleared (R114). -/
structure Bank where
  /-- firings made by the record in this task (R113) -/
  fired : Nat := 0
  /-- the streams of an address unit -/
  streamA : StreamBank := {}
  streamB : StreamBank := {}
  /-- a token placed on destination 9, the unit's own state bank (chapter 3, source and destination codes) -/
  own : Option Token := none
  /-- the output of a set operation that it stands for, while that output's keys are to come (R104) -/
  ownOwed : Option Nat := none
  /-- ACCUM: 32 accumulator lanes; an operand has been accumulated since the last restart; firings since the last
  production (R479, R101) -/
  acc : List Word16 := []
  accFull : Bool := false
  accCount : Nat := 0
  /-- B_HOLD: the held token and how many firings it has served (R478) -/
  held : Option Token := none
  heldServed : Nat := 0
  /-- matrix: active and shadow panel tokens (R96, R100) -/
  active : List Token := []
  shadow : List Token := []
  /-- matrix: stream firings since the first activation; none before it (R100) -/
  sinceSwap : Option Nat := none
  /-- matrix: exact values of the chain in progress, none while no term has entered; its side token; whether a stream
  token of it was valid (R94, R97, R99) -/
  chain : List (Option Exact) := []
  side : Option Token := none
  chainValid : Bool := false
  /-- matrix: completed accumulator values waiting to be packed; whether a chain among them is valid (R98) -/
  packed : List Word16 := []
  packedValid : Bool := false
  /-- output tokens produced by the record (R169) -/
  produced : Nat := 0
  /-- CVT: the codes gathered for an output token, and whether every firing among them was valid (R94, R480) -/
  cvtPart : List Nat := []
  cvtValid : Bool := false
  /-- control operations: data firings the control token in force has governed (R124) -/
  governed : Nat := 0
  /-- COUNT in running mode: the total since the last production (R481) -/
  running : Nat := 0
  /-- set operations: keys pulled and not yet consumed, of streams A and B, and the tokens pulled (R104) -/
  keysA : List Nat := []
  keysB : List Nat := []
  pulledA : Nat := 0
  pulledB : Nat := 0
  /-- set operations: the last key pulled of each stream (R106), and the last key passed to the output (Table 6) -/
  lastA : Option Nat := none
  lastB : Option Nat := none
  lastOut : Option Nat := none
  /-- set operations: the output tokens that the pulls so far have filled, in order (R104) -/
  outs : List (List Byte) := []
  deriving DecidableEq, Repr

/-- A shared arbiter (R360): the rotating pointer over its requesters, what each has spent of the credits that its weight gives it, its
consecutive losses, and the requester that holds a grant. Reset: pointer at requester 0, every credit full, no loss, no grant (free choice 2). -/
structure Arbiter where
  pointer : Nat := 0
  spent : List (Nat × Nat) := []
  losses : List (Nat × Nat) := []
  holder : Option Nat := none
  deriving DecidableEq, Repr

/-- A receive ring's descriptor (R144, chapter 4 Table 3). Its bytes are in the tile's pad. Offsets here are in 16-byte
units, as in the descriptor. Reset: 0, BASE and SIZE from OPEN_JOB. -/
structure Ring where
  base : Nat := 0
  size : Nat := 0
  wr : Nat := 0
  wrWrap : Bool := false
  rd : Nat := 0
  rdWrap : Bool := false
  msgs : Nat := 0
  sendBlocked : Bool := false
  taken : Nat := 0
  refused : Nat := 0
  /-- ring offsets of the messages a TAKE stream has begun, and of those taken and not yet passed by RD (R118, R148) -/
  chosenAt : List Nat := []
  takenAt : List Nat := []
  /-- the take order: ring offsets of the messages present as the weave fired, by SRC_TASK and SEQ (R148) -/
  order : List Nat := []
  /-- its arbiter, whose requesters are the sending tiles (R150, R360; notes/assumptions/72.md) -/
  arb : Arbiter := {}
  /-- inbound senders refused and still waiting: the physical tile and its consecutive losses (R150) -/
  waiting : List (Nat × Nat) := []
  deriving DecidableEq, Repr

/-- An outbound message: it stays in its staging lines, pad lines of the sender's region, until it has been written into the
receiver's ring (R119, R145, R152). -/
structure Message where
  destTask : Nat
  queue : Nat
  seq : Nat
  lines : List Nat
  deriving DecidableEq, Repr

/-- What the task on a tile is doing (R18). -/
inductive TaskPhase where
  | filling | filled | firing | fired | draining | sending | finished
  deriving DecidableEq, Repr

/-- A fill line not yet returned: entry number and line number of the entry (R35). -/
abbrev FillLine := Nat × Nat

/-- The task a tile runs or runs ahead for (R18, R60, R132). -/
structure TaskRun where
  task : Nat
  phase : TaskPhase := .filling
  /-- first pad line of the data region (R132) -/
  base : Nat := 0
  /-- the region is anchored at the high end of the free area (R132) -/
  high : Bool := false
  /-- fill lines issued and not returned -/
  fills : List FillLine := []
  /-- loaves that filled lines were read from with the attempt serial of the commit they were read under (R63) -/
  sources : List (Nat × FillLine × Nat) := []
  /-- entries of the fill list begun (R34, R35; notes/assumptions/14.md) -/
  nextEntry : Nat := 0
  /-- the fills run ahead for the next slot (R60) -/
  ahead : Bool := false
  /-- entries withdrawn for a parity error, to be issued again in the run phase of the task's own slot (R78) -/
  withdrawn : List Nat := []
  /-- the first undeclared loaf met, and the entry it was met in (R38) -/
  undeclared : Option (Nat × Nat) := none
  /-- messages not yet delivered (R119, R152) -/
  messages : List Message := []
  /-- consecutive losses of the message being sent, for the back-off of R150 -/
  losses : Nat := 0
  /-- the message lost an arbitration at this ring, receiver and queue, and tries again after its back-off (R150) -/
  retryAt : Option (Nat × Nat) := none
  deriving DecidableEq, Repr

/-- The weave's own counters while a task fires (R116, R127). -/
structure WeaveCounters where
  /-- schedule cycle reached -/
  cycle : Nat := 0
  /-- held cycles so far -/
  held : Nat := 0
  /-- consecutive held cycles now -/
  holding : Nat := 0
  /-- latest cycle at which a scheduled pad write completes (R120, R483) -/
  writesUntil : Nat := 0
  /-- tokens dropped at a full channel queue (R90) -/
  dropped : Nat := 0
  /-- tokens that each express channel has carried (R90) -/
  carried : List (Wire × Nat) := []
  deriving DecidableEq, Repr

/-- The steal board's entry of a tile (R210). -/
structure BoardEntry where
  endAt : Nat := 0
  eligible : Bool := false
  depth : Nat := 0
  deriving DecidableEq, Repr

/-- What a thief tells its victim, and its search (R210, R211). -/
structure Steal where
  /-- outstanding request: the victim's physical tile -/
  victim : Option Nat := none
  /-- the task a grant carries -/
  granted : Option Nat := none
  /-- requests sent in this idle period, at most 8 -/
  sent : Nat := 0
  /-- candidates already refused in this idle period -/
  tried : List Nat := []
  idle : Bool := false
  /-- when the outstanding request was sent, in nominal cycles since the boundary, and the region speed sent with it (R209, R210) -/
  at_ : Nat := 0
  speed : Nat := 10000
  deriving DecidableEq, Repr

/-- One physical tile: sequencer, weave, pad and rings (R89, R130, R144, R208). Reset: everything zero, empty (R361
step 6); the spec gives the sequencer's fields no other reset value (free choice 2). -/
structure Tile where
  /-- the pad's 262,144 bytes (R130) -/
  pad : Memory := []
  rings : List Ring := []
  /-- task descriptors confirmed for this attempt, head first (R208) -/
  deque : List Nat := []
  current : Option TaskRun := none
  runAhead : Option TaskRun := none
  /-- the next data region is anchored high (R132) -/
  high : Bool := false
  /-- configuration sets whose copies stand in configuration slots 0 and 1, with their set registers (R133) -/
  slot0 : Option Nat := none
  slot1 : Option Nat := none
  setReg0 : List Byte := []
  setReg1 : List Byte := []
  /-- the resident set, whether its resident configuration is damaged, and the 2-bit epoch (R121 to R123) -/
  resident : Option Nat := none
  configBad : Bool := false
  epoch : BitVec 2 := 0
  channels : List (Channel × List InFlight) := []
  banks : List ((Nat × Nat) × Bank) := []
  weave : WeaveCounters := {}
  /-- it starts no further task in this attempt (R120) -/
  fenced : Bool := false
  /-- tasks this tile has finished in the attempt (R209) -/
  done : List Nat := []
  board : BoardEntry := {}
  steal : Steal := {}
  /-- queue numbers a waiting task is blocked on, and the ring a blocked sender waits for (R154) -/
  blockedOn : List Nat := []
  blockedSend : Option (Nat × Nat) := none
  /-- the queue last served by the ring writer (R149) -/
  lastQueue : Nat := 15
  /-- the loaf translation cache: at most 256 loaves with their FRAME_C, newest first (R191) -/
  cache : List (Nat × Nat) := []
  /-- the resident set and the sets in the pad as the attempt opened, from which its tasks' ends are predicted (R204, R210) -/
  openSets : Option Nat × List Nat := (none, [])
  deriving DecidableEq, Repr

/-! ## Memory, directory and placement (chapters 6 and 7) -/

/-- Directory entry (R188, chapter 6 Table 2). Frames are 25 bits; 0x1FFFFFF is none. -/
structure DirEntry where
  frameC : Nat := 0x1FFFFFF
  frameP : Nat := 0x1FFFFFF
  ptag : BitVec 4 := 0
  pkind : Bool := false
  backed : Bool := true
  access : Nat := 0
  deriving DecidableEq, Repr

/-- Slice frame record (R193, chapter 6 Table 3). -/
structure SliceRec where
  loaf : Nat := 0x1FFFFFF
  back : Nat := 0x1FFFFFF
  pinned : Bool := false
  deriving DecidableEq, Repr

/-- Scale record of a scale tray (R173, chapter 5 Table 8). -/
structure ScaleRec where
  scale : Word16 := 0x3E00
  ovf : Bool := false
  lastStep : Nat := 0xFFFFFFFF
  hist : List Int := List.replicate 16 (-128)
  deriving DecidableEq, Repr

/-- Who wrote a line of a pending version in an attempt: the rank of R68 (1 is highest) and the order within it. -/
structure Writer where
  rank : Nat
  key1 : Nat
  key2 : Nat
  deriving DecidableEq, Repr

/-- A write of the inbound journal (R69, chapter 2 Table 2). -/
inductive JournalOp where
  | put (loaf line : Nat) (data : List Byte) (w : Writer)
  | add (loaf line : Nat) (data : List Byte)
  | cas (loaf line word : Nat) (compare swap : Word64) (peer seq : Nat)
  /-- restored or collective scale record: loaf, tray, record, and the place of its codes among the writes of their lines -/
  | scale (loaf tray : Nat) (r : ScaleRec) (w : Writer)
  deriving DecidableEq, Repr

/-- A journal entry: the serial of the attempt it arrived in, a reply owed at its commit, and the write. -/
structure JournalEntry where
  serial : Nat
  op : JournalOp
  /-- the packet to answer when the write commits (R276) -/
  answer : Option Packet := none
  deriving DecidableEq, Repr

/-- A remote operation staged by a drain (R276). -/
structure OutOp where
  proxy : Nat
  task : Nat
  entry : Nat
  /-- the order of the drain's lines: line of the entry, then line of the proxy range -/
  seq : Nat
  line : Nat
  op : Nat
  data : List Byte
  deriving DecidableEq, Repr

/-- A corrected error of a row, for the marking of R243: row, address, time. -/
structure RowError where
  at_ : RowRef
  addr : Nat
  time : Nat
  deriving DecidableEq, Repr

/-- The side by which a message comes into a router of the weaver network; `own` is the router's own quad (R221, R225). -/
inductive MeshSide where
  | own | west | east | south | north
  deriving DecidableEq, Repr

/-- An inbound port of a router: its side, its plane and the link of the side (R225, R228). -/
structure MeshPort where
  side : MeshSide
  plane : Nat
  link : Nat
  deriving DecidableEq, Repr

/-- A read request that waits in a slice's queue (R228): the physical tile, the task and fill line it is for, the line of the slice frame, and the
inbound port whose queue it stands in. -/
structure SliceReq where
  tile : Nat
  task : Nat
  fill : FillLine
  frame : Nat
  j : Nat
  port : MeshPort
  deriving DecidableEq, Repr

/-- Counts of one stack or channel (R333 section 6). -/
structure MemCounts where
  corrected : Nat := 0
  uncorrectable : Nat := 0
  repairs : Nat := 0
  /-- lines the patrol has read in this pass (R242) -/
  patrolled : Nat := 0
  lost : Bool := false
  deriving DecidableEq, Repr

/-- The placement directory, the tiers and the journal. Reset: no frame in use, bytes zero (R246, R361). -/
structure Mem where
  dir : List (Nat × DirEntry) := []
  /-- bytes of the frames, at frame number × 131,072 + byte (R184) -/
  bytes : Memory := []
  slices : List (Nat × SliceRec) := []
  /-- frames off their tier's free list (R190) -/
  used : List Nat := []
  /-- free frames withheld for an uncorrectable error (R241) -/
  withheld : List Nat := []
  /-- frames kept for a checkpoint: loaf and frame (R340) -/
  kept : List (Nat × Nat) := []
  /-- scale records as committed, and of pending versions: loaf, tray (R173) -/
  scales : List ((Nat × Nat) × ScaleRec) := []
  scalesP : List ((Nat × Nat) × ScaleRec) := []
  /-- who wrote each line, and each scale byte, of the attempt's pending versions (R39, R68) -/
  writers : List ((Nat × Nat) × Writer) := []
  byteWriters : List ((Nat × Nat) × Writer) := []
  journal : List JournalEntry := []
  /-- lines of host fills that earlier parts of the local tick have published, each with its mailbox (R50) -/
  filled : List ((Nat × Nat) × Nat) := []
  outbound : List OutOp := []
  /-- migrations planned in this slot: loaf (R198) -/
  migrations : List Nat := []
  /-- pinned loaves (R202) -/
  pinned : List Nat := []
  /-- undirected slots since the last decay (R197) -/
  decaySlots : Nat := 0
  rowErrors : List RowError := []
  markedRows : List RowRef := []
  softRepairs : List RowRef := []
  /-- units with uncorrectable errors in this compute-reset interval, and the time of the last such interval (R244) -/
  ueNow : List Source := []
  uePast : List (Source × Nat) := []
  /-- counts of H00 to H15 then C0 to C7 -/
  counts : List (Nat × MemCounts) := []
  /-- HBM4 grants cut off at the hold limit (R237, R360) -/
  hbmArbCut : Nat := 0
  /-- read requests waiting at each logical slice, in the order of their arrival; at most 32 for each inbound port (R228) -/
  sliceQueues : List (Nat × List SliceReq) := []
  /-- the front-end arbiters of the HBM4 pseudo-channels, by stack and pseudo-channel, and their weights in force and in shadow: each attachment
  router, inbound fabric, host DMA (R237 Table 5, R360) -/
  hbmArbs : List ((Nat × Nat) × Arbiter) := []
  hbmWeights : List Nat := [4, 2, 1]
  hbmWeightsShadow : List Nat := [4, 2, 1]
  /-- stacks above 85 °C, whose refresh runs at the double rate (R234) -/
  fastRefresh : List Nat := []
  /-- configuration sets kept in the slice tier: those of the running wave and of the next (R121) -/
  configs : List Nat := []
  deriving DecidableEq, Repr

/-! ## Job, attempt and verdict (chapters 1 and 2) -/

/-- The five counters of a tensor (R181). -/
structure TensorCounters where
  sat : Nat := 0
  nan : Nat := 0
  underflow : Nat := 0
  ovfTrays : Nat := 0
  recomputes : Nat := 0
  deriving DecidableEq, Repr

/-- A job (R17). -/
structure Job where
  seed : Word64 := 0
  image : Image := {}
  /-- declaration records in force, those of DECLARE_LOAVES included (R335) -/
  decls : List Decl := []
  /-- 32-bit step number and the wave now admitted (R19, R21) -/
  step : Nat := 0
  wave : Nat := 0
  started : Bool := false
  paused : Bool := false
  stopped : Bool := false
  restored : Bool := false
  /-- step, wave and task bitmap of a restored checkpoint (R337, R341) -/
  restoredAt : Option (Nat × Nat × List Nat) := none
  /-- local tick index (R53) -/
  localTick : Nat := 0
  /-- START_JOB or RESUME_JOB waiting for its first slot: mailbox and START_AT (R53, R337) -/
  startAt : Option (Nat × Nat) := none
  /-- tasks of the wave that have committed (R19) -/
  committed : List Nat := []
  /-- a pause is in progress: its mailbox (R86) -/
  pausing : Option Nat := none
  counters : List (Nat × TensorCounters) := []
  /-- counts of the attempt, added at its commit (R181) -/
  attemptCounts : List (Nat × TensorCounters) := []
  /-- exhausted trays: tensor and stored tray position (R179) -/
  exhausted : List (Nat × Nat) := []
  /-- tensors whose TRAY_OVERFLOW was recorded in this step (R178) -/
  overflowed : List Nat := []
  /-- home tile of each affinity group (R201) -/
  homes : List (Nat × Nat) := []
  /-- slots in a row in which tasks remained and none was admitted (R206) -/
  unfitSlots : Nat := 0
  /-- collective entries issued in this step and not complete, or complete (R301, R312) -/
  collIssued : List Nat := []
  /-- tasks flagged COLLECTIVE that have committed in this step, whatever their wave (R301) -/
  issuersDone : List Nat := []
  /-- counts of collective results, which a discard leaves and the next commit adds (R181, R307) -/
  collCounts : List (Nat × TensorCounters) := []
  collDone : List Nat := []
  deriving DecidableEq, Repr

/-- One admitted task and its logical tile (R205). -/
structure Admitted where
  task : Nat
  tile : Nat
  /-- predicted end in nominal cycles (R204) -/
  endAt : Nat := 0
  /-- it has been stolen in this attempt, and the end is the thief's (R209) -/
  stolen : Bool := false
  deriving DecidableEq, Repr

/-- The tiers' mean latencies in nominal cycles and mean fill rates per filling tile in thousandths of a byte per nominal cycle, as last measured;
they start at the typical latencies of R246, and at 12.8 and 0.2 bytes with eight DDR5 channels (R204, R231). -/
structure TierRates where
  latHbm : Nat := 230
  latDdr : Nat := 320
  rateHbm : Nat := 12800
  rateDdr : Nat := 200
  deriving DecidableEq, Repr

/-- What a slot measured takes the place of what stood; a rate is not zero. -/
def TierRates.measured (r : TierRates) (m : SlotMeasure) : TierRates :=
  { latHbm := m.latHbm.getD r.latHbm, latDdr := m.latDdr.getD r.latDdr,
    rateHbm := Nat.max 1 (m.rateHbm.getD r.rateHbm), rateDdr := Nat.max 1 (m.rateDdr.getD r.rateDdr) }

/-- Phases of a slot (R54). -/
inductive SlotPhase where
  | commit | run | margin
  deriving DecidableEq, Repr

/-- The attempt in progress, the ones before it, slip and pace (chapter 2). -/
structure Attempt where
  /-- 64-bit attempt serial (R189). Reset 0 (free choice 2). -/
  serial : Nat := 0
  /-- verdicts of the last 16 serials: committed or not (R189) -/
  ledger : List (Nat × Bool) := []
  phase : SlotPhase := .commit
  /-- the slot runs an attempt of the running job (R82, R342) -/
  running : Bool := false
  admitted : List Admitted := []
  provisional : List Admitted := []
  /-- task sets of the local tick still to run, in order: a replay's set, or the parts of a split; the tick is complete when
  the last commits (R73, R79, R80) -/
  parts : List (List Nat) := []
  /-- the attempt in progress runs the first of `parts` -/
  cur : Bool := false
  finished : List Nat := []
  /-- conditions raised in the attempt (R72) -/
  raised : List Raise := []
  /-- marked failed before its margin, and the broadcast has reached the tiles (R75) -/
  failed : Bool := false
  broadcast : Bool := false
  /-- an overrun or VERSION_SPACE asks for a split (R79, R207) -/
  split : Bool := false
  /-- failures in a row (R77) -/
  failures : Nat := 0
  /-- TICK_REPLAY has been recorded for this attempt's failure (R74, R75) -/
  replayNoted : Bool := false
  /-- serial and local tick of an attempt that ended without a boundary, for the next trace entry (R456) -/
  lost : Option (Nat × Nat) := none
  /-- slip (R82). Reset 0. -/
  slip : Nat := 0
  /-- slip after each of the last 1,024 local ticks, newest first, then what it was before them (R84) -/
  slips : List Nat := []
  /-- wait cycles found at the last margin, each as its edges' tasks and queues (R368) -/
  cycles : List (List (Nat × Nat)) := []
  /-- reports travelling to the hub over the stake network (R233) -/
  reports : List Raise := []
  /-- the tiers' measured latencies and rates (R204) -/
  rates : TierRates := {}
  deriving DecidableEq, Repr

/-! ## Clock regions and dumps (chapters 12 and 14) -/

/-- Clock region record (R387, chapter 12 Table 2). Resets as that table gives. -/
structure Region where
  strDroop : Nat := 0
  strTherm : Nat := 0
  strLimit : Nat := 0
  /-- limiter-stretched periods below one unit of 2^16 -/
  limitPart : Nat := 0
  speed : Nat := 10000
  /-- the speed measured since the boundary, in 1/10,000 (R210) -/
  speedNow : Nat := 10000
  temp : Byte := 0
  thermStretch : Bool := false
  sensorDegraded : Bool := false
  trim : BitVec 6 := 32
  /-- droop stretches of the slot, slots since DROOP_STRETCH was recorded (R388) -/
  slotDroop : Nat := 0
  droopRecorded : Option Nat := none
  /-- consecutive slots below SLOW_PCT, and at or above 95 % (R214) -/
  slowSlots : Nat := 0
  fastSlots : Nat := 0
  deriving DecidableEq, Repr

/-- A crash dump (R453, chapter 14 Table 4). Its sections are the control state at the fence: the directory entries with a second frame,
the slice frame records, the clock region records, and of each tile the ring descriptors and the tags of the tokens in its channel queues as they were,
the rest by a number that stands for their bytes (free choice 12). -/
structure Dump where
  cause : Nat
  causeSeq : Nat
  snapTick : Nat
  bootSerial : Nat
  bytes : Nat
  extends_ : Bool := false
  fatal : Bool := false
  incomplete : Bool := false
  /-- section types kept and their bytes (chapter 14 Table 5) -/
  sections : List (Nat × Nat) := []
  free : Nat := 0
  dir : List (Nat × DirEntry) := []
  slices : List (Nat × SliceRec) := []
  regions : List (Nat × Region) := []
  /-- of each tile, by number: its ring descriptors and its channel queues' token tags (R93, R144) -/
  tiles : List (Nat × List Nat × List Nat) := []
  deriving DecidableEq, Repr

/-! ## Host link and mailboxes (chapter 10) -/

/-- What a mailbox command in progress waits for. -/
inductive Wait where
  /-- bulk DMA (R332); the bytes it moves to the host, as they stood when the command was taken (R87) -/
  | dma (out : List Byte)
  /-- a commit that publishes it; the serial at which its data entered pending versions (R336, R341, R347) -/
  | publish
  /-- a state change (R329) -/
  | state
  /-- the swap of FABRIC_COMMIT (R345) -/
  | swap
  /-- replies to operations of a proxy binding (R347) -/
  | replies (proxy : Nat)
  /-- the first slot of START_JOB or RESUME_JOB (R337) -/
  | slot
  /-- CRUMB_CHECK or REQUALIFY (R375, R376) -/
  | test
  /-- an authorised clear waits for a running copy (R452) -/
  | copy
  deriving DecidableEq, Repr

/-- A mailbox: the header of chapter 10 Table 4 and the 4,032-byte payload area (R322). Reset: every field 0. -/
structure Mailbox where
  owner : Bool := false
  seq : BitVec 16 := 0
  cmd : BitVec 16 := 0
  completion : Bool := false
  interrupt : Bool := false
  doneLocal : Bool := false
  len : BitVec 16 := 0
  status : BitVec 16 := 0
  respLen : BitVec 16 := 0
  tickTaken : Word64 := 0
  tickDone : Word64 := 0
  detail : Word32 := 0
  payload : Memory := []
  /-- taken and not yet answered (R326) -/
  wait : Option Wait := none
  deriving DecidableEq, Repr

/-- A posted write the device sends to host memory, in order (R332, R352). -/
structure HostWrite where
  addr : Word64
  bytes : List Byte
  deriving DecidableEq, Repr

/-- The status page's fields as last rewritten (R321, chapter 10 Table 3). Resets as that table gives. -/
structure StatusPage where
  refresh : Word64 := 0
  state : BitVec 4 := 1
  jobOpen : Bool := false
  timeLocked : Bool := false
  linkReduced : Bool := false
  resetBusy : Bool := false
  reserve : BitVec 8 := 0
  health : BitVec 16 := 0
  pace : BitVec 16 := 10000
  freqMhz : BitVec 16 := 0
  fabricTick : Word64 := 0
  localTick : Word64 := 0
  slip : Word32 := 0
  step : Word32 := 0
  wave : BitVec 16 := 0
  powerW : BitVec 16 := 0
  powerCapW : BitVec 16 := 3000
  stickySummary : BitVec 128 := 0
  tempRegion : List Byte := []
  tempHbm : List Byte := []
  tempPort : List Byte := []
  tempHub : Byte := 0
  eventHead : Word64 := 0
  mbOwner : BitVec 16 := 0
  deriving DecidableEq, Repr

/-- The host link, the mailboxes and the completion ring. Resets: chapter 10 Tables 3, 4 and 17; the PCI Express enables
are clear (free choice 2). -/
structure HostLink where
  busMaster : Bool := false
  dState : Nat := 0
  linkUp : Bool := false
  linkWidth : Nat := 0
  linkGts : Nat := 0
  reduced : Bool := false
  mailboxes : List (Nat × Mailbox) := []
  crBase : Word64 := 0
  crEntries : Word32 := 0
  coalUs : BitVec 16 := 0
  coalCount : BitVec 16 := 1
  crTail : Word32 := 0
  crHead : Word32 := 0
  overflow : Bool := false
  ringError : Bool := false
  crPhase : Bool := true
  /-- records with INTERRUPT waiting to raise vector 16 (R352) -/
  coalescing : Nat := 0
  page : StatusPage := {}
  /-- writes sent to the host, oldest first -/
  sent : List HostWrite := []
  /-- MSI-X vectors raised, oldest first, and those held while the function may not send (R318) -/
  msix : List Nat := []
  msixHeld : List Nat := []
  /-- writes held while Bus Master Enable is clear or the function is not in D0 (R318, R352) -/
  writesHeld : List HostWrite := []
  /-- the dump window's mapping: SOURCE, hub slot, OFFSET (R349) -/
  dumpMap : Option (Nat × Nat × Nat) := none
  /-- the dump that the window shows, as it stood when it was mapped (R349) -/
  dumpView : Option Dump := none
  /-- a BAR0 access was completed as Unsupported Request (R320) -/
  unsupported : Nat := 0
  /-- the MSI-X table of BAR4 as the host has written it, and the Max Payload and Max Read Request Sizes in bytes (R316; notes/assumptions/85.md) -/
  msixTable : Memory := []
  maxPayload : Nat := 128
  maxReadRequest : Nat := 512
  deriving DecidableEq, Repr

/-! ## Fabric (chapters 8 and 9) -/

/-- Exception entry (R271, chapter 8 Table 11). -/
structure Exc where
  dim : Nat := 0
  valid : Bool := false
  lo : Nat := 0
  hi : Nat := 0
  action : Nat := 0
  detourMinus : Bool := false
  p0 : Bool := false
  p1 : Bool := false
  deriving DecidableEq, Repr

/-- Circuit record (R344, chapter 10 Table 14). -/
structure Circuit where
  number : Nat := 0
  share : Nat := 0
  src : Nat := 0
  dest : Nat := 0
  deriving DecidableEq, Repr

/-- A fabric plan (R264, chapter 10 Table 13). -/
structure Plan where
  planId : Word64 := 0
  address : Nat := 0
  dims : Nat := 1
  mixed : Bool := false
  heal : Bool := true
  tickUs : Nat := 32
  width : List Nat := []
  size : List Nat := []
  dateline : List Nat := []
  bundle : List Nat := []
  bundleMin : Nat := 1
  floodTicks : Nat := 4
  drainUs : Nat := 1000
  e2eTimeout : Nat := 8
  e2eRetries : Nat := 8
  anchorSrc : Bool := false
  mode : Nat := 0
  anchor : Nat := 0
  timeBudget : Nat := 50
  asym : List Int := []
  exceptions : List Exc := []
  circuits : List Circuit := []
  deriving DecidableEq, Repr

/-- State of a port (R333 section 3). -/
inductive PortState where
  | down | training | up | held
  deriving DecidableEq, Repr

/-- A packet that waits at an output port, or whose flits are leaving: its data channel, the requester it belongs to (0 transit, 1 the
collective engine, 2 the window engine), its circuit, and the data of the flits still to leave (R260, R261, R273, R274). -/
structure TxPacket where
  vc : Nat
  requester : Nat
  circuit : Option Nat := none
  begun : Bool := false
  chunks : List (List Byte) := []
  deriving DecidableEq, Repr

/-- One fabric port. Reset: down, counts 0 (free choice 2 where the spec gives none); flit header resets as chapter 8 Table 6. -/
structure Port where
  state : PortState := .down
  /-- training attempts made in this set (R252, R254) -/
  attempts : Nat := 0
  untrainedRecorded : Bool := false
  long : Bool := false
  /-- passed the coordinate check (R266, R268), or failed it -/
  coordOk : Bool := false
  coordFailed : Bool := false
  txLock : BitVec 9 := 0
  rxLock : BitVec 9 := 0
  resends : Nat := 0
  linkDrops : Nat := 0
  downs : Nat := 0
  downTimes : List Nat := []
  /-- the HELLO challenge sent, and what the neighbour showed (R263) -/
  nonce : BitVec 128 := 0
  peerHello : Option Hello := none
  peerChain : Option (BitVec 384) := none
  /-- receiver: next FSEQ expected, NAK owed; LONG: next FSEQ of each VC, and data VCs whose packet in progress is to be discarded (R258, R259) -/
  rxSeq : BitVec 12 := 0
  rxSeqVc : List (Nat × BitVec 12) := []
  nakOwed : Bool := false
  discardVc : List Nat := []
  /-- receiver: the flits' data of the packet in progress on each data VC, and the packets complete so far; each of these is acted on by its own
  command (R256, R261) -/
  rxParts : List (Nat × List (List Byte)) := []
  arrived : List Packet := []
  /-- sender: next FSEQ, LONG that of each VC, and the flits of the replay buffer, oldest first (R258) -/
  txSeq : BitVec 12 := 0
  txSeqVc : List (Nat × BitVec 12) := []
  replay : List Flit := []
  /-- sender: the packets that wait or are leaving, oldest first, the arbiter of each data VC, and the VC that each class served last (R273, R274) -/
  tx : List TxPacket := []
  arbs : List (Nat × Arbiter) := []
  lastVc : List (Nat × Nat) := []
  /-- sender: the flit time from which the link is free, the flit times of the last 16 URGENT flits, newest first, and the reserved rate that each
  circuit has used, in units of 1/256 flit (R273) -/
  slot : Nat := 0
  urgent : List Nat := []
  due : List (Nat × Nat) := []
  /-- sender: flits of each data VC that the neighbour has not given credit for yet (R260) -/
  outstanding : List (Nat × Nat) := []
  /-- the flits sent, oldest first -/
  wire : List Flit := []
  sameResends : Nat := 0
  /-- LONG: when flits were dropped, over the last 10 ms (R255) -/
  dropTimes : List Nat := []
  /-- credits owed to the neighbour for each VC (R260) -/
  creditsOwed : List (Nat × Nat) := []
  /-- time exchange: link delay and neighbour's offset in ps, its accumulated budget in ps and depth (R291, R292) -/
  delay : Int := 0
  timeOffset : Int := 0
  peerBudget : Option (Nat × Nat) := none
  /-- circuit shares in force on this port (R273) -/
  circuits : List Circuit := []
  deriving DecidableEq, Repr

/-- A local window or proxy binding (R275, chapter 8 Table 12). -/
structure Window where
  first : Nat := 0
  count : Nat := 0
  gen : BitVec 4 := 0
  valid : Bool := false
  ops : BitVec 4 := 0
  peerAll : Bool := false
  peer : Nat := 0
  window : Nat := 0
  issued : Nat := 0
  acked : Nat := 0
  refused : Nat := 0
  /-- fabric tick of the last close (R275) -/
  closedAt : Option Nat := none
  deriving DecidableEq, Repr

/-- A window operation sent and without a reply (R280). -/
structure Unreplied where
  seq : Nat
  packet : Packet
  proxy : Nat
  line : Nat
  /-- tick of its last sending (R280 rule 5) -/
  sentAt : Nat := 0
  deriving DecidableEq, Repr

/-- An entry of the peer table (R281). -/
structure Peer where
  addr : Nat
  nextSeq : Nat := 0
  expected : Nat := 0
  unreplied : List Unreplied := []
  waiting : List (Packet × Nat × Nat) := []
  /-- results of CAS operations kept until REPLY_ACK passes them (R280 rule 4) -/
  casResults : List (Nat × Word64) := []
  /-- operations refused here, with their status, kept until REPLY_ACK passes them (R278, R280 rule 2) -/
  refusals : List (Nat × Nat) := []
  retries : Nat := 0
  deriving DecidableEq, Repr

/-- The drain and swap in progress or agreed (R283, R285). -/
structure Swap where
  stopAt : Nat
  swapAt : Nat
  /-- the committed plan enters at this swap, and the mailbox of its FABRIC_COMMIT (R345) -/
  plan : Bool := false
  mailbox : Option Nat := none
  /-- the plan's own T_S, and whether the shadow tables have been formed against it (R345) -/
  planAt : Nat := 0
  formed : Bool := false
  stopped : Bool := false
  deriving DecidableEq, Repr

/-- The fabric: ports, plan, routing, windows and peers. -/
structure Fabric where
  ports : List (Nat × Port) := []
  /-- the laser feed as last measured: wavelength k of fibre-attach unit u at 9u + k (R249) -/
  feeds : List (Nat × Feed) := []
  plan : Option Plan := none
  shadow : Option Plan := none
  /-- computed exception entries: active and shadow (R285) -/
  computed : List Exc := []
  computedShadow : List Exc := []
  swap : Option Swap := none
  nextSwap : Option Swap := none
  /-- routed injection is stopped (R283) -/
  stopped : Bool := false
  /-- flood events not yet in the active tables, each with the stop tick it gives, or for a late one the earliest it may enter (R284, R285) -/
  events : List (Nat × Flood) := []
  routeStale : Bool := false
  /-- down links as reported: device, dimension, direction + (R285) -/
  downLinks : List (Nat × Nat × Bool) := []
  seenFloods : List (Nat × Nat) := []
  floodQueue : List (Nat × Flood) := []
  eventNo : Nat := 0
  /-- bundles that were usable at the last look, as 2i + direction (R284) -/
  usableBundles : List Nat := []
  windows : List (Nat × Window) := []
  proxies : List (Nat × Window) := []
  peers : List Peer := []
  /-- reset generation (R282, R362). Reset 0 (free choice 2). -/
  resetGen : Nat := 0
  /-- packets handed to a port, oldest first -/
  sent : List (Nat × Packet) := []
  /-- floods emitted on a port -/
  floods : List (Nat × Flood) := []
  routeDrops : Nat := 0
  rsvDrops : Nat := 0
  linkDropped : Nat := 0
  /-- ports of each bundle that were usable at the last swap, in port order (R270) -/
  bundlePorts : List (List Nat) := []
  /-- packets of this device's engines that wait for the end of a stop (R283) -/
  waiting : List Packet := []
  /-- stop ticks of the swaps so far, newest first, at most 16 (R312) -/
  stopTicks : List Nat := []
  /-- active and shadow arbiter weights: transit, collective engine, window engine (R274, R360) -/
  weights : List Nat := [4, 2, 1]
  weightsShadow : List Nat := [4, 2, 1]
  /-- FENCE_NOTICE senders seen (R261) -/
  fenceNotices : List Nat := []
  /-- the slip and pace that peers last reported in a CHUNK_ACK (R313) -/
  peerPace : List (Nat × Nat × Nat) := []
  deriving DecidableEq, Repr

/-- A chunk sent and not acknowledged (R310). CHUNK holds the stage in [31:20] and the index in [19:0]. -/
structure SentChunk where
  chunk : Nat
  peer : Nat
  epoch : BitVec 8 := 0
  acked : Bool := false
  reissues : Nat := 0
  data : List Byte := []
  /-- sent before the stop tick (R310) -/
  beforeStop : Bool := false
  deriving DecidableEq, Repr

/-- A chunk expected or received (R308). -/
structure RecvChunk where
  chunk : Nat
  peer : Nat
  epoch : BitVec 8 := 0
  /-- line offsets and bytes of the packets held -/
  held : List (Nat × List Byte) := []
  complete : Bool := false
  /-- its lines have been written to the destination (R307) -/
  delivered : Bool := false
  data : List Byte := []
  deriving DecidableEq, Repr

/-- A collective entry at this device (R301, R312). -/
structure CollRun where
  coll : Nat
  step : Nat
  stage : Nat := 0
  begun : Bool := false
  openSlot : Nat := 0
  closeTick : Nat := 0
  /-- the source's units and the counts, copied at stage 0: unit number, lines followed by scale records (R301, R302) -/
  source : List (Nat × List Byte) := []
  sendCounts : List Nat := []
  recvCounts : List (Nat × Nat) := []
  /-- partial and final results held: unit number and bytes (R304) -/
  partials : List (Nat × List Byte) := []
  sent : List SentChunk := []
  recv : List RecvChunk := []
  finished : Bool := false
  complete : Bool := false
  /-- lines of the staging range in use (R306; notes/assumptions/79.md) -/
  staged : Nat := 0
  /-- BARRIER: window operations issued before it, as peer and count, that round 0 waits for (R314) -/
  barrierMarks : List (Nat × Nat) := []
  deriving DecidableEq, Repr

/-- Fabric time (R290 to R295). Reset: 0, not locked, no parent; it runs from the end of STARTING. -/
structure FabricTime where
  /-- nominal cycles of 0.5 ns since power-on (free choice 6) -/
  now : Nat := 0
  running : Bool := false
  /-- fabric time in units of 62.5 ps at the last boundary (R290) -/
  fabric : Nat := 0
  /-- cycle count `now` at the last boundary -/
  boundaryAt : Nat := 0
  /-- fabric tick index (R52) -/
  tick : Nat := 0
  /-- tick period in µs, and the one that starts at the next boundary (R290) -/
  periodUs : Nat := 32
  nextPeriodUs : Nat := 32
  locked : Bool := false
  holdover : Bool := false
  parent : Option Nat := none
  budgetPs : Nat := 0
  budgetRecorded : Bool := false
  depth : Nat := 0
  offsetPs : Int := 0
  /-- the anchor adopted from a loaded plan (R294), and the last SYNC_IN stamp (R469) -/
  anchor : Nat := 0
  syncStamp : Option Nat := none
  /-- seconds of uptime, counted by HEALTH_SCORE_UPDATE (R217, R378) -/
  uptimeS : Nat := 0
  deriving DecidableEq, Repr

/-! ## Clocks, power, temperature (chapter 12) -/

/-- Clocks, power and sensors. FREQ_MHZ resets to 0 and the thermal ceiling starts at 2.0 GHz (R393). -/
structure Clocks where
  regions : List (Nat × Region) := []
  /-- performance state in MHz, 0 with the oscillators stopped (R392) -/
  mhz : Nat := 0
  /-- the state announced for the coming slot (R395) -/
  pendingMhz : Option Nat := none
  /-- the crossing calibration whose settings are stored, one per crossing and state; 0: none has run (R391) -/
  crossCal : Nat := 0
  thermalCeil : Nat := 2000
  coolSlots : Nat := 0
  riseSlots : Nat := 0
  throttleSeen : Bool := false
  coolNow : Bool := true
  throttleRecorded : Option Nat := none
  limiterLevel : Nat := 0
  limiterRaised : Bool := false
  limiterActed : Bool := false
  powerW : Nat := 0
  compW : Nat := 0
  /-- excluded tile sensors and the latest readings (R401, R402) -/
  excluded : List Nat := []
  /-- tile sensors out of line with their region, and since when (R402) -/
  suspect : List (Nat × Nat) := []
  readings : List (Sensor × Int) := []
  /-- dies whose 120 °C comparator has stopped their clocks (R404) -/
  stoppedDies : List Nat := []
  /-- THERM_TRIP has been raised and not every sensor has read below 85 °C since (R404) -/
  tripped : Bool := false
  /-- hottest region sensor since the last health update (R378 P7) -/
  hottest : Int := 0
  deriving DecidableEq, Repr

/-! ## Reserve tiles, tests, reset (chapters 6, 11 and 13) -/

/-- States of a tile that holds no logical number (R369). -/
inductive ReserveState where
  | verified | parked | underTest | failed
  deriving DecidableEq, Repr

/-- One tile in reserve: when it entered, its sweep progress and unresolved mismatches (R369, R372). -/
structure Reserve where
  state : ReserveState := .verified
  since : Nat := 0
  programs : Nat := 0
  mismatches : List Nat := []
  deriving DecidableEq, Repr

/-- Why a logical tile moves (R215). -/
inductive MoveKind where
  | retirement | rotation | exchange
  deriving DecidableEq, Repr

/-- A move of a logical tile in progress (R215). -/
structure Move where
  logical : Nat
  source : Nat
  target : Nat
  kind : MoveKind
  startTick : Nat := 0
  /-- the slice copy and the sequencer load have ended: the next boundary exchanges -/
  copied : Bool := false
  deriving DecidableEq, Repr

/-- A crumb check in progress (R373 to R375). -/
structure Crumb where
  mailbox : Option Nat := none
  dies : Nat := 0
  begun : Bool := false
  seed : Word64 := 0
  pairs : Nat := 0
  mismatches : Nat := 0
  retired : List Nat := []
  programs : List (Nat × Nat) := []
  deriving DecidableEq, Repr

/-- A compute reset in progress (R361, R362). -/
structure ResetRun where
  mailbox : Option Nat := none
  contains : Nat := 0
  fatal : Bool := false
  /-- physical tiles retired within the reset (R362) -/
  retire : List (Nat × Cond) := []
  deriving DecidableEq, Repr

/-- Reserve tiles, moves and tests. -/
structure Tests where
  /-- physical tile of each logical tile (R416) -/
  tileMap : List Nat := List.range 1024
  reserves : List (Nat × Reserve) := (List.range 128).map (fun i => (1024 + i, {}))
  moves : List Move := []
  /-- physical tiles to retire at the next boundary, with the condition that named each (R354, R419) -/
  retiring : List (Nat × Cond) := []
  /-- a rotation begins at the next boundary (R217) -/
  rotate : Bool := false
  /-- last fabric tick at which each repeatable fault struck a physical tile (R128, R356) -/
  struck : List ((Nat × Cond) × Nat) := []
  /-- when each physical tile became active (R217) -/
  activeSince : List (Nat × Nat) := []
  reserveLowRecorded : Bool := false
  crumb : Option Crumb := none
  /-- REQUALIFY: its mailbox, step and the state it was taken in TRANSIT (R376) -/
  requalify : Option (Nat × Nat × Bool) := none
  /-- shutdown test: its mailbox, phase, new defects, repairs, a failure beyond repair, reserves that passed (R420) -/
  shutdown : Option (Nat × Nat) := none
  newDefects : Nat := 0
  hardRepairs : Nat := 0
  testFailed : Bool := false
  reset : Option ResetRun := none
  deriving DecidableEq, Repr

/-- Where the device is (R7). -/
inductive DevState where
  | off | starting | standby | ready | running | transit | halted
  deriving DecidableEq, Repr

/-- Device state, pins and start. Reset: OFF, no supply, every pin low (free choice 1). -/
structure Device where
  state : DevState := .off
  /-- RESET_BUSY (R321) -/
  resetBusy : Bool := false
  /-- TRANSIT was reached through FATAL evidence (R366) -/
  fatalTransit : Bool := false
  /-- the compute domain is fenced (R361) -/
  fenced : Bool := false
  forwarding : Bool := false
  transmitters : Bool := false
  vaux3 : Bool := false
  vin12 : Bool := false
  pwrOk : Bool := false
  /-- PERST_N released (R467) -/
  perstN : Bool := false
  syncIn : Bool := false
  vddqOk : Bool := true
  /-- a device reset waits for the end of a fast shutdown (R465) -/
  resetAfter : Bool := false
  addrSel : BitVec 2 := 0
  /-- FAULT_CAUSE bits 40, 41 and 44 (R471 Table 6) -/
  vin12Absent : Bool := false
  noFirmware : Bool := false
  thermHw : Bool := false
  /-- step of the start reached (R410); 0 with no start in progress -/
  startStep : Nat := 0
  /-- the start came from a device reset, not from power-on (R408) -/
  deviceReset : Bool := false
  fenumRunning : Bool := false
  /-- the running firmware came from slot B (R425) -/
  runB : Bool := false
  /-- hash over the identities of the DIMMs, as START_TESTS read them (R414) -/
  memIdHash : BitVec 384 := 0
  /-- the start in progress is warm (R414) -/
  warm : Bool := false
  udsOk : Bool := false
  /-- fenum restarts in the last 3,600 s: their times (R364) -/
  restarts : List Nat := []
  restarting : Bool := false
  /-- a third restart: FENUM_FAIL stands (R364) -/
  fenumFail : Bool := false
  /-- FW_ACTIVATE that caused the restart in progress: its mailbox (R351) -/
  activating : Option Nat := none
  /-- causes of the fast shutdown in progress: SYNC_IN, PWR_OK (R465) -/
  fastCause : BitVec 2 := 0
  /-- when it began (R424; notes/assumptions/19.md) -/
  fastAt : Nat := 0
  /-- the test access port holds the pins (R436) -/
  tap : Option TapInstr := none
  imageLoaded : Option Image := none
  /-- loaded image bytes (R23) -/
  imageRaw : List Byte := []
  deriving DecidableEq, Repr

/-! ## Events, dumps and trace (chapter 14) -/

/-- Event record (R443, chapter 14 Table 1). -/
structure EventRec where
  seq : Nat
  tick : Word64
  cycle : Word32
  raised : Raise
  deriving DecidableEq, Repr

/-- Trace entry (R456, chapter 14 Table 6). -/
structure TraceEntry where
  fabricTick : Nat
  attempt : Nat
  localTick : Nat
  verdict : Nat
  freqMhz : Nat
  tasks : Nat
  powerW : Nat
  deriving DecidableEq, Repr

/-- Event ring, window header, dump and trace buffer. Resets as chapter 14 Table 3. -/
structure Recorder where
  ring : List EventRec := []
  headSeq : Nat := 0
  persistSeq : Nat := 0
  /-- FATAL, ERROR, WARNING, NOTICE, INFO -/
  dropped : List Nat := [0, 0, 0, 0, 0]
  trace : List TraceEntry := []
  traceHead : Nat := 0
  truncated : Bool := false
  /-- sticky error map (R358). Reset 0. -/
  sticky : BitVec 32768 := 0
  dump0 : Option Dump := none
  dump1 : Option Dump := none
  /-- the hub slot being copied to NOR (R454), and one waiting for the end of a compute reset -/
  persisting : Option Nat := none
  dumpDue : Option Nat := none
  /-- a copy of event records is running: the highest SEQ it takes (R451) -/
  copying : Option Nat := none
  copyDue : Bool := false
  /-- an authorised clear that waits for the copy: FIRST, LAST, KEY_ID, mailbox (R452) -/
  clear : Option (Nat × Nat × Word64 × Nat) := none
  deriving DecidableEq, Repr

/-! ## NOR flash, fuses, keys, life cycle (chapter 13) -/

/-- A firmware package as its header shows it (R425, chapter 13 Table 5). -/
structure FwPackage where
  version : Word64 := 0
  svn : Nat := 0
  generation : Nat := 4
  /-- SHA-384 of the signer key, and the results of the signature and component checks on the stored bytes (R426) -/
  signer : BitVec 384 := 0
  signatureOk : Bool := true
  starterOk : Bool := true
  componentsOk : Bool := true
  hashes : List (BitVec 384) := []
  deriving DecidableEq, Repr

/-- Defect map entry (R418, chapter 13 Table 4a). -/
structure Defect where
  kind : Nat
  origin : Nat
  code : Nat
  location : Nat
  serial : Nat
  deriving DecidableEq, Repr

/-- Shutdown record (R422, chapter 13 Table 4). -/
structure ShutdownRecord where
  result : Nat := 0
  bootSerial : Nat := 0
  testTime : Nat := 0
  fwVersion : Word64 := 0
  mapHash : BitVec 384 := 0
  memIdHash : BitVec 384 := 0
  newDefects : Nat := 0
  reserveAfter : Nat := 0
  repairs : Nat := 0
  reserveMap : List Nat := []
  /-- STUCK_AT, TRANSITION and MEM_CELLS, then PHASE_MS, as bytes: measured, and free (free choice 5) -/
  coverage : List Byte := []
  phaseMs : List Byte := []
  mac : BitVec 384 := 0
  deriving DecidableEq, Repr

/-- Life-cycle states (R437, chapter 13 Table 7). -/
inductive LifeCycle where
  | blank | provisioned | deployed | returned | retired
  deriving DecidableEq, Repr

/-- The NOR flash and the fuses (R407, R426, R437). They keep their contents without power; what they hold before the
first VAUX3_ON is the factory's and the operator's (free choice 3). -/
structure Nor where
  slotA : Option FwPackage := some {}
  slotB : Option FwPackage := none
  activeB : Bool := false
  trial : Bool := false
  trialCount : Nat := 0
  bootSerial : Nat := 0
  defects : List Defect := []
  defectsOk : Bool := true
  record : Option ShutdownRecord := none
  tileMap : List Nat := List.range 1024
  lifecycle : LifeCycle := .deployed
  ddrChannels : Nat := 8
  dimmGib : Nat := 256
  syncInFast : Bool := false
  /-- board configuration that takes effect at the next start (R440) -/
  nextBoard : Option (Nat × Nat × Bool) := none
  /-- the DeviceID certificate and intermediate installed at provisioning, as bytes (R432, R438 Table 9) -/
  certificate : List Byte := []
  ownerKey : Option (List Byte) := none
  imageKeys : List (Nat × List Byte) := []
  clearKeys : List (Nat × List Byte) := []
  /-- stored DDR5 training values (R415) -/
  ddrTrained : List Nat := []
  events : List EventRec := []
  eventsHead : Nat := 0
  seqLimit : Nat := 0
  sticky : BitVec 32768 := 0
  dump : Option Dump := none
  /-- spare blocks left of the event area (R451, R458) -/
  spareBlocks : Nat := 255
  -- fuses
  serial : BitVec 128 := 0
  minSvn : Nat := 0
  fwKeys : List (BitVec 384 × Bool) := [(0, false)]
  lifecycleKeys : List (BitVec 384 × Bool) := [(0, false)]
  udsHash : BitVec 384 := 0
  reserveShip : Nat := 128
  deriving DecidableEq, Repr

/-- Secrets of the hub key engine and controllers, by presence and generation, never by value (R245, R430, R435). -/
structure Secrets where
  uds : Bool := false
  deviceId : Bool := false
  recordKey : Bool := false
  cdiS : Bool := false
  cdiF : Bool := false
  alias_ : Bool := false
  /-- generation of the Alias key and of the AES-XTS key pairs; 0 for none -/
  aliasGen : Nat := 0
  /-- the key pairs in the memory controllers: of stacks 0 to 15, then of channels 16 to 23, each with its generation (R245) -/
  memKeys : List (Nat × Nat) := []
  memKeyGen : Nat := 0
  spdmVersion : Bool := false
  spdmCaps : Bool := false
  spdmAlgs : Bool := false
  spdmHandshake : Bool := false
  spdmSession : Bool := false
  ideKeys : List Nat := []
  ideOn : List Nat := []
  /-- answers of the DOE mailbox: one number for each kind of answer (R433) -/
  doeAnswers : List (Nat × BitVec 384) := []
  nonceClear : Option (BitVec 128) := none
  nonceLife : Option (BitVec 128) := none
  debugOwner : Bool := false
  debugFull : Bool := false
  /-- the next start is the unlock's own restart (R441): 1 owner, 2 full -/
  debugNext : Nat := 0
  deriving DecidableEq, Repr

/-- The I3C sideband registers that hold state (R471, chapter 15 Table 6). Resets as that table gives. -/
structure Sideband where
  timeUtc : Word64 := 0
  /-- the board has written TIME_UTC since VAUX3 came up -/
  timeSet : Bool := false
  recStatus : Nat := 0
  recBytes : Nat := 0
  recLength : Nat := 0
  recData : List Byte := []
  deriving DecidableEq, Repr

/-- Policy settings (R218 Table 5, R334 Table 10), at their defaults. -/
structure Policy where
  migratePct : Nat := 5
  sliceHeadroom : Nat := 1024
  versionReserve : Nat := 65536
  promoteMin : Nat := 16
  decayTicks : Nat := 64
  admitGuard : Nat := 2
  affinitySlack : Nat := 5
  stealScope : Nat := 3
  slowPct : Nat := 90
  slowTicks : Nat := 10000
  rotateMin : Nat := 10
  ignoreHints : Nat := 0
  slipLimit : Nat := 8
  requireSigned : Nat := 0
  powerCapW : Nat := 3000
  /-- VERSION_RESERVE and bit 4 of IGNORE_HINTS as in force for the open job (R218) -/
  jobReserve : Nat := 65536
  jobBackAll : Bool := false
  deriving DecidableEq, Repr

/-- The health score and what it counts (R378, R379). Reset 0; the band starts as good (free choice 2). -/
structure Health where
  score : Nat := 0
  band : Nat := 0
  /-- times of corrected errors, hardware discards, retirements; resends and drops by time -/
  corrected : List Nat := []
  discards : List Nat := []
  retirements : List Nat := []
  linkErrors : List Nat := []
  deriving DecidableEq, Repr

/-- The state of the block. `freeCtr` counts the free values used and `pending` is the queue of waiting commands: both
are the model's own fields, not the spec's. -/
structure State where
  dev : Device := {}
  host : HostLink := {}
  time : FabricTime := {}
  job : Option Job := none
  att : Attempt := {}
  tiles : List (Nat × Tile) := []
  mem : Mem := {}
  fab : Fabric := {}
  coll : List CollRun := []
  clk : Clocks := {}
  tests : Tests := {}
  evt : Recorder := {}
  nor : Nor := {}
  sec : Secrets := {}
  side : Sideband := {}
  pol : Policy := {}
  health : Health := {}
  freeCtr : Nat := 0
  pending : List Instr := []
  deriving DecidableEq, Repr

/-- The part before power is applied, every field at its reset value (R7 OFF; free choices 1 to 3). -/
def State.reset : State := {}

end Sys2Proof.Machine
end

