-- ==== Sys2Proof/Machine/Flags.lean ====
section
/-! DEFINITION. The conditions of the part: code, class and severity of each (R357, and the condition table of each
chapter: R88, R129, R154 Table 5, R181 Table 10, R219, R247, R289, R315, R382, R406, R442, R459), and where each source
stands in the sticky error map (R358). -/

namespace Sys2Proof

/-- The condition code (R357 Table 2; R406; R442; R459). -/
def Cond.code : Cond → Nat
  | .tickReplay => 0x0000
  | .tickOverrun => 0x0001
  | .replayLimit => 0x0002
  | .slipLimit => 0x0003
  | .unbackedLoss => 0x0004
  | .fillUndeclared => 0x0005
  | .drainRefused => 0x0006
  | .steerSkew => 0x0040
  | .schedDeviation => 0x0041
  | .drainTimeout => 0x0042
  | .configParity => 0x0043
  | .staleToken => 0x0044
  | .repeatFault => 0x0045
  | .streamOrder => 0x0046
  | .bankBudget => 0x0047
  | .msgOversize => 0x0048
  | .padParity => 0x0080
  | .indexRange => 0x0081
  | .arbHoldCutoff => 0x0082
  | .queueResidue => 0x0083
  | .queueCycle => 0x0084
  | .trayOverflow => 0x00C0
  | .scaleExhausted => 0x00C1
  | .nonfinite => 0x00C2
  | .versionSpace => 0x0100
  | .dirEccCe => 0x0101
  | .dirEccUe => 0x0102
  | .pinOverflow => 0x0103
  | .regionSlow => 0x0104
  | .rotation => 0x0105
  | .taskUnfit => 0x0106
  | .sliceParity => 0x0140
  | .hbmCe => 0x0141
  | .ddrCe => 0x0142
  | .hbmUe => 0x0143
  | .ddrUe => 0x0144
  | .memUeIdle => 0x0145
  | .memRepair => 0x0146
  | .memLost => 0x0147
  | .laneSpared => 0x0180
  | .portUntrained => 0x0181
  | .portDown => 0x0182
  | .portFlap => 0x0183
  | .portAuthFail => 0x0184
  | .coordMismatch => 0x0185
  | .linkDrop => 0x0186
  | .routeDrop => 0x0187
  | .floodLate => 0x0188
  | .routeDegraded => 0x0189
  | .routeOverflow => 0x018A
  | .circuitLost => 0x018B
  | .windowClosed => 0x018C
  | .windowDenied => 0x018D
  | .remoteFlag => 0x018E
  | .remoteTimeout => 0x018F
  | .fabricPathFail => 0x0190
  | .routeStale => 0x0191
  | .chunkReissue => 0x01C0
  | .peerSlow => 0x01C1
  | .a2aTruncated => 0x01C2
  | .collPeerLost => 0x01C3
  | .timeHoldover => 0x01C4
  | .timeBudget => 0x01C5
  | .hostLinkReduced => 0x0200
  | .stickyCleared => 0x0201
  | .crumbMismatch => 0x0240
  | .crumbUnresolved => 0x0241
  | .reserveLow => 0x0242
  | .reserveExhausted => 0x0243
  | .reserveTestFail => 0x0244
  | .fenumWatchdog => 0x0245
  | .fenumLockstep => 0x0246
  | .fenumFail => 0x0247
  | .resetFail => 0x0248
  | .healthBand => 0x0249
  | .droopStretch => 0x0280
  | .thermThrottle => 0x0281
  | .thermTrip => 0x0282
  | .powerLimit => 0x0283
  | .crossCalFail => 0x0284
  | .sensorFail => 0x0285
  | .startCold => 0x02C0
  | .startWarm => 0x02C1
  | .bootSlotFallback => 0x02C2
  | .testFail => 0x02C3
  | .startHalt => 0x02C4
  | .identityFail => 0x02C5
  | .shutdownDone => 0x02C6
  | .fastShutdown => 0x02C7
  | .svnRaised => 0x02C8
  | .lifecycleChange => 0x02C9
  | .keyChange => 0x02CA
  | .debugUnlocked => 0x02CB
  | .signatureRefused => 0x02CC
  | .eventsCleared => 0x0300
  | .dumpCaptured => 0x0301
  | .dumpPersistAbandoned => 0x0302
  | .syncConflict => 0x0303
  | .norWriteFail => 0x0304

/-- The class a condition is raised with unless its site says otherwise (the chapters' condition tables). -/
def Cond.cls : Cond → CondClass
  | .tickReplay => .replay
  | .tickOverrun => .replay
  | .replayLimit => .contain
  | .slipLimit => .note
  | .unbackedLoss => .job
  | .fillUndeclared => .note
  | .drainRefused => .job
  | .steerSkew => .replay
  | .schedDeviation => .replay
  | .drainTimeout => .replay
  | .configParity => .replay
  | .staleToken => .note
  | .repeatFault => .retire
  | .streamOrder => .job
  | .bankBudget => .job
  | .msgOversize => .job
  | .padParity => .replay
  | .indexRange => .job
  | .arbHoldCutoff => .replay
  | .queueResidue => .job
  | .queueCycle => .job
  | .trayOverflow => .note
  | .scaleExhausted => .replay
  | .nonfinite => .job
  | .versionSpace => .replay
  | .dirEccCe => .note
  | .dirEccUe => .contain
  | .pinOverflow => .note
  | .regionSlow => .note
  | .rotation => .note
  | .taskUnfit => .job
  | .sliceParity => .replay
  | .hbmCe => .note
  | .ddrCe => .note
  | .hbmUe => .contain
  | .ddrUe => .contain
  | .memUeIdle => .note
  | .memRepair => .note
  | .memLost => .fatal
  | .laneSpared => .note
  | .portUntrained => .note
  | .portDown => .note
  | .portFlap => .note
  | .portAuthFail => .note
  | .coordMismatch => .note
  | .linkDrop => .note
  | .routeDrop => .note
  | .floodLate => .note
  | .routeDegraded => .note
  | .routeOverflow => .note
  | .circuitLost => .note
  | .windowClosed => .note
  | .windowDenied => .note
  | .remoteFlag => .job
  | .remoteTimeout => .job
  | .fabricPathFail => .fatal
  | .routeStale => .note
  | .chunkReissue => .note
  | .peerSlow => .note
  | .a2aTruncated => .note
  | .collPeerLost => .job
  | .timeHoldover => .note
  | .timeBudget => .note
  | .hostLinkReduced => .note
  | .stickyCleared => .note
  | .crumbMismatch => .retire
  | .crumbUnresolved => .contain
  | .reserveLow => .note
  | .reserveExhausted => .fatal
  | .reserveTestFail => .note
  | .fenumWatchdog => .contain
  | .fenumLockstep => .contain
  | .fenumFail => .fatal
  | .resetFail => .fatal
  | .healthBand => .note
  | .droopStretch => .note
  | .thermThrottle => .note
  | .thermTrip => .fatal
  | .powerLimit => .note
  | .crossCalFail => .retire
  | .sensorFail => .note
  | .startCold => .note
  | .startWarm => .note
  | .bootSlotFallback => .note
  | .testFail => .note
  | .startHalt => .fatal
  | .identityFail => .fatal
  | .shutdownDone => .note
  | .fastShutdown => .note
  | .svnRaised => .note
  | .lifecycleChange => .note
  | .keyChange => .note
  | .debugUnlocked => .note
  | .signatureRefused => .note
  | .eventsCleared => .note
  | .dumpCaptured => .note
  | .dumpPersistAbandoned => .note
  | .syncConflict => .note
  | .norWriteFail => .note

/-- The severity a condition is raised with unless its site says otherwise (the chapters' condition tables). -/
def Cond.sev : Cond → Severity
  | .tickReplay => .warning
  | .tickOverrun => .warning
  | .replayLimit => .error
  | .slipLimit => .warning
  | .unbackedLoss => .error
  | .fillUndeclared => .notice
  | .drainRefused => .error
  | .steerSkew => .error
  | .schedDeviation => .error
  | .drainTimeout => .error
  | .configParity => .error
  | .staleToken => .warning
  | .repeatFault => .error
  | .streamOrder => .error
  | .bankBudget => .error
  | .msgOversize => .error
  | .padParity => .error
  | .indexRange => .error
  | .arbHoldCutoff => .warning
  | .queueResidue => .error
  | .queueCycle => .error
  | .trayOverflow => .notice
  | .scaleExhausted => .warning
  | .nonfinite => .error
  | .versionSpace => .warning
  | .dirEccCe => .notice
  | .dirEccUe => .error
  | .pinOverflow => .notice
  | .regionSlow => .warning
  | .rotation => .info
  | .taskUnfit => .error
  | .sliceParity => .error
  | .hbmCe => .notice
  | .ddrCe => .notice
  | .hbmUe => .error
  | .ddrUe => .error
  | .memUeIdle => .warning
  | .memRepair => .info
  | .memLost => .fatal
  | .laneSpared => .notice
  | .portUntrained => .warning
  | .portDown => .warning
  | .portFlap => .warning
  | .portAuthFail => .error
  | .coordMismatch => .error
  | .linkDrop => .notice
  | .routeDrop => .notice
  | .floodLate => .warning
  | .routeDegraded => .warning
  | .routeOverflow => .warning
  | .circuitLost => .warning
  | .windowClosed => .warning
  | .windowDenied => .warning
  | .remoteFlag => .error
  | .remoteTimeout => .error
  | .fabricPathFail => .fatal
  | .routeStale => .warning
  | .chunkReissue => .notice
  | .peerSlow => .warning
  | .a2aTruncated => .notice
  | .collPeerLost => .error
  | .timeHoldover => .warning
  | .timeBudget => .warning
  | .hostLinkReduced => .warning
  | .stickyCleared => .notice
  | .crumbMismatch => .error
  | .crumbUnresolved => .error
  | .reserveLow => .warning
  | .reserveExhausted => .fatal
  | .reserveTestFail => .warning
  | .fenumWatchdog => .error
  | .fenumLockstep => .error
  | .fenumFail => .fatal
  | .resetFail => .fatal
  | .healthBand => .notice
  | .droopStretch => .notice
  | .thermThrottle => .warning
  | .thermTrip => .fatal
  | .powerLimit => .warning
  | .crossCalFail => .error
  | .sensorFail => .warning
  | .startCold => .notice
  | .startWarm => .info
  | .bootSlotFallback => .warning
  | .testFail => .error
  | .startHalt => .fatal
  | .identityFail => .fatal
  | .shutdownDone => .notice
  | .fastShutdown => .warning
  | .svnRaised => .notice
  | .lifecycleChange => .notice
  | .keyChange => .notice
  | .debugUnlocked => .warning
  | .signatureRefused => .warning
  | .eventsCleared => .notice
  | .dumpCaptured => .notice
  | .dumpPersistAbandoned => .warning
  | .syncConflict => .warning
  | .norWriteFail => .error

/-- CLASS of an event record (R443 Table 1, bits [165:163]), and the bit of a source byte (R358 Table 4). -/
def CondClass.code : CondClass → Nat
  | .note => 0
  | .replay => 1
  | .retire => 2
  | .contain => 3
  | .job => 4
  | .fatal => 5

/-- SEVERITY of an event record (R443 Table 1, bits [162:160]): 0 is the most severe. -/
def Severity.code : Severity → Nat
  | .fatal => 0
  | .error => 1
  | .warning => 2
  | .notice => 3
  | .info => 4

/-- ERROR or FATAL, which set SEVERE and raise vector 19 (R359, R352 Table 19). -/
def Severity.severe : Severity → Bool
  | .fatal => true
  | .error => true
  | .warning => false
  | .notice => false
  | .info => false

/-- The first bit of a source's byte in the sticky error map (R358 Table 3); none for the device as a whole. -/
def Source.stickyBit : Source → Option Nat
  | .device => none
  | .tile p => some (2048 + 8 * p)
  | .hbm s => some (11264 + 8 * s)
  | .ddr c => some (11392 + 8 * c)
  | .port p => some (11456 + 8 * p)
  | .region g => some (11648 + 8 * g)
  | .die i => some (12224 + 8 * i)
  | .host => some 12328

/-- SRC_KIND of an event record (R443 Table 1, bits [171:168]). -/
def Source.kind : Source → Nat
  | .device => 0
  | .tile _ => 1
  | .hbm _ => 2
  | .ddr _ => 3
  | .port _ => 4
  | .region _ => 5
  | .die _ => 6
  | .host => 7

/-- SRC_INDEX of an event record (R443 Table 1, bits [191:176]). -/
def Source.index : Source → Nat
  | .device => 0
  | .tile p => p
  | .hbm s => s
  | .ddr c => c
  | .port p => p
  | .region g => g
  | .die i => i
  | .host => 0

/-- The bits of the sticky map that one raising sets (R359): its COND bit, and the class bit and SEVERE of its source. -/
def Raise.stickyBits (r : Raise) : List Nat :=
  Cond.code r.cond ::
    match Source.stickyBit r.src with
    | none => []
    | some b => (b + CondClass.code r.cls) :: (if Severity.severe r.sev then [b + 6] else [])

/-- The condition `c` at source `src` with its own class and severity (the chapters' condition tables). -/
def Raise.of (c : Cond) (src : Source) (w0 w1 w2 w3 : Nat) : Raise :=
  ⟨c, Cond.cls c, Cond.sev c, src, 0xFFFF, BitVec.ofNat 64 w0, BitVec.ofNat 64 w1, BitVec.ofNat 64 w2, BitVec.ofNat 64 w3⟩

/-- The same raising in another class and severity, where a site gives them (R179, R274, R402). -/
def Raise.as (r : Raise) (c : CondClass) (v : Severity) : Raise := { r with cls := c, sev := v }

end Sys2Proof
end

