-- ==== Sys2Proof/Machine/Ops.lean ====
section
/-! DEFINITION. The named operations over the state: keyed lists, byte memories, the sticky map, event records, raising a
condition, interrupts, the fence, the wipe and the compute reset. Every meaning goes through them. -/

namespace Sys2Proof.Machine

/-! ## Keyed lists -/

/-- The value stored under a key, or a default. -/
def look {κ α : Type} [DecidableEq κ] (d : α) (k : κ) : List (κ × α) → α
  | [] => d
  | (k', v) :: l => if k' = k then v else look d k l

/-- The value stored under a key, if any. -/
def look? {κ α : Type} [DecidableEq κ] (k : κ) : List (κ × α) → Option α
  | [] => none
  | (k', v) :: l => if k' = k then some v else look? k l

/-- Store a value under a key, in place of the value there. -/
def put {κ α : Type} [DecidableEq κ] (k : κ) (v : α) : List (κ × α) → List (κ × α)
  | [] => [(k, v)]
  | (k', v') :: l => if k' = k then (k, v) :: l else (k', v') :: put k v l

/-- Remove a key. -/
def del {κ α : Type} [DecidableEq κ] (k : κ) (l : List (κ × α)) : List (κ × α) :=
  l.filter (fun e => !decide (e.1 = k))

/-- Replace element `i` of a list; a list that is shorter stays. -/
def setAt {α : Type} (i : Nat) (v : α) : List α → List α
  | [] => []
  | a :: l => match i with
    | 0 => v :: l
    | i + 1 => a :: setAt i v l

/-- Apply a function to the elements of a list in order, carrying the state. -/
def each {α σ : Type} (f : α → σ → σ) : List α → σ → σ
  | [], s => s
  | a :: l, s => each f l (f a s)

/-! ## Byte memories -/

/-- The byte at an address; a byte never written reads zero (R186, R246, R361 step 6). -/
def Memory.read (m : Memory) (a : Nat) : Byte :=
  match m with
  | [] => 0
  | (b, v) :: m' => if b = a then v else if a < b then 0 else Memory.read m' a

/-- Write a byte, keeping the canonical form: rising addresses, no zero entry. -/
def Memory.write (m : Memory) (a : Nat) (v : Byte) : Memory :=
  match m with
  | [] => if v = 0 then [] else [(a, v)]
  | (b, w) :: m' =>
    if b = a then (if v = 0 then m' else (a, v) :: m')
    else if a < b then (if v = 0 then (b, w) :: m' else (a, v) :: (b, w) :: m')
    else (b, w) :: Memory.write m' a v

/-- Every address of the list is above `lo`, the addresses rise and no byte is zero. -/
def Memory.wfAbove (lo : Option Nat) : Memory → Bool
  | [] => true
  | (a, v) :: m => (match lo with | none => true | some l => decide (l < a)) && decide (v ≠ 0) && Memory.wfAbove (some a) m

/-- The canonical form of a byte memory. -/
def Memory.wf (m : Memory) : Bool := Memory.wfAbove none m

/-- `n` bytes from an address on. -/
def Memory.readBytes (m : Memory) (a : Nat) : Nat → List Byte
  | 0 => []
  | n + 1 => m.read a :: Memory.readBytes m (a + 1) n

/-- Write bytes from an address on. -/
def Memory.writeBytes (m : Memory) (a : Nat) : List Byte → Memory
  | [] => m
  | v :: vs => Memory.writeBytes (m.write a v) (a + 1) vs

/-- Remove every byte of an address range. -/
def Memory.clear (m : Memory) (lo n : Nat) : Memory := m.filter (fun c => !(decide (lo ≤ c.1) && decide (c.1 < lo + n)))

/-- The little-endian number of `n` bytes from an address (R14). -/
def Memory.readLe (m : Memory) (a n : Nat) : Nat := leNat (m.readBytes a n)

/-! ## Pieces of the state -/

/-- The number of a physical tile Dd.r.c: 144d + 12r + c (R358 Table 3). -/
def tileNo (d r c : Nat) : Nat := 144 * d + 12 * r + c

/-- The die of a physical tile. -/
def tileDie (p : Nat) : Nat := p / 144

/-- The clock region 9d + k of a physical tile (R220, R384). -/
def tileRegion (p : Nat) : Nat := 9 * (p / 144) + 3 * (p % 144 / 12 / 4) + p % 12 / 4

def State.tile (s : State) (p : Nat) : Tile := look {} p s.tiles

def State.setTile (s : State) (p : Nat) (t : Tile) : State := { s with tiles := put p t s.tiles }

def State.onTile (s : State) (p : Nat) (f : Tile → Tile) : State := s.setTile p (f (s.tile p))

def State.port (s : State) (p : Nat) : Port := look {} p s.fab.ports

def State.onPort (s : State) (p : Nat) (f : Port → Port) : State :=
  { s with fab := { s.fab with ports := put p (f (s.port p)) s.fab.ports } }

def State.region (s : State) (g : Nat) : Region := look {} g s.clk.regions

def State.onRegion (s : State) (g : Nat) (f : Region → Region) : State :=
  { s with clk := { s.clk with regions := put g (f (s.region g)) s.clk.regions } }

def State.mailbox (s : State) (mb : Nat) : Mailbox := look {} mb s.host.mailboxes

def State.onMailbox (s : State) (mb : Nat) (f : Mailbox → Mailbox) : State :=
  { s with host := { s.host with mailboxes := put mb (f (s.mailbox mb)) s.host.mailboxes } }

def State.onJob (s : State) (f : Job → Job) : State := { s with job := s.job.map f }

/-- The physical tile that holds a logical number (R185, R416). -/
def State.physical (s : State) (logical : Nat) : Nat := s.tests.tileMap.getD logical 0

/-- The logical number a physical tile holds, if any. -/
def State.logical? (s : State) (p : Nat) : Option Nat := s.tests.tileMap.findIdx? (· == p)

/-- LOGICAL of an event record: the tile's logical number, or 0xFFFF (R443). -/
def State.logicalField (s : State) (src : Source) : BitVec 16 :=
  match src with
  | .tile p => match s.logical? p with
    | some l => BitVec.ofNat 16 l
    | none => 0xFFFF
  | _ => 0xFFFF

/-- A command about a unit the part does not have stops with `noSuchUnit`; any other acts. -/
def guardUnit (ok : Bool) (s : State) : Host.Outcome State Fault Refusal :=
  if ok then .next s else .fault .noSuchUnit

/-- A free value, and the state that has used it. -/
def State.fresh (s : State) : BitVec 128 × State := (Config.freeValue s.freeCtr, { s with freeCtr := s.freeCtr + 1 })

/-- 64 bytes that the spec leaves open: what a read whose parity check failed delivers, for there is no correction (R143; notes/assumptions/81.md). -/
def State.freeLine (s : State) : List Byte :=
  ((List.range 4).map (fun i => leBytes 16 (Config.freeValue (s.freeCtr + i)).toNat)).flatten

/-- An attempt of the running job is in progress (R82). -/
def State.inAttempt (s : State) : Bool := decide (s.dev.state = .running) && s.att.running

/-! ## Interrupts and states -/

/-- Raise an MSI-X vector; while Bus Master Enable is clear or the function is not in D0 it is held (R318, R352 Table 19). -/
def irq (v : Nat) (s : State) : State :=
  if s.host.busMaster && s.host.dState == 0 then { s with host := { s.host with msix := s.host.msix ++ [v] } }
  else { s with host := { s.host with msixHeld := if s.host.msixHeld.contains v then s.host.msixHeld else s.host.msixHeld ++ [v] } }

/-- Enter a device state; vector 17 when STATE changes (R7, R352 Table 19). -/
def setDev (d : DevState) (s : State) : State :=
  if s.dev.state = d then s else irq 17 { s with dev := { s.dev with state := d } }

/-- STATE's code (R321 Table 3). OFF has none. -/
def DevState.code : DevState → Nat
  | .off => 0
  | .starting => 1
  | .standby => 2
  | .ready => 3
  | .running => 4
  | .transit => 5
  | .halted => 6

/-- FAULT_CAUSE (R471 Table 6): [0] VIN12 absent, [1] no firmware, [2] TRANSIT, [3] HALTED, [4] THERM_HW, [5] PWR_OK low. -/
def State.faultCause (s : State) : List Bool :=
  [s.dev.vin12Absent, s.dev.noFirmware, decide (s.dev.state = .transit), decide (s.dev.state = .halted), s.dev.thermHw,
    !s.dev.pwrOk && s.dev.vin12]

/-- FAULT_N is asserted while any cause holds (R468). -/
def State.faultN (s : State) : Bool := s.faultCause.any id

/-! ## Event records and the sticky map -/

/-- The nominal cycle field of an event record: since the latest boundary, or before fabric time starts the microseconds
since the start began (R443). -/
def State.eventCycle (s : State) : Nat :=
  let d := s.time.now - s.time.boundaryAt
  Nat.min 0xFFFFFFFF (if s.time.running then d else d / 2000)

/-- TICK of an event record (R443): all ones before fabric time starts. -/
def State.eventTick (s : State) : Word64 := if s.time.running then BitVec.ofNat 64 s.time.tick else -1

/-- Of a full ring, the record the new one overwrites: the lowest SEQ among those no more severe than it (R447). -/
def victim (sev : Nat) : List EventRec → Option Nat
  | [] => none
  | e :: l =>
    match victim sev l with
    | none => if sev ≤ Severity.code e.raised.sev then some e.seq else none
    | some b => if sev ≤ Severity.code e.raised.sev then some (Nat.min e.seq b) else some b

/-- Store a record in a ring of a size under R447: none when every stored record is more severe. -/
def storeRecord (size : Nat) (e : EventRec) (ring : List EventRec) : Option (List EventRec) :=
  if ring.length < size then some (ring ++ [e])
  else match victim (Severity.code e.raised.sev) ring with
    | none => none
    | some q => some (ring.map (fun x => if x.seq = q then e else x))

/-- Before a block of 1,048,576 numbers is used, its end is written as SEQ_LIMIT (R445). -/
def takeSeqBlock (next : Nat) (n : Nor) : Nor := if next ≤ n.seqLimit then n else { n with seqLimit := n.seqLimit + 1048576 }

/-- Write one event record (R443, R445 to R447). -/
def writeRecord (r : Raise) (s : State) : State :=
  let seq := s.evt.headSeq + 1
  let e : EventRec := { seq := seq, tick := s.eventTick, cycle := BitVec.ofNat 32 s.eventCycle, raised := r }
  match storeRecord 65536 e s.evt.ring with
  | none =>
    let i := Severity.code r.sev
    let d := s.evt.dropped.getD i 0
    { s with evt := { s.evt with dropped := setAt i (Nat.min 0xFFFFFFFF (d + 1)) s.evt.dropped } }
  | some ring =>
    { s with
      evt := { s.evt with ring := ring, headSeq := seq, copyDue := s.evt.copyDue || decide (r.sev = .fatal) }
      nor := takeSeqBlock seq s.nor }

/-- Set one bit of the sticky map; vector 18 when it changes from 0 to 1 (R359, R352 Table 19). -/
def setSticky (b : Nat) (s : State) : State :=
  if s.evt.sticky.getLsbD b then s
  else irq 18 { s with evt := { s.evt with sticky := s.evt.sticky ||| (1#32768 <<< b) } }

/-- Times of the last 3,600 s, at 2,000,000,000 nominal cycles a second (R378). -/
def lastHour (now : Nat) (ts : List Nat) : List Nat := ts.filter (fun t => decide (now < t + 3600 * 2000000000))

/-- Times of the last 24 h. -/
def lastDay (now : Nat) (ts : List Nat) : List Nat := ts.filter (fun t => decide (now < t + 86400 * 2000000000))

/-- The health score's count of corrected errors (R378 P1). -/
def countHealth (c : Cond) (s : State) : State :=
  match c with
  | .hbmCe | .ddrCe | .dirEccCe => { s with health := { s.health with corrected := lastHour s.time.now s.health.corrected ++ [s.time.now] } }
  | _ => s

/-- Record a raising: its event record, its sticky bits, its interrupt, its place among the attempt's conditions (R72,
R359, R443). The class's effect is `classEffect`. -/
def record (r0 : Raise) (s : State) : State :=
  let r := { r0 with logical := s.logicalField r0.src }
  let s := writeRecord r s
  let s := each setSticky r.stickyBits s
  let s := if r.sev.severe then irq 19 s else s
  let s := countHealth r.cond s
  let s := if r.cond = .thermTrip then { s with clk := { s.clk with tripped := true } } else s
  if s.inAttempt then { s with att := { s.att with raised := s.att.raised ++ [r] } } else s

/-! ## The memory units (R235, R238, R239, R243, R333 section 6) -/

/-- The channels a configuration uses (R238). -/
def Nor.channels (n : Nor) : List Nat := if n.ddrChannels = 4 then [0, 2, 4, 6] else List.range 8

/-- The device physical address of a line: its frame's bytes in frame order (notes/assumptions/13.md). -/
def lineAddress (f j : Nat) : Nat := 131072 * f + 64 * j

/-- The first line of the unit that lies on a row's pseudo-channel or subchannel (R235, R239). -/
def rowAddress (n : Nor) (r : RowRef) : Nat :=
  match r.unit with
  | .hbm k => lineAddress (0x4000 + 393216 * k) r.sub
  | .ddr c => lineAddress 0x800000 (2 * (n.channels.idxOf c) + r.sub)
  | _ => 0

/-- The number of a stack or channel in GET_STATUS section 6. -/
def memUnitNo (u : Source) : Nat :=
  match u with
  | .hbm k => k
  | .ddr c => 16 + c
  | _ => 24

def countMem (u : Source) (g : MemCounts → MemCounts) (s : State) : State :=
  { s with mem := { s.mem with counts := put (memUnitNo u) (g (look {} (memUnitNo u) s.mem.counts)) s.mem.counts } }

/-- A row is repaired: MEM_REPAIR names the stack or channel, by its W0 the pseudo-channel or subchannel, and the row (R243, R444;
notes/assumptions/80.md). -/
def repairRow (r : RowRef) (s : State) : State :=
  countMem r.unit (fun c => { c with repairs := c.repairs + 1 })
    (record (Raise.of .memRepair r.unit (rowAddress s.nor r) 0xFFFFFFFFFFFFFFFF 0 r.row) s)

/-! ## The fence, the wipe and the dump (R361, R453) -/

/-- Directory entries with FRAME_P not none (R453 Table 5). -/
def State.pairedEntries (s : State) : List (Nat × DirEntry) := s.mem.dir.filter (fun e => e.2.frameP ≠ 0x1FFFFFF)

/-- The sections of a dump of this state: type and bytes (R453 Table 5; notes/assumptions/12.md). -/
def dumpSections (s : State) : List (Nat × Nat) :=
  [(1, 18874368), (2, 8 * s.pairedEntries.length), (3, 114688), (4, 1152),
    (5, 1048576), (6, 64 * (s.coll.map (fun c => c.sent.length + c.recv.length)).sum), (7, 32 * s.fab.peers.length), (8, 2097152)]

/-- The sections that end within the first `room` bytes. -/
def sectionsWithin (room : Nat) : List (Nat × Nat) → List (Nat × Nat)
  | [] => []
  | x :: l => if x.2 ≤ room then x :: sectionsWithin (room - x.2) l else []

/-- Whether GET_DUMP maps a hub slot (R349). -/
def State.slotMapped (s : State) (i : Nat) : Bool :=
  match s.host.dumpMap with
  | some (0, j, _) => i == j
  | _ => false

/-- The dump slot a capture takes (R453): one neither mapped nor being persisted, the older first; otherwise the slot
being persisted; a slot that is mapped is never taken. -/
def captureSlot (s : State) : Nat :=
  let free := fun i => !s.slotMapped i && s.evt.persisting ≠ some i
  let age : Option Dump → Nat := fun d => match d with | none => 0 | some d => d.causeSeq
  if free 0 && free 1 then (if age s.evt.dump0 ≤ age s.evt.dump1 then 0 else 1)
  else if free 0 then 0
  else if free 1 then 1
  else s.evt.persisting.getD 0

/-- A new dump in a slot (R453). One that extends into the trace ring takes the part that another held, which is then incomplete, and
overwrites the oldest trace entries. -/
def Recorder.putDump (slot : Nat) (d : Dump) (r : Recorder) : Recorder :=
  let cut := fun o : Option Dump => if d.extends_ then o.map (fun x => if x.extends_ then { x with incomplete := true, extends_ := false } else x) else o
  { r with
    dump0 := if slot = 0 then some d else cut r.dump0
    dump1 := if slot = 0 then cut r.dump1 else some d
    truncated := r.truncated || d.extends_
    trace := if d.extends_ then r.trace.drop ((d.bytes - 29360128) / 32 - (262144 - r.trace.length)) else r.trace
    dumpDue := some slot }

/-- A ring's descriptor as 128 bits (R144, chapter 4 Table 3). -/
def Ring.descriptor (r : Ring) : Nat :=
  r.base + 2 ^ 14 * r.size + 2 ^ 20 * r.wr + 2 ^ 32 * r.wrWrap.toNat + 2 ^ 33 * r.rd + 2 ^ 45 * r.rdWrap.toNat + 2 ^ 46 * r.msgs +
    2 ^ 59 * r.sendBlocked.toNat + 2 ^ 64 * r.taken + 2 ^ 80 * Nat.min 0xFFFF r.refused

/-- A token's tag as 11 bits (R93, chapter 3 Table 3). -/
def Token.tag (k : Token) : Nat := k.beat % 16 + 16 * (k.fold % 8) + 128 * (k.epoch % 4) + 512 * k.valid.toNat + 1024 * k.last.toNat

/-- What a dump shows of a tile: its ring descriptors, and the tags of the tokens in its channel queues (R93, R144, R453). -/
def Tile.shown (t : Tile) : List Nat × List Nat :=
  (t.rings.map Ring.descriptor, (t.channels.map (fun c => (c.2.filter (·.queued)).map (·.token.tag))).flatten)

/-- The dump of this state for a slot: a dump of more than 28 MiB extends into the trace ring, unless the other slot's dump holds a part of
it and is mapped; then the sections beyond 28 MiB are dropped (R453). -/
def newDump (cause : Cond) (fatal : Bool) (slot : Nat) (s : State) : Dump :=
  let full := 4096 + ((dumpSections s).map (·.2)).sum
  let want := decide (full > 29360128)
  let other := if slot = 0 then s.evt.dump1 else s.evt.dump0
  let keep := (match other with | some d => d.extends_ | none => false) && s.slotMapped (1 - slot)
  let ext := want && !keep
  { cause := Cond.code cause, causeSeq := s.evt.headSeq, snapTick := s.time.tick, bootSerial := s.nor.bootSerial,
    bytes := Nat.min full (if ext then 37748736 else 29360128), extends_ := ext, fatal := fatal, incomplete := want && keep,
    sections := if want && keep then sectionsWithin (29360128 - 4096) (dumpSections s) else dumpSections s,
    free := s.freeCtr, dir := s.pairedEntries, slices := s.mem.slices, regions := s.clk.regions,
    tiles := s.tiles.map (fun x => (x.1, x.2.shown)) }

/-- Capture the control state into a hub dump slot and record DUMP_CAPTURED (R361 step 5, R453). -/
def captureDump (cause : Cond) (fatal : Bool) (s : State) : State :=
  let slot := captureSlot s
  let s := if s.evt.persisting = some slot then
      record (Raise.of .dumpPersistAbandoned .device slot 0 0 0) { s with evt := { s.evt with persisting := none } }
    else s
  let s := record (Raise.of .dumpCaptured .device (Cond.code cause) slot s.time.tick 0) s
  { s with evt := s.evt.putDump slot (newDump cause fatal slot s), freeCtr := s.freeCtr + 1 }

/-- What the wipe leaves of the memory's bookkeeping: rows and their marks outlive it (R243, R361 step 6). -/
def wipeMem (m : Mem) : Mem :=
  { rowErrors := m.rowErrors, markedRows := m.markedRows, softRepairs := m.softRepairs, ueNow := m.ueNow, uePast := m.uePast,
    counts := m.counts, withheld := m.withheld, fastRefresh := m.fastRefresh, hbmWeights := m.hbmWeights, hbmWeightsShadow := m.hbmWeightsShadow }

/-- New key pairs for every stack and every configured channel, drawn from the generator under the next generation number (R245). -/
def Secrets.newMemKeys (n : Nor) (x : Secrets) : Secrets :=
  { x with memKeys := (List.range 16 ++ n.channels.map (16 + ·)).map (·, x.memKeyGen + 1), memKeyGen := x.memKeyGen + 1 }

/-- Step 6 of R361: new keys erase external memory, and pads, slices, rings and the directory are written to zero. -/
def wipe (s : State) : State := { s with tiles := [], mem := wipeMem s.mem, sec := s.sec.newMemKeys s.nor }

/-- The attempt in progress is abandoned without commit (R85, R361). -/
def abandonAttempt (s : State) : State :=
  { s with att := { s.att with running := false, admitted := [], provisional := [], parts := [], cur := false,
                               lost := if s.inAttempt then some (s.att.serial, match s.job with | some j => j.localTick | none => 0) else s.att.lost,
                               finished := [], raised := [], failed := false, broadcast := false, split := false, failures := 0, replayNoted := false,
                               reports := [], cycles := [] } }

/-- Steps 1 to 4 of R361: compute starts nothing more, and outbound staging is emptied unsent. -/
def fenceCompute (s : State) : State :=
  let s := abandonAttempt s
  { s with dev := { s.dev with fenced := true }, mem := { s.mem with outbound := [], migrations := [] }, coll := [] }

/-- The fence of R361, with a dump for the causes of step 5. -/
def fence (dump : Option (Cond × Bool)) (s : State) : State :=
  let s := match dump with
    | some (c, fatal) => captureDump c fatal s
    | none => s
  wipe (fenceCompute s)

/-- Job state is dropped (R9, R17, R363 Table 7): the job and the loaded image. -/
def dropJob (s : State) : State :=
  { s with job := none, dev := { s.dev with imageLoaded := none, imageRaw := [] },
           att := { s.att with slip := 0, slips := [], phase := .commit } }

/-- Answer a mailbox (R323): status, DETAIL, TICK_DONE, then OWNER returns to the host. The completion record and the
interrupt follow (`complete` in Operands). -/
def answerFields (status detail respLen : Nat) (local_ : Bool) (tickDone : Nat) (m : Mailbox) : Mailbox :=
  { m with owner := false, wait := none, status := BitVec.ofNat 16 status, detail := BitVec.ofNat 32 detail,
           respLen := BitVec.ofNat 16 respLen, doneLocal := local_, tickDone := BitVec.ofNat 64 tickDone }

/-- A completion record (R352 Table 18), 32 bytes. -/
def completionRecord (mb : Nat) (phase : Bool) (m : Mailbox) : List Byte :=
  leBytes 2 m.seq.toNat ++ leBytes 2 m.cmd.toNat ++
    leBytes 2 (mb % 16 + (if phase then 16 else 0) + (if m.doneLocal then 32 else 0)) ++ leBytes 2 m.status.toNat ++
    leBytes 8 m.tickTaken.toNat ++ leBytes 8 m.tickDone.toNat ++ leBytes 4 m.detail.toNat ++ leBytes 4 0

/-- The completion ring is enabled (R352). -/
def HostLink.ringOn (h : HostLink) : Bool := decide (h.crEntries ≠ 0) && !h.ringError

/-- Records written and not consumed (R352). -/
def HostLink.unconsumed (h : HostLink) : Nat := (h.crTail.toNat + h.crEntries.toNat - h.crHead.toNat) % h.crEntries.toNat

/-- The function may send writes: Bus Master Enable is set and it is in D0 (R318). -/
def HostLink.mayWrite (h : HostLink) : Bool := h.busMaster && h.dState == 0

/-- A posted write: sent in order, or held while the function may not send (R318, R352). -/
def HostLink.send (w : HostWrite) (h : HostLink) : HostLink :=
  if h.mayWrite then { h with sent := h.sent ++ [w] } else { h with writesHeld := h.writesHeld ++ [w] }

/-- What was held leaves when the function may send again (R318). -/
def HostLink.flush (h : HostLink) : HostLink :=
  if h.mayWrite then { h with sent := h.sent ++ h.writesHeld, writesHeld := [], msix := h.msix ++ h.msixHeld, msixHeld := [] } else h

/-- A record goes to the slot CR_TAIL names, CR_TAIL advances, and the phase turns when it wraps (R352). -/
def HostLink.post (mb : Nat) (m : Mailbox) (h : HostLink) : HostLink :=
  let n := (h.crTail.toNat + 1) % h.crEntries.toNat
  { HostLink.send { addr := h.crBase + BitVec.ofNat 64 (32 * h.crTail.toNat), bytes := completionRecord mb h.crPhase m } h with
    crTail := BitVec.ofNat 32 n
    crPhase := if n = 0 then !h.crPhase else h.crPhase }

/-- Post the completion record of an answered mailbox, or drop it and set OVERFLOW (R352). -/
def postRecord (mb : Nat) (s : State) : State :=
  let m := s.mailbox mb
  if s.host.unconsumed + 1 ≥ s.host.crEntries.toNat then { s with host := { s.host with overflow := true } }
  else
    let s := { s with host := s.host.post mb m }
    if m.interrupt then
      let k := s.host.coalescing + 1
      if k ≥ s.host.coalCount.toNat || s.host.coalUs.toNat = 0 then irq 16 { s with host := { s.host with coalescing := 0 } }
      else { s with host := { s.host with coalescing := k } }
    else s

/-- The completion record or the interrupt of an answered command (R352, Table 19). -/
def notify (mb : Nat) (s : State) : State :=
  let m := s.mailbox mb
  if m.completion then (if s.host.ringOn then postRecord mb s else irq (mb % 16) s)
  else if m.interrupt then irq (mb % 16) s
  else s

/-- Answer the command in a mailbox whose effect is not published by a commit of the job (R327). -/
def answer (mb status detail : Nat) (s : State) : State :=
  notify mb (s.onMailbox mb (answerFields status detail 0 false s.time.tick))

/-- Answer with a response payload written into the payload area (R322, R323). -/
def respond (mb : Nat) (bytes : List Byte) (s : State) : State :=
  let s := s.onMailbox mb (fun m => { m with payload := Memory.writeBytes [] 0 (bytes.take 4032) })
  notify mb (s.onMailbox mb (answerFields 0 0 (bytes.take 4032).length false s.time.tick))

/-- Answer with TICK_DONE a local tick index (R327). -/
def answerLocal (mb status : Nat) (tick : Nat) (s : State) : State :=
  notify mb (s.onMailbox mb (answerFields status 0 0 true tick))

/-- Status codes of R325 Table 5. -/
abbrev stOk : Nat := 0
abbrev stBusy : Nat := 1
abbrev stBadArg : Nat := 2
abbrev stBadState : Nat := 3
abbrev stNoSpace : Nat := 4
abbrev stAuthFail : Nat := 5
abbrev stNotSupported : Nat := 6
abbrev stFailed : Nat := 7
abbrev stTimeout : Nat := 8
abbrev stFenced : Nat := 9

/-- Commands in progress that a compute reset cuts off (R328), by command code: those whose work depends on the job, and a
LOAD_IMAGE, whose image the reset discards (R25; notes/assumptions/22.md). -/
def jobCommand (cmd : Nat) : Bool := [0x20, 0x22, 0x23, 0x24, 0x30, 0x31, 0x32, 0x34, 0x42, 0x43, 0x50].contains cmd

/-- Answer FENCED to every command in progress whose work depends on the job (R328, R330, R373). -/
def fenceCommands (s : State) : State :=
  each (fun mb s =>
      let m := s.mailbox mb
      if m.wait.isSome && jobCommand m.cmd.toNat then answer mb stFenced 0 s else s)
    (List.range 16) s

/-- Region oscillators stop after the wipe of FATAL evidence and in HALTED; FREQ_MHZ then reads 0 (R392). -/
def stopOscillators (s : State) : State := { s with clk := { s.clk with mhz := 0, pendingMhz := none } }

/-- A crumb check is abandoned: the retirements it has decided stay decided (R373, R375). -/
def dropCrumb (s : State) : State :=
  match s.tests.crumb with
  | none => s
  | some c => { s with tests := { s.tests with crumb := none, retiring := s.tests.retiring ++ c.retired.map (·, Cond.crumbMismatch) } }

/-- REQUALIFY fails at the step it has reached: answered FAILED with that step's code. One taken in TRANSIT leaves the domain
fenced and its oscillators stopped (R366, R376, R377, R392). -/
def failRequalify (s : State) : State :=
  match s.tests.requalify with
  | none => s
  | some (mb, step, inTransit) =>
    let s := dropCrumb { s with tests := { s.tests with requalify := none } }
    let s := if inTransit then stopOscillators { s with dev := { s.dev with fenced := true } } else s
    answer mb stFailed step s

/-- STOP_JOB and RESET_COMPUTE wait for a STANDBY that will not come: answered FAILED with the condition's code
(notes/assumptions/22.md). -/
def failResets (c : Cond) (s : State) : State :=
  each (fun mb s =>
      let m := s.mailbox mb
      if decide (m.wait = some .state) && (m.cmd == 0x33 || m.cmd == 0x70) then answer mb stFailed (Cond.code c) s else s)
    (List.range 16) s

/-- Commands in progress at the entry of HALTED, GET_DUMP apart, are cut off: a SHUTDOWN as FAILED, the others as FENCED
(R325 Table 5; notes/assumptions/22.md). -/
def haltCommands (s : State) : State :=
  each (fun mb s =>
      let m := s.mailbox mb
      if m.wait.isSome && m.cmd ≠ 0x63 then answer mb (if m.cmd = 0x71 then stFailed else stFenced) 0 s else s)
    (List.range 16) s

/-- What a compute reset does once the domain is fenced and wiped (R361 Table 6): TRANSIT with RESET_BUSY, and the soft repairs
of R243. -/
def startReset (mailbox : Option Nat) (s : State) : State :=
  let s := dropCrumb (dropJob s)
  let repaired := s.mem.markedRows
  let s := each repairRow repaired s
  let s := { s with
    mem := { s.mem with markedRows := [], softRepairs := s.mem.softRepairs ++ repaired, withheld := [],
                        uePast := s.mem.uePast ++ s.mem.ueNow.map (·, s.time.now), ueNow := [] }
    clk := { s.clk with regions := s.clk.regions.map (fun r => (r.1, { r.2 with strDroop := 0, strTherm := 0, strLimit := 0, limitPart := 0 })) }
    tests := { s.tests with rotate := false,
                            reset := some { mailbox := mailbox, contains := 0, fatal := false, retire := s.tests.retiring }, retiring := [] }
    dev := { s.dev with resetBusy := true } }
  setDev .transit s

/-- A compute reset begins: fence, job commands answered FENCED, wipe (R328, R361). It ends in COMPUTE_RESET_COMPLETE. -/
def beginReset (mailbox : Option Nat) (dump : Option Cond) (s : State) : State :=
  startReset mailbox (fenceCommands (fence (dump.map (·, false)) s))

/-- FATAL evidence with the fabric path intact: fence, dump, wipe, TRANSIT (R8, R354, R366). -/
def fatalTransit (c : Cond) (s : State) : State :=
  let s := fence (some (c, true)) s
  let s := dropCrumb (dropJob (fenceCommands s))
  let s := stopOscillators s
  let s := { s with dev := { s.dev with resetBusy := s.dev.restarting, fatalTransit := true }, tests := { s.tests with reset := none } }
  setDev .transit s

/-- Entering HALTED (R367): fence, wipe, transmitters off, forwarding stops. -/
def enterHalted (dump : Option (Cond × Bool)) (s : State) : State :=
  let s := fence dump s
  let s := dropJob (haltCommands s)
  let s := stopOscillators s
  let s := { s with dev := { s.dev with transmitters := false, forwarding := false, resetBusy := false, startStep := 0 },
                    fab := { s.fab with ports := s.fab.ports.map (fun p => (p.1, { p.2 with state := .down })) },
                    tests := { s.tests with reset := none, crumb := none, moves := [], shutdown := none, requalify := none } }
  setDev .halted s

/-- Conditions that break the fabric path (R289, R404). Sources of THERM_TRIP and SENSOR_FAIL decide by die. -/
def breaksPath (r : Raise) : Bool :=
  match r.cond with
  | .fabricPathFail => true
  | .thermTrip => match r.src with
    | .die i => decide (8 ≤ i)
    | _ => false
  | _ => false

/-- A raising of class CONTAIN (R354, R355, R362). -/
def containEffect (r : Raise) (s : State) : State :=
  match s.dev.state with
  | .standby | .ready => beginReset none (some r.cond) (failRequalify s)
  | .transit =>
    match s.tests.reset with
    | none => failRequalify s
    | some run =>
      if run.contains + 1 ≥ 3 then
        fatalTransit .resetFail (failResets .resetFail (failRequalify (record (Raise.of .resetFail .device 0 0 0 0) s)))
      else wipe { s with tests := { s.tests with reset := some { run with contains := run.contains + 1 } } }
  | _ => s

/-- A raising of class FATAL (R354, R355, R362). DESIGN CHOICE (notes/assumptions/77.md): in STARTING one that breaks the fabric path is recorded
only, as R355 says, where R8 Table 4 has any powered state enter HALTED. -/
def fatalEffect (r : Raise) (s : State) : State :=
  let s := if decide (s.dev.state = .off ∨ s.dev.state = .starting ∨ s.dev.state = .halted) then s else failRequalify s
  match s.dev.state with
  | .standby | .ready | .running =>
    if breaksPath r then enterHalted (some (r.cond, true)) s else fatalTransit r.cond s
  | .transit =>
    if breaksPath r then enterHalted none s
    else
      let s := failResets r.cond s
      { s with tests := { s.tests with reset := none }
               dev := { s.dev with fatalTransit := true, resetBusy := s.dev.restarting || s.tests.shutdown.isSome } }
  | _ => s

/-- A raising of class RETIRE marks the tile for the next boundary, or within a compute reset in progress (R354, R355, R362). -/
def retireEffect (r : Raise) (s : State) : State :=
  match r.src with
  | .tile p =>
    match s.dev.state with
    | .standby | .ready | .running | .transit =>
      match s.tests.reset with
      | some run => { s with tests := { s.tests with reset := some { run with retire := run.retire ++ [(p, r.cond)] } } }
      | none => if s.tests.retiring.any (·.1 == p) then s else { s with tests := { s.tests with retiring := s.tests.retiring ++ [(p, r.cond)] } }
    | _ => s
  | _ => s

/-- TICK_REPLAY of the attempt in progress (R74, R444 Task form): it names no task (notes/assumptions/9.md). -/
def tickReplay (s : State) : Raise :=
  let step := match s.job with | some j => j.step | none => 0
  let local_ := match s.job with | some j => j.localTick | none => 0
  Raise.of .tickReplay .device (step * 2 ^ 24) s.att.serial local_ 0

/-- A discard that will be replayed is recorded once (R74): at the condition that marks the attempt before its margin, unless a
JOB or CONTAIN condition is among those raised or it is the third failure in a row (R77). -/
def noteReplay (r : Raise) (s : State) : State :=
  if decide (r.cls = .replay) && !s.att.replayNoted && decide (s.att.failures < 2)
      && !s.att.raised.any (fun x => decide (x.cls = .job) || decide (x.cls = .contain)) then
    let s := { s with att := { s.att with replayNoted := true } }
    record (tickReplay s) s
  else s

/-- An attempt with a REPLAY, JOB or CONTAIN condition before its margin is marked failed (R72, R75), save that
SCALE_EXHAUSTED is marked at the boundary only (R179). -/
def markFailed (r : Raise) (s : State) : State :=
  if s.inAttempt && decide (s.att.phase ≠ .margin) && decide (r.cond ≠ .scaleExhausted) then
    noteReplay r { s with att := { s.att with failed := true, provisional := [], split := s.att.split || decide (r.cond = .versionSpace) } }
  else { s with att := { s.att with split := s.att.split || (s.inAttempt && decide (r.cond = .versionSpace)) } }

/-- The effect of a raising's class (R354 Table 1, R355). -/
def classEffect (r : Raise) (s : State) : State :=
  match r.cls with
  | .note => s
  | .replay => markFailed r s
  | .job => markFailed r s
  | .retire => retireEffect r s
  | .contain => if s.inAttempt then markFailed r s else containEffect r s
  | .fatal => fatalEffect r s

/-- A condition is raised at the hub: recorded, and its class takes effect (R354, R359, R443). -/
def raise (r : Raise) (s : State) : State := classEffect r (record r s)

/-- A tile's detection becomes a report on its way to the hub over the stake network, class 1 (R233 Table 3). -/
def report (r : Raise) (s : State) : State := { s with att := { s.att with reports := s.att.reports ++ [r] } }

/-- Payload words of the Task form (R444 Table 2) for the task on a tile. -/
def taskRaise (c : Cond) (p task value : Nat) (s : State) : Raise :=
  let step := match s.job with | some j => j.step | none => 0
  let local_ := match s.job with | some j => j.localTick | none => 0
  Raise.of c (.tile p) (task % 2 ^ 24 + step * 2 ^ 24) s.att.serial local_ value

/-- One fault of a kind that repeats: REPEAT_FAULT at the second strike within 1,000 fabric ticks (R128, R356). -/
def strikeRepeats (c : Cond) (p : Nat) (s : State) : Bool :=
  match look? (p, c) s.tests.struck with
  | some t => decide (s.time.tick ≤ t + 1000)
  | none => false

/-- A condition whose repeats retire a tile (R128, R356). -/
def repeats (c : Cond) : Bool := [Cond.steerSkew, .schedDeviation, .padParity, .sliceParity].contains c

/-- A condition is raised at the hub, a strike on a tile counted: REPEAT_FAULT is raised beside the second within 1,000 fabric ticks, and beside
DRAIN_TIMEOUT at once (R120, R128, R356). -/
def raiseStrike (r : Raise) (s : State) : State :=
  let s1 := raise r s
  match r.src with
  | .tile p =>
    if repeats r.cond then
      let s2 := { s1 with tests := { s1.tests with struck := put (p, r.cond) s.time.tick s1.tests.struck } }
      if strikeRepeats r.cond p s then raise (taskRaise .repeatFault p 0 (Cond.code r.cond) s2) s2 else s2
    else if r.cond = Cond.drainTimeout then raise (taskRaise .repeatFault p 0 (Cond.code r.cond) s1) s1
    else s1
  | _ => s1

/-- A report reaches the hub, which records it (R75, R120, R128, R233, R356). -/
def receiveReport (r : Raise) (s : State) : State := raiseStrike r s

/-! ## The shared arbiter (R360) -/

/-- The first of some requesters at or after a pointer, the lowest where none is. -/
def firstFrom (pointer : Nat) (req : List Nat) : Option Nat :=
  match (req.filter (fun r => decide (pointer ≤ r))).min? with
  | some r => some r
  | none => req.min?

/-- What a requester has left of its credits (R360 step 3). -/
def Arbiter.credit (weight : Nat → Nat) (a : Arbiter) (r : Nat) : Nat := weight r - look 0 r a.spent

/-- A requester wins: its losses end and it holds the grant; the others that requested lose (R360). -/
def Arbiter.win (w : Nat) (req : List Nat) (a : Arbiter) : Arbiter :=
  { a with losses := each (fun r l => put r (look 0 r l + 1) l) (req.filter (fun r => decide (r ≠ w))) (del w a.losses), holder := some w }

/-- Steps 3 to 5 of R360 among the eligible requesters of a cycle, none of which asserts priority. -/
def Arbiter.pick (weight : Nat → Nat) (req : List Nat) (a : Arbiter) : Option Nat × Arbiter :=
  let weighed := req.filter (fun r => decide (weight r ≠ 0))
  let rich := weighed.filter (fun r => decide (0 < a.credit weight r))
  let a1 := if rich.isEmpty then { a with spent := [] } else a
  match firstFrom a.pointer (if rich.isEmpty then weighed else rich) with
  | some w => (some w, { a1 with spent := put w (look 0 w a1.spent + 1) a1.spent, pointer := w + 1 })
  | none => match firstFrom a.pointer req with
    | some w => (some w, { a with pointer := w + 1 })
    | none => (none, a)

/-- One decision of a shared arbiter (R360): a requester that asserts priority wins ahead of every other; the requesters given are those that
request in the cycle, are not masked and do not back off. -/
def Arbiter.arbitrate (weight : Nat → Nat) (priority : Nat → Bool) (req : List Nat) (a : Arbiter) : Option Nat × Arbiter :=
  match req.find? priority with
  | some w => (some w, a.win w req)
  | none => match a.pick weight req with
    | (some w, a) => (some w, a.win w req)
    | (none, a) => (none, a)

/-- The cycles a loser backs off: 2^n for n losses in a row, at most the site's cap (R150, R360). -/
def Arbiter.backOff (cap : Nat) (a : Arbiter) (r : Nat) : Nat := Nat.min cap (2 ^ look 0 r a.losses)

/-- The holder's break point, or its cut-off: the grant ends (R360). -/
def Arbiter.release (a : Arbiter) : Arbiter := { a with holder := none }

end Sys2Proof.Machine
end

