-- ==== Sys2Proof/Machine/Numerics.lean ====
section
/-! DEFINITION. The formats, the counter hash, stochastic rounding and exact arithmetic of chapter 5 (R155 to R170,
R484). Exact values are dyadic numbers, so every sum and product before a rounding is exact. -/

namespace Sys2Proof.Machine

/-! ## Formats (chapter 1 Table 9, chapter 5 Tables 1 to 3) -/

/-- How a format's codes are read. -/
inductive FmtKind where
  | raw | float | int
  deriving DecidableEq, Repr

/-- A format: storage bits, exponent and mantissa bits, bias (an integer format's elements are counts of 2^-bias), and
whether it has a sign, infinities and NaNs. -/
structure Fmt where
  kind : FmtKind
  bits : Nat
  ebits : Nat
  mbits : Nat
  bias : Nat
  signed : Bool
  hasInf : Bool
  hasNan : Bool
  deriving DecidableEq, Repr

/-- The format of a code (R42 Table 9, R156, R158). RAW is held as 16-bit lanes. -/
def fmtOf (code : Nat) : Fmt :=
  match code with
  | 1 => ⟨.float, 16, 8, 7, 127, true, true, true⟩
  | 2 => ⟨.float, 16, 5, 10, 15, true, true, true⟩
  | 3 => ⟨.float, 16, 6, 9, 31, true, true, true⟩
  | 4 => ⟨.float, 16, 7, 9, 63, false, true, true⟩
  | 5 => ⟨.int, 8, 0, 7, 0, true, false, false⟩
  | 6 => ⟨.float, 8, 4, 3, 7, true, false, true⟩
  | 7 => ⟨.float, 8, 5, 2, 15, true, true, true⟩
  | 8 => ⟨.float, 8, 3, 2, 3, true, false, false⟩
  | 9 => ⟨.float, 8, 2, 3, 1, true, false, false⟩
  | 10 => ⟨.float, 4, 2, 1, 1, true, false, false⟩
  | 11 => ⟨.float, 8, 4, 3, 7, true, false, true⟩
  | 12 => ⟨.float, 8, 5, 2, 15, true, true, true⟩
  | 13 => ⟨.float, 8, 3, 2, 3, true, false, false⟩
  | 14 => ⟨.float, 8, 2, 3, 1, true, false, false⟩
  | 15 => ⟨.float, 4, 2, 1, 1, true, false, false⟩
  | 16 => ⟨.int, 8, 0, 7, 6, true, false, false⟩
  | _ => ⟨.raw, 16, 0, 16, 0, false, false, false⟩

/-- Codes 6 to 10: tray-scaled (R43). -/
def isTray (f : Nat) : Bool := decide (6 ≤ f) && decide (f ≤ 10)

/-- Codes 11 to 16: MX (R161). -/
def isMx (f : Nat) : Bool := decide (11 ≤ f) && decide (f ≤ 16)

/-- Codes 1 to 4: the 16-bit floating formats (R156). -/
def isFloat16 (f : Nat) : Bool := decide (1 ≤ f) && decide (f ≤ 4)

/-- The format that a matrix or vector record's output values take (R170). -/
def outFmt (n : Numeric) : Nat := if isTray n.format || isMx n.format then (if n.bf16 then 1 else 3) else n.format

/-- Elements of a format in 64 bytes. -/
def perToken (f : Nat) : Nat := 512 / (fmtOf f).bits

/-- The largest finite magnitude code of a floating format (Tables 2 and 3). -/
def Fmt.top (fm : Fmt) : Nat :=
  if fm.hasInf then (2 ^ fm.ebits - 1) * 2 ^ fm.mbits - 1
  else if fm.hasNan then 2 ^ (fm.ebits + fm.mbits) - 2
  else 2 ^ (fm.ebits + fm.mbits) - 1

/-- The magnitude an integer or floating target saturates at (R157, R159): INT8 reaches -128, MXINT8 stays symmetric. -/
def Fmt.limit (fm : Fmt) (neg : Bool) : Nat :=
  match fm.kind with
  | .float => fm.top
  | _ => if neg && fm.bias == 0 then 128 else 127

/-- The canonical NaN code (R157 Table 2, R159). -/
def Fmt.nanCode (fm : Fmt) : Nat :=
  if fm.hasInf then (2 ^ fm.ebits - 1) * 2 ^ fm.mbits + 2 ^ (fm.mbits - 1) else 2 ^ (fm.ebits + fm.mbits) - 1

/-- A magnitude code with a sign. -/
def Fmt.withSign (fm : Fmt) (neg : Bool) (mag : Nat) : Nat :=
  match fm.kind with
  | .float => if neg && fm.signed then mag + 2 ^ (fm.ebits + fm.mbits) else mag
  | _ => if neg then (2 ^ fm.bits - mag) % 2 ^ fm.bits else mag

/-- The value of a magnitude code of a floating format (R156). -/
def Fmt.magnitude (fm : Fmt) (neg : Bool) (mag : Nat) : Exact :=
  let e := mag / 2 ^ fm.mbits
  let m := mag % 2 ^ fm.mbits
  if e = 0 then .fin neg m (1 - (fm.bias : Int) - fm.mbits)
  else .fin neg (2 ^ fm.mbits + m) ((e : Int) - fm.bias - fm.mbits)

/-- The value of a code (R156, R158). -/
def decode (f code : Nat) : Exact :=
  let fm := fmtOf f
  match fm.kind with
  | .raw => .fin false (code % 65536) 0
  | .int =>
    let c := code % 256
    if c < 128 then .fin false c (-(fm.bias : Int)) else .fin true (256 - c) (-(fm.bias : Int))
  | .float =>
    let w := fm.ebits + fm.mbits
    let neg := fm.signed && bit code w
    let mag := code % 2 ^ w
    if fm.hasInf && mag / 2 ^ fm.mbits == 2 ^ fm.ebits - 1 then (if mag % 2 ^ fm.mbits = 0 then .inf neg else .nan)
    else if fm.hasNan && !fm.hasInf && mag == 2 ^ w - 1 then .nan
    else fm.magnitude neg mag

/-! ## Exact arithmetic (R157, R169) -/

/-- Multiply by 2^k. -/
def Exact.scale (x : Exact) (k : Int) : Exact :=
  match x with
  | .fin n m e => .fin n m (e + k)
  | y => y

/-- The opposite (R101 SUB). -/
def Exact.neg (x : Exact) : Exact :=
  match x with
  | .nan => .nan
  | .inf n => .inf (!n)
  | .fin n m e => .fin (!n) m e

/-- The mantissa brought to a lower exponent. -/
def alignTo (m : Nat) (e lo : Int) : Nat := m * 2 ^ (e - lo).toNat

/-- The signed mantissa at a lower exponent. -/
def signedAt (neg : Bool) (m : Nat) (e lo : Int) : Int := if neg then -(alignTo m e lo : Int) else (alignTo m e lo : Int)

/-- Exact sum; an exact zero is +0 unless both terms are -0 (R157). -/
def Exact.add (x y : Exact) : Exact :=
  match x, y with
  | .nan, _ => .nan
  | _, .nan => .nan
  | .inf a, .inf b => if a = b then .inf a else .nan
  | .inf a, .fin _ _ _ => .inf a
  | .fin _ _ _, .inf b => .inf b
  | .fin n1 m1 e1, .fin n2 m2 e2 =>
    let lo := min e1 e2
    let v := signedAt n1 m1 e1 lo + signedAt n2 m2 e2 lo
    if v = 0 then .fin (n1 && n2 && m1 == 0 && m2 == 0) 0 0 else .fin (decide (v < 0)) v.natAbs lo

/-- Exact product; zero times infinity is NaN, and the sign is the xor of the signs (R157). -/
def Exact.mul (x y : Exact) : Exact :=
  match x, y with
  | .nan, _ => .nan
  | _, .nan => .nan
  | .inf a, .inf b => .inf (a != b)
  | .inf a, .fin n m _ => if m = 0 then .nan else .inf (a != n)
  | .fin n m _, .inf b => if m = 0 then .nan else .inf (n != b)
  | .fin n1 m1 e1, .fin n2 m2 e2 => .fin (n1 != n2) (m1 * m2) (e1 + e2)

/-- A sum to which no term may have been added yet (R157: the start of a chain and an empty ACCUM are no terms). -/
def addTerm (acc : Option Exact) (x : Exact) : Option Exact :=
  match acc with
  | none => some x
  | some a => some (a.add x)

/-- a < b, a = b or a > b of two values that are no NaN; zeros of both signs are equal (chapter 5 Table 6). -/
def Exact.cmp (x y : Exact) : Ordering :=
  match x, y with
  | .inf a, .inf b => if a = b then .eq else if a then .lt else .gt
  | .inf a, _ => if a then .lt else .gt
  | _, .inf b => if b then .gt else .lt
  | .fin n1 m1 e1, .fin n2 m2 e2 => compare (signedAt n1 m1 e1 (min e1 e2)) (signedAt n2 m2 e2 (min e1 e2))
  | _, _ => .eq

def Exact.isNan (x : Exact) : Bool :=
  match x with
  | .nan => true
  | _ => false

def Exact.isZero (x : Exact) : Bool :=
  match x with
  | .fin _ m _ => m == 0
  | _ => false

def Exact.isNeg (x : Exact) : Bool :=
  match x with
  | .fin n _ _ => n
  | .inf n => n
  | .nan => false

/-- MIN and MAX (chapter 5 Table 6): a NaN gives NaN; of two zeros MIN prefers -0 and MAX +0. -/
def minMax (wantMax : Bool) (x y : Exact) : Exact :=
  if x.isNan || y.isNan then .nan
  else if x.isZero && y.isZero then
    (if wantMax then .fin (x.isNeg && y.isNeg) 0 0 else .fin (x.isNeg || y.isNeg) 0 0)
  else match x.cmp y, wantMax with
    | .lt, true => y
    | .gt, false => y
    | _, _ => x

/-- CMP (R479): 0 equal, 1 less, otherwise less or equal; false with a NaN. -/
def compareLanes (option : Nat) (x y : Exact) : Bool :=
  if x.isNan || y.isNan then false
  else match option, x.cmp y with
    | 0, .eq => true
    | 0, _ => false
    | 1, .lt => true
    | 1, _ => false
    | _, .gt => false
    | _, _ => true

/-! ## The counter hash and the rounding (R164 to R167) -/

/-- mix of R164. -/
def mix (z : Nat) : Nat :=
  let z := z ^^^ (z / 2 ^ 32)
  let z := z * 0x9F3B5A17C4E26D8B % 2 ^ 64
  z ^^^ (z / 2 ^ 29)

/-- The Lamell counter hash (R164). -/
def counterHash (seed tensor draw element step : Nat) : Nat :=
  let z := (seed % 2 ^ 64) ^^^ ((step % 2 ^ 32) * 2 ^ 32) ^^^ ((draw % 65536) * 65536) ^^^ (tensor % 65536) ^^^ 0x5EED1A3C0B7D2F91
  mix (mix z ^^^ (element % 2 ^ 64))

/-- What a rounding met: nothing, a saturation, a NaN, a nonzero value that became zero, or a value past the range
where saturation is not taken (R157, R159, R178, R179, R181). -/
inductive Mark where
  | plain | sat | nan | underflow | overflow
  deriving DecidableEq, Repr

/-- The code of the representable value next below a magnitude, and floor(4096 × distance / spacing) (R167). -/
def grid (fm : Fmt) (m : Nat) (e : Int) : Nat × Nat :=
  match fm.kind with
  | .float =>
    let ex : Int := max (e + Nat.log2 m) (1 - (fm.bias : Int))
    let st : Int := ex - fm.mbits
    let up := (e - st).toNat
    let dn := (st - e).toNat
    ((ex + fm.bias - 1).toNat * 2 ^ fm.mbits + m * 2 ^ up / 2 ^ dn, 4096 * (m * 2 ^ up % 2 ^ dn) / 2 ^ dn)
  | _ =>
    let st : Int := -(fm.bias : Int)
    let up := (e - st).toNat
    let dn := (st - e).toNat
    (m * 2 ^ up / 2 ^ dn, 4096 * (m * 2 ^ up % 2 ^ dn) / 2 ^ dn)

/-- Stochastic rounding of an exact value into a format with the random bits `u` (R167), with the special values of
R157 and R159. With `saturate` false a value past the range is marked `overflow` and left at the limit (R178, R179). -/
def roundSr (f : Nat) (saturate : Bool) (u : Nat) (x : Exact) : Nat × Mark :=
  let fm := fmtOf f
  match x with
  | .nan => if fm.hasNan then (fm.nanCode, .nan) else (0, .nan)
  | .inf n =>
    if n && !fm.signed then (0, .sat)
    else if fm.hasInf then (fm.withSign n ((2 ^ fm.ebits - 1) * 2 ^ fm.mbits), .plain)
    else (fm.withSign n (fm.limit n), .sat)
  | .fin n m e =>
    if n && !fm.signed then (0, if m = 0 then .plain else .sat)
    else if m = 0 then (fm.withSign n 0, .plain)
    else
      let g := grid fm m e
      let c := if g.2 + u % 4096 ≥ 4096 then g.1 + 1 else g.1
      if c > fm.limit n then (fm.withSign n (fm.limit n), if saturate then .sat else .overflow)
      else (fm.withSign n c, if c = 0 then .underflow else .plain)

/-! ## EXP2, LOG2, RCP and RSQRT (R484 stage 1) -/

/-- A positive number m × 2^e to the nearest number of 24 significant bits, ties to even. -/
def snap24 (m : Nat) (e : Int) : Nat × Int :=
  let l := Nat.log2 m
  if l < 24 then (m, e)
  else
    let d := l - 23
    let q := m / 2 ^ d
    let r := m % 2 ^ d
    let q := if 2 * r > 2 ^ d || (2 * r == 2 ^ d && q % 2 == 1) then q + 1 else q
    (q, e + d)

/-- floor(ln 2 × 2^256). -/
def ln2Fixed : Nat := 80260960185991308862233904206310070533990667611589946606122867505419956976171

/-- The sum of n further terms of the exponential series, the term before them given; 256 fraction bits. -/
def expTerms (x : Nat) : Nat → Nat → Nat → Nat
  | 0, _, _ => 0
  | n + 1, i, t =>
    let t' := t * x / 2 ^ 256 / i
    t' + expTerms x n (i + 1) t'

/-- n binary digits of log2 of a number in [1, 2), the number and the result with 256 and n fraction bits. -/
def logDigits : Nat → Nat → Nat → Nat
  | 0, _, acc => acc
  | n + 1, y, acc =>
    let y2 := y * y / 2 ^ 256
    if y2 ≥ 2 ^ 257 then logDigits n (y2 / 2) (2 * acc + 1) else logDigits n y2 (2 * acc)

/-- The largest number below 2^b whose square times m is at most t. -/
def rootDigits (m t : Nat) : Nat → Nat → Nat
  | 0, s => s
  | b + 1, s => if (s + 2 ^ b) * (s + 2 ^ b) * m ≤ t then rootDigits m t b (s + 2 ^ b) else rootDigits m t b s

/-- 2^a to 24 significant bits (R484). Beyond magnitude 1,100 every format has overflowed or underflowed. -/
def exp2 (x : Exact) : Exact :=
  match x with
  | .nan => .nan
  | .inf n => if n then .fin false 0 0 else .inf false
  | .fin n m e =>
    let big := alignTo m e (min e 0) ≥ 1100 * 2 ^ (-(min e 0)).toNat
    if big then .fin false 1 (if n then -1100 else 1100)
    else
      let v := signedAt n m e (min e 0)
      let p : Nat := 2 ^ (-(min e 0)).toNat
      let whole := v / p
      let frac := (v % p).toNat * 2 ^ 256 / p
      if frac = 0 then .fin false 1 whole
      else
        let r := 2 ^ 256 + expTerms (frac * ln2Fixed / 2 ^ 256) 80 1 (2 ^ 256)
        let q := snap24 r (whole - 256)
        .fin false q.1 q.2

/-- log2 a to 24 significant bits (R157, R484). -/
def log2 (x : Exact) : Exact :=
  match x with
  | .nan => .nan
  | .inf n => if n then .nan else .inf false
  | .fin n m e =>
    if m = 0 then .inf true
    else if n then .nan
    else
      let l := Nat.log2 m
      let ex : Int := e + l
      let frac := logDigits 128 (m * 2 ^ 256 / 2 ^ l) 0
      let v : Int := if m = 2 ^ l then ex * 2 ^ 128 else ex * 2 ^ 128 + frac
      if v = 0 then .fin false 0 0
      else
        let q := snap24 v.natAbs (-128)
        .fin (decide (v < 0)) q.1 q.2

/-- 1/a to 24 significant bits (R157, R484). -/
def rcp (x : Exact) : Exact :=
  match x with
  | .nan => .nan
  | .inf n => .fin n 0 0
  | .fin n m e =>
    if m = 0 then .inf n
    else
      let k := 24 + Nat.log2 m
      let q := 2 ^ k / m
      let r := 2 ^ k % m
      let q := if 2 * r > m || (2 * r == m && q % 2 == 1) then q + 1 else q
      .fin n q (-(k : Int) - e)

/-- 1/√a to 24 significant bits (R157, R484). -/
def rsqrt (x : Exact) : Exact :=
  match x with
  | .nan => .nan
  | .inf n => if n then .nan else .fin false 0 0
  | .fin n m e =>
    if m = 0 then .inf n
    else if n then .nan
    else
      let m := if e % 2 = 0 then m else 2 * m
      let e := if e % 2 = 0 then e else e - 1
      let k := 24 + Nat.log2 m / 2
      let q := rootDigits m (2 ^ (2 * k)) 25 0
      let q := if 4 * 2 ^ (2 * k) ≥ m * (2 * q + 1) * (2 * q + 1) then q + 1 else q
      .fin false q (-(k : Int) - e / 2)

/-! ## Codes and bytes -/

/-- The n-bit fields of a number from the lowest. -/
def fields (w : Nat) : Nat → Nat → List Nat
  | 0, _ => []
  | n + 1, x => x % 2 ^ w :: fields w n (x / 2 ^ w)

/-- The number with these w-bit fields, the lowest first. -/
def ofFields (w : Nat) : List Nat → Nat
  | [] => 0
  | x :: l => x % 2 ^ w + 2 ^ w * ofFields w l

/-- 16-bit lanes of a token's bytes. -/
def lanes16 : List Byte → List Nat
  | a :: b :: l => (a.toNat + 256 * b.toNat) :: lanes16 l
  | _ => []

/-- The bytes of 16-bit lanes. -/
def bytes16 : List Nat → List Byte
  | [] => []
  | x :: l => BitVec.ofNat 8 x :: BitVec.ofNat 8 (x / 256) :: bytes16 l

/-- Nibbles of bytes, the low one first (R158: the even element in bits [3:0]). -/
def nibbles : List Byte → List Nat
  | [] => []
  | b :: l => b.toNat % 16 :: b.toNat / 16 :: nibbles l

/-- The bytes of nibbles. -/
def bytesOfNibbles : List Nat → List Byte
  | a :: b :: l => BitVec.ofNat 8 (a % 16 + 16 * b) :: bytesOfNibbles l
  | [a] => [BitVec.ofNat 8 (a % 16)]
  | [] => []

/-- The element codes in bytes of a format (R138, R158). -/
def codesOf (f : Nat) (b : List Byte) : List Nat :=
  match (fmtOf f).bits with
  | 16 => lanes16 b
  | 8 => b.map (·.toNat)
  | _ => nibbles b

/-- The bytes of element codes of a format; FP6 codes leave bits [7:6] zero (R158). -/
def bytesOf (f : Nat) (c : List Nat) : List Byte :=
  match (fmtOf f).bits with
  | 16 => bytes16 c
  | 8 => c.map (fun x => BitVec.ofNat 8 x)
  | _ => bytesOfNibbles c

/-- The exponent k of an L16 power-of-two scale (R160). -/
def scaleExp (l16 : Nat) : Int := (bits l16 9 6 : Nat) - 31

/-- The L16 code of 2^k (R160). -/
def scaleCode (k : Int) : Nat := (k + 31).toNat * 512

/-- An element of an MX block with scale code E (R161). -/
def mxScale (e : Nat) (x : Exact) : Exact := if e = 255 then .nan else x.scale ((e : Int) - 127)

end Sys2Proof.Machine
end

