-- ==== Sys2Proof/Machine/Schedule.lean ====
section
/-! DEFINITION. The static schedule of a configuration set: when each record fires, and how long the schedule is (R89,
R112, R113, R115). -/

namespace Sys2Proof.Machine

/-- The kinds of unit (R89 Table 1). -/
inductive UnitKind where
  | address | vector | matrix | steering
  deriving DecidableEq, Repr

/-- The kind of unit 8 × row + column (R89). -/
def unitKind (u : Nat) : UnitKind :=
  match u % 8 with
  | 0 => .address
  | 1 => .vector
  | 6 => .vector
  | 7 => .steering
  | _ => .matrix

/-- The accesses of a stream: COUNT0 × COUNT1, none for an unused stream (chapter 3 Table 9). -/
def Pattern.accesses (p : Pattern) : Nat := if p.mode = 0 then 0 else p.count0 * p.count1

/-- Group positions below this serve stream A (R113). -/
def Record.aSlots (r : Record) : Nat := Nat.min r.split r.group

/-- Firing slots among the first `n` whose group position serves stream A, or B (R113). -/
def Record.slotsBefore (r : Record) (streamA : Bool) (n : Nat) : Nat :=
  let a := n / r.group * r.aSlots + Nat.min (n % r.group) r.aSlots
  if streamA then a else n - a

/-- The index, over every firing slot from visit 0, of the slot number `i` that serves stream A, or B (R113). -/
def Record.slotNumber (r : Record) (streamA : Bool) (i : Nat) : Option Nat :=
  let w := if streamA then r.aSlots else r.group - r.aSlots
  if w = 0 then none
  else some (i / w * r.group + (if streamA then 0 else r.aSlots) + i % w)

/-- Mode PULL serves a set operation: which stream an access takes is chosen by the data (R104). -/
def Record.pulls (r : Record) : Bool := r.patA.mode == 15 || r.patB.mode == 15

/-- The accesses of both streams. -/
def Record.accesses (r : Record) : Nat := r.patA.accesses + r.patB.accesses

/-- The access cycles a pattern declares (R108). -/
def Pattern.cycles (p : Pattern) : Nat := 2 ^ p.budget

/-- The cycles an access keeps its stream busy: BUDGET for STRIDED, GATHER, SCATTER and PROBE (R108). -/
def Pattern.busy (p : Pattern) : Nat := if [5, 6, 9, 10, 11].contains p.mode then p.cycles else 1

/-- SPAN of a fold image (R111: the same in every record of it). -/
def ConfigSet.span (cs : ConfigSet) (f : Nat) : Nat := ((cs.folds.getD f []).getD 0 {}).span

/-- The record of a unit in a fold slot. -/
def ConfigSet.record (cs : ConfigSet) (u f : Nat) : Record := (cs.folds.getD f []).getD u {}

/-- The cycles at which the visits of a fold begin within one pass of the fold sequence, and the length of the pass. -/
def foldStarts (cs : ConfigSet) (f : Nat) : List Nat → Nat → List Nat × Nat
  | [], at_ => ([], at_)
  | g :: l, at_ =>
    let r := foldStarts cs f l (at_ + cs.span g)
    (if g = f then at_ :: r.1 else r.1, r.2)

/-- The cycle of firing slot `n` of a record in fold `f`, held cycles apart (R112, R113). -/
def slotCycle (cs : ConfigSet) (f : Nat) (r : Record) (n : Nat) : Option Nat :=
  let st := foldStarts cs f cs.seq 0
  let v := n / r.fireCount
  if st.1.length = 0 || r.fireCount = 0 then none
  else some (v / st.1.length * st.2 + st.1.getD (v % st.1.length) 0 + r.fireStart + n % r.fireCount * r.fireStride)

/-- The first slot of a stream, by its number among the stream's slots: the first visits of the record and of the stream are passed (R113). -/
def Record.firstSlot (r : Record) (streamA : Bool) : Nat :=
  r.slotsBefore streamA (Nat.max r.firstVisit (if streamA then r.patA else r.patB).startVisit * r.fireCount)

/-- The first slot of a stream at or after a schedule cycle, from its `i`-th slot on: `i`, the firing slot and its cycle (R108, R113). A
budget is at most 32 cycles, so 33 slots are enough. -/
def freeSlot (cs : ConfigSet) (f : Nat) (r : Record) (streamA : Bool) (from_ : Nat) : Nat → Nat → Option (Nat × Nat × Nat)
  | 0, _ => none
  | n + 1, i =>
    match r.slotNumber streamA (r.firstSlot streamA + i) with
    | none => none
    | some k => match slotCycle cs f r k with
      | none => none
      | some c => if from_ ≤ c then some (i, k, c) else freeSlot cs f r streamA from_ n (i + 1)

/-- The slot of the next access of a stream (R108, R113). -/
def Record.nextAccess (cs : ConfigSet) (f : Nat) (r : Record) (streamA : Bool) (b : StreamBank) : Option (Nat × Nat × Nat) :=
  if b.access < (if streamA then r.patA else r.patB).accesses then freeSlot cs f r streamA b.busyUntil 33 b.passed else none

/-- A firing's place in the schedule: its cycle and, for an address unit, its stream and its number among the stream's slots. -/
structure Slot where
  cycle : Nat
  streamA : Bool := false
  ordinal : Nat := 0
  deriving DecidableEq, Repr

/-- The next firing of a record (R113); none when it fires no more. -/
def nextSlot (cs : ConfigSet) (u f : Nat) (r : Record) (b : Bank) : Option Slot :=
  if r.fireCount = 0 || (decide (r.fireLimit ≠ 0) && decide (r.fireLimit ≤ b.fired)) then none
  else match unitKind u with
    | .address =>
      if r.pulls then
        if b.fired < r.accesses then
          (slotCycle cs f r (Nat.max r.firstVisit (Nat.max r.patA.startVisit r.patB.startVisit) * r.fireCount + b.fired)).map
            (fun c => { cycle := c, streamA := r.patA.mode == 15 })
        else none
      else match r.nextAccess cs f true b.streamA, r.nextAccess cs f false b.streamB with
        | some x, some y => if x.2.2 < y.2.2 then some { cycle := x.2.2, streamA := true, ordinal := x.1 } else some { cycle := y.2.2, ordinal := y.1 }
        | some x, none => some { cycle := x.2.2, streamA := true, ordinal := x.1 }
        | none, some y => some { cycle := y.2.2, ordinal := y.1 }
        | none, none => none
    | _ => (slotCycle cs f r (r.firstVisit * r.fireCount + b.fired)).map (fun c => { cycle := c })

/-- The cycle of the last of `n` accesses of a stream from its `i`-th slot and a schedule cycle on (R108, R113). -/
def walkAccesses (cs : ConfigSet) (f : Nat) (r : Record) (streamA : Bool) : Nat → Nat → Nat → Option Nat
  | 0, _, _ => none
  | n + 1, i, from_ =>
    match freeSlot cs f r streamA from_ 33 i with
    | none => none
    | some (j, _, c) =>
      if n = 0 then some c else walkAccesses cs f r streamA n (j + 1) (c + (if streamA then r.patA else r.patB).busy)

/-- The cycle of a record's last firing under its FIRE_LIMIT (R113). -/
def lastCycle (cs : ConfigSet) (u f : Nat) (r : Record) : Option Nat :=
  match unitKind u with
  | .address =>
    if r.pulls then slotCycle cs f r (Nat.max r.firstVisit (Nat.max r.patA.startVisit r.patB.startVisit) * r.fireCount + (r.fireLimit - 1))
    else match walkAccesses cs f r true r.patA.accesses 0 0, walkAccesses cs f r false r.patB.accesses 0 0 with
      | some x, some y => some (Nat.max x y)
      | some x, none => if r.patB.accesses = 0 then some x else none
      | none, some y => if r.patA.accesses = 0 then some y else none
      | none, none => none
  | _ => slotCycle cs f r (r.firstVisit * r.fireCount + (r.fireLimit - 1))

/-- The records of a set with their units and fold slots. -/
def ConfigSet.records (cs : ConfigSet) : List (Nat × Nat × Record) :=
  (cs.folds.zipIdx.map (fun fr => fr.1.zipIdx.map (fun ru => (ru.2, fr.2, ru.1)))).flatten

/-- The latest of the final firings, plus one; none when one of them never comes (R115). -/
def lengthOf (cs : ConfigSet) : List (Nat × Nat × Record) → Option Nat
  | [] => some 0
  | (u, f, r) :: l =>
    match lengthOf cs l with
    | none => none
    | some n =>
      if r.fireLimit = 0 then some n
      else if r.op = 0 then none
      else (lastCycle cs u f r).map (fun c => Nat.max n (c + 1))

/-- The schedule length of a set (R115). -/
def scheduleLength (cs : ConfigSet) : Option Nat := lengthOf cs cs.records

/-- The records with a nonzero FIRE_LIMIT have all made their final firing (R115). -/
def scheduleDone (cs : ConfigSet) (banks : List ((Nat × Nat) × Bank)) : Bool :=
  cs.records.all (fun x => x.2.2.fireLimit == 0 || decide (x.2.2.fireLimit ≤ (look {} (x.1, x.2.1) banks).fired))

end Sys2Proof.Machine
end

