-- ==== Sys2Proof/Machine/Operands.lean ====
section
/-! DEFINITION. The operand forms of the weave: what a firing reads (record, bank, region), channels and their tokens,
pad cells and lines, and the receive rings (R90 to R95, R113, R114, R122, R130 to R148, R476, R477). -/

namespace Sys2Proof.Machine

/-! ## The pad (R130 to R136) -/

/-- The two bytes of a cell, numbered 32 × line + column (R130). -/
def cellAt (pad : Memory) (cell : Nat) : List Byte := pad.readBytes (2 * cell) 2

/-- A 16-bit cell as a number. -/
def cellNum (pad : Memory) (cell : Nat) : Nat := leNat (cellAt pad cell)

/-- The 64 bytes of a pad line. -/
def lineAt (pad : Memory) (line : Nat) : List Byte := pad.readBytes (64 * line) 64

/-- Write a pad line (R137). -/
def writeLine (line : Nat) (data : List Byte) (pad : Memory) : Memory := pad.writeBytes (64 * line) (data.take 64)

/-- Write 16-bit lanes to cells; a lane without a cell writes nothing, and of two lanes on one cell the higher stands
(R109, R141). -/
def writeCells (pad : Memory) : List (Option Nat) → List Nat → Memory
  | some c :: cs, v :: vs => writeCells (pad.writeBytes (2 * c) (leBytes 2 v)) cs vs
  | none :: cs, _ :: vs => writeCells pad cs vs
  | _, _ => pad

/-- The lanes read from cells; a lane without a cell reads zero (R141). -/
def readCells (pad : Memory) (cells : List (Option Nat)) : List Nat :=
  cells.map (fun c => match c with
    | some c => cellNum pad c
    | none => 0)

/-- The pad cycles of an access: the largest number of distinct cells in one of the 32 banks (R135, R136). -/
def bankCycles (cells : List Nat) : Nat :=
  ((List.range 32).map (fun b => ((cells.eraseDups).filter (fun c => (c / 32 % 32 + c % 32) % 32 == b)).length)).foldl Nat.max 0

/-! ## Channels (R90 to R92, R122) -/

/-- The express channel a code names in a unit's row or column (R90 Table 2). -/
def expressWire (u code : Nat) : Option Wire :=
  match code with
  | 5 => some (.row (u / 8) 0)
  | 6 => some (.row (u / 8) 1)
  | 7 => some (.column (u % 8) 0)
  | 8 => some (.column (u % 8) 1)
  | _ => none

/-- The queue a source code names at the unit that consumes (chapter 3, source and destination codes). -/
def inChannel (u code : Nat) : Option Channel :=
  match code with
  | 1 => some (.neighbour u 1)
  | 2 => some (.neighbour u 2)
  | 3 => some (.neighbour u 3)
  | 4 => some (.neighbour u 4)
  | 10 => if u % 8 = 0 ∨ u % 8 = 7 then some (.pull u) else none
  | _ => (expressWire u code).map (Channel.express · u)

/-- The queue a destination code other than an express channel's leads to, and the channel's latency (R89, R90 Table 2). -/
def outChannel (u code : Nat) : Option (Channel × Nat) :=
  match code with
  | 1 => if u < 24 then some (.neighbour (u + 8) 3, 1) else none
  | 2 => if u % 8 < 7 then some (.neighbour (u + 1) 4, 1) else none
  | 3 => if 8 ≤ u then some (.neighbour (u - 8) 1, 1) else none
  | 4 => if 0 < u % 8 then some (.neighbour (u - 1) 2, 1) else none
  | 10 => if u % 8 = 7 then some (.pull (u - 7), 2) else if u % 8 = 0 then some (.pull (u + 7), 2) else none
  | _ => none

/-- A queue of an express channel. -/
def Channel.isOf (w : Wire) (c : Channel) : Bool :=
  match c with
  | .express v _ => decide (v = w)
  | .neighbour _ _ => false
  | .pull _ => false

/-- Put a token on its way, in order of arrival; of two that a channel would carry in one cycle neither is delivered (R90, R91;
notes/assumptions/71.md). -/
def insertToken (e : InFlight) : List InFlight → List InFlight
  | [] => [e]
  | x :: l =>
    if x.avail == e.avail then { x with spoilt := true } :: l
    else if e.avail < x.avail then e :: x :: l
    else x :: insertToken e l

/-- The unit that takes the next token of an express channel: the k-th token goes to the unit that makes the k-th take of the schedule (R90;
notes/assumptions/71.md). 32: none takes it. -/
def Tile.takerOf (t : Tile) (cs : ConfigSet) (w : Wire) : Nat := (look [] w cs.takers).getD (look 0 w t.weave.carried) 32

/-- A token of an express channel in this cycle stands in one of its queues already. -/
def wireClash (w : Wire) (avail : Nat) (chs : List (Channel × List InFlight)) : Bool :=
  chs.any (fun q => q.1.isOf w && q.2.any (fun x => x.avail == avail))

/-- Two producers drive an express channel in one cycle: neither token is delivered (R91). -/
def spoilWire (w : Wire) (avail : Nat) (chs : List (Channel × List InFlight)) : List (Channel × List InFlight) :=
  chs.map (fun q => if q.1.isOf w then (q.1, q.2.map (fun x => if x.avail = avail then { x with spoilt := true } else x)) else q)

/-- Drive an express channel (R90, R91). -/
def driveWire (cs : ConfigSet) (w : Wire) (e : InFlight) (t : Tile) : Tile :=
  let ch := Channel.express w (t.takerOf cs w)
  { t with
    channels := if wireClash w e.avail t.channels then spoilWire w e.avail t.channels
      else put ch (insertToken e (look [] ch t.channels)) t.channels
    weave := { t.weave with carried := put w (look 0 w t.weave.carried + 1) t.weave.carried } }

/-- Tokens that have arrived by a cycle enter the consuming queue of 4; one that finds it full is dropped (R90). -/
def arrive (c : Nat) : Nat → List InFlight → List InFlight × Nat
  | _, [] => ([], 0)
  | n, x :: l =>
    if x.queued then
      let r := arrive c (n + 1) l
      (x :: r.1, r.2)
    else if c < x.avail || x.owed.isSome then (x :: l, 0)
    else if x.spoilt then arrive c n l
    else if 4 ≤ n then
      let r := arrive c n l
      (r.1, r.2 + 1)
    else
      let r := arrive c (n + 1) l
      ({ x with queued := true } :: r.1, r.2)

/-- No token stands or travels in any channel; a spoilt one never arrives (R91, R120). -/
def channelsEmpty (t : Tile) : Bool := t.channels.all (fun q => q.2.all (·.spoilt))

/-- Bring the arrivals of a channel up to a cycle. -/
def settle (ch : Channel) (c : Nat) (t : Tile) : Tile :=
  let r := arrive c 0 (look [] ch t.channels)
  { t with channels := put ch r.1 t.channels, weave := { t.weave with dropped := t.weave.dropped + r.2 } }

/-- Place a token on a destination of a unit in the cycle it is produced (R90 to R92): code 9 keeps it in the unit's own state bank, and
code 0 leads nowhere. `owed`: the output of a set operation that the token stands for, when its keys are still to come (R104). -/
def emit (cs : ConfigSet) (u f code prod : Nat) (owed : Option Nat) (k : Token) (t : Tile) : Tile :=
  let flight := fun lat => ({ avail := prod + lat, token := k, owed := owed.map (fun n => { unit := u, fold := f, number := n, latency := lat }) } : InFlight)
  if code = 9 then
    { t with banks := put (u, f) { look {} (u, f) t.banks with own := some k, ownOwed := owed } t.banks }
  else match expressWire u code with
    | some w => driveWire cs w (flight 2) t
    | none => match outChannel u code with
      | none => t
      | some (ch, lat) => { t with channels := put ch (insertToken (flight lat) (look [] ch t.channels)) t.channels }

/-! ## What a firing reads -/

/-- A firing about to happen: its place, its task, its record and bank, the weave cycle it falls in. -/
structure Shot where
  p : Nat
  u : Nat
  f : Nat
  run : TaskRun
  task : Task
  image : Image
  seed : Nat
  step : Nat
  set : ConfigSet
  cfg : Record
  bank : Bank
  /-- the stream of an address unit's slot -/
  streamA : Bool
  /-- number of this firing's slot among the slots of its stream (R113) -/
  ordinal : Nat
  /-- schedule cycle, and the count of weave cycles, held ones included (R93, R127) -/
  sched : Nat
  cycle : Nat
  epoch : Nat

/-- The pattern and the stream bank an address unit's firing serves. -/
def Shot.pattern (sh : Shot) : Pattern := if sh.streamA then sh.cfg.patA else sh.cfg.patB

def Shot.stream (sh : Shot) : StreamBank := if sh.streamA then sh.bank.streamA else sh.bank.streamB

/-- The bank with the stream bank of this firing replaced. -/
def Shot.putStream (sh : Shot) (b : StreamBank) (k : Bank) : Bank :=
  if sh.streamA then { k with streamA := b } else { k with streamB := b }

/-- Lines of the task's data region (R36). -/
def Shot.lines (sh : Shot) : Nat := sh.task.dataTrays * 32

/-- The numerics entry of the record's tensor (R170). -/
def Shot.numeric (sh : Shot) : Numeric := sh.image.numerics.getD sh.cfg.tensor {}

/-- The next firing of a record of the tile's resident set while its task fires, before the schedule ends (R112 to R115). -/
def shotAt (p u f : Nat) (s : State) : Option Shot :=
  let t := s.tile p
  match s.job, t.current, t.resident with
  | some j, some run, some k =>
    let cs := j.image.sets.getD k {}
    let task := j.image.tasks.getD run.task {}
    let r := cs.record u f
    let b := look {} (u, f) t.banks
    if run.phase ≠ .firing || r.op = 0 then none
    else match nextSlot cs u f r b with
      | none => none
      | some n =>
        if n.cycle < task.weaveCycles then
          some { p := p, u := u, f := f, run := run, task := task, image := j.image, seed := j.seed.toNat,
                 step := j.step, set := cs, cfg := r, bank := b, streamA := n.streamA, ordinal := n.ordinal, sched := n.cycle,
                 cycle := n.cycle + t.weave.held, epoch := t.epoch.toNat }
        else none
  | _, _, _ => none

/-- How a firing uses an input: not at all, taking its token, or reading it and leaving it in its queue (R124, R480). -/
inductive Want where
  | no | take | peek
  deriving DecidableEq, Repr

/-- A bubble of this firing (R94). -/
def Shot.bubble (sh : Shot) : Token :=
  { data := List.replicate 64 0, beat := sh.cycle % 16, fold := sh.f, epoch := sh.epoch }

/-- The constant token, formed anew at each firing (R477). -/
def Shot.constant (sh : Shot) : Token := { sh.bubble with data := sh.cfg.constant, valid := true }

/-- What fetching an input finds: its token, a stale token that is dropped, or nothing there (R116, R122). -/
inductive Fetched where
  | got (k : Token) (t : Tile)
  | stale (t : Tile)
  | absent (t : Tile)

/-- Fetch one input of a firing (R92, R116, R122, R477). An input without a source is a bubble. -/
def fetch (sh : Shot) (code : Nat) (w : Want) (t : Tile) : Fetched :=
  match w with
  | .no => .got sh.bubble t
  | _ =>
    if code = 11 then .got sh.constant t
    else if code = 9 then .got (sh.bank.own.getD sh.bubble) t
    else match inChannel sh.u code with
      | none => .got sh.bubble t
      | some ch =>
        let t := settle ch sh.cycle t
        match look [] ch t.channels with
        | x :: l =>
          if x.queued then
            if x.token.epoch ≠ sh.epoch then .stale { t with channels := put ch l t.channels }
            else match w with
              | .peek => .got x.token t
              | _ => .got x.token { t with channels := put ch l t.channels }
          else .absent t
        | [] => .absent t

/-! ## Receive rings (R144 to R148) -/

/-- Size of a ring in 16-byte units (R26 QUEUE_SIZES: 4 KiB × 2^(code - 1)). -/
def Ring.units (r : Ring) : Nat := if r.size = 0 then 0 else 128 * 2 ^ r.size

/-- Used units, from the offsets and the wrap bits (R146). -/
def Ring.used (r : Ring) : Nat := if r.wrWrap = r.rdWrap then r.wr - r.rd else r.units - r.rd + r.wr

/-- One record standing in a ring: its offset, its length in units, the payload bytes, KIND, sender and SEQ (R145). -/
structure RingMsg where
  off : Nat
  units : Nat
  len : Nat
  skip : Bool
  src : Nat
  seq : Nat
  deriving DecidableEq, Repr

/-- The header of the record at a ring offset (R145 Table 4). -/
def ringHeader (pad : Memory) (r : Ring) (off : Nat) : RingMsg :=
  let h := pad.readLe (16 * (r.base + off)) 16
  let skip := bits h 12 4 == 1
  let len := bits h 0 12
  { off := off, units := if skip then len else 1 + ceilDiv len 16, len := if skip then 0 else len, skip := skip,
    src := bits h 16 24, seq := bits h 64 16 }

/-- The records from an offset on, over a number of used units (R146). -/
def ringRecords (pad : Memory) (r : Ring) : Nat → Nat → Nat → List RingMsg
  | 0, _, _ => []
  | n + 1, off, left =>
    if left = 0 then []
    else
      let m := ringHeader pad r off
      let u := Nat.max 1 m.units
      m :: ringRecords pad r n (if off + u ≥ r.units then 0 else off + u) (left - u)

/-- The records of a ring in ring order. -/
def ringAll (pad : Memory) (r : Ring) : List RingMsg := ringRecords pad r r.units r.rd r.used

/-- Of two messages the one first in take order: SRC_TASK, then SEQ (R148). -/
def takeBefore (a b : RingMsg) : Bool := decide (a.src < b.src) || (a.src == b.src && decide (a.seq < b.seq))

/-- A message's place in the take order, the messages before it first (R148). -/
def insertMessage (m : RingMsg) : List RingMsg → List RingMsg
  | [] => [m]
  | x :: l => if takeBefore m x then m :: x :: l else x :: insertMessage m l

/-- The take order: the messages that stand in the ring, by SRC_TASK and SEQ, skip records passed over (R148). -/
def takeOrder (pad : Memory) (r : Ring) : List RingMsg := ((ringAll pad r).filter (fun m => !m.skip)).foldr insertMessage []

/-- The first message of the take order that no TAKE stream has begun (R148). -/
def nextMessage (r : Ring) : Option Nat := r.order.find? (fun off => !r.chosenAt.contains off)

/-- Move RD past records whose messages are taken, skip records before them included (R148). -/
def advanceRd (pad : Memory) : Nat → Ring → Ring
  | 0, r => r
  | n + 1, r =>
    if r.used = 0 then r
    else
      let m := ringHeader pad r r.rd
      let step := fun (r : Ring) (u : Nat) =>
        if r.rd + u ≥ r.units then { r with rd := 0, rdWrap := !r.rdWrap } else { r with rd := r.rd + u }
      if m.skip then
        if r.takenAt.contains 0 then advanceRd pad n (step r m.units) else r
      else if r.takenAt.contains r.rd then
        let off := r.rd
        advanceRd pad n { step r m.units with takenAt := r.takenAt.erase off, chosenAt := r.chosenAt.erase off }
      else r

/-- A message is taken: MSGS falls, TAKEN rises, RD moves as far as R148 lets it. -/
def finishTake (pad : Memory) (off : Nat) (r : Ring) : Ring :=
  advanceRd pad r.units { r with msgs := r.msgs - 1, taken := r.taken + 1, takenAt := r.takenAt ++ [off] }

/-- The ring of a queue. -/
def Tile.ring (t : Tile) (q : Nat) : Ring := t.rings.getD q {}

def Tile.onRing (t : Tile) (q : Nat) (f : Ring → Ring) : Tile := { t with rings := setAt q (f (t.ring q)) t.rings }

end Sys2Proof.Machine
end

