-- ==== Sys2Proof/Machine/Inputs.lean ====
section
/-! DEFINITION. What the operations of the units take from their inputs, whose turn it is to fire, and what every firing does around its own
effect (R90 to R96, R100, R107, R108, R112 to R116, R119, R122, R124, R181, R476 to R478, R480, R483). -/

namespace Sys2Proof.Machine

/-! ## What each operation takes -/

/-- Take an input when its record names a source; otherwise it is a bubble. -/
def wantIf (b : Bool) : Want := if b then .take else .no

/-- The operand format of a vector record, MODE[12:8] (R101). -/
def Record.operandFmt (r : Record) : Nat := bits r.mode 0 5

/-- MODE[14:13] (R479). -/
def Record.option (r : Record) : Nat := bits r.mode 5 2

/-- The shadow panel becomes active at this stream firing (R100): the first full one at once, then at every SWAP_EVERY-th
stream firing counted from the first activation. -/
def panelSwaps (r : Record) (k : Bank) : Bool :=
  decide (r.panelTokens ≠ 0) && decide (r.panelTokens ≤ k.shadow.length) &&
    match k.sinceSwap with
    | none => true
    | some n => decide (r.swapEvery ≠ 0) && n % r.swapEvery == 0

/-- Input B has a token to take: the shadow panel is not full after any activation, and panels still change (R100). -/
def panelRoom (r : Record) (k : Bank) : Bool :=
  let swap := panelSwaps r k
  decide ((if swap then 0 else k.shadow.length) < r.panelTokens) && !(r.swapEvery == 0 && (k.sinceSwap.isSome || swap))

/-- The chain position of the next stream firing: n mod CHAIN_LEN (R96). -/
def chainPos (r : Record) (k : Bank) : Nat := k.fired % Nat.max 1 r.chainLen

/-- The inputs of a stream firing: A, B while the panel loads, C at the first firing of a chain (R99, R100). -/
def wantsMatrix (sh : Shot) : Want × Want × Want :=
  (wantIf (decide (sh.cfg.inA ≠ 0)), wantIf (decide (sh.cfg.inB ≠ 0) && panelRoom sh.cfg sh.bank),
    wantIf (decide (sh.cfg.inC ≠ 0) && chainPos sh.cfg sh.bank == 0))

/-- Input B of FMA to SHIFT: taken each firing, or under B_HOLD when a held token is due (R478). -/
def wantB (sh : Shot) : Want :=
  if sh.cfg.bHold then wantIf (decide (sh.cfg.inB ≠ 0) && (sh.bank.held.isNone || decide (sh.cfg.holdFirings < sh.bank.heldServed)))
  else wantIf (decide (sh.cfg.inB ≠ 0))

/-- Two operands, and a third where `useC`. -/
def wantsArith (useC : Bool) (sh : Shot) : Want × Want × Want :=
  (wantIf (decide (sh.cfg.inA ≠ 0)), wantB sh, wantIf (useC && decide (sh.cfg.inC ≠ 0)))

/-- One operand. -/
def wantsOne (sh : Shot) : Want × Want × Want := (wantIf (decide (sh.cfg.inA ≠ 0)), .no, .no)

/-- The two operands of the integer operations. -/
def wantsInt (sh : Shot) : Want × Want × Want :=
  (wantIf (decide (sh.cfg.inA ≠ 0)), wantIf (decide (sh.cfg.inB ≠ 0)), .no)

/-- Firings one source token of CVT serves (R480). -/
def Record.cvtParts (r : Record) : Nat := perToken r.operandFmt / 32

/-- CVT takes a scale token on B when its source is tray-scaled or MX or its target is tray-scaled (R170). -/
def cvtScaled (sh : Shot) : Bool := isTray sh.cfg.operandFmt || isMx sh.cfg.operandFmt || isTray sh.numeric.format

/-- The inputs of CVT: read at the first of a token's firings, consumed at the last (R480). -/
def wantsCvt (sh : Shot) : Want × Want × Want :=
  let w : Want := if sh.bank.fired % sh.cfg.cvtParts = sh.cfg.cvtParts - 1 then .take else .peek
  (if sh.cfg.inA = 0 then .no else w, if sh.cfg.inB = 0 || !cvtScaled sh then .no else w, .no)

/-- The inputs of a control operation: the control token is consumed with the last firing it governs (R124). -/
def wantsControl (sh : Shot) : Want × Want × Want :=
  (wantIf (decide (sh.cfg.inA ≠ 0)),
    if sh.cfg.inB = 0 then .no else if sh.bank.governed < sh.cfg.govern then .peek else .take, .no)

/-- No input. -/
def wantsNone (_sh : Shot) : Want × Want × Want := (.no, .no, .no)

/-- Write data on A (R483). -/
def wantsData (sh : Shot) : Want × Want × Want := (wantIf (decide (sh.cfg.inA ≠ 0)), .no, .no)

/-- An index token on B (R483). -/
def wantsIndex (sh : Shot) : Want × Want × Want := (.no, wantIf (decide (sh.cfg.inB ≠ 0)), .no)

/-- Write data on A and an index token on B (R483). -/
def wantsBoth (sh : Shot) : Want × Want × Want := (wantIf (decide (sh.cfg.inA ≠ 0)), wantIf (decide (sh.cfg.inB ≠ 0)), .no)

/-- The access begins a message (R118, R119). -/
def Shot.firstToken (sh : Shot) : Bool := sh.stream.access % (sh.pattern.msgTokens + 1) == 0

/-- The access ends a message (R118, R119). -/
def Shot.lastToken (sh : Shot) : Bool := sh.stream.access % (sh.pattern.msgTokens + 1) == sh.pattern.msgTokens

/-- SEND takes payload on A, and with DEST_DYN a token on B at the first access of a message (R119). -/
def wantsSend (sh : Shot) : Want × Want × Want :=
  (wantIf (decide (sh.cfg.inA ≠ 0)), wantIf (sh.pattern.destDyn && sh.firstToken && decide (sh.cfg.inB ≠ 0)), .no)

/-- What the next firing of a unit takes and reads, by its operation (chapter 3 Tables 4 to 7). -/
def wantsOf (sh : Shot) : Want × Want × Want :=
  match sh.cfg.op with
  | 0x10 | 0x11 => wantsMatrix sh
  | 0x20 => wantsArith true sh
  | 0x21 | 0x22 | 0x23 | 0x24 | 0x25 | 0x26 | 0x27 => wantsArith false sh
  | 0x28 | 0x29 | 0x2A | 0x2B | 0x2C | 0x2D => wantsInt sh
  | 0x2E | 0x2F | 0x30 | 0x31 | 0x34 | 0x40 | 0x43 | 0x44 => wantsOne sh
  | 0x33 => wantsCvt sh
  | 0x41 | 0x42 => wantsControl sh
  | 0x60 => match sh.pattern.mode with
    | 2 | 4 | 6 | 12 => wantsData sh
    | 7 | 9 | 11 => wantsIndex sh
    | 8 | 10 => wantsBoth sh
    | 13 => wantsSend sh
    | _ => wantsNone sh
  | _ => wantsNone sh

/-! ## Whose turn it is (R112, R116) -/

/-- An input that the firing needs is not there, or is stale (R116, R122). -/
def lacks (sh : Shot) (t : Tile) : Bool :=
  match fetch sh sh.cfg.inA (wantsOf sh).1 t with
  | .got _ t1 => match fetch sh sh.cfg.inB (wantsOf sh).2.1 t1 with
    | .got _ t2 => match fetch sh sh.cfg.inC (wantsOf sh).2.2 t2 with
      | .got _ _ => false
      | _ => true
    | _ => true
  | _ => true

/-- The next firings of every record of the tile's resident set. -/
def nextShots (p : Nat) (s : State) : List Shot :=
  match s.job, (s.tile p).resident with
  | some j, some k => (j.image.sets.getD k {}).records.filterMap (fun x => shotAt p x.1 x.2.1 s)
  | _, _ => []

/-- The firing a weave command names, when it can happen: no other firing comes before it in the schedule, and no other unit that fires in
the same cycle lacks an input, for then the whole weave holds; of several that lack one, the first counts the held cycle (R112 to R116). -/
def shot? (fi : Firing) (s : State) : Option Shot :=
  match shotAt fi.tile fi.unit fi.fold s with
  | none => none
  | some sh =>
    let due := nextShots fi.tile s
    if due.any (fun o => decide (o.sched < sh.sched)) then none
    else match due.find? (fun o => o.sched == sh.sched && lacks o (s.tile fi.tile)) with
      | none => some sh
      | some o => if o.u = fi.unit ∧ o.f = fi.fold then some sh else none

/-! ## Firing -/

/-- What a firing leaves: its bank, its tile, what it places on its outputs (data, VALID, LAST), its latency to
production, its conditions with their values, and its counts (R92, R181). -/
structure Fired where
  bank : Bank
  tile : Tile
  out0 : Option (List Byte × Bool × Bool) := none
  out1 : Option (List Byte × Bool × Bool) := none
  latency : Nat := 0
  /-- the outputs stand for this output of a set operation, whose keys are still to come (R104) -/
  owed : Option Nat := none
  conds : List (Cond × Nat) := []
  sat : Nat := 0
  nan : Nat := 0

/-- A held cycle: nothing fires and the cycle counter runs on (R116). -/
def holdCycle (p : Nat) (t : Tile) (s : State) : State :=
  s.setTile p { t with weave := { t.weave with held := t.weave.held + 1, holding := t.weave.holding + 1 } }

/-- Add an attempt's numerics counts of a tensor (R181). -/
def addCounts (tensor : Nat) (c : TensorCounters) (s : State) : State :=
  if c = {} then s
  else s.onJob (fun j =>
    let o := look {} tensor j.attemptCounts
    { j with attemptCounts := put tensor { sat := o.sat + c.sat, nan := o.nan + c.nan, underflow := o.underflow + c.underflow,
                                           ovfTrays := o.ovfTrays + c.ovfTrays, recomputes := o.recomputes + c.recomputes } j.attemptCounts })

/-- Place a firing's output on one destination (R93, R95, R476). -/
def emitOut (sh : Shot) (code latency : Nat) (owed : Option Nat) (o : Option (List Byte × Bool × Bool)) (t : Tile) : Tile :=
  match o with
  | none => t
  | some (data, valid, last) =>
    emit sh.set sh.u sh.f code (sh.cycle + latency)
      owed { data := data, beat := (sh.cycle + latency) % 16, fold := sh.f, epoch := sh.epoch, valid := valid, last := last } t

/-- The slot of an access is passed, and its stream is busy for the access's cycles (R108, R113). -/
def Shot.spent (sh : Shot) (k : Bank) : Bank :=
  if sh.cfg.op = 0x60 then
    sh.putStream { (if sh.streamA then k.streamA else k.streamB) with passed := sh.ordinal + 1, busyUntil := sh.sched + sh.pattern.busy } k
  else k

/-- Complete a firing: bank, outputs, conditions reported to the hub, counts (R92, R113, R125, R181). -/
def finishFiring (sh : Shot) (r : Fired) (s : State) : State :=
  let b := sh.spent { r.bank with fired := sh.bank.fired + 1 }
  let t := { r.tile with banks := put (sh.u, sh.f) b r.tile.banks,
                         weave := { r.tile.weave with cycle := Nat.max r.tile.weave.cycle (sh.sched + 1), holding := 0 } }
  let t := emitOut sh sh.cfg.out0 r.latency r.owed r.out0 t
  let t := emitOut sh sh.cfg.out1 r.latency r.owed r.out1 t
  let s := s.setTile sh.p t
  let s := addCounts sh.cfg.tensor { sat := r.sat, nan := r.nan } s
  each (fun c s => report (taskRaise c.1 sh.p sh.run.task c.2 s) s) r.conds s

/-- Fetch the three inputs in order; with all there the firing acts, with one missing the weave holds, and a stale token
is dropped and noted first (R92, R116, R122). -/
def fireWith (sh : Shot) (w : Want × Want × Want) (act : Tile → Token → Token → Token → Fired) (s : State) : State :=
  let t := s.tile sh.p
  let stale := fun t' => report (taskRaise .staleToken sh.p sh.run.task sh.cycle s) (holdCycle sh.p t' s)
  match fetch sh sh.cfg.inA w.1 t with
  | .absent t' => holdCycle sh.p { t with weave := t'.weave } s
  | .stale t' => stale t'
  | .got a t1 => match fetch sh sh.cfg.inB w.2.1 t1 with
    | .absent _ => holdCycle sh.p t s
    | .stale t' => stale { t' with channels := match inChannel sh.u sh.cfg.inB with
        | some ch => put ch (look [] ch t'.channels) t.channels
        | none => t.channels }
    | .got b t2 => match fetch sh sh.cfg.inC w.2.2 t2 with
      | .absent _ => holdCycle sh.p t s
      | .stale t' => stale { t' with channels := match inChannel sh.u sh.cfg.inC with
          | some ch => put ch (look [] ch t'.channels) t.channels
          | none => t.channels }
      | .got c t3 => finishFiring sh (act t3 a b c) s

/-- A firing of a matrix, vector or steering unit whose record holds this operation code (R92, R111). -/
def fireUnit (op : Nat) (wants : Shot → Want × Want × Want) (act : Shot → Tile → Token → Token → Token → Fired) (fi : Firing)
    (s : State) : Host.Outcome State Fault Refusal :=
  if fi.tile < 1152 ∧ fi.unit < 32 ∧ fi.fold < 8 then
    .next (match shot? fi s with
      | none => s
      | some sh => if sh.cfg.op = op then fireWith sh (wants sh) (act sh) s else s)
  else .fault .noSuchUnit


end Sys2Proof.Machine
end

