-- ==== Sys2Proof/Machine/Vector.lean ====
section
/-! DEFINITION. The vector units: the commands FMA to REDUCE (R101, R102, R166, R476, R478 to R480, R484, chapter 5
Table 6). -/

namespace Sys2Proof.Machine

/-- The element index of the rounding key of lane `l` in firing `n` (R102). -/
def Shot.element (sh : Shot) (n l : Nat) : Nat :=
  (sh.cfg.elemBase + sh.run.task * sh.cfg.taskStride + n * sh.cfg.elemStride + l) % 2 ^ 64

/-- One rounding of the weave: draw 0 (R102, R165, R167). -/
def Shot.round (sh : Shot) (f n l : Nat) (x : Exact) : Nat × Mark :=
  roundSr f true (counterHash sh.seed sh.cfg.tensor 0 (sh.element n l) sh.step) x

/-- Round lanes in order, from a lane number. -/
def Shot.roundLanes (sh : Shot) (f n : Nat) : Nat → List Exact → List (Nat × Mark)
  | _, [] => []
  | l, x :: xs => sh.round f n l x :: sh.roundLanes f n (l + 1) xs

/-- How many roundings carry a mark (R181). -/
def marks (m : Mark) (l : List (Nat × Mark)) : Nat := (l.filter (fun x => decide (x.2 = m))).length

/-- 64 zero bytes. -/
def zeroLine : List Byte := List.replicate 64 0

/-- Copies of one result on both outputs (R92). -/
def Fired.both (r : Fired) (o : List Byte × Bool × Bool) : Fired := { r with out0 := some o, out1 := some o }

/-- Operand lanes of a token in the record's operand format (R101). -/
def Shot.operand (sh : Shot) (k : Token) : List Exact := (lanes16 k.data).map (decode sh.cfg.operandFmt)

/-- Operand b: its lanes and whether it is valid, and the bank with the held token (R478). -/
def operandB (sh : Shot) (b : Token) (k : Bank) : List Exact × Bool × Bank :=
  if sh.cfg.bHold then
    let due := k.held.isNone || decide (sh.cfg.holdFirings < k.heldServed)
    let k := if due then { k with held := some b, heldServed := 0 } else k
    let h := k.held.getD sh.bubble
    let lane := (sh.cfg.holdLane + k.heldServed * sh.cfg.holdStep) % 32
    let v := decode sh.cfg.operandFmt ((lanes16 h.data).getD lane 0)
    (List.replicate 32 v, h.valid, { k with heldServed := k.heldServed + 1 })
  else (sh.operand b, b.valid, k)

/-- The result of an element-wise operation on lanes: rounded once per lane, or a bubble when an operand is one (R94,
R101, R157, R167). -/
def laneResult (sh : Shot) (t : Tile) (k : Bank) (lat : Nat) (valid last : Bool) (xs : List Exact) : Fired :=
  if valid then
    let q := sh.roundLanes (outFmt sh.numeric) sh.bank.fired 0 xs
    Fired.both { bank := k, tile := t, latency := lat, sat := marks .sat q, nan := marks .nan q }
      (bytes16 (q.map (·.1)), true, last)
  else Fired.both { bank := k, tile := t, latency := lat } (zeroLine, false, last)

/-- An operation on lanes a and b, and c where `useC` (Table 5). -/
def arith (useC : Bool) (lat : Nat) (fn : Exact → Exact → Exact → Exact) (sh : Shot) (t : Tile) (a b c : Token) : Fired :=
  let r := operandB sh b sh.bank
  let cs := if useC then sh.operand c else sh.operand a
  let xs := ((sh.operand a).zip (r.1.zip cs)).map (fun x => fn x.1 x.2.1 x.2.2)
  laneResult sh t r.2.2 lat (a.valid && r.2.1 && (c.valid || !useC)) a.last xs

/-- An operation on the lanes of one operand. -/
def unary (lat : Nat) (fn : Exact → Exact) (sh : Shot) (t : Tile) (a _b _c : Token) : Fired :=
  laneResult sh t sh.bank lat a.valid a.last ((sh.operand a).map fn)

/-- FMA (R101). -/
def execFma (f : Firing) (s : State) : Host.Outcome State Fault Refusal :=
  fireUnit 0x20 (wantsArith true) (arith true 4 (fun a b c => (a.mul b).add c)) f s

/-- MUL (R101). -/
def execMul (f : Firing) (s : State) : Host.Outcome State Fault Refusal :=
  fireUnit 0x21 (wantsArith false) (arith false 4 (fun a b _ => a.mul b)) f s

/-- ADD (R101). -/
def execAdd (f : Firing) (s : State) : Host.Outcome State Fault Refusal :=
  fireUnit 0x22 (wantsArith false) (arith false 4 (fun a b _ => a.add b)) f s

/-- SUB (R101): the sum of a and the opposite of b. -/
def execSub (f : Firing) (s : State) : Host.Outcome State Fault Refusal :=
  fireUnit 0x23 (wantsArith false) (arith false 4 (fun a b _ => a.add b.neg)) f s

/-- One firing of ACCUM (R101, R479): acc + a × b rounded in each lane; acc goes out at LAST or every FIRE_COUNT firings. -/
def accumFire (sh : Shot) (t : Tile) (a b _c : Token) : Fired :=
  let r := operandB sh b sh.bank
  let k := r.2.2
  let f := outFmt sh.numeric
  let valid := a.valid && r.2.1
  let prods := ((sh.operand a).zip r.1).map (fun x => x.1.mul x.2)
  let sums := if k.accFull then ((k.acc.map (fun w => decode f w.toNat)).zip prods).map (fun x => x.1.add x.2) else prods
  let q := if valid then sh.roundLanes f sh.bank.fired 0 sums else []
  let acc := if valid then q.map (fun x => BitVec.ofNat 16 x.1) else k.acc
  let full := k.accFull || valid
  let n := k.accCount + 1
  let r0 : Fired := { bank := { k with acc := acc, accFull := full, accCount := n }, tile := t, latency := 4,
                      sat := marks .sat q, nan := marks .nan q }
  if a.last || n == sh.cfg.fireCount then
    Fired.both { r0 with bank := { k with acc := [], accFull := false, accCount := 0 } }
      (if full then bytes16 (acc.map (·.toNat)) else zeroLine, full, a.last)
  else r0

/-- ACCUM (R479). -/
def execAccum (f : Firing) (s : State) : Host.Outcome State Fault Refusal :=
  fireUnit 0x24 (wantsArith false) accumFire f s

/-- MIN (chapter 5 Table 6). -/
def execMin (f : Firing) (s : State) : Host.Outcome State Fault Refusal :=
  fireUnit 0x25 (wantsArith false) (arith false 2 (fun a b _ => minMax false a b)) f s

/-- MAX (chapter 5 Table 6). -/
def execMax (f : Firing) (s : State) : Host.Outcome State Fault Refusal :=
  fireUnit 0x26 (wantsArith false) (arith false 2 (fun a b _ => minMax true a b)) f s

/-- CMP: a mask of 0xFFFF and 0x0000 (R479). -/
def cmpFire (sh : Shot) (t : Tile) (a b _c : Token) : Fired :=
  let r := operandB sh b sh.bank
  let m := ((sh.operand a).zip r.1).map (fun x => if compareLanes sh.cfg.option x.1 x.2 then 0xFFFF else 0)
  if a.valid && r.2.1 then Fired.both { bank := r.2.2, tile := t, latency := 2 } (bytes16 m, true, a.last)
  else Fired.both { bank := r.2.2, tile := t, latency := 2 } (zeroLine, false, a.last)

/-- CMP (R479). -/
def execCmp (f : Firing) (s : State) : Host.Outcome State Fault Refusal :=
  fireUnit 0x27 (wantsArith false) cmpFire f s

/-- An integer operation on two's complement lanes: 64 of 8 bits for an INT8 tensor, otherwise 32 of 16 (R101, R170). -/
def intFire (fn : Record → Nat → Nat → Nat → Nat) (sh : Shot) (t : Tile) (a b _c : Token) : Fired :=
  let d := if sh.numeric.format = 5 then
      (a.data.zip b.data).map (fun x => BitVec.ofNat 8 (fn sh.cfg 8 x.1.toNat x.2.toNat))
    else bytes16 (((lanes16 a.data).zip (lanes16 b.data)).map (fun x => fn sh.cfg 16 x.1 x.2 % 65536))
  if a.valid && b.valid then Fired.both { bank := sh.bank, tile := t, latency := 1 } (d, true, a.last)
  else Fired.both { bank := sh.bank, tile := t, latency := 1 } (zeroLine, false, a.last)

/-- IADD (R101), wrapping. -/
def execIadd (f : Firing) (s : State) : Host.Outcome State Fault Refusal :=
  fireUnit 0x28 wantsInt (intFire (fun _ w x y => (x + y) % 2 ^ w)) f s

/-- ISUB (R101), wrapping. -/
def execIsub (f : Firing) (s : State) : Host.Outcome State Fault Refusal :=
  fireUnit 0x29 wantsInt (intFire (fun _ w x y => (x + (2 ^ w - y)) % 2 ^ w)) f s

/-- AND (R101). -/
def execAnd (f : Firing) (s : State) : Host.Outcome State Fault Refusal :=
  fireUnit 0x2A wantsInt (intFire (fun _ _ x y => x &&& y)) f s

/-- OR (R101). -/
def execOr (f : Firing) (s : State) : Host.Outcome State Fault Refusal :=
  fireUnit 0x2B wantsInt (intFire (fun _ _ x y => x ||| y)) f s

/-- XOR (R101). -/
def execXor (f : Firing) (s : State) : Host.Outcome State Fault Refusal :=
  fireUnit 0x2C wantsInt (intFire (fun _ _ x y => x ^^^ y)) f s

/-- SHIFT of one lane: left by a positive amount, right by a negative one, arithmetic unless MODE[13] (R479). -/
def shiftLane (logical : Bool) (w x y : Nat) : Nat :=
  let n := signedOf w y
  if 0 ≤ n then (if n < w then x * 2 ^ n.toNat % 2 ^ w else 0)
  else
    let m := n.natAbs
    if logical then (if m < w then x / 2 ^ m else 0)
    else (signedOf w x / (2 ^ Nat.min m w : Nat) % (2 ^ w : Nat)).toNat

/-- SHIFT (R479). -/
def execShift (f : Firing) (s : State) : Host.Outcome State Fault Refusal :=
  fireUnit 0x2D wantsInt (intFire (fun r w x y => shiftLane (bit r.mode 5) w x y)) f s

/-- EXP2 (R484). -/
def execExp2 (f : Firing) (s : State) : Host.Outcome State Fault Refusal := fireUnit 0x2E wantsOne (unary 8 exp2) f s

/-- LOG2 (R484). -/
def execLog2 (f : Firing) (s : State) : Host.Outcome State Fault Refusal := fireUnit 0x2F wantsOne (unary 8 log2) f s

/-- RCP (R484). -/
def execRcp (f : Firing) (s : State) : Host.Outcome State Fault Refusal := fireUnit 0x30 wantsOne (unary 8 rcp) f s

/-- RSQRT (R484). -/
def execRsqrt (f : Firing) (s : State) : Host.Outcome State Fault Refusal := fireUnit 0x31 wantsOne (unary 8 rsqrt) f s

/-- RNG: 32 values of the counter hash, not rounded (R166). -/
def rngFire (sh : Shot) (t : Tile) (_a _b _c : Token) : Fired :=
  Fired.both { bank := sh.bank, tile := t, latency := 6 }
    (bytes16 ((List.range 32).map (fun l =>
      counterHash sh.seed sh.cfg.tensor 65535 (sh.element sh.bank.fired l) sh.step % 65536)), true, false)

/-- RNG (R166). -/
def execRng (f : Firing) (s : State) : Host.Outcome State Fault Refusal := fireUnit 0x32 (fun _ => (.no, .no, .no)) rngFire f s

/-- CVT: 32 source elements a firing, gathered into an output token, which is a bubble when a bubble is among its operands (R94, R170,
R480). -/
def cvtFire (sh : Shot) (t : Tile) (a b _c : Token) : Fired :=
  let sf := sh.cfg.operandFmt
  let tf := sh.numeric.format
  let parts := sh.cfg.cvtParts
  let j := sh.bank.fired % parts
  let valid := a.valid && (b.valid || !cvtScaled sh)
  let bl := lanes16 b.data
  let src := ((codesOf sf a.data).drop (32 * j)).take 32
  let xs := src.map (fun c =>
    let x := decode sf c
    let x := if isTray sf then x.scale (-(scaleExp (bl.getD 0 0))) else if isMx sf then mxScale (b.data.getD j 0).toNat x else x
    if isTray tf then x.scale (scaleExp (bl.getD 16 0)) else x)
  let q := if valid then sh.roundLanes tf sh.bank.fired 0 xs else []
  let part := sh.bank.cvtPart ++ (if valid then q.map (·.1) else List.replicate 32 0)
  let ok := (sh.bank.cvtPart.isEmpty || sh.bank.cvtValid) && valid
  let r0 : Fired := { bank := { sh.bank with cvtPart := part, cvtValid := ok }, tile := t, latency := 3,
                      sat := marks .sat q, nan := marks .nan q }
  if perToken tf ≤ part.length || (a.last && j == parts - 1) then
    Fired.both { r0 with bank := { sh.bank with cvtPart := [], cvtValid := false } }
      (if ok then (bytesOf tf part ++ zeroLine).take 64 else zeroLine, ok, a.last)
  else r0

/-- CVT (R480). -/
def execCvt (f : Firing) (s : State) : Host.Outcome State Fault Refusal := fireUnit 0x33 wantsCvt cvtFire f s

/-- One level of the REDUCE tree: neighbouring lanes paired (R101). -/
def pairs {α : Type} : List α → List (α × α)
  | a :: b :: l => (a, b) :: pairs l
  | _ => []

/-- Sum levels of the REDUCE tree: each level's sums rounded, keyed from a lane number on (R479). -/
def reduceSum (sh : Shot) (f : Nat) : Nat → Nat → List Exact → List (Nat × Mark)
  | 0, _, _ => []
  | n + 1, lane, xs =>
    let q := sh.roundLanes f sh.bank.fired lane ((pairs xs).map (fun x => x.1.add x.2))
    q ++ reduceSum sh f n (lane + q.length) (q.map (fun x => decode f x.1))

/-- The maximum or minimum in the same tree (R479). -/
def reduceMax (wantMax : Bool) : Nat → List Exact → List Exact
  | 0, xs => xs
  | n + 1, xs => reduceMax wantMax n ((pairs xs).map (fun x => minMax wantMax x.1 x.2))

/-- REDUCE: the result in lane 0, +0 elsewhere (R479). A maximum or minimum whose output format is not its operand's is
brought into it by the one rounding of lane 0. -/
def reduceFire (sh : Shot) (t : Tile) (a _b _c : Token) : Fired :=
  let f := outFmt sh.numeric
  let xs := sh.operand a
  let q := if sh.cfg.option = 0 then reduceSum sh f 5 0 xs
    else sh.roundLanes f sh.bank.fired 0 ((reduceMax (sh.cfg.option == 1) 5 xs).take 1)
  if a.valid then
    Fired.both { bank := sh.bank, tile := t, latency := 6, sat := marks .sat q, nan := marks .nan q }
      (bytes16 ((q.getLast?.map (·.1)).getD 0 :: List.replicate 31 0), true, a.last)
  else Fired.both { bank := sh.bank, tile := t, latency := 6 } (zeroLine, false, a.last)

/-- REDUCE (R479). -/
def execReduce (f : Firing) (s : State) : Host.Outcome State Fault Refusal := fireUnit 0x34 wantsOne reduceFire f s

end Sys2Proof.Machine
end

