-- ==== Sys2Proof/Machine/Steering.lean ====
section
/-! DEFINITION. The steering units: ROUTE to INTERSECT, the beat check and the set operations (R103 to R106, R124 to R126,
R481). -/

namespace Sys2Proof.Machine

/-- MODE[8]: keys of 32 bits (chapter 3 Table 8). -/
def Record.key32 (r : Record) : Bool := bit r.mode 0

/-- Key width in bytes. -/
def keyBytes (wide : Bool) : Nat := if wide then 4 else 2

/-- The null key: all ones. -/
def nullKey (wide : Bool) : Nat := if wide then 0xFFFFFFFF else 0xFFFF

/-- Keys of a token. -/
def keysOf (wide : Bool) (d : List Byte) : List Nat := (fields (8 * keyBytes wide) (64 / keyBytes wide) (leNat d))

/-- The bytes of keys, filled up with nulls. -/
def keyLine (wide : Bool) (ks : List Nat) : List Byte :=
  leBytes 64 (ofFields (8 * keyBytes wide) ((ks ++ List.replicate 32 (nullKey wide)).take (64 / keyBytes wide)))

/-- The same, filled up with zeros. -/
def keyLineZero (wide : Bool) (ks : List Nat) : List Byte := leBytes 64 (ofFields (8 * keyBytes wide) (ks.take (64 / keyBytes wide)))

/-- ROUTE: the token to whichever outputs have destinations (Table 6). -/
def routeFire (sh : Shot) (t : Tile) (a _b _c : Token) : Fired :=
  Fired.both { bank := sh.bank, tile := t, latency := 1 } (a.data, a.valid, a.last)

/-- ROUTE (R103). -/
def execRoute (f : Firing) (s : State) : Host.Outcome State Fault Refusal := fireUnit 0x40 wantsOne routeFire f s

/-- The beat and fold check of a control operation (R124). -/
def beatOk (sh : Shot) (a b : Token) : Bool :=
  decide (a.beat % 16 = (b.beat + sh.cfg.beatOffset + sh.bank.governed) % 16) && (!sh.cfg.foldCheck || b.fold == sh.cfg.expectFold)

/-- The bank after a control operation's firing: the next firing the control token governs (R124). -/
def governNext (sh : Shot) : Bank :=
  { sh.bank with governed := if sh.bank.governed < sh.cfg.govern then sh.bank.governed + 1 else 0 }

/-- A control operation: STEER_SKEW and bubbles where the check fails (R125); otherwise `act`. -/
def controlFire (act : Shot → Token → Token → (List Byte × Bool × Bool) × (List Byte × Bool × Bool)) (sh : Shot) (t : Tile)
    (a b _c : Token) : Fired :=
  let r0 : Fired := { bank := governNext sh, tile := t, latency := 2 }
  if beatOk sh a b then
    let o := act sh a b
    { r0 with out0 := some o.1, out1 := some o.2 }
  else { r0 with out0 := some (zeroLine, false, a.last), out1 := some (zeroLine, false, a.last), conds := [(.steerSkew, sh.cycle)] }

/-- Where SELECT sends its data: to OUT_0 and to OUT_1; a control bubble sends it to neither (R94, R481). -/
def selectTo (r : Record) (b : Token) : Bool × Bool :=
  let lane := (keysOf r.key32 b.data).getD 0 0
  if !b.valid then (false, false)
  else if bit r.mode 2 then (decide (lane ≠ 0), false)
  else (lane % 4 == 0 || lane % 4 == 2, lane % 4 == 1 || lane % 4 == 2)

/-- SELECT: the routed token keeps its VALID, an output not chosen receives a bubble (R94, Table 6). -/
def selectAct (sh : Shot) (a b : Token) : (List Byte × Bool × Bool) × (List Byte × Bool × Bool) :=
  let w := selectTo sh.cfg b
  ((if w.1 then a.data else zeroLine, w.1 && a.valid, a.last), (if w.2 then a.data else zeroLine, w.2 && a.valid, a.last))

/-- SELECT (R481). -/
def execSelect (f : Firing) (s : State) : Host.Outcome State Fault Refusal := fireUnit 0x41 wantsControl (controlFire selectAct) f s

/-- FILTER: keys whose mask lane is nonzero, packed low; the mask is 32 lanes of 16 bits (R481). -/
def filterAct (sh : Shot) (a b : Token) : (List Byte × Bool × Bool) × (List Byte × Bool × Bool) :=
  let ks := ((keysOf sh.cfg.key32 a.data).zip (lanes16 b.data)).filter (fun x => decide (x.2 ≠ 0))
  let ok := a.valid && b.valid
  let o := (if ok then keyLine sh.cfg.key32 (ks.map (·.1)) else zeroLine, ok, a.last)
  (o, o)

/-- FILTER (R481). -/
def execFilter (f : Firing) (s : State) : Host.Outcome State Fault Refusal := fireUnit 0x42 wantsControl (controlFire filterAct) f s

/-- The non-null keys of a token. -/
def liveKeys (wide : Bool) (d : List Byte) : List Nat := (keysOf wide d).filter (fun k => decide (k ≠ nullKey wide))

/-- COMPACT: non-null keys packed to the low lanes (Table 6). -/
def compactFire (sh : Shot) (t : Tile) (a _b _c : Token) : Fired :=
  Fired.both { bank := sh.bank, tile := t, latency := 2 }
    (if a.valid then keyLine sh.cfg.key32 (liveKeys sh.cfg.key32 a.data) else zeroLine, a.valid, a.last)

/-- COMPACT (R103). -/
def execCompact (f : Firing) (s : State) : Host.Outcome State Fault Refusal := fireUnit 0x43 wantsOne compactFire f s

/-- COUNT: the number of non-null keys in lane 0; in running mode the total, produced at LAST only (R481). -/
def countFire (sh : Shot) (t : Tile) (a _b _c : Token) : Fired :=
  let wide := sh.cfg.key32
  let n := if a.valid then (liveKeys wide a.data).length else 0
  if bit sh.cfg.mode 1 then
    let total := sh.bank.running + n
    if a.last then
      Fired.both { bank := { sh.bank with running := 0 }, tile := t, latency := 2 } (keyLineZero wide [total], true, true)
    else { bank := { sh.bank with running := total }, tile := t, latency := 2 }
  else
    Fired.both { bank := sh.bank, tile := t, latency := 2 } (if a.valid then keyLineZero wide [n] else zeroLine, a.valid, a.last)

/-- COUNT (R481). -/
def execCount (f : Firing) (s : State) : Host.Outcome State Fault Refusal := fireUnit 0x44 wantsOne countFire f s

/-! ## Set operations (R104 to R106) -/

/-- The record of the address unit paired with steering unit SUr: AUr in the same fold slot (R90 pull link). -/
def Shot.puller (sh : Shot) : Record := sh.set.record (sh.u - 7) sh.f

/-- What a set operation passes on of the next key in merged order: its value, or null (Table 6). -/
inductive SetOp where
  | merge | union | intersect
  deriving DecidableEq, Repr

/-- Keep a key in the output: every key; the first copy; or the first copy of a key of both streams (Table 6). -/
def keepKey (op : SetOp) (k : Nat) (fromA : Bool) (otherHead last : Option Nat) : Bool :=
  match op with
  | .merge => true
  | .union => decide (last ≠ some k)
  | .intersect => decide (last ≠ some k) && fromA && decide (otherHead = some k)

/-- The next `n` keys in merged order, copies of stream A first, with what is left of the streams and the last key seen
(R104, Table 6). -/
def mergeKeys (op : SetOp) (null : Nat) : Nat → List Nat → List Nat → Option Nat → List Nat × List Nat × List Nat × Option Nat
  | 0, a, b, last => ([], a, b, last)
  | n + 1, a, b, last =>
    match a, b with
    | [], [] => ([], [], [], last)
    | x :: a', [] =>
      let r := mergeKeys op null n a' [] (some x)
      ((if keepKey op x true none last then x else null) :: r.1, r.2)
    | [], y :: b' =>
      let r := mergeKeys op null n [] b' (some y)
      ((if keepKey op y false none last then y else null) :: r.1, r.2)
    | x :: a', y :: b' =>
      if x ≤ y then
        let r := mergeKeys op null n a' (y :: b') (some x)
        ((if keepKey op x true (some y) last then x else null) :: r.1, r.2)
      else
        let r := mergeKeys op null n (x :: a') b' (some y)
        ((if keepKey op y false (some x) last then y else null) :: r.1, r.2)

/-- The set operation of a steering record (Table 6). -/
def Record.setOp (r : Record) : SetOp := if r.op = 0x46 then .union else if r.op = 0x47 then .intersect else .merge

/-- The pulls that output token `m` waits for: four tokens of each stream, then one for each output, until the streams are pulled (R104). -/
def pullsNeeded (pull : Record) (m : Nat) : Nat := Nat.min pull.accesses (8 + m)

/-- Merge the output tokens that the pulls so far allow, `n` of them at most (R104). -/
def fillOuts (r pull : Record) : Nat → Bank → Bank
  | 0, k => k
  | n + 1, k =>
    if k.outs.length < pull.accesses ∧ pullsNeeded pull k.outs.length ≤ k.pulledA + k.pulledB then
      let x := mergeKeys r.setOp (nullKey r.key32) (64 / keyBytes r.key32) k.keysA k.keysB k.lastOut
      fillOuts r pull n { k with keysA := x.2.1, keysB := x.2.2.1, lastOut := x.2.2.2, outs := k.outs ++ [keyLine r.key32 x.1] }
    else k

/-- One output token of a set operation: one every firing, A + B in all, the last of them marked LAST; its keys may still be on the pull link
(R104). -/
def setFire (sh : Shot) (t : Tile) (_a _b _c : Token) : Fired :=
  let k := sh.bank
  let n := k.produced
  if sh.puller.accesses ≤ n then { bank := k, tile := t }
  else
    let owed := if n < k.outs.length then none else some n
    Fired.both { bank := { k with produced := n + 1 }, tile := t, latency := 10, owed := owed }
      (k.outs.getD n zeroLine, true, n + 1 == sh.puller.accesses)

/-- MERGE (R104). -/
def execMerge (f : Firing) (s : State) : Host.Outcome State Fault Refusal := fireUnit 0x45 wantsNone setFire f s

/-- UNION (R104). -/
def execUnion (f : Firing) (s : State) : Host.Outcome State Fault Refusal := fireUnit 0x46 wantsNone setFire f s

/-- INTERSECT (R104). -/
def execIntersect (f : Firing) (s : State) : Host.Outcome State Fault Refusal := fireUnit 0x47 wantsNone setFire f s

end Sys2Proof.Machine
end

