-- ==== Sys2Proof/Machine/Address.lean ====
section
/-! DEFINITION. The address units: the access modes of chapter 3 Table 7 (R107 to R110, R118, R119, R139 to R143, R148,
R476, R482, R483). -/

namespace Sys2Proof.Machine

/-- Which access of its stream a firing makes, as (i0, i1) (chapter 3 Table 9). -/
def Shot.inner (sh : Shot) : Nat := sh.stream.access % Nat.max 1 sh.pattern.count0

def Shot.outer (sh : Shot) : Nat := sh.stream.access / Nat.max 1 sh.pattern.count0

/-- The line an access addresses (chapter 3 Table 9). -/
def Shot.line (sh : Shot) : Int :=
  (sh.pattern.baseLine : Int) + sh.inner * sh.pattern.step0 + sh.outer * sh.pattern.step1

/-- A pad cell from a cell of the data region; none outside the region (R132, R141). -/
def Shot.cell? (sh : Shot) (c : Int) : Option Nat :=
  if 0 ≤ c ∧ c < (32 * sh.lines : Nat) then some (32 * sh.run.base + c.toNat) else none

/-- Cells of a ROW access (R139). -/
def rowCells (sh : Shot) (line : Int) : List (Option Nat) := (List.range 32).map (fun (i : Nat) => sh.cell? (32 * line + i))

/-- Cells of a COLUMN access: column L mod 32 of tray L / 32, lane i from row i (R139). -/
def columnCells (sh : Shot) : List (Option Nat) :=
  (List.range 32).map (fun (i : Nat) => sh.cell? ((sh.line / 32 * 32 + i) * 32 + sh.line % 32))

/-- Cells of a STRIDED access (R140). -/
def stridedCells (sh : Shot) : List (Option Nat) :=
  let st := 32 * ((sh.pattern.baseLine : Int) + sh.outer * sh.pattern.step1) + 32 * sh.inner * sh.pattern.step0
  (List.range 32).map (fun (k : Nat) => sh.cell? (st + k * sh.pattern.step0))

/-- Lane indices of an index token, with 0xFFFF for none; a bubble indexes nothing (R141). -/
def indexLanes (b : Token) : List Nat := if b.valid then lanes16 b.data else List.replicate 32 0xFFFF

/-- Cells of a GATHER or SCATTER: offsets from the first cell of BASE_LINE (R141, chapter 3 Table 9). -/
def gatherCells (sh : Shot) (b : Token) : List (Option Nat) :=
  (indexLanes b).map (fun (o : Nat) => if o = 0xFFFF then none else sh.cell? (32 * (sh.pattern.baseLine : Int) + o))

/-- Some lane names a cell outside the data region (R141). -/
def gatherOut (sh : Shot) (b : Token) : Bool :=
  (indexLanes b).any (fun (o : Nat) => decide (o ≠ 0xFFFF) && (sh.cell? (32 * (sh.pattern.baseLine : Int) + o)).isNone)

/-- Cells of an INDEXED_ROW access: the access's line plus the offset in lane 0 (R141). -/
def indexedCells (sh : Shot) (b : Token) : List (Option Nat) :=
  let o := (indexLanes b).getD 0 0xFFFF
  if o = 0xFFFF then List.replicate 32 none else rowCells sh (sh.line + o)

/-- The indexed row lies outside the data region (R141). -/
def indexedOut (sh : Shot) (b : Token) : Bool :=
  let o := (indexLanes b).getD 0 0xFFFF
  decide (o ≠ 0xFFFF) && (sh.cell? (32 * (sh.line + o))).isNone

/-- LAST of a read: the final access of its stream (R476). -/
def Shot.lastAccess (sh : Shot) : Bool := sh.stream.access + 1 == sh.pattern.accesses

/-- The bank with this access counted (R113). -/
def Shot.accessed (sh : Shot) : Bank := sh.putStream { sh.stream with access := sh.stream.access + 1 } sh.bank

/-- INDEX_RANGE, BANK_BUDGET and PAD_PARITY of an access, each with its figure (R108, R141, R143). -/
def accessConds (sh : Shot) (outside long upset : Bool) : List (Cond × Nat) :=
  (if outside then [(Cond.indexRange, sh.pattern.baseLine)] else []) ++ (if long then [(Cond.bankBudget, sh.pattern.cycles)] else []) ++
    (if upset then [(Cond.padParity, sh.pattern.baseLine)] else [])

/-- Whether the cells of an access need more bank cycles than its budget (R108, R136). -/
def overBudget (sh : Shot) (cells : List (Option Nat)) : Bool := decide (sh.pattern.cycles < bankCycles (cells.filterMap id))

/-- A read of cells: the token, valid when some lane made an access; `pad` cycles P. `damage`: what stands for the data of a read that failed
its parity check (R141, R143, R483). -/
def readFire (damage : Option (List Byte)) (sh : Shot) (t : Tile) (cells : List (Option Nat)) (pad : Nat) (conds : List (Cond × Nat)) : Fired :=
  let valid := cells.any (·.isSome)
  Fired.both { bank := sh.accessed, tile := t, latency := 2 + pad, conds := conds }
    (if valid then damage.getD (bytes16 (readCells t.pad cells)) else zeroLine, valid, sh.lastAccess)

/-- A write of a token's lanes to cells; a bubble writes nothing (R94, R109, R483). -/
def writeFire (sh : Shot) (t : Tile) (a : Token) (cells : List (Option Nat)) (pad : Nat) (conds : List (Cond × Nat)) : Fired :=
  if a.valid then
    { bank := sh.accessed, conds := conds,
      tile := { t with pad := writeCells t.pad cells (lanes16 a.data),
                       weave := { t.weave with writesUntil := Nat.max t.weave.writesUntil (sh.cycle + 2 + pad) } } }
  else { bank := sh.accessed, tile := t, conds := conds }

/-- An access of an address unit in a mode (chapter 3 Table 7). -/
def fireAccess (mode : Nat) (wants : Shot → Want × Want × Want) (act : Shot → Tile → Token → Token → Token → Fired) (fi : Firing)
    (s : State) : Host.Outcome State Fault Refusal :=
  if fi.tile < 1152 ∧ fi.unit < 32 ∧ fi.fold < 8 then
    .next (match shot? fi s with
      | none => s
      | some sh =>
        if sh.cfg.op = 0x60 ∧ sh.pattern.mode = mode ∧ unitKind fi.unit = .address then fireWith sh (wants sh) (act sh) s else s)
  else .fault .noSuchUnit

/-- A read access, with `upset` when its parity check fails: it then delivers an open value (R143). -/
def fireRead (mode : Nat) (wants : Shot → Want × Want × Want)
    (act : Option (List Byte) → Shot → Tile → Token → Token → Token → Fired) (upset : Bool) (fi : Firing) (s : State) :
    Host.Outcome State Fault Refusal :=
  if upset then fireAccess mode wants (act (some s.freeLine)) fi { s with freeCtr := s.freeCtr + 4 }
  else fireAccess mode wants (act none) fi s

/-- ROW read (R139). -/
def execRowRead (f : Firing) (upset : Bool) (s : State) : Host.Outcome State Fault Refusal :=
  fireRead 1 wantsNone (fun d sh t _ _ _ => readFire d sh t (rowCells sh sh.line) 1 (accessConds sh false false upset)) upset f s

/-- ROW write (R139). -/
def execRowWrite (f : Firing) (s : State) : Host.Outcome State Fault Refusal :=
  fireAccess 2 wantsData (fun sh t a _ _ => writeFire sh t a (rowCells sh sh.line) 1 []) f s

/-- COLUMN read (R139). -/
def execColumnRead (f : Firing) (upset : Bool) (s : State) : Host.Outcome State Fault Refusal :=
  fireRead 3 wantsNone (fun d sh t _ _ _ => readFire d sh t (columnCells sh) 1 (accessConds sh false false upset)) upset f s

/-- COLUMN write (R139). -/
def execColumnWrite (f : Firing) (s : State) : Host.Outcome State Fault Refusal :=
  fireAccess 4 wantsData (fun sh t a _ _ => writeFire sh t a (columnCells sh) 1 []) f s

/-- STRIDED read (R140). -/
def execStridedRead (f : Firing) (upset : Bool) (s : State) : Host.Outcome State Fault Refusal :=
  fireRead 5 wantsNone (fun d sh t _ _ _ =>
    readFire d sh t (stridedCells sh) sh.pattern.cycles (accessConds sh false (overBudget sh (stridedCells sh)) upset)) upset f s

/-- STRIDED write (R140). -/
def execStridedWrite (f : Firing) (s : State) : Host.Outcome State Fault Refusal :=
  fireAccess 6 wantsData (fun sh t a _ _ =>
    writeFire sh t a (stridedCells sh) sh.pattern.cycles (accessConds sh false (overBudget sh (stridedCells sh)) false)) f s

/-- INDEXED_ROW read (R141). -/
def execIndexedRowRead (f : Firing) (upset : Bool) (s : State) : Host.Outcome State Fault Refusal :=
  fireRead 7 wantsIndex (fun d sh t _ b _ =>
    readFire d sh t (indexedCells sh b) 1 (accessConds sh (indexedOut sh b) false upset)) upset f s

/-- INDEXED_ROW write (R141). -/
def execIndexedRowWrite (f : Firing) (s : State) : Host.Outcome State Fault Refusal :=
  fireAccess 8 wantsBoth (fun sh t a b _ =>
    writeFire sh t a (indexedCells sh b) 1 (accessConds sh (indexedOut sh b) false false)) f s

/-- GATHER (R141). -/
def execGather (f : Firing) (upset : Bool) (s : State) : Host.Outcome State Fault Refusal :=
  fireRead 9 wantsIndex (fun d sh t _ b _ =>
    readFire d sh t (gatherCells sh b) sh.pattern.cycles
      (accessConds sh (gatherOut sh b) (overBudget sh (gatherCells sh b)) upset)) upset f s

/-- SCATTER (R109, R141). -/
def execScatter (f : Firing) (s : State) : Host.Outcome State Fault Refusal :=
  fireAccess 10 wantsBoth (fun sh t a b _ =>
    writeFire sh t a (gatherCells sh b) sh.pattern.cycles
      (accessConds sh (gatherOut sh b) (overBudget sh (gatherCells sh b)) false)) f s

/-! ## PROBE (R142) -/

/-- A lane of a lookup: still looking for a key from a slot on, or resolved. -/
inductive Probe where
  | looking (key h : Nat)
  | found (v : Nat)
  deriving DecidableEq, Repr

/-- The first slot of a key (R142). -/
def probeHash (wide : Bool) (sz key : Nat) : Nat :=
  if wide then key * 2654435761 % 2 ^ 32 / 2 ^ (32 - sz) else key * 40503 % 2 ^ 16 / 2 ^ (16 - sz)

/-- First cell of a slot of the table, counted in pad cells from the table's first cell after the header (R142). -/
def slotCell (wide : Bool) (first slot : Nat) : Nat := first + (if wide then 4 else 2) * slot

/-- Key and value of a slot. -/
def slotEntry (pad : Memory) (wide : Bool) (cell : Nat) : Nat × Nat :=
  if wide then (pad.readLe (2 * cell) 4, pad.readLe (2 * cell + 4) 4) else (cellNum pad cell, cellNum pad (cell + 1))

/-- One round of a lookup: the lanes after it, and the cells it read (R142). -/
def probeRound (pad : Memory) (wide : Bool) (sz first p : Nat) (lanes : List Probe) : List Probe × List Nat :=
  let go := fun (x : Probe) => match x with
    | .found v => (Probe.found v, [])
    | .looking key h =>
      let c := slotCell wide first ((h + p) % 2 ^ sz)
      let e := slotEntry pad wide c
      let cells := (List.range (if wide then 4 else 2)).map (c + ·)
      if e.1 = key then (.found e.2, cells)
      else if e.1 = nullKey wide then (.found (nullKey wide), cells)
      else (.looking key h, cells)
  (lanes.map (fun x => (go x).1), (lanes.map (fun x => (go x).2)).flatten)

/-- Rounds `p` to MAX_PROBES: the lanes after them and the bank cycles they cost (R136, R142). -/
def probeRounds (pad : Memory) (wide : Bool) (sz first : Nat) : Nat → Nat → List Probe → List Probe × Nat
  | 0, _, lanes => (lanes, 0)
  | n + 1, p, lanes =>
    let r := probeRound pad wide sz first p lanes
    let q := probeRounds pad wide sz first n (p + 1) r.1
    (q.1, bankCycles r.2 + q.2)

/-- The result lane. -/
def Probe.value (null : Nat) (x : Probe) : Nat :=
  match x with
  | .looking _ _ => null
  | .found v => v

/-- Lines of a probe table with its header (R142). -/
def tableLines (wide : Bool) (sz : Nat) : Nat := 1 + (if wide then 4 else 2) * 2 ^ sz / 32

/-- One PROBE access: a bubble reads nothing, the header included, which the first access that reads holds for the others (R142). -/
def probeFire (upset : Bool) (damage : Option (List Byte)) (sh : Shot) (t : Tile) (_a b _c : Token) : Fired :=
  let top := 32 * (sh.run.base + sh.pattern.baseLine)
  let head := match sh.stream.probeHead with
    | some h => h
    | none => (cellNum t.pad top, cellNum t.pad (top + 1))
  let wide := decide (head.2 ≠ 0)
  let sz := head.1
  let k := sh.putStream { sh.stream with access := sh.stream.access + 1, probeHead := if b.valid then some head else sh.stream.probeHead } sh.bank
  let r0 : Fired := { bank := k, tile := t, latency := 2 + sh.pattern.cycles }
  let bad := decide (sz < 4) || decide ((if wide then 14 else 15) < sz) || decide (sh.lines < sh.pattern.baseLine + tableLines wide sz)
  if !b.valid then Fired.both r0 (zeroLine, false, sh.lastAccess)
  else if bad then Fired.both { r0 with conds := accessConds sh true false upset } (zeroLine, false, sh.lastAccess)
  else
    let null := nullKey wide
    let lanes := (keysOf wide b.data).map (fun key => if key = null then Probe.found null else .looking key (probeHash wide sz key))
    let q := probeRounds t.pad wide sz (top + 32) (sh.pattern.maxProbes + 1) 0 lanes
    let cost := q.2 + (if sh.stream.probeHead.isNone then 1 else 0)
    Fired.both { r0 with conds := accessConds sh false (decide (sh.pattern.cycles < cost)) upset }
      (damage.getD (keyLineZero wide (q.1.map (Probe.value null))), true, sh.lastAccess)

/-- PROBE (R142). -/
def execProbe (f : Firing) (upset : Bool) (s : State) : Host.Outcome State Fault Refusal :=
  fireRead 11 wantsIndex (probeFire upset) upset f s

/-! ## APPEND, SEND, TAKE, PULL -/

/-- Write non-null keys from an offset in cells on; a key that would leave the region is not written (R482). -/
def appendKeys (sh : Shot) (wide : Bool) : List Nat → Nat → Memory → Nat × Memory × Bool
  | [], off, pad => (off, pad, false)
  | k :: ks, off, pad =>
    let n := keyBytes wide / 2
    let c : Int := 32 * (sh.pattern.baseLine : Int) + off
    match sh.cell? c, sh.cell? (c + n - 1) with
    | some x, some _ => appendKeys sh wide ks (off + n) (pad.writeBytes (2 * x) (leBytes (2 * n) k))
    | _, _ =>
      let r := appendKeys sh wide ks off pad
      (r.1, r.2.1, true)

/-- One APPEND access (R482). -/
def appendFire (sh : Shot) (t : Tile) (a _b _c : Token) : Fired :=
  let wide := sh.pattern.key32
  if a.valid then
    let r := appendKeys sh wide (liveKeys wide a.data) sh.stream.offset t.pad
    { bank := sh.putStream { sh.stream with access := sh.stream.access + 1, offset := r.1 } sh.bank,
      conds := accessConds sh r.2.2 false false,
      tile := { t with pad := r.2.1, weave := { t.weave with writesUntil := Nat.max t.weave.writesUntil (sh.cycle + 4) } } }
  else { bank := sh.accessed, tile := t }

/-- APPEND (R482). -/
def execAppend (f : Firing) (s : State) : Host.Outcome State Fault Refusal := fireAccess 12 wantsData appendFire f s

/-- The staging lines of a message: its payload ends with the last valid token (R119). -/
def stagedLines : List (Nat × Bool) → List Nat
  | [] => []
  | k :: l =>
    let r := stagedLines l
    if r.isEmpty && !k.2 then [] else k.1 :: r

/-- One SEND access: the token into its staging line, and at the end of a message the message (R119, R152). -/
def sendFire (sh : Shot) (t : Tile) (a b _c : Token) : Fired :=
  let st := sh.stream
  let lane := if b.valid then (lanes16 b.data).getD 0 0 else 0
  let dest := if sh.firstToken then (sh.pattern.destTask + (if sh.pattern.destDyn then lane else 0)) % 2 ^ 24 else st.sendDest
  let lines := (if sh.firstToken then [] else st.sendLines) ++ [(((sh.run.base : Int) + sh.line).toNat, a.valid)]
  let pad := if a.valid then writeCells t.pad (rowCells sh sh.line) (lanes16 a.data) else t.pad
  let w := if a.valid then Nat.max t.weave.writesUntil (sh.cycle + 3) else t.weave.writesUntil
  let t := { t with pad := pad, weave := { t.weave with writesUntil := w } }
  let done := sh.lastToken
  let msgs := fun (run : TaskRun) =>
    let q := sh.pattern.queue
    let n := (run.messages.filter (fun m => m.destTask == dest && m.queue == q)).length
    { run with messages := run.messages ++ [{ destTask := dest, queue := q, seq := n, lines := stagedLines lines }] }
  { bank := sh.putStream { st with access := st.access + 1, sendLines := if done then [] else lines, sendDest := dest } sh.bank,
    tile := if done then { t with current := t.current.map msgs } else t }

/-- SEND (R119). -/
def execSend (f : Firing) (s : State) : Host.Outcome State Fault Refusal := fireAccess 13 wantsSend sendFire f s

/-- One TAKE access: the next token of the current message (R118, R148). -/
def takeFire (upset : Bool) (damage : Option (List Byte)) (sh : Shot) (t : Tile) (_a _b _c : Token) : Fired :=
  let q := sh.pattern.queue
  let r := t.ring q
  let st := sh.stream
  let at_ := if sh.firstToken then nextMessage r else st.takeAt
  let k := st.access % (sh.pattern.msgTokens + 1)
  let len := match at_ with
    | some off => (ringHeader t.pad r off).len
    | none => 0
  let limit := 64 * (sh.pattern.msgTokens + 1)
  let n := Nat.min 64 (Nat.min len limit - 64 * k)
  let data := match at_ with
    | some off => t.pad.readBytes (16 * (r.base + off) + 16 + 64 * k) n
    | none => []
  let r := match at_, sh.firstToken with
    | some off, true => { r with chosenAt := r.chosenAt ++ [off] }
    | _, _ => r
  let r := match at_, sh.lastToken with
    | some off, true => finishTake t.pad off r
    | _, _ => r
  let big := sh.firstToken && decide (limit < len)
  Fired.both { bank := sh.putStream { st with access := st.access + 1, takeAt := if sh.lastToken then none else at_ } sh.bank,
               tile := t.onRing q (fun _ => r), latency := 3,
               conds := (if big then [(Cond.msgOversize, q)] else []) ++ (if upset then [(Cond.padParity, q)] else []) }
    (damage.getD ((data ++ zeroLine).take 64), decide (0 < n), sh.lastAccess)

/-- TAKE (R118). -/
def execTake (f : Firing) (upset : Bool) (s : State) : Host.Outcome State Fault Refusal :=
  fireRead 14 wantsNone (takeFire upset) upset f s

/-- The stream the next PULL takes: four tokens of each first, then the stream with fewer unconsumed keys (R104). -/
def pullsA (r : Record) (k : Bank) : Bool :=
  let a := r.patA.accesses
  let b := r.patB.accesses
  if k.pulledA < Nat.min 4 a then true
  else if k.pulledB < Nat.min 4 b then false
  else if a ≤ k.pulledA then false
  else if b ≤ k.pulledB then true
  else decide (k.keysA.length ≤ k.keysB.length)

/-- A key smaller than its predecessor in the stream; null is the largest, so this finds a key after a null too (R106). -/
def disordered : Option Nat → List Nat → Bool
  | _, [] => false
  | last, k :: l => (match last with
      | some x => decide (k < x)
      | none => false) || disordered (some k) l

/-- The outputs of a set operation that the pulls have filled reach the tokens that stand for them, two cycles over the pull link after the
pull at this cycle (R90 Table 2, R104). -/
def fillOwed (u f cycle : Nat) (outs : List (List Byte)) (x : InFlight) : InFlight :=
  match x.owed with
  | none => x
  | some o =>
    if o.unit = u ∧ o.fold = f ∧ o.number < outs.length then
      { x with avail := Nat.max x.avail (cycle + 2 + o.latency), token := { x.token with data := outs.getD o.number [] }, owed := none }
    else x

/-- The same for a token in the unit's own state bank. -/
def fillOwn (k : Bank) : Bank :=
  match k.ownOwed with
  | some n => if n < k.outs.length then { k with own := k.own.map (fun x => { x with data := k.outs.getD n [] }), ownOwed := none } else k
  | none => k

/-- One PULL access: a line of a sorted stream passes over the pull link to the paired steering unit, which merges what it now can (R104,
R106). -/
def pullFire (upset : Bool) (damage : Option (List Byte)) (sh : Shot) (t : Tile) (_a _b _c : Token) : Fired :=
  let su := (sh.u + 7, sh.f)
  let k := look {} su t.banks
  let r := sh.set.record (sh.u + 7) sh.f
  let useA := pullsA sh.cfg k
  let p := if useA then sh.cfg.patA else sh.cfg.patB
  let i := if useA then k.pulledA else k.pulledB
  let line : Int := (p.baseLine : Int) + (i % Nat.max 1 p.count0 : Nat) * p.step0 + (i / Nat.max 1 p.count0 : Nat) * p.step1
  let keys := keysOf r.key32 (damage.getD (bytes16 (readCells t.pad (rowCells sh line))))
  let bad := disordered (if useA then k.lastA else k.lastB) keys
  let k := if useA then { k with keysA := k.keysA ++ keys, pulledA := k.pulledA + 1, lastA := keys.getLast? }
    else { k with keysB := k.keysB ++ keys, pulledB := k.pulledB + 1, lastB := keys.getLast? }
  let k := fillOwn (fillOuts r sh.cfg 8 k)
  { bank := sh.bank,
    tile := { t with banks := put su k t.banks, channels := t.channels.map (fun q => (q.1, q.2.map (fillOwed su.1 su.2 sh.cycle k.outs))) },
    conds := (if bad then [(Cond.streamOrder, p.baseLine)] else []) ++ (if upset then [(Cond.padParity, p.baseLine)] else []) }

/-- PULL (R104). -/
def execPull (f : Firing) (upset : Bool) (s : State) : Host.Outcome State Fault Refusal :=
  fireRead 15 wantsNone (pullFire upset) upset f s

end Sys2Proof.Machine
end

