-- ==== Sys2Proof/Machine/Image.lean ====
section
/-! DEFINITION. Reading a job image from its bytes (R26 to R45, R297) and the checks of LOAD_IMAGE (R24, R28, R44, R45). -/

namespace Sys2Proof.Machine

/-- The number in `n` bytes of an image from an offset (R14). -/
def rawLe (raw : List Byte) (off n : Nat) : Nat := leNat ((raw.drop off).take n)

/-- The records of `size` bytes that lie in `len` bytes from an offset, as numbers. -/
def recordsAt (raw : List Byte) (off len size : Nat) : List Nat :=
  (List.range (len / size)).map (fun i => rawLe raw (off + size * i) size)

/-- Task table entry (R29 Table 4). -/
def parseTask (r : Nat) : Task :=
  { weaveCycles := bits r 0 32, drainBound := bits r 32 16, wave := bits r 48 16, gang := bits r 64 16, configSet := bits r 80 16,
    fillList := bits r 96 32, drainList := bits r 128 32, dataTrays := bits r 160 8, queueMask := bits r 168 16,
    stealable := bit r 184, homeMsg := bit r 185, sends := bit r 186, remoteAdd := bit r 187, collective := bit r 188,
    affinity := bits r 192 16, fillBytes := bits r 208 32, drainBytes := bits r 240 32, collectiveId := bits r 272 16 }

/-- Fill and drain entry (R34 Table 6). -/
def parseEntry (r : Nat) : Entry :=
  { loaf := bits r 0 25, line := bits r 25 11, count := bits r 36 12, padLine := bits r 48 12, kind := bits r 60 2,
    indexLine := bits r 64 12, tensor := bits r 80 16 }

/-- Loaf declaration record (R40 Table 7). -/
def parseDecl (r : Nat) : Decl :=
  { first := bits r 0 25, count := bits r 25 25, unbacked := bit r 50, keepInSlice := bit r 51, streamOnce := bit r 52,
    preferDdr := bit r 53, hostIn := bit r 54, hostOut := bit r 55, affinity := bits r 64 16, tensor := bits r 80 16 }

/-- Numerics policy entry (R42 Table 8). -/
def parseNumeric (r : Nat) : Numeric :=
  { tensor := bits r 0 16, format := bits r 16 5, cls := bits r 21 2, current := bit r 23, headroom := bits r 24 2, bf16 := bit r 26 }

/-- Address stream pattern (chapter 3 Table 9). -/
def parsePattern (r : Nat) : Pattern :=
  { mode := bits r 0 4, baseLine := bits r 4 12, step0 := signedOf 16 (bits r 16 16), count0 := bits r 32 16,
    step1 := signedOf 16 (bits r 48 16), count1 := bits r 64 16, budget := bits r 80 3, queue := bits r 83 4,
    msgTokens := bits r 87 5, maxProbes := bits r 92 4, destTask := bits r 96 24, destDyn := bit r 120, key32 := bit r 121,
    startVisit := bits r 128 16 }

/-- Configuration record of a unit (chapter 3 Table 8). DESIGN CHOICE (notes/assumptions/73.md): an address unit's record has no OPERAND bytes
for a constant token, so code 11 gives it one of no data, which reads as zeros. -/
def parseRecord (u : Nat) (bytes : List Byte) : Record :=
  let r := leNat bytes
  let au := unitKind u == .address
  { op := bits r 0 8, mode := bits r 8 8, inA := bits r 16 4, inB := bits r 20 4, inC := bits r 24 4, out0 := bits r 28 4,
    out1 := bits r 32 4, beatOffset := bits r 36 4, govern := bits r 40 3, foldCheck := bit r 43, expectFold := bits r 44 3,
    span := bits r 48 16, fireStart := bits r 64 16, fireStride := bits r 80 8, fireCount := bits r 88 16,
    firstVisit := bits r 104 16, fireLimit := bits r 120 24, tensor := bits r 144 16, chainLen := bits r 160 4,
    panelTokens := bits r 164 6, swapEvery := bits r 176 16, elemBase := bits r 192 48, elemStride := bits r 240 16,
    taskStride := bits r 256 32, bHold := bit r 288, holdLane := bits r 289 5, holdStep := bits r 294 5,
    holdFirings := bits r 299 8, split := bits r 480 16, group := bits r 496 16,
    constant := if au then [] else (bytes.drop 64).take 64,
    patA := if au then parsePattern (bits r 512 256) else {}, patB := if au then parsePattern (bits r 768 256) else {} }

/-- The configuration set at an offset of the image (R33 Table 5), none when it does not lie below `limit` or its
FOLD_COUNT is out of range. -/
def parseSet (raw : List Byte) (off limit : Nat) : Option ConfigSet :=
  let h := rawLe raw off 32
  let fc := bits h 0 4
  if off + 32 ≤ limit ∧ 1 ≤ fc ∧ fc ≤ 8 ∧ off + 32 + 4096 * fc ≤ limit then
    some { seq := (List.range (bits h 4 7)).map (fun i => bits h (64 + 3 * i) 3),
           folds := (List.range fc).map (fun f => (List.range 32).map (fun u =>
             parseRecord u ((raw.drop (off + 32 + 4096 * f + 128 * u)).take 128))) }
  else none

/-- Rounded up to a multiple of 64. -/
def align64 (n : Nat) : Nat := (n + 63) / 64 * 64

/-- The sets of the CONFIG_SETS section with their offsets, and the offset of one that ends the walk (R33). -/
def walkSets (raw : List Byte) (limit : Nat) : Nat → Nat → List (Nat × ConfigSet) × Option Nat
  | 0, _ => ([], none)
  | n + 1, off =>
    if limit ≤ off then ([], none)
    else match parseSet raw off limit with
      | none => ([], some off)
      | some cs =>
        let r := walkSets raw limit n (off + align64 (32 + 4096 * cs.folds.length))
        ((off, cs) :: r.1, r.2)

/-- Collective plan entry (R297, chapter 9 Table 4). -/
def parseColl (r : Nat) : CollEntry :=
  { op := bits r 0 4, algo := bits r 4 4, k := bits r 8 8, group := bits r 16 16, root := bits r 32 24, chunk := bits r 56 3,
    useCircuit := bit r 59, rBf16 := bit r 60, circuitNo := bits r 64 16, srcLoaf := bits r 96 25, srcLines := bits r 128 32,
    dstLoaf := bits r 160 25, dstLines := bits r 192 32, stageLoaf := bits r 224 25, stageLines := bits r 256 32,
    countLoaf := bits r 288 25, stages := bits r 320 16 }

/-- Group record (R298, chapter 9 Table 5). -/
def parseGroup (r : Nat) : Group :=
  { list := bit r 0, dimMask := bits r 2 6, listFirst := bits r 32 32, listLen := bits r 64 32 }

/-- Section table entry `i`: offset, length, type and RSV (R28, chapter 1 Table 3). -/
def sectionAt (raw : List Byte) (i : Nat) : Nat × Nat × Nat × Nat :=
  let e := rawLe raw (0x40 + 16 * i) 16
  (bits e 0 64, bits e 64 32, bits e 96 16, bits e 112 16)

/-- Offset and length of a section, by TYPE - 1. -/
def Image.section (im : Image) (i : Nat) : Nat × Nat := im.sections.getD i (0, 0)

/-- The offsets in the image of the four parts of a collective plan at `off`: header, entries, groups, addresses (R297). -/
def collParts (raw : List Byte) (off : Nat) : Nat × Nat × Nat :=
  let h := rawLe raw off 64
  let e := off + 64
  let g := e + align64 (64 * bits h 0 16)
  (e, g, g + align64 (16 * bits h 16 16))

/-- The image's records, read from its bytes (R26). -/
def parseImage (raw : List Byte) : Image :=
  let sec := (List.range 8).map (fun i => let e := sectionAt raw i; (e.1, e.2.1))
  let at_ := fun i => sec.getD i (0, 0)
  let flags := rawLe raw 0x24 4
  let sets := walkSets raw ((at_ 1).1 + (at_ 1).2) ((at_ 1).2 / 64 + 1) (at_ 1).1
  let coll := decide ((at_ 5).2 ≠ 0)
  let ch := rawLe raw (at_ 5).1 64
  let cp := collParts raw (at_ 5).1
  { imageBytes := rawLe raw 8 8, sections := sec, taskCount := rawLe raw 0x14 4, tickUs := rawLe raw 0x10 2,
    loafCount := rawLe raw 0x18 4, tensorCount := rawLe raw 0x1C 4, waveCount := rawLe raw 0x20 4,
    signed := bit flags 0, deterministic := bit flags 1, queueRotate := bit flags 2, flags := flags,
    queueSizes := (List.range 16).map (fun q => bits (rawLe raw 0x28 8) (4 * q) 4),
    compilerBuild := BitVec.ofNat 64 (rawLe raw 0x30 8),
    reportHash := BitVec.ofNat 384 (rawLe raw (at_ 6).1 48), taskHash := BitVec.ofNat 384 (rawLe raw ((at_ 6).1 + 0x30) 48),
    tasks := (recordsAt raw (at_ 0).1 (at_ 0).2 64).map parseTask,
    sets := sets.1.map (·.2), setAt := sets.1.map (·.1), badSet := sets.2,
    lists := (raw.drop (at_ 2).1).take (at_ 2).2,
    decls := (recordsAt raw (at_ 3).1 (at_ 3).2 16).map parseDecl,
    numerics := (recordsAt raw (at_ 4).1 (at_ 4).2 8).map parseNumeric,
    collPresent := coll, chunkTimeout := bits ch 64 16,
    colls := if coll then (recordsAt raw cp.1 (64 * bits ch 0 16) 64).map parseColl else [],
    groups := if coll then (recordsAt raw cp.2.1 (16 * bits ch 16 16) 16).map parseGroup else [],
    addrs := if coll then (recordsAt raw cp.2.2 (4 * bits ch 32 32) 4).map (fun r => bits r 0 24) else [] }

/-- ENTRY_COUNT of the list at an offset of FILL_DRAIN in 16-byte units (R34). -/
def Image.listCount (im : Image) (ref : Nat) : Nat := leNat ((im.lists.drop (16 * ref)).take 2)

/-- The entries of a task's list; none names no list (R29, R34). -/
def Image.list (im : Image) (ref : Nat) : List Entry :=
  if ref = 0xFFFFFFFF then []
  else (recordsAt im.lists (16 * ref + 16) (16 * im.listCount ref) 16).map parseEntry

def Image.fills (im : Image) (t : Task) : List Entry := im.list t.fillList

def Image.drains (im : Image) (t : Task) : List Entry := im.list t.drainList

/-! ## LOAD_IMAGE (R24) -/

/-- A check that failed: the offsets in the image of the items that take part (R475). -/
def items (broken : Bool) (at_ : List Nat) : List Nat := if broken then at_ else []

/-- Two byte ranges meet; an empty one meets none. -/
def rangesMeet (a la b lb : Nat) : Bool := decide (la ≠ 0) && decide (lb ≠ 0) && decide (a < b + lb) && decide (b < a + la)

/-- The section table and IMAGE_BYTES (R24 step 3: R26, R28, Table 3, the sizes of Tables 10 and 11). DESIGN CHOICE (notes/assumptions/74.md):
IMAGE_BYTES rounded up to 64 is compared with the bytes transferred, and the OFFSET of an empty section is held to the same bounds as any. -/
def tableFaults (raw : List Byte) : List Nat :=
  let n := raw.length
  let size := rawLe raw 8 8
  let entry := fun i => 0x40 + 16 * i
  let one := fun i =>
    let e := sectionAt raw i
    let (off, len, typ, rsv) := e
    items (decide (typ ≠ i + 1) || decide (rsv ≠ 0) || decide (off % 64 ≠ 0) || decide (off < 256)
        || (decide (len = 0) && decide (i ≠ 5) && decide (i ≠ 7)) || (decide (i = 6) && decide (len ≠ 128))
        || (decide (i = 7) && decide (len ≠ 0) && decide (len ≠ 112)))
      [entry i]
    ++ items (decide (off + len > size)) [8, entry i]
  let pair := fun i j =>
    let a := sectionAt raw i
    let b := sectionAt raw j
    items (rangesMeet a.1 a.2.1 b.1 b.2.1) [entry i, entry j]
  let sig := sectionAt raw 7
  items (decide (align64 size ≠ n)) [8]
  ++ items (decide (rawLe raw 0x12 2 ≠ 8)) [0x12]
  ++ ((List.range 8).map one).flatten
  ++ ((List.range 8).map (fun i => ((List.range i).map (pair i)).flatten)).flatten
  ++ items (decide (sig.2.1 ≠ 0) && decide (sig.1 + sig.2.1 ≠ size)) [8, entry 7]
  ++ ((List.range 7).map (fun i => items (decide (sig.2.1 ≠ 0) && decide ((sectionAt raw i).1 + (sectionAt raw i).2.1 > sig.1)) [entry i, entry 7])).flatten

/-- The largest of a list. -/
def maxOf (l : List Nat) : Nat := l.foldl Nat.max 0

/-- The proof-report digest (R24 step 5, R44 Table 10). The digest section is one record and the item. DESIGN CHOICE (notes/assumptions/74.md):
the RSV bytes of the digest and signature sections are not checked. -/
def digestFaults (raw : List Byte) (im : Image) : List Nat :=
  let t := im.section 0
  let d := (im.section 6).1
  let cyc := im.tasks.map (·.weaveCycles)
  items (decide (Config.sha384 ((raw.drop t.1).take t.2) ≠ im.taskHash)) [d]
  ++ items (decide (cyc.sum % 2 ^ 64 ≠ rawLe raw (d + 0x60) 8)) [d]
  ++ items (decide (maxOf cyc ≠ rawLe raw (d + 0x68) 4)) [d]

/-- DETAIL for an image refused with BAD_ARG: bit 31 and half the lowest offset (R475). -/
def itemDetail (l : List Nat) : Nat :=
  match l with
  | [] => 0
  | a :: l => 0x80000000 + l.foldl Nat.min a / 2

/-- The bytes of a 384-bit value of Config, byte i in bits [8i+7:8i] (notes/assumptions/4.md). -/
def hashBytes (h : BitVec 384) : List Byte := leBytes 48 h.toNat

/-- A key stored under KEY_ID. -/
def keyFor (keys : List (Nat × List Byte)) (id : Nat) : Option (List Byte) :=
  (keys.find? (fun k => leNat ((hashBytes (Config.sha384 k.2)).take 8) == id)).map (·.2)

/-- The signature of an image verifies against the operator image key under its KEY_ID (R45). -/
def imageSigned (raw : List Byte) (im : Image) (keys : List (Nat × List Byte)) : Bool :=
  let sg := (im.section 7).1
  match keyFor keys (rawLe raw sg 8) with
  | none => false
  | some k => Config.ecdsaVerify k (Config.sha384 (raw.take sg)) (BitVec.ofNat 768 (rawLe raw (sg + 0x10) 96))

/-- The checks of LOAD_IMAGE in the order of R24: status and DETAIL of the first failure, or the image. DESIGN CHOICE
(notes/assumptions/74.md): the limit of 4 GiB of R23 is taken on the bytes transferred, before MAGIC and FORMAT. -/
def loadImageCheck (raw : List Byte) (requireSigned : Bool) (keys : List (Nat × List Byte)) : (Nat × Nat) ⊕ Image :=
  if raw.length > 4294967296 then .inl (stNoSpace, 0)
  else if rawLe raw 0 4 ≠ 0x4947544C ∨ rawLe raw 4 2 ≠ 0x0400 then .inl (stNotSupported, 0)
  else if rawLe raw 6 2 ≠ 4 then .inl (stNotSupported, 0)
  else if tableFaults raw ≠ [] then .inl (stBadArg, itemDetail (tableFaults raw))
  else
    let im := parseImage raw
    if (if (im.section 7).2 = 0 then requireSigned else !imageSigned raw im keys) then .inl (stAuthFail, 0)
    else if digestFaults raw im ≠ [] then .inl (stBadArg, itemDetail (digestFaults raw im))
    else .inr im

end Sys2Proof.Machine
end

