-- ==== Sys2Proof/Machine/Mesh.lean ====
section
/-! DEFINITION. The weaver network and the stake network: positions, routers, planes, paths, inbound ports, attachment routers, latencies and
message classes (R210, R220 to R226, R228, R233, R238). -/

namespace Sys2Proof.Machine

/-! ## Positions (R220, R221) -/

/-- Mesh coordinates of a physical tile (R220). -/
def meshXY (p : Nat) : Nat × Nat :=
  let d := p / 144
  let r := p % 144 / 12
  let c := p % 12
  if 4 ≤ d then (12 * (d - 4) + c, 12 + r) else (12 * d + 11 - c, 11 - r)

/-- The router of a physical tile (R221). -/
def routerOf (p : Nat) : Nat × Nat := ((meshXY p).1 / 2, (meshXY p).2 / 2)

/-- The base die a router lies on (R221). -/
def routerDie (a : Nat × Nat) : Nat := a.1 / 6 + 4 * (a.2 / 6)

def distance (a b : Nat) : Nat := (a - b) + (b - a)

/-! ## Planes, paths and ports (R225, R228) -/

/-- The plane that every access to line `j` of frame `f` takes (R225). -/
def planeOf (f j : Nat) : Nat := (f + j) % 4

/-- The coordinates passed from one to another, the last included. -/
def walk (a b : Nat) : List Nat := (List.range (distance a b)).map (fun i => if a < b then a + i + 1 else a - i - 1)

/-- The routers a message passes after its first: along u, then along v (R225). -/
def meshPath (a b : Nat × Nat) : List (Nat × Nat) := (walk a.1 b.1).map (·, a.2) ++ (walk a.2 b.2).map (b.1, ·)

/-- The side by which a message from router `a` comes into router `b`, after a path along u and then v (R225). -/
def inboundSide (a b : Nat × Nat) : MeshSide :=
  if a.2 < b.2 then .south
  else if b.2 < a.2 then .north
  else if a.1 < b.1 then .west
  else if b.1 < a.1 then .east
  else .own

/-- The port by which a request of tile `p` for line `j` of frame `f` comes into the router of tile `q`, above the slice. Of a side's two links,
one for each row or column of tiles, it takes that of the slice's tile; from its own quad it comes in at the requesting tile's place (R225, R228;
notes/assumptions/78.md). -/
def inboundPort (p q f j : Nat) : MeshPort :=
  let side := inboundSide (routerOf p) (routerOf q)
  let link := match side with
    | .south | .north => (meshXY q).1 % 2
    | .west | .east => (meshXY q).2 % 2
    | .own => (meshXY p).1 % 2 + 2 * ((meshXY p).2 % 2)
  { side := side, plane := planeOf f j, link := link }

/-! ## Latencies and attachments (R222 to R224, R226) -/

/-- The latency model between two routers, with some die crossings more (R222, R226). -/
def latencyOver (extra : Nat) (a b : Nat × Nat) : Nat :=
  let h := distance a.1 b.1 + distance a.2 b.2
  let c := distance (a.1 / 6) (b.1 / 6) + distance (a.2 / 6) (b.2 / 6) + extra
  24 + 2 * (h + 2 * c) + 12 * c

/-- The latency model between two routers (R222). -/
def latency (a b : Nat × Nat) : Nat := latencyOver 0 a b

/-- lat_slice: the model maximised over all 288 routers (R224). Both axes are farthest at an end. -/
def latSlice (p : Nat) : Nat :=
  let a := routerOf p
  maxOf [latency a (0, 0), latency a (23, 0), latency a (0, 11), latency a (23, 11)]

/-- A device outside the tiles (R226 Table 2): the controller of a stack, a port die (W0, W1, E0, E1), the hub. -/
inductive Attached where
  | hbm (k : Nat)
  | portDie (i : Nat)
  | hub
  deriving DecidableEq, Repr

/-- Table 2 of R226: the attachment routers of a device. -/
def Attached.routers : Attached → List (Nat × Nat)
  | .hbm k => (List.range 6).map (fun i => (6 * (k / 2 % 4) + (if k % 2 = 0 then 1 else 4), 6 * (k / 8) + i))
  | .portDie i => (List.range 6).map (fun v => (if i < 2 then 0 else 23, 6 * (i % 2) + v))
  | .hub => [(11, 0), (12, 0)]

/-- Die crossings on the way from an attachment router to its device: base-die wiring has none, a bridge is one (R226). -/
def Attached.crossings : Attached → Nat
  | .hbm _ => 0
  | .portDie _ => 1
  | .hub => 1

/-- The port die that a DDR5 channel lies on (Table 2 of the scope chapter). -/
def channelDie (c : Nat) : Nat := c / 2

/-- A router comes before another: the smaller latency, then the lower v, then the lower u (R226). -/
def routerBefore (x : Attached) (a b c : Nat × Nat) : Bool :=
  let l := fun r => latencyOver x.crossings a r
  decide (l b < l c) || (decide (l b = l c) && (decide (b.2 < c.2) || (decide (b.2 = c.2) && decide (b.1 ≤ c.1))))

/-- The attachment router by which a router reaches a device (R226). -/
def Attached.nearest (x : Attached) (a : Nat × Nat) : Nat × Nat :=
  x.routers.foldl (fun b c => if routerBefore x a b c then b else c) (x.routers.headD (0, 0))

/-- The number of that router in Table 2's order. -/
def Attached.index (x : Attached) (a : Nat × Nat) : Nat := (x.routers.findIdx? (· == x.nearest a)).getD 0

/-! ## The stake network (R210, R233) -/

/-- What the stake network carries (R233 Table 3). -/
inductive StakeMessage where
  | verdict | failureBroadcast | fence | performanceState | tickSignal
  | completionReport | errorReport
  | stealReq | stealAnswer | boardUpdate
  | taskDescriptor | waitReport
  deriving DecidableEq, Repr

/-- The priority class of a message; a lower class number overtakes a higher one at each router (R233 Table 3). -/
def StakeMessage.cls : StakeMessage → Nat
  | .verdict | .failureBroadcast | .fence | .performanceState | .tickSignal => 0
  | .completionReport | .errorReport => 1
  | .stealReq | .stealAnswer | .boardUpdate => 2
  | .taskDescriptor | .waitReport => 3

/-- The bound on a message's delivery in nominal cycles, where there is one; of class 2 it is that of the round trip (R211, R233 Table 3). -/
def StakeMessage.bound (m : StakeMessage) : Option Nat :=
  match m.cls with
  | 0 => some 300
  | 1 => some 300
  | 2 => some 600
  | _ => none

/-- The next message that leaves a stake router: the first of the best class that waits there (R233). -/
def nextStake (l : List StakeMessage) : Option StakeMessage := l.find? (fun m => l.all (fun n => decide (m.cls ≤ n.cls)))

/-- Dies joined by a bridge (R210). -/
def adjacentDies (a b : Nat) : Bool :=
  (decide (a / 4 = b / 4) && distance a b == 1) || (decide (a % 4 = b % 4) && decide (a ≠ b))

/-- The stake router of a physical tile: one for each clock region (R233). -/
def stakeRouter (p : Nat) : Nat := tileRegion p

end Sys2Proof.Machine
end

