-- ==== Sys2Proof/Machine/CollPlan.lean ====
section
/-! DEFINITION. What a collective plan means at one device: groups and ranks, segments, and the transfers of each stage
(R265, R298, R299, R302, R303, R306, chapter 9 Table 6). -/

namespace Sys2Proof.Machine

/-! ## Fabric addresses (R265) -/

/-- The first address bit of coordinate `i`. -/
def Plan.shift (p : Plan) (i : Nat) : Nat := (p.width.take i).sum

/-- Coordinate `i` of an address (R265). -/
def Plan.coord (p : Plan) (addr i : Nat) : Nat := bits addr (p.shift i) (p.width.getD i 0)

/-- The address with coordinate `i` replaced. -/
def Plan.setCoord (p : Plan) (addr i c : Nat) : Nat := addr - p.coord addr i * 2 ^ p.shift i + c * 2 ^ p.shift i

def Plan.sizeOf (p : Plan) (i : Nat) : Nat := p.size.getD i 1

/-! ## Groups (R298) -/

/-- The dimensions of a mask. -/
def maskDims (m : Nat) : List Nat := (List.range 6).filter (fun i => bit m i)

/-- Number of members of a group. -/
def Group.count (g : Group) (p : Plan) : Nat := if g.list then g.listLen else ((maskDims g.dimMask).map p.sizeOf).prod

/-- The address of the member of a rank, over the masked dimensions, lowest first. -/
def memberAddr (p : Plan) (addr : Nat) : List Nat → Nat → Nat
  | [], _ => addr
  | d :: ds, r => memberAddr p (p.setCoord addr d (r % p.sizeOf d)) ds (r / p.sizeOf d)

/-- The rank of an address over the masked dimensions, lowest first. -/
def memberRank (p : Plan) (addr : Nat) : List Nat → Nat
  | [] => 0
  | d :: ds => p.coord addr d + p.sizeOf d * memberRank p addr ds

/-- The address records of a list group. -/
def Image.groupList (im : Image) (g : Group) : List Nat := (im.addrs.drop g.listFirst).take g.listLen

/-- The fabric address of a rank of a group (R298). -/
def Image.addrOf (im : Image) (p : Plan) (g : Group) (r : Nat) : Nat :=
  if g.list then (im.groupList g).getD r 0 else memberAddr p p.address (maskDims g.dimMask) r

/-- The rank of an address in a group, none for a device outside it (R298). -/
def Image.rankOf (im : Image) (p : Plan) (g : Group) (addr : Nat) : Option Nat :=
  if g.list then (im.groupList g).findIdx? (· == addr)
  else
    let r := memberRank p addr (maskDims g.dimMask)
    if memberAddr p p.address (maskDims g.dimMask) r = addr then some r else none

/-! ## Stage counts (Table 6) -/

/-- The binary logarithm of an exact power of two. -/
def exactLog? (p : Nat) : Option Nat := if p ≠ 0 ∧ 2 ^ Nat.log2 p = p then some (Nat.log2 p) else none

/-- ⌈log2 p⌉. -/
def ceilLog (p : Nat) : Nat := if p ≤ 1 then 0 else Nat.log2 (p - 1) + 1

/-- The stage count of Table 6, none for a cell that holds no count. -/
def stageCount (op algo p : Nat) (ring : List Nat) : Option Nat :=
  match op, algo with
  | 1, 0 => some (2 * (p - 1))
  | 1, 1 => (exactLog? p).map (2 * ·)
  | 1, 2 => if p ≤ 256 then some 2 else none
  | 1, 3 => some ((ring.map (fun n => 2 * (n - 1))).sum)
  | 2, 0 => some (p - 1)
  | 2, 1 => exactLog? p
  | 2, 2 => if p ≤ 256 then some 1 else none
  | 3, 0 => some (p - 1)
  | 3, 1 => exactLog? p
  | 3, 2 => some 1
  | 4, 0 => some (p - 1)
  | 4, 2 => some 1
  | 5, 2 => some 1
  | 6, 2 => some 2
  | 7, 4 => some (ceilLog p)
  | _, _ => none

/-! ## Segments and transfers (R302, R303) -/

/-- A range of units, from `lo` up to `hi`. -/
abbrev URange := Nat × Nat

/-- Segment `j` of a range cut in `p` (R302). -/
def segment (r : URange) (p j : Nat) : URange := (r.1 + j * (r.2 - r.1) / p, r.1 + (j + 1) * (r.2 - r.1) / p)

/-- One transfer: the other member's rank, the units it moves, whether the receiver combines them with its own, and
whether they are source units, not partial results (R304). -/
structure Xfer where
  peer : Nat
  units : URange
  combine : Bool := false
  source : Bool := false
  deriving DecidableEq, Repr

/-- The transfers of one stage at one device: those it sends and those it receives. -/
structure Stage where
  sends : List Xfer := []
  recvs : List Xfer := []
  deriving DecidableEq, Repr

/-- What the plan gives an entry at this device: operation, algorithm, members, own rank, root, the sizes of the masked
dimensions, the units of the whole data. -/
structure CollShape where
  op : Nat
  algo : Nat
  p : Nat
  r : Nat
  root : Nat
  ring : List Nat
  units : Nat
  deriving DecidableEq, Repr

/-- A RING reduce-scatter stage over a range among `n` members, own position `c` (R303). -/
def ringReduce (whole : URange) (n c t : Nat) (peer : Nat → Nat) (source : Bool) : Stage :=
  { sends := [{ peer := peer ((c + 1) % n), units := segment whole n ((c + 2 * n - t - 1) % n), combine := true, source := source }],
    recvs := [{ peer := peer ((c + n - 1) % n), units := segment whole n ((c + 2 * n - t - 2) % n), combine := true, source := source }] }

/-- A RING all-gather stage over a range (R303). -/
def ringGather (whole : URange) (n c t : Nat) (peer : Nat → Nat) : Stage :=
  { sends := [{ peer := peer ((c + 1) % n), units := segment whole n ((c + n - t) % n) }],
    recvs := [{ peer := peer ((c + n - 1) % n), units := segment whole n ((c + 2 * n - t - 1) % n) }] }

/-- The segments that share the top bits of a rank, as one range of units (R303 HALVING). -/
def halfRange (sh : CollShape) (r b : Nat) : URange :=
  ((segment (0, sh.units) sh.p (r / 2 ^ b * 2 ^ b)).1, (segment (0, sh.units) sh.p (r / 2 ^ b * 2 ^ b + 2 ^ b - 1)).2)

/-- Own coordinates in the masked dimensions, lowest first. -/
def ringCoords : List Nat → Nat → List Nat
  | [], _ => []
  | n :: ns, r => r % n :: ringCoords ns (r / n)

/-- The rank with the coordinate of ring `i` replaced. -/
def ringPeer (ring : List Nat) (r i c : Nat) : Nat :=
  let w := (ring.take i).prod
  r - r / w % ring.getD i 1 * w + c * w

/-- The range ring `i` of TORUS works on: the segment that the rings before it left this device (R303). -/
def torusRange (whole : URange) : List Nat → List Nat → URange
  | n :: ns, c :: cs => torusRange (segment whole n c) ns cs
  | _, _ => whole

/-- Reduce-scatter stage `s` of TORUS, ring by ring in ascending dimension order. -/
def torusReduce (sh : CollShape) : Nat → List Nat → Nat → Stage
  | _, [], _ => {}
  | i, n :: ns, s =>
    if s < n - 1 then
      let cs := ringCoords sh.ring sh.r
      ringReduce (torusRange (0, sh.units) (sh.ring.take i) (cs.take i)) n (cs.getD i 0) s (ringPeer sh.ring sh.r i) (i == 0 && s == 0)
    else torusReduce sh (i + 1) ns (s - (n - 1))

/-- All-gather stage `s` of TORUS over the rings below `k`, in descending dimension order. -/
def torusGather (sh : CollShape) : Nat → Nat → Stage
  | 0, _ => {}
  | k + 1, s =>
    let n := sh.ring.getD k 1
    if s < n - 1 then
      let cs := ringCoords sh.ring sh.r
      ringGather (torusRange (0, sh.units) (sh.ring.take k) (cs.take k)) n (cs.getD k 0) s (ringPeer sh.ring sh.r k)
    else torusGather sh k (s - (n - 1))

/-- The other members. -/
def CollShape.others (sh : CollShape) : List Nat := (List.range sh.p).filter (fun j => decide (j ≠ sh.r))

/-- DIRECT reduction: segment j goes to rank j, from its source (R303). -/
def directReduce (sh : CollShape) : Stage :=
  { sends := sh.others.map (fun j => { peer := j, units := segment (0, sh.units) sh.p j, combine := true, source := true }),
    recvs := sh.others.map (fun j => { peer := j, units := segment (0, sh.units) sh.p sh.r, combine := true, source := true }) }

/-- DIRECT gather: all of a member's data to every rank (R303). -/
def directGather (sh : CollShape) : Stage :=
  { sends := sh.others.map (fun j => { peer := j, units := segment (0, sh.units) sh.p sh.r }),
    recvs := sh.others.map (fun j => { peer := j, units := segment (0, sh.units) sh.p j }) }

/-- The transfers of a stage (R303). ALL_TO_ALL_V's depend on its counts and are not here (R305). -/
def CollShape.stage (sh : CollShape) (s : Nat) : Stage :=
  let whole := (0, sh.units)
  let m := Nat.log2 sh.p
  let reduceStages := (stageCount 2 sh.algo sh.p sh.ring).getD 0
  let halving := fun t => let q := sh.r ^^^ 2 ^ (m - 1 - t)
    ({ sends := [{ peer := q, units := halfRange sh q (m - 1 - t), combine := true, source := t == 0 }],
       recvs := [{ peer := q, units := halfRange sh sh.r (m - 1 - t), combine := true, source := t == 0 }] } : Stage)
  let doubling := fun t => let q := sh.r ^^^ 2 ^ t
    ({ sends := [{ peer := q, units := halfRange sh sh.r t }], recvs := [{ peer := q, units := halfRange sh q t }] } : Stage)
  match sh.op, sh.algo with
  | 1, 0 => if s < reduceStages then ringReduce whole sh.p sh.r s id (s == 0) else ringGather whole sh.p sh.r (s - reduceStages) id
  | 1, 1 => if s < m then halving s else doubling (s - m)
  | 1, 2 => if s = 0 then directReduce sh else directGather sh
  | 1, 3 =>
    let half := (sh.ring.map (· - 1)).sum
    if s < half then torusReduce sh 0 sh.ring s else torusGather sh sh.ring.length (s - half)
  | 2, 0 => ringReduce whole sh.p sh.r s id (s == 0)
  | 2, 1 => halving s
  | 2, 2 => directReduce sh
  | 3, 0 => ringGather whole sh.p sh.r s id
  | 3, 1 => doubling s
  | 3, 2 => directGather sh
  | 4, 0 =>
    { sends := if sh.r = (sh.root + s) % sh.p then [{ peer := (sh.r + 1) % sh.p, units := whole }] else [],
      recvs := if sh.r = (sh.root + s + 1) % sh.p then [{ peer := (sh.r + sh.p - 1) % sh.p, units := whole }] else [] }
  | 4, _ =>
    if sh.r = sh.root then { sends := sh.others.map (fun j => { peer := j, units := whole }) }
    else { recvs := [{ peer := sh.root, units := whole }] }
  | 5, _ => directGather sh
  | 7, _ => { sends := [{ peer := (sh.r + 2 ^ s) % sh.p, units := (0, 0) }], recvs := [{ peer := (sh.r + sh.p - 2 ^ s % sh.p) % sh.p, units := (0, 0) }] }
  | _, _ => {}

/-! ## Entries of an image -/

/-- Elements of a tensor's format in one line. -/
def perLine (f : Nat) : Nat := 512 / (fmtOf f).bits

/-- OP 1 and 2 reduce. -/
def CollEntry.reduces (e : CollEntry) : Bool := e.op == 1 || e.op == 2

/-- The declaration record that holds a loaf (R40). -/
def declOf (ds : List Decl) (loaf : Nat) : Option Decl := ds.find? (fun d => decide (d.first ≤ loaf) && decide (loaf < d.first + d.count))

/-- FORMAT of the tensor that a loaf belongs to. -/
def loafFormat (im : Image) (ds : List Decl) (loaf : Nat) : Nat :=
  match declOf ds loaf with
  | none => 0
  | some d => (im.numerics.getD d.tensor {}).format

/-- Lines of one unit of an entry: of a reduction in its source, otherwise 1, or 32 of a tray-scaled tensor (R302). -/
def CollEntry.unitLines (e : CollEntry) (f : Nat) : Nat := if e.reduces then 4096 / perLine f else if isTray f then 32 else 1

/-- Units of an entry's whole data (R302): of a reduction the source's, otherwise those delivered. -/
def CollEntry.units (im : Image) (ds : List Decl) (e : CollEntry) : Nat :=
  if e.reduces then e.srcLines * perLine (loafFormat im ds e.srcLoaf) / 4096
  else e.dstLines / e.unitLines (loafFormat im ds e.dstLoaf)

/-- An entry's shape at this device; none when it is no member of the group (R298). -/
def shapeOf (im : Image) (ds : List Decl) (p : Plan) (e : CollEntry) : Option CollShape :=
  let g := im.groups.getD e.group {}
  (im.rankOf p g p.address).map (fun r =>
    { op := e.op, algo := e.algo, p := g.count p, r := r, root := e.root, ring := if g.list then [] else (maskDims g.dimMask).map p.sizeOf,
      units := e.units im ds })

/-- The bytes of one unit of a transfer: source units carry the source's elements, partial results 16-bit values, and
final or plain units the destination's; units of a tray-scaled tensor carry the scale records of their trays (R302). -/
def unitBytes (im : Image) (ds : List Decl) (e : CollEntry) (x : Xfer) : Nat :=
  let f := loafFormat im ds (if x.source then e.srcLoaf else e.dstLoaf)
  let scales := fun lines => if isTray f then lines / 32 * 32 else 0
  if e.reduces then
    if x.combine && !x.source then 8192
    else 4096 / perLine f * 64 + scales (4096 / perLine f)
  else e.unitLines f * 64 + scales (e.unitLines f)

/-- Bytes a transfer moves. -/
def xferBytes (im : Image) (ds : List Decl) (e : CollEntry) (x : Xfer) : Nat := (x.units.2 - x.units.1) * unitBytes im ds e x

/-- The staging need of an entry (R306). -/
def stagingNeed (im : Image) (ds : List Decl) (sh : CollShape) (e : CollEntry) : Nat :=
  e.srcLines * 64 +
    (if e.op = 6 then e.dstLines * 64 + 4 * sh.p
     else ((List.range e.stages).map (fun s => ((sh.stage s).recvs.map (xferBytes im ds e)).sum)).sum)

/-- Lines that an operation delivers (R300): of ALL_GATHER and ALL_TO_ALL the data of every member, of BROADCAST the
root's, of BARRIER none; ALL_TO_ALL_V's range only bounds what is stored (R305). -/
def deliveredLines (sh : CollShape) (e : CollEntry) : Option Nat :=
  match e.op with
  | 3 => some (sh.p * e.srcLines)
  | 4 => some e.srcLines
  | 5 => some (sh.p * e.srcLines)
  | 7 => some 0
  | _ => none

end Sys2Proof.Machine
end

