-- ==== Sys2Proof/Machine/Matrix.lean ====
section
/-! DEFINITION. The matrix units: MSTREAM and MSTREAM_ACC with their panel loads (R96 to R100, R169). -/

namespace Sys2Proof.Machine

/-- The panel's elements, chunk by chunk and row by row, with its MX block scales applied (R99, R100). -/
def panelValues (f ptoks : Nat) (toks : List Token) : List Exact :=
  let elems := if isMx f then toks.take (ptoks - 1) else toks
  let raw := (elems.map (fun k => if k.valid then (codesOf f k.data).map (decode f) else List.replicate (perToken f) (Exact.fin false 0 0))).flatten
  if isMx f then
    let last := toks.getD (ptoks - 1) {}
    let sc := if last.valid then last.data else zeroLine
    raw.zipIdx.map (fun x => mxScale (sc.getD (x.2 / 32) 127).toNat x.1)
  else raw

/-- The exact sum of products of two vectors (R169). -/
def dot (xs ys : List Exact) : Option Exact := (xs.zip ys).foldl (fun acc x => addTerm acc (x.1.mul x.2)) none

/-- The row of the active panel chunk in use: 32 elements; zeros before any load (R96, R100). -/
def panelRow (panel : List Exact) (pos row : Nat) : List Exact :=
  (((panel.drop (128 * pos + 32 * row)).take 32) ++ List.replicate 32 (Exact.fin false 0 0)).take 32

/-- The side token in force for a chain, if it has one (R99). -/
def sideOf (k : Bank) : Option Token :=
  match k.side with
  | some c => if c.valid then some c else none
  | none => none

/-- The power of two that tray scales put on a chain's exact value before its rounding: stream and panel (R99, R160). -/
def chainScale (f : Nat) (side : Option Token) : Int :=
  if isTray f then
    match side with
    | some c => -(scaleExp ((lanes16 c.data).getD 16 0x3E00) + scaleExp ((lanes16 c.data).getD 17 0x3E00))
    | none => 0
  else 0

/-- The values one stream firing adds to its chains: vector by vector, panel row by row (R96, R98, R99). -/
def streamTerms (f pos : Nat) (panel : List Exact) (side : Option Token) (a : Token) : List (Option Exact) :=
  let nvec := perToken f / 32
  let vals := (codesOf f a.data).map (decode f)
  ((List.range nvec).map (fun v =>
    let xs := (vals.drop (32 * v)).take 32
    let xs := if isMx f then
        match side with
        | some c => xs.map (mxScale (c.data.getD (32 + pos * nvec + v) 127).toNat)
        | none => xs
      else xs
    (List.range 4).map (fun r => dot xs (panelRow panel pos r)))).flatten

/-- Add a firing's terms to its chains. -/
def addChains : List (Option Exact) → List (Option Exact) → List (Option Exact)
  | c :: cs, x :: xs => (match x with
      | some y => addTerm c y
      | none => c) :: addChains cs xs
  | cs, _ => cs

/-- One stream firing (R96 to R100): activation, panel load, terms, and at the end of a chain the rounding and packing. DESIGN CHOICE
(notes/assumptions/73.md): an output token packed from valid chains and bubble chains is valid; the spec gives VALID of a whole token only. -/
def matrixFire (accumulate : Bool) (sh : Shot) (t : Tile) (a b c : Token) : Fired :=
  let r := sh.cfg
  let f := r.operandFmt
  let out := outFmt sh.numeric
  let swap := panelSwaps r sh.bank
  let takesB := decide (r.inB ≠ 0) && panelRoom r sh.bank
  let k := if swap then { sh.bank with active := sh.bank.shadow, shadow := [], sinceSwap := some (sh.bank.sinceSwap.getD 0) } else sh.bank
  let k := { k with shadow := if takesB then k.shadow ++ [b] else k.shadow, sinceSwap := k.sinceSwap.map (· + 1) }
  let pos := chainPos r sh.bank
  let n4 := 4 * (perToken f / 32)
  let k := if pos = 0 then
      let side := if r.inC = 0 then none else some c
      let k := { k with side := side, chainValid := false }
      let start := match accumulate, sideOf k with
        | true, some sd => ((lanes16 sd.data).take n4).map (fun q => some (decode out q))
        | _, _ => List.replicate n4 none
      { k with chain := start }
    else k
  let k := if a.valid then
      { k with chain := addChains k.chain (streamTerms f pos (panelValues f r.panelTokens k.active) (sideOf k) a), chainValid := true }
    else k
  if pos + 1 < Nat.max 1 r.chainLen then { bank := k, tile := t, latency := 12 }
  else
    let q := sh.roundLanes out k.produced k.packed.length (k.chain.map (fun x => (x.getD (Exact.fin false 0 0)).scale (chainScale f (sideOf k))))
    let packed := k.packed ++ q.map (fun x => BitVec.ofNat 16 x.1)
    let pv := k.packedValid || k.chainValid
    let r0 : Fired := { bank := { k with packed := packed, packedValid := pv, chain := [] }, tile := t, latency := 12,
                        sat := marks .sat q, nan := marks .nan q }
    if packed.length < 32 then r0
    else Fired.both { r0 with bank := { k with packed := [], packedValid := false, chain := [], produced := k.produced + 1 } }
      (bytes16 (packed.map (·.toNat)), pv, a.last)

/-- MSTREAM (R96, R97): each chain starts at exact zero. -/
def execMstream (f : Firing) (s : State) : Host.Outcome State Fault Refusal :=
  fireUnit 0x10 wantsMatrix (matrixFire false) f s

/-- MSTREAM_ACC (R97): each chain starts from the accumulator values of its side token. -/
def execMstreamAcc (f : Firing) (s : State) : Host.Outcome State Fault Refusal :=
  fireUnit 0x11 wantsMatrix (matrixFire true) f s

end Sys2Proof.Machine
end

