-- ==== Sys2Proof/Machine/Validate.lean ====
section
/-! DEFINITION. The checks of an image at OPEN_JOB (R25): every per-record rule, each naming the items that take part in
it by their image offsets (R475), and the capacity condition (R187). -/

namespace Sys2Proof.Machine

/-! ## Where the items are -/

/-- Image offsets of a task entry, a numerics entry, a declaration, a fold image's record. -/
def Image.taskAt (im : Image) (i : Nat) : Nat := (im.section 0).1 + 64 * i
def Image.numericAt (im : Image) (i : Nat) : Nat := (im.section 4).1 + 8 * i
def Image.declAt (im : Image) (i : Nat) : Nat := (im.section 3).1 + 16 * i
def Image.listAt (im : Image) (ref : Nat) : Nat := (im.section 2).1 + 16 * ref

/-- The bytes a receive queue's QUEUE_SIZES code gives it, and its 2 KiB trays (R26, R31). -/
def queueTrays (code : Nat) : Nat := if code = 0 ∨ 5 < code then 0 else 2 ^ code

/-- Q of R31. -/
def Image.ringTrays (im : Image) : Nat := (im.queueSizes.map queueTrays).sum

/-- The format of a tensor, when its numerics entry exists and holds one (R42). -/
def Image.format? (im : Image) (t : Nat) : Option Nat :=
  if t < im.numerics.length ∧ (im.numerics.getD t {}).format ≤ 16 then some (im.numerics.getD t {}).format else none

/-! ## Header, declarations, numerics (R26, R27, R40 to R43, R162, R267) -/

def headerFaults (raw : List Byte) (im : Image) (plan : Option Plan) : List Nat :=
  items (decide (im.tickUs < 8) || decide (1024 < im.tickUs)) [0x10]
  ++ items (match plan with | some p => decide (p.tickUs ≠ im.tickUs) | none => false) [0x10]
  ++ items (decide (im.taskCount < 1) || decide (16777215 < im.taskCount) || decide ((im.section 0).2 ≠ 64 * im.taskCount)) [0x14]
  ++ items (decide (im.loafCount < 1) || decide (33554432 < im.loafCount)) [0x18]
  ++ items (decide (im.tensorCount < 1) || decide (65536 < im.tensorCount) || decide ((im.section 4).2 ≠ 8 * im.tensorCount)) [0x1C]
  ++ items (decide (im.waveCount < 1) || decide (65536 < im.waveCount)) [0x20]
  ++ items (decide (im.flags / 8 ≠ 0)) [0x24]
  ++ items (im.deterministic == im.tasks.any (·.remoteAdd) || im.signed != decide ((im.section 7).2 ≠ 0)) [0x24]
  ++ items (im.queueSizes.any (fun c => decide (5 < c))) [0x28]
  ++ items (decide (rawLe raw 0x38 8 ≠ 0)) [0x38]
  ++ items (decide (rawLe raw 0xC0 64 ≠ 0)) [0xC0]
  ++ items (decide ((im.section 3).2 % 16 ≠ 0)) [0x70]

/-- Loaves two declarations share. -/
def declsMeet (a b : Decl) : Bool := rangesMeet a.first a.count b.first b.count

/-- One declaration alone (R40, R41). -/
def declBroken (d : Decl) : Bool :=
  decide (d.count = 0) || decide (33554432 < d.first + d.count) || (d.keepInSlice && (d.streamOnce || d.preferDdr))

def declFaults (raw : List Byte) (im : Image) : List Nat :=
  let ds := im.decls.zipIdx
  ((ds.map (fun (d, i) =>
      let r := rawLe raw (im.declAt i) 16
      items (declBroken d || decide (bits r 56 8 ≠ 0) || decide (bits r 96 32 ≠ 0)) [im.declAt i]
      ++ items (decide (im.tensorCount ≤ d.tensor)) [0x1C, im.declAt i]
      ++ ((ds.take i).map (fun (e, j) => items (declsMeet d e) [im.declAt i, im.declAt j])).flatten)).flatten)
  ++ items (decide ((im.decls.map (·.count)).sum ≠ im.loafCount)) [0x18]
  ++ items (decide (14336 < ((im.decls.filter (·.keepInSlice)).map (·.count)).sum))
      ((ds.filter (fun x => x.1.keepInSlice)).map (fun x => im.declAt x.2))

/-- Loaves declared for a tensor. -/
def loavesOf (ds : List Decl) (t : Nat) : Nat := ((ds.filter (fun d => d.tensor == t)).map (·.count)).sum

def numericFaults (raw : List Byte) (im : Image) : List Nat :=
  (im.numerics.zipIdx.map (fun (n, i) =>
    let at_ := im.numericAt i
    let blocks := ceilDiv (loavesOf im.decls i * 131072 * 8 / (fmtOf n.format).bits) 32
    items (decide (n.tensor ≠ i) || decide (16 < n.format) || decide (n.cls = 3) || decide (bits (rawLe raw at_ 8) 27 37 ≠ 0)
        || (decide (n.cls ≠ 0) != isTray n.format) || (decide (n.cls = 0) && (n.current || decide (n.headroom ≠ 0)))) [at_]
    ++ items (isMx n.format && decide (im.format? (i + 1) ≠ some 0)) [at_, im.numericAt (i + 1)]
    ++ items (isMx n.format && decide (loavesOf im.decls (i + 1) * 131072 < blocks))
        (at_ :: (im.decls.zipIdx.filter (fun x => x.1.tensor == i || x.1.tensor == i + 1)).map (fun x => im.declAt x.2)))).flatten

/-! ## Configuration records (R33, R97, R100, R101, R111, R113, R170, R478, R479) -/

/-- The operation codes of a unit's kind (R111; 0 is idle). -/
def opFits (u op : Nat) : Bool :=
  match unitKind u with
  | .address => op == 0x60
  | .vector => decide (0x20 ≤ op) && decide (op ≤ 0x34)
  | .matrix => op == 0x10 || op == 0x11
  | .steering => decide (0x40 ≤ op) && decide (op ≤ 0x47)

/-- A source or destination code of a unit: 0 to 11, and a neighbour link leads inside the array (R111). -/
def codeFits (u c : Nat) : Bool :=
  match c with
  | 1 => decide (u < 24)
  | 2 => decide (u % 8 < 7)
  | 3 => decide (8 ≤ u)
  | 4 => decide (0 < u % 8)
  | _ => decide (c ≤ 11)

/-- Lowest and highest data-region line a stream can touch whatever the data (R111, R139, R140, Table 9). -/
def Pattern.span (p : Pattern) : Option (Int × Int) :=
  if p.accesses = 0 ∨ p.mode = 14 then none
  else
    let corners : List (Int × Int) := [(0, 0), ((p.count0 : Int) - 1, 0), (0, (p.count1 : Int) - 1), ((p.count0 : Int) - 1, (p.count1 : Int) - 1)]
    let lines := corners.map (fun c => (p.baseLine : Int) + c.1 * p.step0 + c.2 * p.step1)
    let cells := (corners.map (fun c =>
      let st := 32 * ((p.baseLine : Int) + c.2 * p.step1) + 32 * c.1 * p.step0
      [st, st + 31 * p.step0])).flatten
    let lo := fun (l : List Int) => l.foldl min (l.headD 0)
    let hi := fun (l : List Int) => l.foldl max (l.headD 0)
    match p.mode with
    | 3 => some (lo lines / 32 * 32, hi lines / 32 * 32 + 31)
    | 4 => some (lo lines / 32 * 32, hi lines / 32 * 32 + 31)
    | 5 => some (lo cells / 32, hi cells / 32)
    | 6 => some (lo cells / 32, hi cells / 32)
    | 9 => some (p.baseLine, p.baseLine)
    | 10 => some (p.baseLine, p.baseLine)
    | 11 => some (p.baseLine, p.baseLine)
    | 12 => some (p.baseLine, p.baseLine)
    | _ => some (lo lines, hi lines)

/-- A matrix or vector record's operand format and options (R100, R101, R170, R479). -/
def valuesBroken (u : Nat) (r : Record) : Bool :=
  let vec := unitKind u == .vector
  let src := bits r.mode 0 5
  let opt := bits r.mode 5 2
  let arith := (decide (0x20 ≤ r.op) && decide (r.op ≤ 0x27)) || (decide (0x2E ≤ r.op) && decide (r.op ≤ 0x31)) || r.op == 0x34
  (!vec && decide (r.swapEvery ≠ 0) && decide (r.swapEvery < r.panelTokens))
  || (vec && arith && !isFloat16 src)
  || (vec && (r.op == 0x27 || r.op == 0x34) && opt == 3)
  || (vec && r.op == 0x33 && (src == 0 || decide (16 < src)))

/-- The format of a matrix or vector record's output tensor does not fit its operation (R97, R101, R170). -/
def formatBroken (im : Image) (u : Nat) (r : Record) : Bool :=
  let vec := unitKind u == .vector
  let integer := decide (0x28 ≤ r.op) && decide (r.op ≤ 0x2D)
  match im.format? r.tensor with
  | none => false
  | some f =>
    if vec && r.op == 0x33 then f == 0 || isMx f
    else if f == 0 then !(vec && (integer || r.op == 0x32))
    else if f == 5 then !(vec && integer)
    else false

/-- One stream of an address record: its queue is used, a TAKE stream takes whole messages (R111). -/
def streamFaults (im : Image) (at_ : Nat) (p : Pattern) : List Nat :=
  items ((p.mode == 13 || p.mode == 14) && queueTrays (im.queueSizes.getD p.queue 0) == 0) [0x28, at_]
  ++ items (p.mode == 14 && decide (p.accesses % (p.msgTokens + 1) ≠ 0)) [at_]

/-- One configuration record (R111). -/
def recordFaults (im : Image) (at_ u span : Nat) (r : Record) : List Nat :=
  let k := unitKind u
  items (!(codeFits u r.inA && codeFits u r.inB && codeFits u r.inC && codeFits u r.out0 && codeFits u r.out1)) [at_]
  ++ items (decide (r.op ≠ 0) && !opFits u r.op) [at_]
  ++ items (r.bHold && !(k == .vector && decide (0x20 ≤ r.op) && decide (r.op ≤ 0x24))) [at_]
  ++ items (decide (r.fireCount ≠ 0) && decide (span ≤ r.fireStart + (r.fireCount - 1) * r.fireStride)) [at_]
  ++ items (decide (im.tensorCount ≤ r.tensor)) [0x1C, at_]
  ++ (if r.op = 0 ∨ !opFits u r.op then []
      else match k with
        | .address => streamFaults im at_ r.patA ++ streamFaults im at_ r.patB ++ items (decide (r.fireLimit ≠ r.accesses)) [at_]
        | .steering => []
        | _ => items (valuesBroken u r) [at_] ++ items (formatBroken im u r) [at_, im.numericAt r.tensor])

/-! ## Queue occupancy (R90, R111) -/

/-- The state an outcome gives, or the one before. -/
def stateOf (o : Host.Outcome State Fault Refusal) (s : State) : State :=
  match o with
  | .next s' => s'
  | _ => s

/-- The firing of a record, by its operation code and for an address unit by its stream's mode. -/
def fireRecord (r : Record) (mode : Nat) (f : Firing) (s : State) : State :=
  let o := match r.op with
    | 0x10 => execMstream f s
    | 0x11 => execMstreamAcc f s
    | 0x20 => execFma f s
    | 0x21 => execMul f s
    | 0x22 => execAdd f s
    | 0x23 => execSub f s
    | 0x24 => execAccum f s
    | 0x25 => execMin f s
    | 0x26 => execMax f s
    | 0x27 => execCmp f s
    | 0x28 => execIadd f s
    | 0x29 => execIsub f s
    | 0x2A => execAnd f s
    | 0x2B => execOr f s
    | 0x2C => execXor f s
    | 0x2D => execShift f s
    | 0x2E => execExp2 f s
    | 0x2F => execLog2 f s
    | 0x30 => execRcp f s
    | 0x31 => execRsqrt f s
    | 0x32 => execRng f s
    | 0x33 => execCvt f s
    | 0x34 => execReduce f s
    | 0x40 => execRoute f s
    | 0x41 => execSelect f s
    | 0x42 => execFilter f s
    | 0x43 => execCompact f s
    | 0x44 => execCount f s
    | 0x45 => execMerge f s
    | 0x46 => execUnion f s
    | 0x47 => execIntersect f s
    | _ => match mode with
      | 1 => execRowRead f false s
      | 2 => execRowWrite f s
      | 3 => execColumnRead f false s
      | 4 => execColumnWrite f s
      | 5 => execStridedRead f false s
      | 6 => execStridedWrite f s
      | 7 => execIndexedRowRead f false s
      | 8 => execIndexedRowWrite f s
      | 9 => execGather f false s
      | 10 => execScatter f s
      | 11 => execProbe f false s
      | 12 => execAppend f s
      | 13 => execSend f s
      | 14 => execTake f false s
      | _ => execPull f false s
  stateOf o s

/-- Of the next firings the ones earliest in the schedule. -/
def dueShots (l : List Shot) : List Shot :=
  match (l.map (·.sched)).min? with
  | none => []
  | some c => l.filter (fun o => o.sched == c)

/-- A tile on which a set's schedule can be run with no data (R90). -/
def emptyWeave (im : Image) (cs : ConfigSet) (length : Nat) : State :=
  let s : State := { State.reset with job := some { image := { im with tasks := [{ weaveCycles := length, dataTrays := 128 }], sets := [cs] } } }
  s.setTile 0 { resident := some 0, current := some { task := 0, phase := .firing } }

/-- The bank after a firing, as far as the schedule decides it (R100, R113, R124, R478). -/
def Shot.advance (sh : Shot) : Bank :=
  let r := sh.cfg
  let k := { sh.bank with fired := sh.bank.fired + 1 }
  match r.op with
  | 0x10 | 0x11 =>
    let swap := panelSwaps r sh.bank
    { k with shadow := (if swap then [] else k.shadow) ++ (if decide (r.inB ≠ 0) && panelRoom r sh.bank then [sh.bubble] else []),
             sinceSwap := (if swap then some (k.sinceSwap.getD 0) else k.sinceSwap).map (· + 1) }
  | 0x41 | 0x42 => { k with governed := if k.governed < r.govern then k.governed + 1 else 0 }
  | 0x60 => sh.spent (sh.putStream { sh.stream with access := sh.stream.access + 1 } k)
  | _ =>
    if r.bHold then
      if k.held.isNone || decide (r.holdFirings < k.heldServed) then { k with held := some sh.bubble, heldServed := 1 }
      else { k with heldServed := k.heldServed + 1 }
    else k

/-- The express channels that a firing takes a token from, with its unit. -/
def Shot.takes (sh : Shot) : List (Wire × Nat) :=
  let w := wantsOf sh
  [(sh.cfg.inA, w.1), (sh.cfg.inB, w.2.1), (sh.cfg.inC, w.2.2)].filterMap (fun x =>
    if x.2 = .take then (expressWire sh.u x.1).map (·, sh.u) else none)

/-- The takes from express channels over a schedule, in its order (R90). -/
def takeLog : Nat → State → List (Wire × Nat)
  | 0, _ => []
  | n + 1, s =>
    match dueShots (nextShots 0 s) with
    | [] => []
    | sh :: _ => sh.takes ++ takeLog n (s.onTile 0 (fun t => { t with banks := put (sh.u, sh.f) sh.advance t.banks }))

/-- The set with the units that take the tokens of its express channels (R90; notes/assumptions/71.md). -/
def ConfigSet.withTakers (im : Image) (cs : ConfigSet) : ConfigSet :=
  match scheduleLength cs with
  | none => cs
  | some n =>
    let log := takeLog (33 * n) (emptyWeave im cs n)
    { cs with takers := ((log.map (·.1)).eraseDups).map (fun w => (w, (log.filter (fun x => decide (x.1 = w))).map (·.2))) }

/-- The image as OPEN_JOB takes it: every set with its takers (R90). -/
def Image.opened (im : Image) : Image := { im with sets := im.sets.map (ConfigSet.withTakers im) }

/-- Fire a whole schedule; a weave that holds for 64 cycles stops. -/
def dryRun : Nat → State → State
  | 0, s => s
  | n + 1, s =>
    if 64 ≤ (s.tile 0).weave.holding then s
    else
      let due := dueShots (nextShots 0 s)
      match (due.find? (fun o => lacks o (s.tile 0))).orElse (fun _ => due.head?) with
      | none => s
      | some sh => dryRun n (fireRecord sh.cfg sh.pattern.mode { tile := 0, unit := sh.u, fold := sh.f } s)

/-- A set whose schedule brings more than 4 tokens into one queue at once (R90, R111). -/
def overfills (im : Image) (cs : ConfigSet) (length : Nat) : Bool :=
  let t := (dryRun (33 * length + 64 * 33) (emptyWeave im (cs.withTakers im) length)).tile 0
  let t := each (fun q t => settle q (length - 1 + t.weave.held) t) (t.channels.map (·.1)) t
  decide (t.weave.dropped ≠ 0)

/-! ## Sets -/

/-- One configuration set (R33, R90, R111, R113). -/
def setFaults (raw : List Byte) (im : Image) (at_ : Nat) (cs : ConfigSet) : List Nat :=
  let h := rawLe raw at_ 32
  let recs := (cs.folds.zipIdx.map (fun (fold, f) =>
    let fat := at_ + 32 + 4096 * f
    let span := cs.span f
    items (decide (span = 0) || fold.any (fun r => decide (r.span ≠ span))) [fat]
    ++ (fold.zipIdx.map (fun (r, u) => recordFaults im (fat + 128 * u) u span r)).flatten)).flatten
  items (decide (cs.seq.length < 1) || decide (64 < cs.seq.length) || decide (bits h 11 53 ≠ 0)
      || cs.seq.any (fun f => decide (cs.folds.length ≤ f))) [at_]
  ++ recs
  ++ items (cs.records.all (fun x => x.2.2.fireLimit == 0)) [at_]
  ++ items (match scheduleLength cs with | some n => overfills im cs n | none => false) [at_]

/-- The address streams of a set with the offset of their record. -/
def setStreams (at_ : Nat) (cs : ConfigSet) : List (Nat × Pattern) :=
  ((cs.records.filter (fun x => unitKind x.1 == .address && x.2.2.op == 0x60)).map (fun x =>
    let a := at_ + 32 + 4096 * x.2.1 + 128 * x.1
    [(a, x.2.2.patA), (a, x.2.2.patB)])).flatten.filter (fun x => decide (x.2.mode ≠ 0))

/-! ## Lists and tasks (R29 to R38, R111, R115, R174, R175) -/

/-- Pad lines that one loaf line of a quantising drain reads (R175). -/
def padFactor (f : Nat) : Nat := if isTray f || isMx f then (if (fmtOf f).bits = 4 then 4 else 2) else 1

/-- Loaf lines an entry moves; none for a zero entry. -/
def Entry.lines (e : Entry) : Nat := if e.kind = 1 then e.count * e.line else e.count

/-- Bytes an entry counts for FILL_BYTES and DRAIN_BYTES (R37). -/
def Entry.bytes (e : Entry) : Nat := if e.kind = 2 then 0 else 64 * e.lines

/-- The loaves a contiguous entry touches (R35). -/
def Entry.loaves (e : Entry) : List Nat := (List.range ((e.line + e.count - 1) / 2048 + 1)).map (e.loaf + ·)

/-- One entry of a list (R34, R36, R38, R42, R174, R175). -/
def entryFaults (raw : List Byte) (im : Image) (at_ tat : Nat) (t : Task) (drain : Bool) (e : Entry) : List Nat :=
  let r := rawLe raw at_ 16
  let region := 32 * t.dataTrays
  let fmt := im.format? e.tensor
  let f := fmt.getD 0
  let top := e.padLine + e.lines * (if drain then padFactor f else 1)
  let zero := e.kind == 2
  items (decide (bits r 62 2 ≠ 0) || decide (bits r 76 4 ≠ 0) || decide (bits r 96 32 ≠ 0) || e.kind == 3 || (drain && zero)
      || decide (e.count = 0) || (e.kind == 1 && e.line == 0)) [at_]
  ++ items (decide (im.tensorCount ≤ e.tensor)) [0x1C, at_]
  ++ items (decide (region < top)) ([at_, tat] ++ (if drain && decide (padFactor f ≠ 1) then [im.numericAt e.tensor] else []))
  ++ items (e.kind == 1 && decide (region < e.indexLine + ceilDiv e.count 16)) [at_, tat]
  ++ (if isTray f then
        items (e.kind == 1) [at_, im.numericAt e.tensor]
        ++ items (decide (e.line % 32 ≠ 0) || decide (e.count % 32 ≠ 0) || (!drain && decide (e.padLine % 32 ≠ 0))) [at_, im.numericAt e.tensor]
        ++ items (decide (32 * (t.dataTrays - 1) < top)) [at_, tat, im.numericAt e.tensor]
      else [])
  ++ (if drain && e.kind == 0 then
        ((e.loaves.map (fun l => match declOf im.decls l with
          | none => [at_]
          | some d => items d.hostIn (at_ :: (im.decls.zipIdx.filter (fun x => decide (x.1 = d))).map (fun x => im.declAt x.2)))).flatten)
      else [])

/-- One list of a task (R32, R34, R37). -/
def listFaults (raw : List Byte) (im : Image) (tat ref declared : Nat) (t : Task) (drain : Bool) : List Nat :=
  if ref = 0xFFFFFFFF then items (decide (declared ≠ 0)) [tat]
  else
    let at_ := im.listAt ref
    let len := (im.section 2).2
    if len < 16 * ref + 16 then [tat]
    else
      let n := im.listCount ref
      items (decide (n = 0) || decide (rawLe raw (at_ + 2) 14 ≠ 0)) [at_]
      ++ (if len < 16 * ref + 16 + 16 * n then [tat, at_]
          else
            ((im.list ref).zipIdx.map (fun (e, i) => entryFaults raw im (at_ + 16 + 16 * i) tat t drain e)).flatten
            ++ items (decide (((im.list ref).map Entry.bytes).sum ≠ declared)) [tat, at_])

/-- One task with the set it uses (R29 to R32, R111, R115). -/
def taskFaults (raw : List Byte) (im : Image) (i : Nat) (t : Task) : List Nat :=
  let at_ := im.taskAt i
  let r := rawLe raw at_ 64
  let unused := fun q => queueTrays (im.queueSizes.getD q 0) == 0
  items (decide (bits r 189 3 ≠ 0) || decide (bits r 288 224 ≠ 0) || decide (96 < t.dataTrays)) [at_]
  ++ items (decide (im.waveCount ≤ t.wave)) [0x20, at_]
  ++ items (t.collective && decide (im.colls.length ≤ t.collectiveId)) (at_ :: (if im.collPresent then [(im.section 5).1] else []))
  ++ items (!t.collective && decide (t.collectiveId ≠ 0)) [at_]
  ++ items ((t.stealable && t.homeMsg) || ((t.homeMsg || t.sends) && t.gang == 0)) [at_]
  ++ items ((List.range 16).any (fun q => bit t.queueMask q && unused q)) [0x28, at_]
  ++ items (decide ((2 * im.tickUs - 3) * 1000 < 2 * (t.weaveCycles + t.drainBound + 6000))) [0x10, at_]
  ++ items (decide (128 < t.dataTrays + 32 + im.ringTrays)) [0x28, at_]
  ++ (if im.sets.length ≤ t.configSet then [at_]
      else
        let cs := im.sets.getD t.configSet {}
        let sat := im.setAt.getD t.configSet 0
        items (decide (scheduleLength cs ≠ some t.weaveCycles)) [at_, sat]
        ++ ((setStreams sat cs).map (fun x =>
            items (match x.2.span with
                | none => false
                | some (lo, hi) => decide (lo < 0) || decide ((32 * t.dataTrays : Nat) ≤ hi)) [at_, x.1]
            ++ items (x.2.mode == 14 && !bit t.queueMask x.2.queue) [at_, x.1]
            ++ items (x.2.mode == 13 && !t.sends) [at_, x.1])).flatten)
  ++ listFaults raw im at_ t.fillList t.fillBytes t false
  ++ listFaults raw im at_ t.drainList t.drainBytes t true

/-- Gangs of more than 1,024 tasks (R20). -/
def gangFaults (im : Image) : List Nat :=
  let ts := im.tasks.zipIdx.filter (fun x => decide (x.1.gang ≠ 0))
  ((ts.map (·.1.gang)).eraseDups.map (fun g =>
    let ms := ts.filter (fun x => x.1.gang == g)
    items (decide (1024 < ms.length)) (ms.map (fun x => im.taskAt x.2)))).flatten

/-! ## The collective plan (R297, R298, R300) -/

/-- The loaves of a range of lines. -/
def rangeLoaves (first lines : Nat) : Nat × Nat := (first, ceilDiv lines 2048)

/-- A range of lines lies within declared loaves of one tensor (R300). -/
def rangeDeclared (ds : List Decl) (oneTensor : Bool) (first lines : Nat) : Bool :=
  let n := ceilDiv lines 2048
  (List.range n).all (fun i => (declOf ds (first + i)).isSome &&
    (!oneTensor || (declOf ds (first + i)).map (·.tensor) == (declOf ds first).map (·.tensor)))

/-- Lines of the count range of ALL_TO_ALL_V: SEND and RECV (R305). -/
def countLines (p : Nat) : Nat := 2 * ceilDiv p 16

def loavesMeet (a b : Nat × Nat) : Bool := rangesMeet a.1 a.2 b.1 b.2

/-- The staging ranges of an image's collective plan, as loaves: first and count (R306). -/
def Image.stagingRanges (im : Image) : List (Nat × Nat) := im.colls.map (fun e => rangeLoaves e.stageLoaf e.stageLines)

/-- One plan entry (R297, R300). -/
def collFaults (raw : List Byte) (im : Image) (plan : Plan) (proxies : List (Nat × Nat)) (at_ : Nat) (e : CollEntry) : List Nat :=
  let ds := im.decls
  let r := rawLe raw at_ 64
  let g := im.groups.getD e.group {}
  let fs := loafFormat im ds e.srcLoaf
  let fd := loafFormat im ds e.dstLoaf
  let stage := rangeLoaves e.stageLoaf e.stageLines
  let rsv := [(61, 3), (80, 16), (121, 7), (185, 7), (249, 7), (313, 7), (336, 176)].any (fun x => decide (bits r x.1 x.2 ≠ 0))
  match shapeOf im ds plan e with
  | none => [at_]
  | some sh =>
    let n := e.srcLines * perLine fs
    let counts := if e.op = 6 then countLines sh.p else 0
    let gat := (collParts raw (im.section 5).1).2.1 + 16 * e.group
    let hdr := (im.section 5).1
    let decls := fun (first lines : Nat) =>
      (ds.zipIdx.filter (fun x => rangesMeet x.1.first x.1.count first (ceilDiv lines 2048))).map (fun x => im.declAt x.2)
    let formats := ([e.srcLoaf, e.dstLoaf].map (fun l => match declOf ds l with
      | some d => im.numericAt d.tensor :: decls l 1
      | none => [])).flatten
    items (rsv || decide (e.k = 0) || decide (5 < e.chunk) || decide (4096 < e.stages) || (decide (e.op ≠ 4) && decide (e.root ≠ 0))
      || (decide (e.op ≠ 6) && decide (e.countLoaf ≠ 0))) [at_]
    ++ items (decide (im.groups.length ≤ e.group)) [at_, hdr]
    ++ items (decide (stageCount e.op e.algo sh.p sh.ring ≠ some e.stages) || (e.op == 1 && e.algo == 3 && g.list)
      || (decide (e.op = 4) && decide (sh.p ≤ e.root))) [at_, gat]
    ++ items (if g.list then decide (im.addrs.length < g.listFirst + g.listLen) || decide (g.listLen = 0)
          else (maskDims g.dimMask).any (fun i => decide (plan.dims ≤ i))) [at_, gat, hdr]
    ++ items (!rangeDeclared ds true e.srcLoaf e.srcLines) (at_ :: decls e.srcLoaf e.srcLines)
    ++ items (!rangeDeclared ds true e.dstLoaf e.dstLines) (at_ :: decls e.dstLoaf e.dstLines)
    ++ items (!rangeDeclared ds false e.stageLoaf e.stageLines) (at_ :: decls e.stageLoaf e.stageLines)
    ++ items (!rangeDeclared ds true e.countLoaf counts) (at_ :: decls e.countLoaf counts)
    ++ items (if e.reduces then
            !((isFloat16 fs && fs != 4 || isTray fs) && (isFloat16 fd && fd != 4 || isTray fd)) || decide (n % 4096 ≠ 0)
            || decide (e.dstLines * perLine fd ≠
                (if e.op = 1 then n else let sg := segment (0, sh.units) sh.p sh.r; (sg.2 - sg.1) * 4096))
          else decide (fs ≠ fd)
            || (match deliveredLines sh e with | some d => decide (e.dstLines ≠ d) | none => false)) ([at_, gat] ++ formats)
    ++ items (decide (e.stageLines * 64 < stagingNeed im ds sh e)) ([at_, gat] ++ formats)
    ++ items (loavesMeet stage (rangeLoaves e.srcLoaf e.srcLines) || loavesMeet stage (rangeLoaves e.dstLoaf e.dstLines)
      || loavesMeet stage (rangeLoaves e.countLoaf counts)) [at_]
    ++ items (ds.any (fun d => d.hostIn && loavesMeet stage (d.first, d.count)))
        (at_ :: (ds.zipIdx.filter (fun x => x.1.hostIn && loavesMeet stage (x.1.first, x.1.count))).map (fun x => im.declAt x.2))
    ++ items (proxies.any (fun w => loavesMeet stage w)) [at_]
    ++ ((im.tasks.map (fun t =>
        let walk := fun ref => ((im.list ref).zipIdx.map (fun (x, i) =>
          items (x.kind == 0 && loavesMeet stage (x.loaf, x.loaves.length)) [at_, im.listAt ref + 16 + 16 * i])).flatten
        walk t.fillList ++ walk t.drainList)).flatten)

/-- Two entries that tasks of one wave name share no staging loaves (R300). -/
def stagingShared (im : Image) (entryAt : Nat → Nat) : List Nat :=
  let waves := fun i => (im.tasks.filter (fun t => t.collective && t.collectiveId == i)).map (·.wave)
  let es := im.colls.zipIdx
  (es.map (fun (e, i) => ((es.take i).map (fun (d, j) =>
    items (loavesMeet (rangeLoaves e.stageLoaf e.stageLines) (rangeLoaves d.stageLoaf d.stageLines)
        && (waves i).any (fun w => (waves j).contains w)) [entryAt i, entryAt j])).flatten)).flatten

/-- The collective plan's rules. Without a committed plan the image has been refused before (R25). -/
def planFaults (raw : List Byte) (im : Image) (plan : Option Plan) (proxies : List (Nat × Nat)) : List Nat :=
  if !im.collPresent then []
  else match plan with
    | none => []
    | some p =>
      let off := (im.section 5).1
      let h := rawLe raw off 64
      let parts := collParts raw off
      items (decide (bits h 0 16 = 0) || decide (bits h 16 16 = 0) || decide (16777216 < bits h 32 32) || decide (bits h 64 16 < 10)
          || decide (bits h 80 432 ≠ 0) || decide (off + (im.section 5).2 < parts.2.2 + 4 * bits h 32 32)) [off]
      ++ (im.groups.zipIdx.map (fun (_, i) =>
          let r := rawLe raw (parts.2.1 + 16 * i) 16
          items (bit r 1 || decide (bits r 8 24 ≠ 0) || decide (bits r 96 32 ≠ 0)) [parts.2.1 + 16 * i])).flatten
      ++ (im.addrs.zipIdx.map (fun (_, i) => items (decide (rawLe raw (parts.2.2 + 4 * i + 3) 1 ≠ 0)) [parts.2.2 + 4 * i])).flatten
      ++ (im.colls.zipIdx.map (fun (e, i) => collFaults raw im p proxies (parts.1 + 64 * i) e)).flatten
      ++ stagingShared im (fun i => parts.1 + 64 * i)

/-! ## OPEN_JOB (R25, R187) -/

/-- Every item in a broken per-record rule (R25 step 2). -/
def imageFaults (raw : List Byte) (im : Image) (plan : Option Plan) (proxies : List (Nat × Nat)) : List Nat :=
  headerFaults raw im plan ++ declFaults raw im ++ numericFaults raw im
  ++ (match im.badSet with | some a => [a] | none => [])
  ++ ((im.sets.zip im.setAt).map (fun x => setFaults raw im x.2 x.1)).flatten
  ++ (im.tasks.zipIdx.map (fun (t, i) => taskFaults raw im i t)).flatten
  ++ gangFaults im ++ planFaults raw im plan proxies

/-- Declared loaves of tray-scaled tensors (R187). -/
def trayLoaves (im : Image) (ds : List Decl) : Nat :=
  ((ds.filter (fun d => isTray (im.numerics.getD d.tensor {}).format)).map (·.count)).sum

/-- F_H of R187. -/
def hbmFrames (im : Image) (ds : List Decl) : Nat := 6291456 - 32768 - 80 * im.tickUs - 8192 - ceilDiv (trayLoaves im ds) 32

/-- F_D of R187: 8,192 frames per GiB of the configured DIMMs. -/
def Nor.ddrFrames (n : Nor) : Nat := 8192 * (n.ddrChannels * n.dimmGib)

/-- The declared loaves and the version reserve fit (R187). -/
def capacityOk (im : Image) (ds : List Decl) (reserve : Nat) (n : Nor) : Bool :=
  decide ((ds.map (·.count)).sum + reserve ≤ hbmFrames im ds + n.ddrFrames)

end Sys2Proof.Machine
end

