-- ==== Sys2Proof/Machine/Frames.lean ====
section
/-! DEFINITION. Loaves in memory: frames and tiers, the directory and its epochs, pending versions, slices and their
backing, the order among writes of a line, memory errors and repair (R35, R39, R64 to R68, R78, R173, R184 to R203, R207,
R232 to R246). -/

namespace Sys2Proof.Machine

/-! ## Frames and tiers (R184, R185, R235, R239) -/

/-- The frame number that names no frame. -/
abbrev noFrame : Nat := 0x1FFFFFF

inductive Tier where
  | slice | hbm | ddr
  deriving DecidableEq, Repr

/-- The tier of a frame number (R184 Table 1). -/
def tierOf (f : Nat) : Option Tier :=
  if f < 14336 then some .slice
  else if 0x4000 ≤ f ∧ f < 0x604000 then some .hbm
  else if 0x800000 ≤ f ∧ f < 0x1800000 then some .ddr
  else none

/-- The logical slice that holds line `j` of slice frame `f` (R185). -/
def sliceOf (f j : Nat) : Nat := (f + j) % 1024

/-- The line of that slice, of its 28,672, in which it stands (R185). -/
def sliceLine (f j : Nat) : Nat := 2 * f + j / 1024

/-- Line `k` of logical slice `q`: the line of the slice frame whose number it holds (R185). -/
def State.sliceAt (s : State) (q k : Nat) : List Byte :=
  s.mem.bytes.readBytes (131072 * (k / 2) + 64 * ((q + 1024 - k / 2 % 1024) % 1024 + 1024 * (k % 2))) 64

/-- The base die that keeps the record of a slice frame (R193). -/
def ownerDie (f : Nat) : Nat := f % 8

/-- The base die and the entry number there of a loaf's directory entry; g is the exclusive-or of the 3-bit groups of n[24:3] (R188). -/
def dirHome (n : Nat) : Nat × Nat :=
  let g := (List.range 8).foldl (fun x i => Nat.xor x (n / 8 ^ (i + 1) % 8)) 0
  (Nat.xor (n % 8) g, n / 8)

/-- The pseudo-channel of a stack that line `j` of an HBM4 frame lies on: (j + h) mod 64 (R235). -/
def pseudoChannel (f j : Nat) : Nat := (j + (f - 0x4000)) % 64

/-- The unit a line of a frame lives in: the physical tile above its slice, its stack or its channel. -/
def State.lineUnit (s : State) (f j : Nat) : Source :=
  match tierOf f with
  | some .slice => .tile (s.physical (sliceOf f j))
  | some .hbm => .hbm ((f - 0x4000) / 393216)
  | some .ddr =>
    let ch := s.nor.channels
    .ddr (ch.getD ((j + (f - 0x800000)) % (2 * ch.length) / 2) 0)
  | none => .device

/-- The row of a line that an access names: in the line's pseudo-channel, or in its subchannel (R235, R239, R243). -/
def State.rowOf (s : State) (f j row : Nat) : RowRef :=
  { unit := s.lineUnit f j, row := row,
    sub := match tierOf f with
      | some .ddr => (j + (f - 0x800000)) % 2
      | _ => pseudoChannel f j }

/-! ## The declarations in force -/

def State.declared (s : State) (loaf : Nat) : Option Decl :=
  match s.job with
  | none => none
  | some j => declOf j.decls loaf

/-- A bit of IGNORE_HINTS (R218). -/
def State.ignores (s : State) (i : Nat) : Bool := bit s.pol.ignoreHints i

/-- A loaf has a backing copy while slice-resident (R188 BACKED). -/
def State.loafBacked (s : State) (loaf : Nat) : Bool :=
  match s.declared loaf with
  | some d => !d.unbacked || s.pol.jobBackAll
  | none => true

def State.prefersDdr (s : State) (loaf : Nat) : Bool :=
  match s.declared loaf with
  | some d => d.preferDdr && !s.ignores 2
  | none => false

/-- The directory entry of a loaf (R188). -/
def State.entry (s : State) (loaf : Nat) : DirEntry := look { backed := s.loafBacked loaf } loaf s.mem.dir

def State.setEntry (s : State) (loaf : Nat) (e : DirEntry) : State := { s with mem := { s.mem with dir := put loaf e s.mem.dir } }

/-- The loaf's tensor and its numerics entry. -/
def State.numericOf (s : State) (tensor : Nat) : Numeric :=
  match s.job with
  | none => {}
  | some j => j.image.numerics.getD tensor {}

/-! ## Reading the directory (R189) -/

/-- The tag of the attempt in progress. -/
def Attempt.tag (a : Attempt) : Nat := a.serial % 16

/-- The ledger's verdict on the attempt of a tag: committed or not (R189). -/
def Attempt.tagCommitted (a : Attempt) (tag : Nat) : Bool :=
  match a.ledger.find? (fun x => x.1 % 16 == tag) with
  | some x => x.2
  | none => false

/-- FRAME_P belongs to the attempt in progress (R189). -/
def State.entryCurrent (s : State) (e : DirEntry) : Bool := decide (e.frameP ≠ noFrame) && e.ptag.toNat == s.att.tag

/-- The frame of the committed version (R189). -/
def State.committedFrame (s : State) (loaf : Nat) : Nat :=
  let e := s.entry loaf
  if e.frameP = noFrame ∨ s.entryCurrent e then e.frameC
  else if s.att.tagCommitted e.ptag.toNat then e.frameP
  else e.frameC

/-- The frame of the pending version, if any (R189). -/
def State.pendingFrame (s : State) (loaf : Nat) : Option Nat :=
  let e := s.entry loaf
  if s.entryCurrent e && !e.pkind then some e.frameP else none

/-- One line of a frame; no frame reads as zero (R186). -/
def State.frameLine (s : State) (f j : Nat) : List Byte :=
  if f = noFrame then List.replicate 64 0 else s.mem.bytes.readBytes (131072 * f + 64 * j) 64

/-- A line of a loaf as committed (R57, R87). Line numbers past the loaf continue in the next (R35). -/
def State.readLine (s : State) (loaf line : Nat) : List Byte :=
  s.frameLine (s.committedFrame (loaf + line / 2048)) (line % 2048)

/-- A line of a loaf as it stands in the attempt: the pending version where there is one. -/
def State.readPending (s : State) (loaf line : Nat) : List Byte :=
  let l := loaf + line / 2048
  s.frameLine ((s.pendingFrame l).getD (s.committedFrame l)) (line % 2048)

/-- `n` lines of a loaf as committed. -/
def State.readLines (s : State) (loaf line n : Nat) : List Byte := ((List.range n).map (fun i => s.readLine loaf (line + i))).flatten

/-! ## Allocating and freeing frames (R190, R194 to R196, R201 to R203, R485) -/

/-- The first number at or above `c` and below `hi` that is not taken. -/
def firstFree (taken : List Nat) (hi : Nat) : Nat → Nat → Option Nat
  | 0, _ => none
  | n + 1, c => if hi ≤ c then none else if taken.contains c then firstFree taken hi n (c + 1) else some c

def State.taken (s : State) : List Nat := s.mem.used ++ s.mem.withheld

def State.freeIn (s : State) (lo hi : Nat) : Option Nat := firstFree s.taken hi (s.taken.length + 1) lo

/-- One past the last HBM4 frame that serves loaves (R187). -/
def State.hbmTop (s : State) : Nat :=
  match s.job with
  | some j => 0x4000 + hbmFrames j.image j.decls
  | none => 0x4000

/-- The stacks that a loaf's affinity group prefers: the two of the die that holds its home tile (R201). -/
def State.homeStacks (s : State) (loaf : Nat) : Option Nat :=
  match s.job, s.declared loaf with
  | some j, some d =>
    if d.affinity = 0 ∨ s.ignores 3 then none
    else (look? d.affinity j.homes).map (fun t => 2 * tileDie (s.physical t))
  | _, _ => none

def State.freeSlice (s : State) : Option Nat := s.freeIn 0 14336

def State.freeHbm (s : State) (loaf : Nat) : Option Nat :=
  match s.homeStacks loaf with
  | none => s.freeIn 0x4000 s.hbmTop
  | some k =>
    match s.freeIn (0x4000 + 393216 * k) (Nat.min s.hbmTop (0x4000 + 393216 * (k + 2))) with
    | some f => some f
    | none => s.freeIn 0x4000 s.hbmTop

def State.freeDdr (s : State) : Option Nat := s.freeIn 0x800000 (0x800000 + s.nor.ddrFrames)

/-- A free external frame, of DDR5 first or of HBM4 first. -/
def State.freeExternal (s : State) (loaf : Nat) (ddrFirst : Bool) : Option Nat :=
  if ddrFirst then (match s.freeDdr with | some f => some f | none => s.freeHbm loaf)
  else (match s.freeHbm loaf with | some f => some f | none => s.freeDdr)

def Mem.take (f : Nat) (m : Mem) : Mem := { m with used := m.used ++ [f] }

/-- Copy a frame's bytes onto another; the copy of no frame is zero (R64, R186). -/
def copyFrame (src dst : Nat) (m : Memory) : Memory :=
  let cleared := m.clear (131072 * dst) 131072
  if src = noFrame then cleared
  else each (fun (c : Host.Cell) m => m.write (c.1 - 131072 * src + 131072 * dst) c.2)
    (m.filter (fun c => decide (131072 * src ≤ c.1) && decide (c.1 < 131072 * (src + 1)))) cleared

/-- Free a frame of a version that no longer counts, and its backing copy, but for frames of the version kept, and frames
kept for a checkpoint (R190, R194, R196, R340). -/
def Mem.drop (keep f : Nat) (m : Mem) : Mem :=
  let held := fun x => m.kept.any (fun k => k.2 == x)
  if f = noFrame ∨ f = keep ∨ (keep < 14336 ∧ (look {} keep m.slices).back = f) ∨ held f then m
  else if f < 14336 then
    let back := (look {} f m.slices).back
    let m := { m with used := m.used.erase f, slices := del f m.slices }
    if back = noFrame ∨ back = keep ∨ held back then m else { m with used := m.used.erase back }
  else { m with used := m.used.erase f }

/-- Normalise a directory entry: FRAME_C the committed version, FRAME_P none (R190). A version of the attempt in progress stays. -/
def normalise (loaf : Nat) (s : State) : State :=
  let e := s.entry loaf
  if e.frameP = noFrame ∨ s.entryCurrent e then s
  else
    let c := s.committedFrame loaf
    let dead := if c = e.frameP then e.frameC else e.frameP
    let s := { s with mem := s.mem.drop c dead }
    s.setEntry loaf { e with frameC := c, frameP := noFrame, ptag := 0, pkind := false }

/-- The loaf lies in the staging range of a collective entry (R306). -/
def State.staging (s : State) (loaf : Nat) : Bool :=
  match s.job with
  | some j => j.image.stagingRanges.any (fun x => decide (x.1 ≤ loaf) && decide (loaf < x.1 + x.2))
  | none => false

/-- The loaf lies in the staging range of an entry that is in progress (R306). -/
def State.stagingBusy (s : State) (loaf : Nat) : Bool :=
  match s.job with
  | some j => j.image.stagingRanges.zipIdx.any (fun x => decide (x.1.1 ≤ loaf) && decide (loaf < x.1.1 + x.1.2) &&
      s.coll.any (fun r => r.coll == x.2 && !r.complete))
  | none => false

/-- The frame a pending version takes (R195, R202, R203): the tier of the committed version, or of a first write. -/
def State.placeFor (s : State) (loaf : Nat) (staging : Bool) : Option Nat :=
  let c := s.committedFrame loaf
  let pinned := s.mem.pinned.contains loaf && !s.ignores 0
  match tierOf c with
  | some .slice => (match s.freeSlice with | some f => some f | none => s.freeExternal loaf false)
  | some .hbm => s.freeExternal loaf false
  | some .ddr => s.freeExternal loaf true
  | none =>
    if staging then s.freeExternal loaf false
    else match (if pinned then s.freeSlice else none) with
      | some f => some f
      | none => s.freeExternal loaf (s.prefersDdr loaf)

/-- Cancel a migration of the loaf in the attempt in progress (R66, R200). -/
def cancelMigration (loaf : Nat) (s : State) : State :=
  let e := s.entry loaf
  if s.entryCurrent e && e.pkind then
    let m := { s.mem.drop e.frameC e.frameP with migrations := s.mem.migrations.erase loaf }
    ({ s with mem := m }).setEntry loaf { e with frameP := noFrame, ptag := 0, pkind := false }
  else s

/-- The first write of an attempt to a loaf allocates its pending version with the merge copy of the committed contents,
and for a backed loaf in a slice frame its pending backing frame (R64, R186, R194, R195). None: no frame (R207). -/
def allocPending (loaf : Nat) (s0 : State) : Option State :=
  let s := cancelMigration loaf (normalise loaf s0)
  match s.pendingFrame loaf with
  | some _ => some s
  | none =>
    let e := s.entry loaf
    let c := s.committedFrame loaf
    match s.placeFor loaf (s.staging loaf) with
    | none => none
    | some f =>
      let s1 := { s with mem := { s.mem.take f with bytes := copyFrame c f s.mem.bytes } }
      let done := fun (s : State) => some (s.setEntry loaf { e with frameP := f, ptag := BitVec.ofNat 4 s.att.serial, pkind := false })
      if f < 14336 then
        let rec_ := fun back => ({ loaf := loaf, back := back, pinned := s1.mem.pinned.contains loaf } : SliceRec)
        if e.backed then
          match s1.freeExternal loaf (s1.prefersDdr loaf) with
          | none => none
          | some b => done { s1 with mem := { s1.mem.take b with bytes := copyFrame c b s1.mem.bytes, slices := put f (rec_ b) s1.mem.slices } }
        else done { s1 with mem := { s1.mem with slices := put f (rec_ noFrame) s1.mem.slices } }
      else done s1

/-- The payload of a condition about a loaf outside a task (R444 Task form). -/
def loafRaise (c : Cond) (loaf : Nat) (s : State) : Raise :=
  let step := match s.job with | some j => j.step | none => 0
  let tick := match s.job with | some j => j.localTick | none => 0
  Raise.of c .device (step * 2 ^ 24) s.att.serial tick loaf

/-- Allocate, or raise VERSION_SPACE and leave the state (R195, R207). -/
def openVersion (loaf : Nat) (s : State) : State × Bool :=
  match allocPending loaf s with
  | some s' => (s', true)
  | none => (raise (loafRaise .versionSpace loaf s) s, false)

/-- The counter of a loaf rises once for an entry or operation that touches it (R197). -/
def touch (loaf : Nat) (s : State) : State :=
  let e := s.entry loaf
  s.setEntry loaf { e with access := Nat.min 255 (e.access + 1) }

/-! ## The front ends of the HBM4 pseudo-channels (R237, R360) -/

/-- The requesters of a front end (R237 Table 5): the attachment routers of the stack in Table 2's order, inbound fabric, host DMA, migration, the
patrol. -/
abbrev hbmFabric : Nat := 6

abbrev hbmHost : Nat := 7

abbrev hbmMigration : Nat := 8

abbrev hbmPatrol : Nat := 9

/-- The weight of a requester (R237 Table 5): a migration has none, so that it goes in a cycle with no other requester. -/
def Mem.hbmWeight (m : Mem) (r : Nat) : Nat :=
  if r < 6 then m.hbmWeights.getD 0 0 else if r = hbmFabric then m.hbmWeights.getD 1 0 else if r = hbmHost then m.hbmWeights.getD 2 0 else 0

/-- The requester by which a tile reaches a line of HBM4: the attachment router nearest to its own router (R226, R237). -/
def tileRequester (p f : Nat) : Nat := (Attached.hbm ((f - 0x4000) / 393216)).index (routerOf p)

/-- An access to a line of HBM4 is granted at its front end, ahead of the others that wait there where the arbiter lets it; otherwise they had not
yet come to it (R237, R360; notes/assumptions/82.md). -/
def hbmGrant (f j r : Nat) (others : List Nat) (m : Mem) : Mem :=
  if tierOf f = some .hbm then
    let k := ((f - 0x4000) / 393216, pseudoChannel f j)
    let a := look {} k m.hbmArbs
    let go := fun req => a.arbitrate m.hbmWeight (· == hbmPatrol) req
    let x := go (r :: others)
    { m with hbmArbs := put k (if x.1 = some r then x.2 else (go [r]).2) m.hbmArbs }
  else m

/-- The requester of a write: the tile that runs the task, the fabric for what comes in by it, host DMA for a host fill (R68, R237 Table 5). -/
def State.requester (s : State) (w : Writer) (f : Nat) : Nat :=
  if w.rank = 1 then tileRequester (((s.att.admitted.find? (fun a => a.task == w.key1)).map (fun a => s.physical a.tile)).getD 0) f
  else if w.rank = 4 then hbmHost
  else hbmFabric

/-- The access of a write to the pending version of a loaf. -/
def grantWrite (w : Writer) (l j : Nat) (s : State) : State :=
  match s.pendingFrame l with
  | some f => { s with mem := hbmGrant f j (s.requester w f) [] s.mem }
  | none => s

/-- The accesses of a command that reads committed lines for the host. -/
def grantReads (loaf line n : Nat) (s : State) : State :=
  each (fun i s =>
    let x := line + i
    { s with mem := hbmGrant (s.committedFrame (loaf + x / 2048)) (x % 2048) hbmHost [] s.mem }) (List.range n) s

/-! ## Writing a pending version (R39, R64, R68) -/

/-- Whether a write stands over the one before it in the same attempt: the higher rank, and in one rank the later (R39,
R50, R68, R307). -/
def Writer.over (n o : Writer) : Bool :=
  decide (n.rank < o.rank) ||
    (decide (n.rank = o.rank) && (decide (o.key1 < n.key1) || (decide (o.key1 = n.key1) && decide (o.key2 ≤ n.key2))))

/-- Store bytes in the pending frame of a loaf and in its backing frame (R194). -/
def storePending (loaf off : Nat) (data : List Byte) (s : State) : State :=
  match s.pendingFrame loaf with
  | none => s
  | some f =>
    let m := s.mem.bytes.writeBytes (131072 * f + off) data
    let back := (look {} f s.mem.slices).back
    let m := if f < 14336 ∧ back ≠ noFrame then m.writeBytes (131072 * back + off) data else m
    { s with mem := { s.mem with bytes := m } }

/-- A write stands over the one that may have come before it. -/
def Writer.beats (n : Writer) (o : Option Writer) : Bool :=
  match o with
  | some o => n.over o
  | none => true

/-- The bytes a line write leaves: a byte that a scale byte write of a higher place holds keeps its value (R39). -/
def State.mergeBytes (s : State) (w : Writer) (l j : Nat) (data : List Byte) : List Byte :=
  (data.take 64).zipIdx.map (fun x =>
    if w.beats (look? (l, 64 * j + x.2) s.mem.byteWriters) then x.1
    else match s.pendingFrame l with
      | some f => s.mem.bytes.read (131072 * f + 64 * j + x.2)
      | none => x.1)

/-- Write a line of a loaf in the attempt in progress, in its place among the writes of that line and of its bytes (R39, R68). -/
def writePending (w : Writer) (loaf line : Nat) (data : List Byte) (s : State) : State :=
  let l := loaf + line / 2048
  let j := line % 2048
  let o := openVersion l s
  if !o.2 then o.1
  else
    let s := o.1
    if w.beats (look? (l, j) s.mem.writers) then
      grantWrite w l j (storePending l (64 * j) (s.mergeBytes w l j data) { s with mem := { s.mem with writers := put (l, j) w s.mem.writers } })
    else s

/-- Write lines one after another. -/
def writeLines (w : Writer) (loaf line : Nat) : List (List Byte) → State → State
  | [], s => s
  | d :: ds, s => writeLines w loaf (line + 1) ds (writePending w loaf line d s)

/-- Bytes cut into lines of 64. -/
def cutLines (b : List Byte) : List (List Byte) := (List.range (ceilDiv b.length 64)).map (fun i => (b.drop (64 * i)).take 64)

/-- Write a single byte under the byte order of R39 (the scale bytes of an MX tensor), in its place among the writes of the byte and of
its line (R39, R68). -/
def writePendingByte (w : Writer) (loaf off : Nat) (v : Byte) (s : State) : State :=
  let l := loaf + off / 131072
  let a := off % 131072
  let o := openVersion l s
  if !o.2 then o.1
  else
    let s := o.1
    if w.beats (look? (l, a) s.mem.byteWriters) && w.beats (look? (l, a / 64) s.mem.writers) then
      grantWrite w l (a / 64) (storePending l a [v] { s with mem := { s.mem with byteWriters := put (l, a) w s.mem.byteWriters } })
    else s

/-- Replace a line's contents whatever wrote it; any later write replaces them (R68: ADD). DESIGN CHOICE (notes/assumptions/76.md): R68's
ranks name no CAS (Table 2); it acts as an ADD does. -/
def replacePending (loaf line : Nat) (data : List Byte) (s : State) : State :=
  let l := loaf + line / 2048
  let o := openVersion l s
  if !o.2 then o.1
  else grantWrite { rank := 3, key1 := 0, key2 := 0 } l (line % 2048) (storePending l (64 * (line % 2048)) data { o.1 with mem := { o.1.mem with
    writers := del (l, line % 2048) o.1.mem.writers
    byteWriters := o.1.mem.byteWriters.filter (fun x => !(decide (x.1.1 = l) && decide (x.1.2 / 64 = line % 2048))) } })

/-! ## Scale records (R173) -/

/-- The scale record of a tray of a loaf, as committed. -/
def State.scaleOf (s : State) (loaf tray : Nat) : ScaleRec := look {} (loaf, tray) s.mem.scales

/-- The scale record of a tray of a loaf in the attempt in progress. -/
def State.scalePending (s : State) (loaf tray : Nat) : ScaleRec := look (s.scaleOf loaf tray) (loaf, tray) s.mem.scalesP

def setScale (loaf tray : Nat) (r : ScaleRec) (s : State) : State :=
  { s with mem := { s.mem with scalesP := put (loaf, tray) r s.mem.scalesP } }

/-- The 32 bytes of a scale record (R173 Table 8). -/
def scaleBytes (r : ScaleRec) : List Byte :=
  leBytes 2 r.scale.toNat ++ leBytes 2 (if r.ovf then 1 else 0) ++ leBytes 4 r.lastStep ++ r.hist.map (fun m => BitVec.ofInt 8 m) ++ List.replicate 8 0

/-- A scale record read from its 32 bytes. -/
def parseScale (b : List Byte) : ScaleRec :=
  { scale := BitVec.ofNat 16 (leNat (b.take 2)), ovf := bit (leNat (b.take 4)) 16, lastStep := leNat ((b.drop 4).take 4),
    hist := ((b.drop 8).take 16).map (fun v => v.toInt) }

/-- The first declared loaf and place of a loaf in its tensor: elements before it, through the tensor's ranges in
ascending loaf order (R168). -/
def elementBase (ds : List Decl) (tensor per loaf : Nat) : Nat :=
  ((ds.filter (fun d => d.tensor == tensor && decide (d.first ≤ loaf))).map (fun d => Nat.min d.count (loaf - d.first))).sum * per

/-- The stored element index of the first element of a line (R168). -/
def State.elementIndex (s : State) (tensor loaf line : Nat) : Nat :=
  match s.job with
  | none => 0
  | some j =>
    let n := perLine (j.image.numerics.getD tensor {}).format
    elementBase j.decls tensor (2048 * n) (loaf + line / 2048) + line % 2048 * n

/-! ## Errors (R78, R192, R232, R240 to R244) -/

/-- The payload of a memory condition (R444): address, loaf or all ones, syndrome, row. The spec gives no syndrome: free. -/
def memRaise (c : Cond) (f j loaf row : Nat) (s : State) : Raise × State :=
  let (v, s') := s.fresh
  (Raise.of c (s.lineUnit f j) (lineAddress f j) loaf v.toNat row, s')

def markRow (r : RowRef) (s : State) : State :=
  if s.mem.markedRows.contains r then s else { s with mem := { s.mem with markedRows := s.mem.markedRows ++ [r] } }

/-- A corrected error: HBM_CE or DDR_CE; a row with two distinct addresses in 24 hours is marked (R240, R243). -/
def memCorrected (f j loaf row : Nat) (s : State) : State :=
  let x := s.rowOf f j row
  let a := lineAddress f j
  let (r, s) := memRaise (if tierOf f = some .ddr then .ddrCe else .hbmCe) f j loaf row s
  let s := raise r s
  let s := countMem x.unit (fun c => { c with corrected := c.corrected + 1 }) s
  let again := s.mem.rowErrors.any (fun e => e.at_ == x && e.addr != a && decide (s.time.now < e.time + 86400 * 2000000000))
  let s := { s with mem := { s.mem with rowErrors := s.mem.rowErrors ++ [{ at_ := x, addr := a, time := s.time.now }] } }
  if again then markRow x s else s

/-- The unit had an uncorrectable error in an earlier compute-reset interval of the last 24 hours (R244). -/
def State.lostAgain (s : State) (u : Source) : Bool :=
  s.mem.uePast.any (fun x => x.1 == u && decide (s.time.now < x.2 + 86400 * 2000000000))

/-- MEM_LOST of a stack or channel (R244). -/
def memLost (u : Source) (s : State) : State :=
  let s := countMem u (fun c => { c with lost := true }) s
  raise (Raise.of .memLost u 0 0xFFFFFFFFFFFFFFFF 0 0) s

/-- An uncorrectable error in a frame that holds a version, or in a reserved area (R241, R243, R244). -/
def memUncorrectable (f j loaf row : Nat) (s : State) : State :=
  let u := s.lineUnit f j
  let (r, s) := memRaise (if tierOf f = some .ddr then .ddrUe else .hbmUe) f j loaf row s
  let again := s.lostAgain u
  let s := countMem u (fun c => { c with uncorrectable := c.uncorrectable + 1 }) s
  let s := markRow (s.rowOf f j row) { s with mem := { s.mem with ueNow := if s.mem.ueNow.contains u then s.mem.ueNow else s.mem.ueNow ++ [u] } }
  let s := raise r s
  if again then memLost u s else s

/-- Write the backing copy over a damaged committed slice version (R78). -/
def repairFromBacking (f : Nat) (s : State) : State :=
  let back := (look {} f s.mem.slices).back
  if f < 14336 ∧ back ≠ noFrame then { s with mem := { s.mem with bytes := copyFrame back f s.mem.bytes } } else s

/-- A line of a frame becomes these bytes. -/
def State.setFrameLine (s : State) (f j : Nat) (data : List Byte) : State :=
  if f = noFrame then s else { s with mem := { s.mem with bytes := s.mem.bytes.writeBytes (131072 * f + 64 * j) ((data ++ List.replicate 64 0).take 64) } }

/-- A line whose contents are lost: its bytes are open (notes/assumptions/81.md). -/
def loseLine (f j : Nat) (s : State) : State := { s.setFrameLine f j s.freeLine with freeCtr := s.freeCtr + 4 }

/-- Who reads a version: how it tells the hub of a condition, what it says of an unbacked loaf that is lost, and whether its read fails no
attempt, being of run-ahead or of a migration (R78, R200). -/
structure Reader where
  tell : Raise → State → State
  loss : State → Raise
  spares : Bool := false

/-- A task on a tile reads: its conditions are reports (R78, R233). -/
def Reader.tile (p task loaf : Nat) (ahead : Bool) : Reader :=
  { tell := report, loss := taskRaise .unbackedLoss p task loaf, spares := ahead }

/-- The hub, the placement engine or a controller reads for a command. -/
def Reader.hub (loaf : Nat) (spares : Bool) : Reader := { tell := raiseStrike, loss := loafRaise .unbackedLoss loaf, spares := spares }

/-- A slice line fails its parity: SLICE_PARITY against the tile above the slice. A committed version is written over with its backing copy, or
without one UNBACKED_LOSS is raised (R78, R200, R232). Whether the line is good then. -/
def sliceParityError (w : Reader) (f j loaf : Nat) (s : State) : State × Bool :=
  let committed := decide (f = s.committedFrame loaf)
  let (r, s) := memRaise .sliceParity f j loaf 0 s
  let s := w.tell (if w.spares then r.as .note r.sev else r) s
  if !committed then (s, false)
  else if (look {} f s.mem.slices).back = noFrame then (loseLine f j (w.tell (w.loss s) s), false)
  else (repairFromBacking f s, false)

/-- What a read of line `j` of a version of a loaf in frame `f` met: nothing, or its condition, and whether the read returned the line. A
corrected line is written back as it was returned (R78, R192, R232, R236, R240, R241). -/
def readVersion (w : Reader) (f j loaf : Nat) (o : ReadOutcome) (s : State) : State × Bool :=
  match o, tierOf f with
  | .parity, some .slice => sliceParityError w f j loaf s
  | .corrected row, some .hbm => (memCorrected f j loaf row s, true)
  | .corrected row, some .ddr => (memCorrected f j loaf row s, true)
  | .miscorrected row data, some .hbm => ((memCorrected f j loaf row s).setFrameLine f j data, true)
  | .uncorrectable row, some .hbm => (memUncorrectable f j loaf row (loseLine f j s), false)
  | .uncorrectable row, some .ddr => (memUncorrectable f j loaf row (loseLine f j s), false)
  | .dirCorrected, _ => (raise (loafRaise .dirEccCe loaf s) s, true)
  | .dirUncorrectable, _ => (raise (loafRaise .dirEccUe loaf s) s, false)
  | _, _ => (s, true)

/-- The committed frame of a loaf as a tile reads it: from its translation cache, where the loaf is there (R191). -/
def State.readFrame (s : State) (p loaf : Nat) : Nat := (look? loaf (s.tile p).cache).getD (s.committedFrame loaf)

/-- What a read of a committed line met, by a task on tile `p`; whether the line is good. -/
def readChecked (p task : Nat) (ahead : Bool) (loaf j : Nat) (o : ReadOutcome) (s : State) : State × Bool :=
  readVersion (Reader.tile p task loaf ahead) (s.committedFrame loaf) j loaf o s

/-- A line lies within `n` lines from a line of a loaf on (R35). -/
def readWithin (r : MemRead) (loaf line n : Nat) : Bool :=
  decide (r.line < 2048) && decide (2048 * loaf + line ≤ 2048 * r.loaf + r.line) && decide (2048 * r.loaf + r.line < 2048 * loaf + line + n)

/-- What the reads of committed lines met that a command makes, of the lines it reads (R232, R236, R240, R241). -/
def hubReads (reads : MemRead → Bool) (rs : List MemRead) (s : State) : State :=
  each (fun r s => if reads r then (readVersion (Reader.hub r.loaf false) (s.committedFrame r.loaf) r.line r.loaf r.outcome s).1 else s) rs s

/-- What the read met that a write of less than a line, or the merge copy of a first write, makes: of the pending version where there is one
(R64, R68, R276). -/
def hubReadPending (loaf line : Nat) (o : ReadOutcome) (s : State) : State :=
  let l := loaf + line / 2048
  (readVersion (Reader.hub l false) ((s.pendingFrame l).getD (s.committedFrame l)) (line % 2048) l o s).1

/-! ## The verdict on versions (R65, R73, R173, R189) -/

/-- The ledger with one more verdict, of the last 16 (R189). -/
def Attempt.judged (a : Attempt) (ok : Bool) : Attempt := { a with ledger := ((a.serial, ok) :: a.ledger).take 16 }

/-- Superseded versions of loaves are kept while a SAVE has not passed them (R340). -/
def keepForSave (s : State) : List (Nat × Nat) :=
  (s.mem.dir.filter (fun x => s.entryCurrent x.2 && !x.2.pkind && decide (x.2.frameC ≠ noFrame) && !(s.mem.kept.any (fun k => k.1 == x.1)))).map (fun x => (x.1, x.2.frameC))

/-- The attempt's versions commit, or are dropped: one ledger entry, and the scale blocks with them (R65, R73, R173). -/
def judgeVersions (ok saving : Bool) (s : State) : State :=
  let kept := if ok && saving then s.mem.kept ++ keepForSave s else s.mem.kept
  { s with
    att := s.att.judged ok
    mem := { s.mem with
      kept := kept
      scales := if ok then each (fun x m => put x.1 x.2 m) s.mem.scalesP s.mem.scales else s.mem.scales
      scalesP := [], writers := [], byteWriters := [], migrations := [] } }

/-- Entries whose verdict is 8 slots old are normalised (R190). -/
def sweepDue (s : State) : State :=
  each (fun (x : Nat × DirEntry) s =>
      if x.2.frameP ≠ noFrame ∧ 8 ≤ (s.att.tag + 16 - x.2.ptag.toNat) % 16 then normalise x.1 s else s)
    s.mem.dir s

/-- The frame is part of a loaf's committed version: its frame or the backing copy of it. -/
def State.committedPart (s : State) (c f : Nat) : Bool :=
  decide (f = noFrame) || decide (f = c) || (decide (c < 14336) && decide ((look {} c s.mem.slices).back = f))

/-- Frames held by superseded versions and dead pending versions, each with its backing copy, but for those that are part of the committed
version (R194, R196, R207). -/
def State.heldFrames (s : State) : Nat :=
  ((s.mem.dir.filter (fun x => decide (x.2.frameP ≠ noFrame) && !s.entryCurrent x.2)).map (fun x =>
    let c := s.committedFrame x.1
    let dead := if c = x.2.frameP then x.2.frameC else x.2.frameP
    let back := if dead < 14336 then (look {} dead s.mem.slices).back else noFrame
    (if s.committedPart c dead then 0 else 1) + (if s.committedPart c back then 0 else 1))).sum

end Sys2Proof.Machine
end

