-- ==== Sys2Proof/Machine/Directory.lean ====
section
/-! DEFINITION. The background work of the placement engine and of the memory controllers: the directory sweep, the
decay of the access counters, pinning, the planning of migrations, the patrol and the front ends (R190, R192, R195 to R203,
R237, R239 to R244). -/

namespace Sys2Proof.Machine

/-- The compute domain answers: the device is in STANDBY, READY or RUNNING, and the test access port does not hold it fenced (R8, R361, R436). -/
def State.computing (s : State) : Bool :=
  decide (s.dev.state = .standby ∨ s.dev.state = .ready ∨ s.dev.state = .running) && !s.dev.fenced

/-! ## The sweep (R190, R192, R197) -/

/-- DIRECTORY_SWEEP: the background sweep reads a loaf's directory entry, corrects it and normalises it (R190, R192). -/
def execDirectorySweep (loaf : Nat) (outcome : ReadOutcome) (s : State) : Host.Outcome State Fault Refusal :=
  if 33554432 ≤ loaf then .fault .noSuchUnit
  else .next (if !s.computing then s
    else match outcome with
      | .dirUncorrectable => raise (loafRaise .dirEccUe loaf s) s
      | .dirCorrected => normalise loaf (raise (loafRaise .dirEccCe loaf s) s)
      | _ => normalise loaf s)

/-- ACCESS_DECAY: every DECAY_TICKS slots the sweep halves every counter, rounding down (R197). -/
def execAccessDecay (s : State) : Host.Outcome State Fault Refusal :=
  .next (if s.computing && decide (s.pol.decayTicks ≤ s.mem.decaySlots) then
      { s with mem := { s.mem with decaySlots := 0, dir := s.mem.dir.map (fun x => (x.1, { x.2 with access := x.2.access / 2 })) } }
    else s)

/-! ## Pinning (R202, R203) -/

/-- The KEEP_IN_SLICE loaves in ascending order. -/
def keepLoaves (ds : List Decl) : List Nat :=
  (((ds.filter (·.keepInSlice)).map (fun d => (List.range d.count).map (d.first + ·))).flatten).mergeSort (· ≤ ·)

/-- The loaves to pin, and those past the limit of R202 Table 4. -/
def State.pins (s : State) : List Nat × List Nat :=
  let ls := match s.job with
    | none => []
    | some j => if s.ignores 0 then [] else keepLoaves j.decls
  (ls.take (14336 - s.pol.sliceHeadroom), ls.drop (14336 - s.pol.sliceHeadroom))

/-- Pin the KEEP_IN_SLICE loaves up to the limit of R202 Table 4. -/
def setPins (s : State) : State :=
  let ls := s.pins.1
  { s with mem := { s.mem with pinned := ls, slices := s.mem.slices.map (fun x => (x.1, { x.2 with pinned := ls.contains x.2.loaf })) } }

/-- Pin, and record PIN_OVERFLOW for the first loaf left over (R203). -/
def pinLoaves (s : State) : State :=
  match s.pins.2 with
  | [] => setPins s
  | l :: _ => raise (loafRaise .pinOverflow l s) (setPins s)

/-! ## Migration (R195, R196, R198 to R200) -/

/-- Free frames of a tier. -/
def State.freeCount (s : State) (t : Tier) : Nat :=
  let busy := (s.taken.filter (fun f => decide (tierOf f = some t))).length
  match t with
  | .slice => 14336 - busy
  | .hbm => s.hbmTop - 0x4000 - busy
  | .ddr => s.nor.ddrFrames - busy

/-- The bytes of a tier's bandwidth in a microsecond: the budget of R199 at 5 % over 32 µs is 209,600,000, 41,920,000 and
655,360 bytes with eight channels. -/
def tierRate (channels : Nat) (t : Tier) : Nat :=
  match t with
  | .slice => 131000000
  | .hbm => 26200000
  | .ddr => 51200 * channels

/-- What is left of the three budgets in a plan (R199), whether it is spent, and loaves already planned. -/
structure Budget where
  slice : Nat
  hbm : Nat
  ddr : Nat
  spent : Bool := false

def Budget.of (s : State) : Budget :=
  let us := match s.job with | some j => j.image.tickUs | none => 0
  let b := fun t => s.pol.migratePct * tierRate s.nor.ddrChannels t * us / 100
  { slice := b .slice, hbm := b .hbm, ddr := b .ddr }

def Budget.left (b : Budget) (t : Tier) : Nat :=
  match t with
  | .slice => b.slice
  | .hbm => b.hbm
  | .ddr => b.ddr

def Budget.charge (b : Budget) (t : Tier) : Budget :=
  match t with
  | .slice => { b with slice := b.slice - 131072 }
  | .hbm => { b with hbm := b.hbm - 131072 }
  | .ddr => { b with ddr := b.ddr - 131072 }

/-- A migration reads one tier and writes another: both charged, or the budget is spent (R199). -/
def Budget.move (b : Budget) (src dst : Tier) : Budget :=
  let c := b.charge src
  if b.spent ∨ b.left src < 131072 ∨ c.left dst < 131072 then { b with spent := true } else c.charge dst

/-- The loaf has a pending version or a migration in the attempt, or no frame at all, or it is staging of an entry in progress (R200, R306). -/
def State.stays (s : State) (loaf : Nat) : Bool :=
  s.entryCurrent (s.entry loaf) || decide (s.committedFrame loaf = noFrame) || s.stagingBusy loaf

/-- Point FRAME_P at a migration's frame (R200). -/
def planMove (loaf f : Nat) (s : State) : State :=
  let s := { s with mem := { s.mem with migrations := s.mem.migrations ++ [loaf] } }
  s.setEntry loaf { s.entry loaf with frameP := f, ptag := BitVec.ofNat 4 s.att.serial, pkind := true }

/-- Copy a loaf's committed version to a frame of another tier (R200). -/
def moveTo (loaf f : Nat) (s : State) : State :=
  planMove loaf f { s with mem := { hbmGrant f 0 hbmMigration [] (s.mem.take f) with bytes := copyFrame (s.committedFrame loaf) f s.mem.bytes } }

/-- Promote a loaf to the slice tier: the old external frame of a backed loaf becomes its backing copy (R196). -/
def promote (loaf : Nat) (b : Budget) (s : State) : Budget × State :=
  let s := normalise loaf s
  let c := s.committedFrame loaf
  match tierOf c, s.freeSlice with
  | some t, some f =>
    let b' := b.move t .slice
    if b'.spent then (b', s)
    else
      let r : SliceRec := { loaf := loaf, back := if (s.entry loaf).backed then c else noFrame, pinned := s.mem.pinned.contains loaf }
      (b', moveTo loaf f { s with mem := { s.mem with slices := put f r s.mem.slices } })
  | _, _ => (b, s)

/-- Copy a loaf to a tier, or when it is full to the other external tier (R198). -/
def demoteCopy (loaf : Nat) (src : Tier) (toDdr : Bool) (b : Budget) (s : State) : Budget × State :=
  match s.freeExternal loaf toDdr with
  | none => (b, s)
  | some f =>
    let b' := b.move src (if f < 0x800000 then .hbm else .ddr)
    if b'.spent then (b', s) else (b', moveTo loaf f s)

/-- Demote a slice-resident loaf: a backed one without a copy (R196). -/
def demote (loaf : Nat) (b : Budget) (s : State) : Budget × State :=
  let s := normalise loaf s
  let back := (look {} (s.committedFrame loaf) s.mem.slices).back
  if back ≠ noFrame then (b, planMove loaf back s) else demoteCopy loaf .slice (s.prefersDdr loaf) b s

/-- Loaves of a tier, with their access counters. -/
def State.loavesIn (s : State) (t : Tier) : List (Nat × Nat) :=
  (s.mem.dir.filter (fun x => decide (tierOf (s.committedFrame x.1) = some t) && !s.stays x.1)).map (fun x => (x.1, x.2.access))

/-- Higher ACCESS first, ties by ascending loaf (R198). -/
def hotFirst (a b : Nat × Nat) : Bool := decide (b.2 < a.2) || (decide (a.2 = b.2) && decide (a.1 ≤ b.1))

def coldFirst (a b : Nat × Nat) : Bool := decide (a.2 < b.2) || (decide (a.2 = b.2) && decide (a.1 ≤ b.1))

/-- The coldest unpinned slice-resident loaf. -/
def State.coldest (s : State) : Option (Nat × Nat) :=
  (((s.loavesIn .slice).filter (fun x => !s.mem.pinned.contains x.1)).mergeSort coldFirst).head?

/-- One candidate of steps 1 and 2: promoted into a free slice frame above the headroom, or the coldest loaf is demoted
first and the candidate waits for its frame (R196, R198). -/
def tryPromote (x : Nat × Nat) (st : Budget × State) : Budget × State :=
  let (b, s) := st
  if b.spent || s.stays x.1 then st
  else if s.pol.sliceHeadroom < s.freeCount .slice then promote x.1 b s
  else match s.coldest with
    | some y => if 2 * y.2 < x.2 then demote y.1 b s else st
    | none => st

/-- Loaves outside the slice tier. -/
def State.outside (s : State) : List (Nat × Nat) := s.loavesIn .hbm ++ s.loavesIn .ddr

def State.streamOnce (s : State) (loaf : Nat) : Bool :=
  match s.declared loaf with
  | some d => d.streamOnce && !s.ignores 1
  | none => false

/-- Step 3: demote from HBM4 until 3 % are free, `n` at most (R198). -/
def coolHbm (want : Nat) : List (Nat × Nat) → Nat → Budget × State → Budget × State
  | [], _, st => st
  | x :: l, freed, (b, s) =>
    if b.spent || decide (want ≤ freed) then (b, s)
    else
      let s := normalise x.1 s
      match s.freeDdr with
      | none => (b, s)
      | some f =>
        let b' := b.move .hbm .ddr
        if b'.spent then (b', s) else coolHbm want l (freed + 1) (b', moveTo x.1 f s)

/-- Step 4: promote from DDR5 to HBM4 while more than 3 % is free (R198). -/
def warmHbm (total : Nat) : List (Nat × Nat) → Budget × State → Budget × State
  | [], st => st
  | x :: l, (b, s) =>
    if b.spent || s.stays x.1 || decide (100 * s.freeCount .hbm ≤ 3 * total) then (b, s)
    else
      let s := normalise x.1 s
      match s.freeHbm x.1 with
      | none => (b, s)
      | some f =>
        let b' := b.move .ddr .hbm
        if b'.spent then (b', s) else warmHbm total l (b', moveTo x.1 f s)

/-- HBM4 frames that hold loaf versions (R199). -/
def State.hbmTotal (s : State) : Nat := s.hbmTop - 0x4000

/-- Pinned loaves outside the slices move first, in ascending number (R198). -/
def pinMoves (s : State) : Budget × State :=
  each tryPromote ((s.outside.filter (fun x => s.mem.pinned.contains x.1)).mergeSort (fun a b => decide (a.1 ≤ b.1))) (Budget.of s, s)

/-- Then the loaves at PROMOTE_MIN or above, the hottest first (R198). -/
def hotMoves (st : Budget × State) : Budget × State :=
  each tryPromote ((st.2.outside.filter (fun x =>
    decide (st.2.pol.promoteMin ≤ x.2) && !st.2.streamOnce x.1 && !st.2.mem.pinned.contains x.1)).mergeSort hotFirst) st

/-- The loaves of HBM4 in the order in which they leave it: those that prefer DDR5 and are below PROMOTE_MIN first, and among each the
coldest first; a pinned loaf is never demoted (R198, R202). -/
def State.coolOrder (s : State) : List (Nat × Nat) :=
  let cold := ((s.loavesIn .hbm).filter (fun x => !s.mem.pinned.contains x.1)).mergeSort coldFirst
  let first := fun (x : Nat × Nat) => s.prefersDdr x.1 && decide (x.2 < s.pol.promoteMin)
  cold.filter first ++ cold.filter (fun x => !first x)

/-- While less than 2 % of HBM4 is free, loaves leave it until 3 % is (R198). -/
def coolMoves (st : Budget × State) : Budget × State :=
  if 100 * st.2.freeCount .hbm < 2 * st.2.hbmTotal then
    coolHbm ((3 * st.2.hbmTotal + 99) / 100 - st.2.freeCount .hbm) st.2.coolOrder 0 st
  else st

/-- Then hot loaves of DDR5 come into HBM4 (R198). -/
def warmMoves (st : Budget × State) : Budget × State :=
  warmHbm st.2.hbmTotal (((st.2.loavesIn .ddr).filter (fun x =>
    decide (st.2.pol.promoteMin ≤ x.2) && !st.2.prefersDdr x.1)).mergeSort hotFirst) st

/-- Plan the migrations of the slot that opens, in the order of R198, within the budget of R199. -/
def planMigrations (s : State) : State := (warmMoves (coolMoves (hotMoves (pinMoves s)))).2

/-- What a read of the placement engine met as it copied a committed version, for a migration or as a merge copy: a migration that meets a parity
error is abandoned and fails no attempt. What the copy returned stands in the copy too (R64, R78, R200, R240, R241). -/
def copyRead (r : MemRead) (s : State) : State :=
  let e := s.entry r.loaf
  let migrating := s.entryCurrent e && e.pkind
  let f := s.committedFrame r.loaf
  if !s.entryCurrent e ∨ 2048 ≤ r.line then s
  else
    let s := if migrating && decide (r.outcome = .parity) && decide (f < 14336) then cancelMigration r.loaf s else s
    let s := (readVersion (Reader.hub r.loaf migrating) f r.line r.loaf r.outcome s).1
    if decide (s.entryCurrent (s.entry r.loaf)) && (look? (r.loaf, r.line) s.mem.writers).isNone
        && (match r.outcome with | .miscorrected _ _ => decide (tierOf f = some .hbm) | _ => false) then
      s.setFrameLine e.frameP r.line (s.frameLine f r.line)
    else s

/-! ## The patrol and the controllers (R237, R239 to R244) -/

/-- The loaf a frame holds a version of, or holds the backing copy of: all ones for none (R444). -/
def State.loafOfFrame (s : State) (f : Nat) : Option Nat :=
  match s.mem.dir.find? (fun x => x.2.frameC == f || x.2.frameP == f) with
  | some x => some x.1
  | none => match s.mem.slices.find? (fun x => x.2.back == f) with
    | some x => some x.2.loaf
    | none => (s.mem.kept.find? (fun k => k.2 == f)).map (·.1)

/-- The frame lies in a reserved area: the top of HBM4, from the end of the frames that serve loaves, or without a job the
image area when an image is loaded (R241; notes/assumptions/13.md). -/
def State.reservedFrame (s : State) (f : Nat) : Bool :=
  match s.job with
  | some _ => decide (s.hbmTop ≤ f) && decide (f < 0x604000)
  | none => s.dev.imageLoaded.isSome && decide (0x604000 - 32768 ≤ f) && decide (f < 0x604000)

/-- The frame holds a version or lies in a reserved area (R241). -/
def State.frameHeld (s : State) (f : Nat) : Bool := s.mem.used.contains f || s.reservedFrame f

/-- A frame of HBM4, or of DDR5 within the configured capacity (R184). -/
def State.externalFrame (s : State) (f : Nat) : Bool :=
  match tierOf f with
  | some .hbm => true
  | some .ddr => decide (f < 0x800000 + s.nor.ddrFrames)
  | _ => false

/-- An uncorrectable error of the patrol in a free frame: MEM_UE_IDLE, and the frame is withheld (R241, R243, R244). -/
def memIdleError (f j row : Nat) (s : State) : State :=
  let u := s.lineUnit f j
  let (r, s) := memRaise .memUeIdle f j 0xFFFFFFFFFFFFFFFF row s
  let again := s.lostAgain u
  let s := countMem u (fun c => { c with uncorrectable := c.uncorrectable + 1 }) s
  let s := markRow (s.rowOf f j row) { s with mem := { s.mem with
    ueNow := if s.mem.ueNow.contains u then s.mem.ueNow else s.mem.ueNow ++ [u],
    withheld := if s.mem.withheld.contains f then s.mem.withheld else s.mem.withheld ++ [f] } }
  let s := raise r s
  if again then memLost u s else s

/-- An uncorrectable error of a frame, held or free (R241). -/
def frameUncorrectable (f j row : Nat) (s : State) : State :=
  if s.frameHeld f then memUncorrectable f j ((s.loafOfFrame f).getD 0xFFFFFFFFFFFFFFFF) row s else memIdleError f j row s

/-- What an access to a line of a reserved area met (R240, R241). -/
def areaRead (a : AreaRead) (s : State) : State :=
  if !s.reservedFrame a.frame ∨ 2048 ≤ a.line then s
  else match a.outcome with
    | .corrected row => memCorrected a.frame a.line 0xFFFFFFFFFFFFFFFF row s
    | .miscorrected row _ => memCorrected a.frame a.line 0xFFFFFFFFFFFFFFFF row s
    | .uncorrectable row => memUncorrectable a.frame a.line 0xFFFFFFFFFFFFFFFF row s
    | _ => s

/-- Lines of one pass of the patrol over a unit (R242). -/
def State.patrolLines (s : State) (u : Source) : Nat :=
  match u with
  | .hbm _ => 393216 * 2048
  | _ => 8192 * s.nor.dimmGib * 2048

/-- PATROL_LINE: the patrol reads its next line of HBM4 or DDR5, in every powered state but OFF and HALTED (R236, R240 to
R244). -/
def execPatrolLine (frame line : Nat) (outcome : ReadOutcome) (s : State) : Host.Outcome State Fault Refusal :=
  if ¬ (s.externalFrame frame ∧ line < 2048) then .fault .noSuchUnit
  else .next (if s.dev.state = .off ∨ s.dev.state = .halted then s
    else
      let u := s.lineUnit frame line
      let s := countMem u (fun c => { c with patrolled := (c.patrolled + 1) % s.patrolLines u }) { s with mem := hbmGrant frame line hbmPatrol [] s.mem }
      match outcome with
      | .corrected row => memCorrected frame line ((s.loafOfFrame frame).getD 0xFFFFFFFFFFFFFFFF) row s
      | .miscorrected row data =>
        let x := memCorrected frame line ((s.loafOfFrame frame).getD 0xFFFFFFFFFFFFFFFF) row s
        if tierOf frame = some .hbm ∧ s.mem.used.contains frame then x.setFrameLine frame line data else x
      | .uncorrectable row => frameUncorrectable frame line row s
      | _ => s)

/-- DDR_WRITE_CRC_ERROR: a DDR5 write whose CRC fails is retried up to 3 times; one that fails every retry is an
uncorrectable error (R239, R241). The spec gives no row: a free value. -/
def execDdrWriteCrcError (frame line retriesFailed : Nat) (s : State) : Host.Outcome State Fault Refusal :=
  if ¬ (0x800000 ≤ frame ∧ s.externalFrame frame ∧ line < 2048) then .fault .noSuchUnit
  else .next (if retriesFailed < 3 ∨ s.dev.state = .off ∨ s.dev.state = .halted then s
    else
      let (v, s) := s.fresh
      frameUncorrectable frame line v.toNat s)

/-- HBM_ARB_HOLD_CUTOFF: a grant of a pseudo-channel's front end passes its hold limit of 256 cycles and is cut off
(R237, R360). -/
def execHbmArbHoldCutoff (stack pc : Nat) (s : State) : Host.Outcome State Fault Refusal :=
  if ¬ (stack < 16 ∧ pc < 64) then .fault .noSuchUnit
  else .next (if !s.computing then s
    else raise (Raise.of .arbHoldCutoff (.hbm stack) 0 0xFFFFFFFFFFFFFFFF 0 pc) { s with mem := { s.mem with
      hbmArbCut := s.mem.hbmArbCut + 1, hbmArbs := put (stack, pc) (look {} (stack, pc) s.mem.hbmArbs).release s.mem.hbmArbs } })

end Sys2Proof.Machine
end

