-- ==== Sys2Proof/Machine/Predict.lean ====
section
/-! DEFINITION. The job's tables, what a task asks of the tiers, its predicted end, and the steal board (R29, R131 to R133, R201, R204, R207,
R209 to R211, R213). -/

namespace Sys2Proof.Machine

/-! ## The job's tables -/

def State.image (s : State) : Image :=
  match s.job with
  | some j => j.image
  | none => {}

def State.task (s : State) (i : Nat) : Task := s.image.tasks.getD i {}

def State.step (s : State) : Nat :=
  match s.job with
  | some j => j.step
  | none => 0

/-- The configuration set a task uses. -/
def State.setOf (s : State) (i : Nat) : ConfigSet := s.image.sets.getD (s.task i).configSet {}

/-! ## Regions (R132, R133) -/

/-- Trays of the free area: 96 less the ring area (R131). -/
def Image.freeTrays (im : Image) : Nat := 96 - im.ringTrays

/-- First line of a region of some trays, at the low or the high end of the free area (R132). -/
def regionBase (high : Bool) (trays free : Nat) : Nat := if high then 32 * (free - trays) else 0

/-- Two regions fit in the free area at the same time (R133). -/
def State.fitTogether (s : State) (a b : Nat) : Bool :=
  decide ((s.task a).dataTrays + (s.task b).dataTrays ≤ s.image.freeTrays)

/-! ## What a task asks of the tiers (R204) -/

/-- Bytes in each tier that a list touches: slice, HBM4, DDR5. -/
structure TierBytes where
  slice : Nat := 0
  hbm : Nat := 0
  ddr : Nat := 0

def TierBytes.add (b : TierBytes) (t : Option Tier) (n : Nat) : TierBytes :=
  match t with
  | some .slice => { b with slice := b.slice + n }
  | some .hbm => { b with hbm := b.hbm + n }
  | some .ddr => { b with ddr := b.ddr + n }
  | none => b

/-- The loaves of a contiguous entry with the bytes it moves in each (R35). -/
def Entry.spans (e : Entry) : List (Nat × Nat) :=
  (List.range ((e.line + e.count - 1) / 2048 + 1)).map (fun i =>
    let lo := Nat.max e.line (2048 * i)
    let hi := Nat.min (e.line + e.count) (2048 * (i + 1))
    (e.loaf + i, 64 * (hi - lo)))

/-- The tier that holds a loaf now, or for a drain the tier its version will take (R195, R202). -/
def State.tierFor (s : State) (drain : Bool) (loaf : Nat) : Option Tier :=
  match tierOf (s.committedFrame loaf) with
  | some t => some t
  | none =>
    if !drain then none
    else if s.mem.pinned.contains loaf && !s.ignores 0 then some .slice
    else if s.prefersDdr loaf then some .ddr else some .hbm

/-- Bytes of one entry by tier; an indexed entry takes the tier mix of its declared range (R204). -/
def entryBytes (s : State) (drain : Bool) (e : Entry) (b : TierBytes) : TierBytes :=
  match e.kind with
  | 0 => each (fun (x : Nat × Nat) b => b.add (s.tierFor drain x.1) x.2) e.spans b
  | 1 =>
    match s.declared e.loaf with
    | none => b
    | some d =>
      let n := fun t => ((List.range d.count).filter (fun i => decide (s.tierFor drain (d.first + i) = some t))).length
      let share := fun t => ceilDiv (e.bytes * n t) d.count
      { slice := b.slice + share .slice, hbm := b.hbm + share .hbm, ddr := b.ddr + share .ddr }
  | _ => b

/-- What a prediction needs of a task, on whatever tile. -/
structure TaskNeeds where
  task : Nat
  set : Nat
  folds : Nat
  trays : Nat
  weave : Nat
  fill : TierBytes
  fillBytes : Nat
  drain : TierBytes
  drainBytes : Nat
  sends : Bool
  group : Nat
  gang : Nat
  written : Nat

/-- The worst-case count of written loaves of a task (R207). -/
def writtenLoaves (es : List Entry) : Nat :=
  (((es.filter (fun e => e.kind == 0)).map Entry.loaves).flatten).eraseDups.length +
    ((es.filter (fun e => e.kind == 1)).map (fun e => e.count * (ceilDiv e.line 2048 + 1))).sum

def State.needs (s : State) (i : Nat) : TaskNeeds :=
  let t := s.task i
  { task := i, set := t.configSet, folds := (s.setOf i).folds.length, trays := t.dataTrays, weave := t.weaveCycles,
    fill := each (entryBytes s false) (s.image.fills t) {}, fillBytes := t.fillBytes,
    drain := each (entryBytes s true) (s.image.drains t) {}, drainBytes := t.drainBytes, sends := t.sends,
    group := t.affinity, gang := t.gang, written := writtenLoaves (s.image.drains t) }

/-- A tile as admission fills it: the end and the fire time of its last task, that task's trays, the set it will hold, the
sets in its pad, its tasks. -/
structure TilePlan where
  logical : Nat
  phys : Nat
  prevEnd : Nat := 1000
  prevFire : Nat := 1000
  prevTrays : Option Nat := none
  resident : Option Nat := none
  inPad : List Nat := []
  count : Nat := 0

/-- A duration in tile cycles as nominal cycles at a region's measured speed and a performance state, rounded up (R204). -/
def nominal (speed mhz x : Nat) : Nat := ceilDiv (x * 20000000) (speed * mhz)

/-- The largest latency among the tiers touched (R204). -/
def tierLatency (m : TierRates) (p : Nat) (b : TierBytes) : Nat :=
  maxOf [if b.slice ≠ 0 then latSlice p else 0, if b.hbm ≠ 0 then m.latHbm else 0, if b.ddr ≠ 0 then m.latDdr else 0]

/-- The prediction of R204: fire and end of a task on a tile whose region runs at a speed, in 1/10,000. -/
def predictAt (s : State) (sp mhz : Nat) (t : TaskNeeds) (p : TilePlan) : Nat × Nat :=
  let m := s.att.rates
  let chain := nominal sp mhz (512 * t.folds + 20)
  let k := if p.resident = some t.set then 0
    else if p.inPad.contains t.set then chain
    else 64 * t.folds + latSlice p.phys + chain
  let fill := tierLatency m p.phys t.fill +
    maxOf [t.fillBytes / 64, ceilDiv (1000 * t.fill.hbm) m.rateHbm, ceilDiv (1000 * t.fill.ddr) m.rateDdr]
  let fits := match p.prevTrays with
    | some n => decide (n + t.trays ≤ s.image.freeTrays)
    | none => true
  let start := if fits then p.prevFire else p.prevEnd
  let fire := Nat.max (start + fill) p.prevEnd + k
  (fire, fire + nominal sp mhz t.weave + t.drainBytes / 64 + tierLatency m p.phys t.drain + (if t.sends then 1000 else 0))

/-- The prediction at the speed of the last completed slot (R204, R213). -/
def predict (s : State) (mhz : Nat) (t : TaskNeeds) (p : TilePlan) : Nat × Nat :=
  predictAt s (s.region (tileRegion p.phys)).speed mhz t p

/-- The tile with one more task. -/
def TilePlan.push (p : TilePlan) (t : TaskNeeds) (x : Nat × Nat) : TilePlan :=
  { p with prevFire := x.1, prevEnd := x.2, prevTrays := some t.trays, resident := some t.set,
           inPad := (t.set :: p.inPad.erase t.set).take 2, count := p.count + 1 }

/-! ## The steal board (R209, R210) -/

/-- The tail of a deque may be stolen, thief and victim apart: STEALABLE, no queues, not HOME_MSG, no fill issued (R209). -/
def tailEligible (s : State) (t : Tile) : Bool :=
  match t.deque.getLast? with
  | none => false
  | some k =>
    let d := s.task k
    d.stealable && decide (d.queueMask = 0) && !d.homeMsg && (match t.runAhead with | some r => decide (r.task ≠ k) | none => true)

/-- The sets that a tile finds as its attempt opens: the resident one, and those in its pad (R204). -/
def Tile.sets (t : Tile) : Option Nat × List Nat :=
  (if t.configBad then none else t.resident, t.slot0.toList ++ t.slot1.toList)

/-- The tasks a tile has or had in the attempt, in the order in which it runs them. -/
def Tile.tasks (t : Tile) : List Nat :=
  t.done ++ (t.current.map (·.task)).toList ++ ((t.runAhead.filter (fun r => !r.ahead)).map (·.task)).toList ++ t.deque

/-- One more task on a tile, at a speed; a stolen task ends when its grant said (R204, R210). -/
def planTask (s : State) (sp : Nat) (k : Nat) (p : TilePlan) : TilePlan :=
  match s.att.admitted.find? (fun a => a.task == k && a.stolen) with
  | some a => p.push (s.needs k) (a.endAt, a.endAt)
  | none => p.push (s.needs k) (predictAt s sp s.clk.mhz (s.needs k) p)

/-- The predicted end of a tile's last queued task, with its region's speed measured since the boundary (R204, R210). -/
def State.ownEnd (s : State) (p : Nat) : Nat :=
  let t := s.tile p
  let start : TilePlan := { logical := 0, phys := p, resident := t.openSets.1, inPad := t.openSets.2 }
  (each (planTask s (s.region (tileRegion p)).speedNow) t.tasks start).prevEnd

/-- The speed of a tile's region measured since the boundary, in 1/10,000: never below one half (R210, R388). -/
def measureSpeed (p speed : Nat) (s : State) : State :=
  s.onRegion (tileRegion p) (fun r => { r with speedNow := Nat.max 5000 (Nat.min 10000 speed) })

/-- A change of the steal board: a tile that has made its 8 requests, or has no candidate left, may try again (R211). -/
def Steal.boardChanged (x : Steal) : Steal := if x.victim.isSome then x else { x with sent := 0, tried := [] }

/-- A tile updates its entry of the steal board at every push, pop and grant (R210, R211). -/
def updateBoard (p : Nat) (s : State) : State :=
  let t := s.tile p
  let e : BoardEntry := { endAt := if t.deque.isEmpty then 0 else s.ownEnd p, eligible := tailEligible s t, depth := t.deque.length }
  if e = t.board then s
  else
    ({ s with tiles := s.tiles.map (fun x => (x.1, { x.2 with steal := x.2.steal.boardChanged })) } : State).onTile p (fun t => { t with board := e })

end Sys2Proof.Machine
end

