-- ==== Sys2Proof/Machine/Fill.lean ====
section
/-! DEFINITION. Data regions and fills: the beginning of a task, the lines its fill list brings, run-ahead fills and their
revalidation (R34 to R38, R57, R60 to R63, R78, R132, R133, R174, R208, R230). -/

namespace Sys2Proof.Machine

/-! ## The lines of an entry (R35) -/

/-- Index `i` of an indexed entry, read from the data region (R35). -/
def indexOf (pad : Memory) (base : Nat) (e : Entry) (i : Nat) : Nat := pad.readLe (64 * (base + e.indexLine) + 4 * i) 4

/-- The line, counted from line 0 of LOAF, that line `k` of an entry moves (R35). -/
def Entry.target (e : Entry) (pad : Memory) (base k : Nat) : Nat :=
  if e.kind = 1 then indexOf pad base e (k / Nat.max 1 e.line) * e.line + k % Nat.max 1 e.line else e.line + k

/-- The loaves an entry moves lines of, each once, in line order. -/
def Entry.touched (e : Entry) (pad : Memory) (base : Nat) : List Nat :=
  if e.kind = 2 then [] else ((List.range e.lines).map (fun k => e.loaf + e.target pad base k / 2048)).eraseDups

/-- Touch the declared loaves of an entry, once each (R197). -/
def touchAll (ls : List Nat) (s : State) : State := each (fun l s => if (s.declared l).isSome then touch l s else s) ls s

/-! ## Issuing fills (R34, R35) -/

/-- Write zeros over pad lines (R35: a zero entry). -/
def clearLines (line n : Nat) (pad : Memory) : Memory := pad.clear (64 * line) (64 * n)

/-- The lines of an entry in the order of their issue by a logical tile: a contiguous entry starts at line p mod COUNT and wraps, an indexed one
goes in index order (R230). -/
def Entry.order (e : Entry) (logical : Nat) : List Nat :=
  if e.kind = 0 then (List.range e.lines).map (fun k => (logical + k) % Nat.max 1 e.lines) else List.range e.lines

/-- Begin the entries of a fill list in order, as far as the lines outstanding let it: an entry begins when every line of the entries before it
has returned, and none while one of them is withdrawn (R34, R78, R230; notes/assumptions/14.md). -/
def issueFills (es : List Entry) (logical : Nat) : Nat → Memory → TaskRun → Memory × TaskRun × List Nat
  | 0, pad, r => (pad, r, [])
  | n + 1, pad, r =>
    if r.fills ≠ [] ∨ r.withdrawn ≠ [] then (pad, r, [])
    else match es[r.nextEntry]? with
      | none => (pad, r, [])
      | some e =>
        let r' := { r with nextEntry := r.nextEntry + 1 }
        if e.kind = 2 then issueFills es logical n (clearLines (r.base + e.padLine) e.count pad) r'
        else (pad, { r' with fills := (e.order logical).map (fun k => (r.nextEntry, k)) }, e.touched pad r.base)

/-- The run in one of a tile's two places: the task that runs, or the one that fills behind it. -/
def Tile.runAt (t : Tile) (second : Bool) : Option TaskRun := if second then t.runAhead else t.current

def Tile.setRun (t : Tile) (second : Bool) (r : Option TaskRun) : Tile :=
  if second then { t with runAhead := r } else { t with current := r }

/-- A loaf enters the translation cache with its committed frame; of a full cache the oldest mapping leaves (R191; notes/assumptions/78.md). -/
def State.translate (s : State) (loaf : Nat) (t : Tile) : Tile :=
  if t.cache.any (fun x => x.1 == loaf) then t else { t with cache := ((loaf, s.committedFrame loaf) :: t.cache).take 256 }

/-- Issue what a run's fill list lets it issue now. -/
def pump (p : Nat) (second : Bool) (s : State) : State :=
  let t := s.tile p
  match t.runAt second with
  | none => s
  | some r =>
    let es := s.image.fills (s.task r.task)
    let x := issueFills es ((s.logical? p).getD 0) (es.length + 1) t.pad r
    let t := each s.translate (x.2.2.filter (fun l => (s.declared l).isSome)) { t with pad := x.1 }
    touchAll x.2.2 (s.setTile p (t.setRun second (some x.2.1)))

/-! ## The queues of the slices (R225, R228, R229) -/

/-- The loaf and the line there that a fill line of a run brings (R35). -/
def State.fillAt (s : State) (t : Tile) (r : TaskRun) (fl : FillLine) : Nat × Nat :=
  let e := (s.image.fills (s.task r.task)).getD fl.1 {}
  let x := e.target t.pad r.base fl.2
  (e.loaf + x / 2048, x % 2048)

/-- The request of a fill line for a line of a slice frame, and the logical slice it goes to (R185, R228). -/
def State.sliceReq (s : State) (p : Nat) (r : TaskRun) (fl : FillLine) (f j : Nat) : Nat × SliceReq :=
  let q := sliceOf f j
  (q, { tile := p, task := r.task, fill := fl, frame := f, j := j, port := inboundPort p (s.physical q) f j })

/-- The requests that a tile's outstanding fills make of slices. -/
def State.sliceReqs (s : State) (p : Nat) : List (Nat × SliceReq) :=
  let t := s.tile p
  ((t.current.toList ++ t.runAhead.toList).map (fun r => r.fills.filterMap (fun fl =>
    let x := s.fillAt t r fl
    let f := s.readFrame p x.1
    if (s.declared x.1).isSome && decide (f < 14336) then some (s.sliceReq p r fl f x.2) else none))).flatten

/-- A request enters the queue of its inbound port, which holds 32 (R228). -/
def enqueueRead (x : Nat × SliceReq) (qs : List (Nat × List SliceReq)) : List (Nat × List SliceReq) :=
  let l := look [] x.1 qs
  if l.contains x.2 || decide (32 ≤ (l.filter (fun y => decide (y.port = x.2.port))).length) then qs else put x.1 (l ++ [x.2]) qs

/-- Requests enter the slices' queues in the order of their issue, as far as these have room; those of runs that are gone leave them (R228,
R229; notes/assumptions/83.md). -/
def offerReads (s : State) : State :=
  let want := (s.tiles.map (fun x => s.sliceReqs x.1)).flatten
  let kept := s.mem.sliceQueues.map (fun x => (x.1, x.2.filter (fun r => want.contains (x.1, r))))
  { s with mem := { s.mem with sliceQueues := each enqueueRead want (kept.filter (fun x => !x.2.isEmpty)) } }

/-- The requests that one array read serves: the first of its port's queue, and those for its line that wait in the slice's queues, 16 at most
(R228, R229). -/
def servedWith (l : List SliceReq) (r : SliceReq) : List SliceReq :=
  if l.find? (fun x => decide (x.port = r.port)) = some r then
    (r :: l.filter (fun x => decide (x ≠ r) && decide (x.frame = r.frame) && decide (x.j = r.j))).take 16
  else []

/-- The end of the free area that a tile's next region is anchored at: the one away from the region still held, and without one the other than
the region before took (R132, R133). -/
def Tile.nextHigh (t : Tile) (second : Bool) : Bool :=
  match second, t.current with
  | true, some c => !c.high
  | _, _ => t.high

/-- Give a task its region and start its fills (R132). -/
def startRun (p task : Nat) (second ahead : Bool) (s : State) : State :=
  let t := s.tile p
  let high := t.nextHigh second
  let r : TaskRun := { task := task, base := regionBase high (s.task task).dataTrays s.image.freeTrays, high := high, ahead := ahead }
  pump p second (s.setTile p ({ t with high := !high }.setRun second (some r)))

/-! ## The beginning of a task (R18, R55, R114, R208) -/

/-- The list runs again from its first indexed entry after an entry whose lines are fetched again (R63). -/
def TaskRun.rerun (es : List Entry) (low : Nat) (r : TaskRun) : TaskRun :=
  match ((List.range r.nextEntry).filter (fun i => decide (low < i) && decide ((es.getD i {}).kind = 1))).head? with
  | none => r
  | some i => { r with fills := r.fills.filter (fun f => decide (f.1 < i)), sources := r.sources.filter (fun y => decide (y.2.1.1 < i)),
                       withdrawn := r.withdrawn.filter (fun e => decide (e < i)), nextEntry := i, phase := .filling
                       undeclared := r.undeclared.filter (fun u => decide (u.1 < i)) }

/-- Entries withdrawn in a run-ahead are issued again in the slot of their task (R78). -/
def TaskRun.reissue (es : List Entry) (logical : Nat) (r : TaskRun) : TaskRun :=
  match r.withdrawn with
  | [] => r
  | e :: l =>
    let low := l.foldl Nat.min e
    let lines := ((r.withdrawn.eraseDups).map (fun i => ((es.getD i {}).order logical).map (fun k => (i, k)))).flatten
    let r' : TaskRun := { r with fills := r.fills ++ lines, withdrawn := [], phase := .filling }
    r'.rerun es low

/-- A run taken over into the attempt: FILL_UNDECLARED of its run-ahead fills is recorded now, and withdrawn entries are issued again (R38,
R78). -/
def adopt (p : Nat) (r : TaskRun) (s : State) : State :=
  let r := r.reissue (s.image.fills (s.task r.task)) ((s.logical? p).getD 0)
  let s := s.onTile p (fun t => { t with current := some { r with ahead := false }, runAhead := none })
  match r.undeclared with
  | some (_, l) => report (taskRaise .fillUndeclared p r.task l s) s
  | none => s

/-- TASK_BEGIN: the tile pops the head of its deque and begins its fills; while a task runs, the next one fills behind it
when both regions fit (R18, R75, R120, R132, R133, R204, R208, R210). -/
def execTaskBegin (at_ : TileSpeed) (s : State) : Host.Outcome State Fault Refusal :=
  guardUnit (decide (at_.tile < 1152)) (
    let tile := at_.tile
    let s := measureSpeed tile at_.speed s
    let t := s.tile tile
    match t.deque with
    | [] => s
    | k :: q =>
      if !s.inAttempt || s.att.broadcast || t.fenced then s
      else
        let popped := s.setTile tile { t with deque := q, steal := {} }
        match t.current, t.runAhead with
        | some c, none => if s.fitTogether c.task k then updateBoard tile (offerReads (startRun tile k true false popped)) else s
        | some _, some _ => s
        | none, some r =>
          if r.task = k then updateBoard tile (offerReads (pump tile false (adopt tile r popped)))
          else updateBoard tile (offerReads (startRun tile k false false (popped.onTile tile (fun t => { t with runAhead := none }))))
        | none, none => updateBoard tile (offerReads (startRun tile k false false popped)))

/-! ## Lines return (R35, R38, R78, R174) -/

/-- The first undeclared loaf of an entry in line order (R38). -/
def State.firstUndeclared (s : State) (e : Entry) (pad : Memory) (base : Nat) : Nat :=
  ((e.touched pad base).find? (fun l => (s.declared l).isNone)).getD 0

/-- First line of the scale area of a region: its last ⌈DATA_TRAYS / 32⌉ lines (R174). -/
def scaleArea (trays : Nat) : Nat := 32 * trays - ceilDiv trays 32

/-- Write the scale of a filled tray into the cell of the region tray it lands in (R174). -/
def writeScaleCell (base trays tray : Nat) (scale : Word16) (pad : Memory) : Memory :=
  pad.writeBytes (64 * (base + scaleArea trays + tray / 32) + 2 * (tray % 32)) (leBytes 2 scale.toNat)

/-- A line arrives: it is written into the pad, with its tray's scale, and the next lines are issued. -/
def fillArrives (p : Nat) (second : Bool) (r : TaskRun) (e : Entry) (fl : FillLine) (loaf j : Nat) (data : List Byte) (s : State) : State :=
  let tk := s.task r.task
  let dst := e.padLine + fl.2
  let sc := s.scaleOf loaf (j / 32)
  let tray := isTray (s.numericOf e.tensor).format
  let s := s.onTile p (fun t =>
    let pad := writeLine (r.base + dst) data t.pad
    let pad := if tray then writeScaleCell r.base tk.dataTrays (dst / 32) sc.scale pad else pad
    { t with pad := pad }.setRun second (some { r with fills := r.fills.erase fl, sources := r.sources ++ [(loaf, fl, s.att.serial)] }))
  pump p second s

/-- A read of a run's line that returned no line: the entry of a run-ahead is withdrawn; in the attempt, which fails, the line stays outstanding
(R78). -/
def fillFails (p : Nat) (second : Bool) (r : TaskRun) (entry : Nat) (s : State) : State :=
  if r.ahead then
    s.onTile p (fun t => t.setRun second (some { r with
      fills := r.fills.filter (fun f => decide (f.1 ≠ entry)), withdrawn := r.withdrawn ++ [entry],
      sources := r.sources.filter (fun x => decide (x.2.1.1 ≠ entry)) }))
  else s

/-- The reply to a request comes to the run that made it, if it is still there: the line, or its failure. -/
def fillReply (good : Bool) (x : SliceReq) (loaf : Nat) (s : State) : State :=
  each (fun second s =>
    match (s.tile x.tile).runAt second with
    | none => s
    | some r =>
      if r.task = x.task ∧ r.fills.contains x.fill then
        let e := (s.image.fills (s.task r.task)).getD x.fill.1 {}
        if good then fillArrives x.tile second r e x.fill loaf x.j (s.frameLine x.frame x.j) s else fillFails x.tile second r x.fill.1 s
      else s) [false, true] s

/-- The run that made a request runs ahead. -/
def State.madeAhead (s : State) (x : SliceReq) : Bool :=
  match (s.tile x.tile).runAhead with
  | some r => decide (r.task = x.task) && r.ahead
  | none => false

/-- The attachment routers by which fills of HBM4 lines wait at the front end of a line (R237). -/
def State.hbmWaiting (s : State) (f j : Nat) : List Nat :=
  ((s.tiles.map (fun x => ((x.2.current.toList ++ x.2.runAhead.toList).map (fun r => r.fills.filterMap (fun fl =>
    let y := s.fillAt x.2 r fl
    let g := s.readFrame x.1 y.1
    if decide (tierOf g = some .hbm) && decide ((g - 0x4000) / 393216 = (f - 0x4000) / 393216) && decide (pseudoChannel g y.2 = pseudoChannel f j)
    then some (tileRequester x.1 g) else none))).flatten)).flatten).eraseDups

/-- A line of a declared loaf comes from its tier: a slice serves with one read every request it takes with this one, whose check stands for
all of them (R57, R78, R228, R232, R236, R239 to R241). -/
def fillReturns (p : Nat) (r : TaskRun) (fl : FillLine) (loaf j : Nat) (outcome : ReadOutcome) (s : State) : State :=
  let f := s.readFrame p loaf
  let x := s.sliceReq p r fl f j
  if f < 14336 then
    let l := look [] x.1 s.mem.sliceQueues
    match servedWith l x.2 with
    | [] => s
    | b =>
      let q := readVersion (Reader.tile p r.task loaf (b.all s.madeAhead)) f j loaf outcome s
      let s := { q.1 with mem := { q.1.mem with sliceQueues := put x.1 (l.filter (fun y => !b.contains y)) q.1.mem.sliceQueues } }
      offerReads (each (fun y s => fillReply q.2 y loaf s) b s)
  else
    let s := { s with mem := hbmGrant f j (tileRequester p f) ((s.hbmWaiting f j).filter (· ≠ tileRequester p f)) s.mem }
    let q := readVersion (Reader.tile p r.task loaf r.ahead) f j loaf outcome s
    offerReads (fillReply q.2 x.2 loaf q.1)

/-- FILL_LINE_RETURN: a filled line returns from a tier and is written into the pad (R35, R38, R57, R78, R174, R191, R225, R228, R232, R236,
R239 to R241). `runAhead` names the run that fills behind the current task. -/
def execFillLineReturn (tile : Nat) (runAhead : Bool) (entry line : Nat) (outcome : ReadOutcome) (s : State) :
    Host.Outcome State Fault Refusal :=
  guardUnit (decide (tile < 1152)) (
    let t := s.tile tile
    match t.runAt runAhead with
    | none => s
    | some r =>
      if !r.fills.contains (entry, line) then s
      else
        let e := (s.image.fills (s.task r.task)).getD entry {}
        let x := s.fillAt t r (entry, line)
        match s.declared x.1 with
        | none =>
          let first := s.firstUndeclared e t.pad r.base
          let s := if r.undeclared.isNone && !r.ahead then report (taskRaise .fillUndeclared tile r.task first s) s else s
          offerReads (fillArrives tile runAhead { r with undeclared := some (r.undeclared.getD (entry, first)) } e (entry, line) x.1 x.2
            (List.replicate 64 0) s)
        | some _ => fillReturns tile r (entry, line) x.1 x.2 outcome s)

/-! ## Take counts (R117) and the end of the fill list -/

/-- The take count of a configuration set on a queue (R117). -/
def takeCount (cs : ConfigSet) (q : Nat) : Nat :=
  (cs.records.map (fun x =>
    let n := fun (p : Pattern) => if p.mode = 14 ∧ p.queue = q then p.accesses / (p.msgTokens + 1) else 0
    if x.2.2.op = 0x60 ∧ unitKind x.1 = .address then n x.2.2.patA + n x.2.2.patB else 0)).sum

/-- The queues of a task whose take count is not met (R117, R154). -/
def unmetQueues (s : State) (t : Tile) (task : Nat) : List Nat :=
  (List.range 16).filter (fun q => bit (s.task task).queueMask q && decide ((t.ring q).msgs < takeCount (s.setOf task) q))

/-- The fills of a run are complete. -/
def fillsDone (s : State) (r : TaskRun) : Bool :=
  decide (r.phase = .filling) && r.fills.isEmpty && r.withdrawn.isEmpty && decide ((s.image.fills (s.task r.task)).length ≤ r.nextEntry)

/-- FILL_LIST_COMPLETE: the task's fills are complete; the tile reports the queues it waits on (R18, R46, R154). -/
def execFillListComplete (tile : Nat) (s : State) : Host.Outcome State Fault Refusal :=
  guardUnit (decide (tile < 1152)) (
    let t := s.tile tile
    let done := fun (r : TaskRun) => { r with phase := TaskPhase.filled }
    match t.current with
    | some r =>
      if fillsDone s r then s.setTile tile { t with current := some (done r), blockedOn := unmetQueues s t r.task }
      else match t.runAhead with
        | some x => if !x.ahead && fillsDone s x then s.setTile tile { t with runAhead := some (done x) } else s
        | none => s
    | none => s)

/-! ## Run-ahead (R60 to R63) -/

/-- The first task provisionally admitted to a physical tile (R60). -/
def State.nextFor (s : State) (p : Nat) : Option Nat :=
  ((s.att.provisional.filter (fun a => decide (s.physical a.tile = p))).map (·.task)).head?

/-- Fills may run ahead for a task: it is still to run in this pass of the wave the attempt runs, or the attempt is marked failed and the task
is part of its replay (R61, R75). -/
def State.aheadAllowed (s : State) (task : Nat) : Bool :=
  (match s.job with
    | some j => decide ((s.task task).wave = j.wave) && !j.committed.contains task && !s.att.admitted.any (fun a => a.task == task)
    | none => false) || s.att.broadcast

/-- RUN_AHEAD_FILL_ISSUE: fill entries of the first task of the next slot are issued into free pad space, behind the
attempt's own fills (R60 to R62, R133). -/
def execRunAheadFillIssue (tile : Nat) (s : State) : Host.Outcome State Fault Refusal :=
  guardUnit (decide (tile < 1152)) (
    let t := s.tile tile
    match s.nextFor tile with
    | none => s
    | some k =>
      if !s.inAttempt || decide (s.att.phase = .commit) || !t.deque.isEmpty || !s.aheadAllowed k then s
      else match t.runAhead, t.current with
        | some r, _ => if r.ahead then offerReads (pump tile true s) else s
        | none, some c => if s.fitTogether c.task k then offerReads (startRun tile k true true s) else s
        | none, none => offerReads (startRun tile k true true s))

/-- Release a run-ahead made for a task that is no longer coming (R133). -/
def dropAhead (p : Nat) (s : State) : State :=
  s.onTile p (fun t => match t.runAhead with
    | some r => if r.ahead then { t with runAhead := none } else t
    | none => t)

/-- Revalidate one run against the loaves a commit gave new versions: their lines are fetched again, and from the first
indexed entry after the first of them on, the list runs again (R63). -/
def revalidate (es : List Entry) (fresh : List Nat) (r : TaskRun) : TaskRun :=
  let stale := r.sources.filter (fun x => fresh.contains x.1)
  match stale with
  | [] => r
  | x :: xs =>
    let low := (xs.map (fun y => y.2.1.1)).foldl Nat.min x.2.1.1
    let r' : TaskRun := { r with fills := r.fills ++ stale.map (fun y => y.2.1), sources := r.sources.filter (fun y => !fresh.contains y.1),
                                 phase := .filling }
    r'.rerun es low

/-- Run-ahead revalidation of every tile (R63). -/
def revalidateAll (fresh : List Nat) (s : State) : State :=
  each (fun (x : Nat × Tile) s => s.onTile x.1 (fun t =>
    { t with runAhead := t.runAhead.map (fun r => if r.ahead then revalidate (s.image.fills (s.task r.task)) fresh r else r) })) s.tiles s

end Sys2Proof.Machine
end

