-- ==== Sys2Proof/Machine/Quantise.lean ====
section
/-! DEFINITION. The quantising drain: tray scales, scale records, overflow, recomputes, MX blocks (R160 to R163, R173 to
R181). -/

namespace Sys2Proof.Machine

/-! ## Magnitudes -/

/-- The smallest integer e with m × 2^x ≤ 2^e, for m above zero. -/
def ceilLog2 (m : Nat) (x : Int) : Int := x + Nat.log2 m + (if 2 ^ Nat.log2 m = m then 0 else 1)

/-- The larger of two optional integers. -/
def maxOpt (a b : Option Int) : Option Int :=
  match a, b with
  | some x, some y => some (max x y)
  | some x, none => some x
  | none, y => y

/-- The smallest m with amax ≤ 2^m, amax the largest finite magnitude: none for values without a finite nonzero one, and
limited to -127 to 127 (R173). -/
def trayPower (xs : List Exact) : Option Int :=
  ((xs.map (fun x => match x with
    | .fin _ m e => if m = 0 then none else some (ceilLog2 m e)
    | _ => none)).foldl maxOpt none).map (fun m => max (-127) (min 127 m))

def Exact.finite (x : Exact) : Bool :=
  match x with
  | .fin _ _ _ => true
  | _ => false

/-- ⌊log2 MAXF⌋ of a format: 8 for E4M3, 15 for E5M2, 4 for E3M2, 2 for E2M3 and E2M1 (R176). -/
def maxPower (f : Nat) : Int :=
  match decode f (fmtOf f).top with
  | .fin _ m e => e + Nat.log2 m
  | _ => 0

/-! ## Scale records (R176, R177) -/

/-- The largest HIST entry among those of steps p - 16 to p - 1 (R176 DELAYED). -/
def delayedMax (r : ScaleRec) (p : Nat) : Option Int :=
  if r.lastStep = 0xFFFFFFFF then none
  else
    ((List.range 16).map (fun (i : Nat) =>
      let v := r.hist.getD i (-128)
      let q : Int := (r.lastStep : Int) - ((r.lastStep : Int) - i) % 16
      if v ≠ -128 ∧ 0 ≤ q ∧ (p : Int) - 16 ≤ q ∧ q < p then some v else none)).foldl maxOpt none

/-- Limit k to -30 to 31 (R176). -/
def limitK (k : Int) : Int := max (-30) (min 31 k)

/-- Set entries of HIST to -128. -/
def clearHist (h : List Int) : List Nat → List Int
  | [] => h
  | q :: qs => clearHist (setAt (q % 16) (-128) h) qs

/-- The record after a quantisation in step `p` with power `m` and scale `k` (R177). -/
def ScaleRec.after (r : ScaleRec) (p : Nat) (m : Option Int) (k : Int) (ovf : Bool) : ScaleRec :=
  let never := decide (r.lastStep = 0xFFFFFFFF)
  let below := never || decide (r.lastStep < p)
  let lo := if never then p - 16 else Nat.max (r.lastStep + 1) (p - 16)
  let h := if below then clearHist r.hist ((List.range (p - lo)).map (lo + ·)) else r.hist
  let i := p % 16
  let old := h.getD i (-128)
  let h := match m with
    | some v => setAt i (if r.lastStep = p then max v old else v) h
    | none => if below then setAt i (-128) h else h
  { scale := BitVec.ofNat 16 (scaleCode k), ovf := (decide (r.lastStep = p) && r.ovf) || ovf, lastStep := p, hist := h }

/-! ## A scale tray (R175, R176, R178 to R180) -/

/-- The key of the quantising drain's roundings. -/
structure QuantKey where
  seed : Nat
  tensor : Nat
  draw : Nat
  step : Nat

/-- Round values times 2^k into a format, with stored element indices from `i` (R160, R165). -/
def roundAll (q : QuantKey) (f : Nat) (saturate : Bool) (k : Int) : Nat → List Exact → List (Nat × Mark)
  | _, [] => []
  | i, x :: xs =>
    roundSr f saturate (counterHash q.seed q.tensor q.draw (i % 2 ^ 64) q.step) (x.scale k) :: roundAll q f saturate k (i + 1) xs

/-- A tray of zeros is written with all-zero codes; what is not finite follows R159 (R176, R178). -/
def zeroCodes (xs : List Exact) (q : List (Nat × Mark)) : List (Nat × Mark) :=
  (xs.zip q).map (fun x => if x.1.finite then (0, Mark.plain) else x.2)

/-- What quantising one tray gives: its codes and record, or no codes; its counts; its conditions. -/
structure TrayResult where
  codes : Option (List Nat) := none
  record : ScaleRec := {}
  counts : TensorCounters := {}
  overflow : Bool := false
  exhausted : Bool := false
  nonfinite : Bool := false

/-- Conversions with k lowered by one while the tray overflows, `n` recomputes at most (R179): k, codes, recomputes. -/
def recompute (q : QuantKey) (f i : Nat) (xs : List Exact) : Nat → Int → Int × List (Nat × Mark) × Nat
  | 0, k => (k, roundAll q f false k i xs, 0)
  | n + 1, k =>
    let c := roundAll q f false k i xs
    if c.any (fun x => decide (x.2 = .overflow)) && decide (-30 < k) then
      let r := recompute q f i xs n (k - 1)
      (r.1, r.2.1, r.2.2 + 1)
    else (k, c, 0)

/-- Quantise one scale tray (R175 to R180). `listed`: the tray is on the exhausted list of this step. -/
def quantiseTray (q : QuantKey) (n : Numeric) (listed : Bool) (r : ScaleRec) (i : Nat) (xs : List Exact) : TrayResult :=
  let f := n.format
  let m := trayPower xs
  let optimizer := decide (n.cls = 1)
  if optimizer && xs.any (fun x => !x.finite) then { record := r, nonfinite := true }
  else
    let l := maxPower f
    let read := if n.current || listed then none else delayedMax r q.step
    let k := limitK (match read with
      | some big => l - big - n.headroom
      | none => match m with
        | some m => l - m
        | none => 0)
    let first := roundAll q f false k i xs
    let over_ := first.any (fun x => decide (x.2 = .overflow))
    let x := if optimizer && over_ then recompute q f i xs 2 k
      else if over_ then (k, roundAll q f true k i xs, 0)
      else (k, first, 0)
    let still := x.2.1.any (fun y => decide (y.2 = .overflow))
    let codes := if m.isNone then zeroCodes xs x.2.1 else x.2.1
    let ovf := over_ || listed
    let fresh := ovf && !(decide (r.lastStep = q.step) && r.ovf)
    if still then { record := r, counts := { recomputes := x.2.2 }, exhausted := true }
    else
      { codes := some (codes.map (·.1)), record := r.after q.step m x.1 ovf, overflow := over_,
        counts := { sat := marks .sat codes, nan := marks .nan codes, underflow := marks .underflow codes,
                    ovfTrays := if fresh then 1 else 0, recomputes := x.2.2 } }

/-! ## An MX block (R163) -/

/-- The smallest e with amax / 2^e ≤ MAXF, limited to what E8M0 encodes (R163). -/
def mxExponent (f : Nat) (xs : List Exact) : Int :=
  let fm := fmtOf f
  let code := fm.limit false
  match decode f code with
  | .fin _ mm me =>
    let one := fun (x : Exact) => match x with
      | .fin _ m e =>
        if m = 0 then none
        else
          let e0 : Int := (e + Nat.log2 m) - (me + Nat.log2 mm)
          let fits := decide (Exact.cmp (.fin false m e) (.fin false mm (me + e0)) ≠ .gt)
          some (if fits then e0 else e0 + 1)
      | _ => none
    match (xs.map one).foldl maxOpt none with
    | some e => max (-127) (min 127 e)
    | none => 0
  | _ => 0

/-- Quantise one block of 32: codes, scale byte, counts (R163). -/
def quantiseBlock (q : QuantKey) (f i : Nat) (xs : List Exact) : List Nat × Nat × TensorCounters :=
  if xs.any (fun x => !x.finite) then (List.replicate 32 0, 255, { nan := 32 })
  else
    let e := mxExponent f xs
    let c := roundAll q f true (-e) i xs
    (c.map (·.1), (e + 127).toNat, { sat := marks .sat c, underflow := marks .underflow c })

/-! ## Stored positions (R162, R168) -/

/-- The loaf and byte of an offset in a tensor's storage, through its declared ranges in ascending loaf order (R168). -/
def storedByte (ds : List Decl) (tensor off : Nat) : Nat × Nat :=
  let rs := (ds.filter (fun d => d.tensor == tensor)).mergeSort (fun a b => decide (a.first ≤ b.first))
  let r := rs.foldl (fun (acc : Option (Nat × Nat) × Nat) d =>
    match acc.1 with
    | some _ => acc
    | none => if acc.2 < d.count then (some (d.first + acc.2, off % 131072), 0) else (none, acc.2 - d.count)) (none, off / 131072)
  r.1.getD (0, 0)

end Sys2Proof.Machine
end

