-- ==== Sys2Proof/Machine/Drain.lean ====
section
/-! DEFINITION. Drains: contiguous, scattered and quantising entries, drains into proxy ranges, and the end of a task (R34,
R35, R38, R39, R47, R56, R64, R75, R116, R119, R120, R127, R143, R152, R175, R178 to R181, R201, R276). -/

namespace Sys2Proof.Machine

/-! ## Proxy ranges (R275, R276) -/

/-- The proxy binding whose range holds a loaf. -/
def State.proxyOf (s : State) (loaf : Nat) : Option (Nat × Window) :=
  s.fab.proxies.find? (fun x => x.2.valid && decide (x.2.first ≤ loaf) && decide (loaf < x.2.first + x.2.count))

/-- The operation code of a proxy binding: 0 PUT, 1 GET, 2 ADD, 3 CAS (R275). -/
def Window.code (w : Window) : Nat := bits w.ops.toNat 0 2

/-- The place of a drained line: the task, the tile, the entry, and the order among the drain's lines. -/
structure DrainAt where
  p : Nat
  task : Nat
  entry : Nat
  seq : Nat

def DrainAt.writer (d : DrainAt) : Writer := { rank := 1, key1 := d.task, key2 := d.entry }

/-- Drain one line: into the pending version of a local loaf, or into outbound staging for a proxy line (R39, R64, R276). -/
def drainLine (d : DrainAt) (loaf line : Nat) (data : List Byte) (s : State) : State :=
  let l := loaf + line / 2048
  match s.proxyOf l with
  | none => writePending d.writer loaf line data s
  | some (n, w) =>
    if w.code = 2 ∧ ¬ (s.task d.task).remoteAdd then report (taskRaise .remoteFlag d.p d.task n s) s
    else
      let o : OutOp := { proxy := n, task := d.task, entry := d.entry, seq := d.seq, line := 2048 * (l - w.first) + line % 2048,
                         op := w.code, data := data }
      { s with mem := { s.mem with outbound := s.mem.outbound ++ [o] } }

/-- Drain one byte of a line: into the pending version of a local loaf. A byte of a proxy line leaves in its line, over what this attempt has staged of the
line through the binding or else over the line's committed contents; an ADD adds zero to the rest. DESIGN CHOICE (notes/assumptions/86.md): the spec
states the scale bytes of a drain and the line operations of a proxy range, and not how the one becomes the other (R163, R276). -/
def drainByte (d : DrainAt) (loaf byte : Nat) (v : Byte) (s : State) : State :=
  let l := loaf + byte / 131072
  match s.proxyOf l with
  | none => writePendingByte d.writer loaf byte v s
  | some (n, w) =>
    let line := byte / 64
    let at_ := 2048 * (l - w.first) + line % 2048
    let staged := s.mem.outbound.reverse.find? (fun o => o.proxy == n && o.line == at_)
    let old := if w.code = 2 then List.replicate 64 0 else match staged with
      | some o => o.data
      | none => s.readLine loaf line
    drainLine d loaf line (old.set (byte % 64) v) s

/-- Drain lines one after another. -/
def drainLines (d : DrainAt) (loaf line : Nat) : List (List Byte) → State → State
  | [], s => s
  | x :: xs, s => drainLines { d with seq := d.seq + 1 } loaf (line + 1) xs (drainLine d loaf line x s)

/-! ## Entries (R34, R35) -/

/-- Lines of the pad, from a line on. -/
def padLines (pad : Memory) (line n : Nat) : List (List Byte) := (List.range n).map (fun i => lineAt pad (line + i))

/-- A plain entry, contiguous or scattered: each pad line to its loaf line (R35). -/
def drainPlain (d : DrainAt) (r : TaskRun) (e : Entry) (pad : Memory) (s : State) : State :=
  each (fun k s => drainLine { d with seq := k } e.loaf (e.target pad r.base k) (lineAt pad (r.base + e.padLine + k)) s)
    (List.range e.lines) s

/-- The exact values of pad lines in a format (R175). -/
def padValues (f : Nat) (lines : List (List Byte)) : List Exact := (lines.map (fun l => (lanes16 l).map (decode f))).flatten

/-- A write of a line would stand over what is there (R39). -/
def standsOver (w : Writer) (loaf line : Nat) (s : State) : Bool :=
  match look? (loaf + line / 2048, line % 2048) s.mem.writers with
  | some old => w.over old
  | none => true

/-- The conditions and lists of a quantised tray (R178 to R180). -/
def trayConditions (d : DrainAt) (tensor pos : Nat) (flow : Bool) (x : TrayResult) (s : State) : State :=
  let s := addCounts tensor x.counts s
  let s := if x.nonfinite then report (taskRaise .nonfinite d.p d.task tensor s) s else s
  let s := if x.exhausted then
      let full := match s.job with | some j => decide (65536 ≤ j.exhausted.length) | none => false
      let r := taskRaise .scaleExhausted d.p d.task tensor s
      if full then report (r.as .job .error) s
      else report r (s.onJob (fun j => { j with exhausted := if j.exhausted.contains (tensor, pos) then j.exhausted else j.exhausted ++ [(tensor, pos)] }))
    else s
  let known := match s.job with | some j => j.overflowed.contains tensor | none => true
  if flow && x.overflow && !known then
    report (taskRaise .trayOverflow d.p d.task tensor s) (s.onJob (fun j => { j with overflowed := j.overflowed ++ [tensor] }))
  else s

/-- One scale tray of a quantising entry: tray `i` of the entry (R39, R175). -/
def drainTray (d : DrainAt) (r : TaskRun) (e : Entry) (pad : Memory) (seed : Nat) (i : Nat) (s : State) : State :=
  let n := s.numericOf e.tensor
  let acc := outFmt n
  let per := 32 * padFactor n.format
  let line := e.line + 32 * i
  let loaf := e.loaf + line / 2048
  let tray := line % 2048 / 32
  let idx := s.elementIndex e.tensor e.loaf line
  let pos := idx / (32 * perLine n.format)
  let listed := match s.job with | some j => j.exhausted.contains (e.tensor, pos) | none => false
  let q : QuantKey := { seed := seed, tensor := e.tensor, draw := 1, step := s.step }
  let x := quantiseTray q n listed (s.scaleOf loaf tray) idx (padValues acc (padLines pad (r.base + e.padLine + per * i) per))
  let s := trayConditions d e.tensor pos (decide (n.cls = 2)) x s
  match x.codes with
  | none => s
  | some c =>
    let stands := standsOver d.writer e.loaf line s && (s.proxyOf loaf).isNone
    let s := drainLines { d with seq := 32 * i } e.loaf line (cutLines (bytesOf n.format c)) s
    if stands then setScale loaf tray x.record s else s

/-- Loaf line `i` of an MX entry, contiguous or scattered: its blocks' codes, and their scale bytes in the tensor that follows (R35, R161 to R163,
R175). -/
def drainMxLine (d : DrainAt) (r : TaskRun) (e : Entry) (pad : Memory) (seed : Nat) (i : Nat) (s : State) : State :=
  let n := s.numericOf e.tensor
  let per := padFactor n.format
  let line := e.target pad r.base i
  let idx := s.elementIndex e.tensor e.loaf line
  let q : QuantKey := { seed := seed, tensor := e.tensor, draw := 1, step := s.step }
  let blocks := (List.range per).map (fun b =>
    quantiseBlock q n.format (idx + 32 * b) (padValues (outFmt n) [lineAt pad (r.base + e.padLine + per * i + b)]))
  let s := each (fun (b : List Nat × Nat × TensorCounters) s => addCounts e.tensor b.2.2 s) blocks s
  let s := drainLine { d with seq := i } e.loaf line (bytesOf n.format ((blocks.map (·.1)).flatten)) s
  let ds := match s.job with | some j => j.decls | none => []
  each (fun (x : (List Nat × Nat × TensorCounters) × Nat) s =>
    let o := storedByte ds (e.tensor + 1) (idx / 32 + x.2)
    drainByte d o.1 o.2 (BitVec.ofNat 8 x.1.2.1) s) blocks.zipIdx s

/-- One entry of a drain list. -/
def drainEntry (p : Nat) (r : TaskRun) (pad : Memory) (seed : Nat) (x : Entry × Nat) (s : State) : State :=
  let e := x.1
  let f := (s.numericOf e.tensor).format
  let d : DrainAt := { p := p, task := r.task, entry := x.2, seq := 0 }
  let s := touchAll (e.touched pad r.base) s
  if isTray f then each (drainTray d r e pad seed) (List.range (e.count / 32)) s
  else if isMx f then each (drainMxLine d r e pad seed) (List.range e.lines) s
  else drainPlain d r e pad s

/-- Some line of the drain names an undeclared or HOST_IN loaf (R38): the first such loaf. -/
def refusedLoaf (s : State) (r : TaskRun) (pad : Memory) (es : List Entry) : Option Nat :=
  ((es.map (fun e => e.touched pad r.base)).flatten).find? (fun l => match s.declared l with
    | none => true
    | some d => d.hostIn)

/-- The checks that the merge copies of a drain's first writes met (R64, R78, R239 to R241). -/
def mergeReads (p task : Nat) (outcomes : List (Nat × ReadOutcome)) (loaves : List Nat) (s : State) : State :=
  each (fun (x : Nat × ReadOutcome) s =>
    if loaves.contains x.1 && (s.pendingFrame x.1).isNone then (readChecked p task false x.1 0 x.2 s).1 else s) outcomes s

/-- Run a task's drain list (R38, R39, R64, R276). -/
def runDrain (p : Nat) (r : TaskRun) (outcomes : List (Nat × ReadOutcome)) (s : State) : State :=
  let pad := (s.tile p).pad
  let es := s.image.drains (s.task r.task)
  let seed := match s.job with | some j => j.seed.toNat | none => 0
  match refusedLoaf s r pad es with
  | some l => report (taskRaise .drainRefused p r.task l s) s
  | none =>
    let s := mergeReads p r.task outcomes ((es.map (fun e => e.touched pad r.base)).flatten) s
    each (drainEntry p r pad seed) es.zipIdx s

/-! ## The end of the weave (R75, R116, R119, R120, R127) -/

/-- The task ends without its drain: its region is released, and tokens left in the channels are lost (R75, R127;
notes/assumptions/15.md). -/
def abandonWeave (p : Nat) (s : State) : State :=
  s.onTile p (fun t => { t with current := none, channels := [], blockedSend := none })

/-- The schedule deviates from the proof report (R127). -/
def deviates (p : Nat) (r : TaskRun) (measured : Nat) (s : State) : State :=
  abandonWeave p (report (taskRaise .schedDeviation p r.task measured s) s)

/-- WEAVE_HOLD_LIMIT: a hold of 64 cycles abandons the weave and raises SCHED_DEVIATION at once (R116, R127). -/
def execWeaveHoldLimit (tile : Nat) (s : State) : Host.Outcome State Fault Refusal :=
  guardUnit (decide (tile < 1152)) (
    let t := s.tile tile
    match t.current with
    | some r => if r.phase = .firing ∧ 64 ≤ t.weave.holding then deviates tile r (t.weave.cycle + t.weave.held) s else s
    | none => s)

/-- SCHED_DEVIATION: the measured count of weave cycles differs from WEAVE_CYCLES (R47, R127). -/
def execSchedDeviation (tile measured : Nat) (s : State) : Host.Outcome State Fault Refusal :=
  guardUnit (decide (tile < 1152)) (
    match (s.tile tile).current with
    | some r => if r.phase = .firing ∧ measured ≠ (s.task r.task).weaveCycles then deviates tile r measured s else s
    | none => s)

/-- The schedule of the task that fires has ended (R115). -/
def State.weaveEnded (s : State) (t : Tile) (r : TaskRun) : Bool :=
  decide (r.phase = .firing) && scheduleDone (s.setOf r.task) t.banks

/-- A pad write of the schedule completes later than DRAIN_BOUND cycles after the schedule (R120, R483). -/
def State.writesLate (s : State) (t : Tile) (r : TaskRun) : Bool :=
  decide (t.weave.cycle + t.weave.held + (s.task r.task).drainBound < t.weave.writesUntil)

/-- WEAVE_DRAIN_END: every channel queue is empty and every pad write has completed, so the drain list runs (R18, R38, R39,
R56, R64, R119, R120, R127, R143, R175 to R181). `padUpset`: the pad line read for the drain that fails its parity, whose bytes are then open; `merge`: what
the merge copies of first writes met. -/
def execWeaveDrainEnd (tile : Nat) (padUpset : Option Nat) (merge : List (Nat × ReadOutcome)) (s : State) : Host.Outcome State Fault Refusal :=
  guardUnit (decide (tile < 1152)) (
    let t := s.tile tile
    match t.current with
    | none => s
    | some r =>
      if !s.weaveEnded t r || !channelsEmpty t || s.writesLate t r then s
      else if t.weave.held ≠ 0 then deviates tile r ((s.task r.task).weaveCycles + t.weave.held) s
      else if s.att.broadcast then abandonWeave tile s
      else
        let s := match padUpset with
          | some line => (report (taskRaise .padParity tile r.task line s) { s with freeCtr := s.freeCtr + 4 }).onTile tile (fun t =>
              { t with pad := writeLine (line % 4096) s.freeLine t.pad })
          | none => s
        let s := runDrain tile r merge s
        s.onTile tile (fun t =>
          { t with channels := [], current := some { r with phase := if r.messages.isEmpty then .draining else .sending } }))

/-- DRAIN_TIMEOUT: the weave drain has not ended DRAIN_BOUND cycles after the schedule; the tile is fenced (R47, R120). -/
def execDrainTimeout (tile : Nat) (s : State) : Host.Outcome State Fault Refusal :=
  guardUnit (decide (tile < 1152)) (
    let t := s.tile tile
    match t.current with
    | none => s
    | some r =>
      if s.weaveEnded t r && (!channelsEmpty t || s.writesLate t r) then
        (report (taskRaise .drainTimeout tile r.task (s.task r.task).drainBound s) s).onTile tile (fun t => { t with fenced := true })
      else s)

/-- The home tile of a task's affinity group: the logical tile that last finished one (R201). -/
def setHome (p task : Nat) (s : State) : State :=
  let g := (s.task task).affinity
  match s.logical? p with
  | some l => if g = 0 then s else s.onJob (fun j => { j with homes := put g l j.homes })
  | none => s

/-- DRAIN_COMPLETE: the drain is written in full and every message delivered: the task has finished, its region is released
and the task behind it becomes the current one and reports the queues it waits on (R18, R56, R119, R133, R152, R154, R201). -/
def execDrainComplete (tile : Nat) (s : State) : Host.Outcome State Fault Refusal :=
  guardUnit (decide (tile < 1152)) (
    let t := s.tile tile
    match t.current with
    | none => s
    | some r =>
      if !(decide (r.phase = .draining) || (decide (r.phase = .sending) && r.messages.isEmpty)) then s
      else
        let s := setHome tile r.task s
        let next := t.runAhead.filter (fun x => !x.ahead)
        let waits := match next with
          | some x => if x.phase = .filled then unmetQueues s t x.task else []
          | none => []
        let s := s.setTile tile { t with current := next, runAhead := t.runAhead.filter (·.ahead), done := t.done ++ [r.task], blockedSend := none,
                                         blockedOn := waits }
        { s with att := { s.att with finished := s.att.finished ++ [r.task] } })

end Sys2Proof.Machine
end

