-- ==== Sys2Proof/Machine/Rings.lean ====
section
/-! DEFINITION. Messages between tiles of a gang: the ring writer, refusals, retries and the hold limit (R119, R143 to R154,
R360). -/

namespace Sys2Proof.Machine

/-- First pad line of the ring of a queue: rings are placed downward from tray 95 in queue order (R131). -/
def ringBaseTray (sizes : List Nat) (q : Nat) : Nat := 96 - ((sizes.take (q + 1)).map queueTrays).sum

/-- The receive rings of every tile, as OPEN_JOB fixes them (R26, R131, R144). BASE is in 16-byte units. -/
def Image.rings (im : Image) : List Ring :=
  (List.range 16).map (fun q =>
    let c := im.queueSizes.getD q 0
    if queueTrays c = 0 then {} else { base := 128 * ringBaseTray im.queueSizes q, size := c })

/-- Every ring of the tiles in use at the start of a slot: offsets, counts and flags zero (R144). -/
def resetRings (im : Image) (s : State) : State :=
  each (fun p s => s.onTile p (fun t => { t with rings := im.rings, blockedOn := [], blockedSend := none })) s.tests.tileMap s

/-- A message's payload, read from its staging lines (R119, R152). -/
def Message.payload (m : Message) (pad : Memory) : List Byte := (m.lines.map (lineAt pad)).flatten

/-- A message's header (R145 Table 4). -/
def messageHeader (m : Message) (len src gang : Nat) : List Byte :=
  leBytes 16 (len + src * 2 ^ 16 + m.destTask * 2 ^ 40 + m.seq * 2 ^ 64 + m.queue * 2 ^ 80 + gang * 2 ^ 88)

/-- Advance WR by some units, toggling WR_WRAP at the ring's end. -/
def Ring.wrote (r : Ring) (at_ units : Nat) : Ring :=
  let wrap := decide (at_ < r.wr)
  let n := at_ + units
  let w := if wrap then !r.wrWrap else r.wrWrap
  { r with wr := if n = r.units then 0 else n, wrWrap := if n = r.units then !w else w, msgs := r.msgs + 1 }

/-- Where a message of some units goes: its offset, or none for a refusal (R146). -/
def Ring.place (r : Ring) (need : Nat) : Option Nat :=
  let free := r.units - r.used
  let tail := r.units - r.wr
  if need ≤ tail then (if free < need then none else some r.wr)
  else if free < tail + need then none else some 0

/-- Write a message into a ring's bytes: a skip record in the gap when it wraps, the header, the payload padded (R145, R146). -/
def putMessage (r : Ring) (off : Nat) (m : Message) (payload : List Byte) (src gang : Nat) (pad : Memory) : Memory :=
  let pad := if off < r.wr then pad.writeBytes (16 * (r.base + r.wr)) (leBytes 16 ((r.units - r.wr) + 2 ^ 12)) else pad
  let n := 16 * ceilDiv payload.length 16
  let pad := pad.writeBytes (16 * (r.base + off) + 16) ((payload ++ List.replicate 16 0).take n)
  pad.writeBytes (16 * (r.base + off)) (messageHeader m payload.length src gang)

/-- The physical tile of a gang member: the task is admitted to it, and its gang is the sender's (R20, R151). -/
def State.tileOf (s : State) (sender task : Nat) : Option Nat :=
  if (s.task sender).gang ≠ 0 ∧ (s.task task).gang = (s.task sender).gang then
    (s.att.admitted.find? (fun a => a.task == task)).map (fun a => s.physical a.tile)
  else none

/-- The message a tile sends now, with its receiver's tile (R119, R145). -/
def State.outgoing (s : State) (p : Nat) : Option (TaskRun × Message × Nat) :=
  match (s.tile p).current with
  | none => none
  | some r =>
    if r.phase ≠ .sending then none
    else match r.messages with
      | [] => none
      | m :: _ => (s.tileOf r.task m.destTask).map (fun q => (r, m, q))

/-- A sender no longer waits at a ring; SEND_BLOCKED clears when it was the last (R144). -/
def Ring.unblock (r : Ring) (sender : Nat) : Ring :=
  let w := r.waiting.filter (fun x => decide (x.1 ≠ sender))
  { r with waiting := w, sendBlocked := r.sendBlocked && !w.isEmpty }

/-- Count a loss of a sender at a ring: it backs off 2^n cycles for n losses in a row, 256 at most (R150, R360). -/
def lose (sender : Nat) (at_ : Option (Nat × Nat)) (s : State) : State :=
  s.onTile sender (fun t => { t with current := t.current.map (fun c => { c with losses := c.losses + 1, retryAt := at_ }) })

/-- A sender was refused: it waits, which counts as a loss (R146, R150, R154). -/
def refuse (sender receiver : Nat) (q : Nat) (s : State) : State :=
  let s := s.onTile receiver (fun t => t.onRing q (fun r =>
    { r with sendBlocked := true, refused := Nat.min 65535 (r.refused + 1), waiting := put sender (look 0 sender r.waiting + 1) r.waiting }))
  lose sender none (s.onTile sender (fun t => { t with blockedSend := some (receiver, q) }))

/-- A tile after a message of a sender has landed in one of its rings (R146, R147, R149). -/
def Tile.land (off : Nat) (m : Message) (payload : List Byte) (task gang sender : Nat) (t : Tile) : Tile :=
  let t := { t with pad := putMessage (t.ring m.queue) off m payload task gang t.pad, lastQueue := m.queue }
  t.onRing m.queue (fun g => (g.wrote off (1 + ceilDiv payload.length 16)).unblock sender)

/-- Deliver the message at the head of a sender's list into its receiver's ring, or refuse it (R145 to R147, R150, R152). `damage`: what a
staging line that failed its parity gives (R143). A sender whose tile is fenced is masked. -/
def deliver (damage : Option (List Byte)) (sender receiver : Nat) (s : State) : State :=
  match s.outgoing sender with
  | none => s
  | some (r, m, q) =>
    if q ≠ receiver then s
    else if (s.tile sender).fenced then s.onTile receiver (fun t => t.onRing m.queue (·.unblock sender))
    else
      let payload := m.payload (s.tile sender).pad
      let payload := match damage with
        | some d => ((m.lines.map (fun _ => d)).flatten).take payload.length
        | none => payload
      match ((s.tile receiver).ring m.queue).place (1 + ceilDiv payload.length 16) with
      | none => refuse sender receiver m.queue s
      | some off =>
        let s := s.setTile receiver ((s.tile receiver).land off m payload r.task (s.task r.task).gang sender)
        s.onTile sender (fun t => { t with blockedSend := none, current := t.current.map (fun c =>
          { c with messages := c.messages.drop 1, losses := 0, retryAt := none }) })

/-- After a message has landed, the receiver's waiting task reports the queues still short (R117, R154). -/
def reportWait (p : Nat) (s : State) : State :=
  s.onTile p (fun t => match t.current with
    | some r => if r.phase = .filled then { t with blockedOn := unmetQueues s t r.task } else t
    | none => t)

/-- A tile backs off from a ring: it was refused there, or lost the arbitration (R150). -/
def Tile.backsOff (t : Tile) : Bool := t.blockedSend.isSome || (match t.current with | some r => r.retryAt.isSome | none => false)

/-- The inbound messages that request a tile's ring writer: of senders that are neither masked nor backing off, and of one that tries again,
each with its message's queue (R149, R150). -/
def State.inbound (s : State) (again : Option Nat) (receiver : Nat) : List (Nat × Nat) :=
  s.tiles.filterMap (fun x => match s.outgoing x.1 with
    | some (_, m, q) => if q = receiver ∧ x.2.fenced = false ∧ (x.2.backsOff = false ∨ again = some x.1) then some (x.1, m.queue) else none
    | none => none)

/-- The queue that the ring writer serves next: the lowest with a waiting message, or under rotation the first upward from the one after
the queue last served (R149). -/
def nextQueue (rotate : Bool) (last : Nat) (waiting : List Nat) : Option Nat :=
  (if rotate then (List.range 16).map (fun k => (last + 1 + k) % 16) else List.range 16).find? waiting.contains

/-- The queue whose turn it is at a tile's ring writer and the senders that request it (R149). -/
def State.requests (s : State) (again : Option Nat) (receiver : Nat) : Option (Nat × List Nat) :=
  let w := s.inbound again receiver
  let rotate := match s.job with
    | some j => j.image.queueRotate
    | none => false
  (nextQueue rotate (s.tile receiver).lastQueue (w.map (·.2))).map (fun q => (q, (w.filter (fun x => x.2 == q)).map (·.1)))

/-- The arbiter of a ring decides among the senders that request it; its winner's message is written or refused, and the others lose and back
off (R146 to R150, R360). `upset`: a staging line fails its parity as the sequencer reads it (R143). -/
def serveRing (again : Option Nat) (receiver : Nat) (upset : Bool) (s : State) : State :=
  match s.requests again receiver with
  | none => s
  | some (q, req) =>
    let d := (((s.tile receiver).ring q).arb).arbitrate (fun _ => 1) (fun _ => false) req
    match d.1 with
    | none => s
    | some sender =>
      let s1 := s.onTile receiver (fun t => t.onRing q (fun r => { r with arb := d.2.release }))
      let s2 := each (fun p s => lose p (some (receiver, q)) s) (req.filter (fun p => decide (p ≠ sender) && !(s.tile p).blockedSend.isSome)) s1
      let s3 := match upset, s.outgoing sender with
        | true, some (r, _, _) => report (taskRaise .padParity sender r.task 0 s) { s2 with freeCtr := s2.freeCtr + 4 }
        | _, _ => s2
      reportWait receiver (deliver (if upset then some s.freeLine else none) sender receiver s3)

/-- MESSAGE_RING_WRITE: a message is written into a receiver's ring, or the write is refused (R119, R143, R145 to R152, R360). `sender` is one of
the requesters; which of them is served the queue policy and the ring's arbiter decide. -/
def execMessageRingWrite (sender receiver : Nat) (upset : Bool) (s : State) : Host.Outcome State Fault Refusal :=
  guardUnit (decide (sender < 1152) && decide (receiver < 1152)) (
    match s.outgoing sender with
    | none => s
    | some (_, m, q) =>
      if q ≠ receiver then s
      else if (s.tile sender).fenced then s.onTile receiver (fun t => t.onRing m.queue (·.unblock sender))
      else serveRing none receiver upset s)

/-- RING_SEND_RETRY: a sender that was refused or lost tries again after its back-off, with the others that request the ring writer then
(R149, R150). -/
def execRingSendRetry (retry : RetrySend) (s : State) : Host.Outcome State Fault Refusal :=
  guardUnit (decide (retry.sender < 1152)) (
    let sender := retry.sender
    match s.outgoing sender with
    | some (_, m, receiver) =>
      if (s.tile sender).fenced then s.onTile receiver (fun t => t.onRing m.queue (·.unblock sender))
      else if (s.tile sender).backsOff then serveRing (some sender) receiver retry.upset s
      else s
    | none => s)

/-- RING_ARB_HOLD_CUTOFF: a message makes no progress for 512 cycles with an idle port slot: its grant is cut off and the
partial message never becomes visible (R150, R360). -/
def execRingArbHoldCutoff (sender receiver : Nat) (s : State) : Host.Outcome State Fault Refusal :=
  guardUnit (decide (sender < 1152) && decide (receiver < 1152)) (
    match s.outgoing sender with
    | some (r, m, q) =>
      if q = receiver then
        report (taskRaise .arbHoldCutoff receiver r.task m.queue s) (s.onTile receiver (fun t => t.onRing m.queue (fun g => { g with arb := g.arb.release })))
      else s
    | none => s)

end Sys2Proof.Machine
end

