-- ==== Sys2Proof/Machine/Task.lean ====
section
/-! DEFINITION. Configuration and the start of a weave, reports to the hub and the failure broadcast, the phases of a slot
(R54, R55, R60, R75, R114, R117, R121 to R123, R133, R143, R233, R368). -/

namespace Sys2Proof.Machine

/-! ## Configuration (R60, R121 to R123, R131, R133) -/

/-- First pad line of a configuration slot (R131 Table 1). -/
def configLine (second : Bool) : Nat := if second then 3584 else 3072

/-- The fold images of a set, as the job image holds them (R33). -/
def State.setBytes (s : State) (k : Nat) : List Byte :=
  ((s.dev.imageRaw.drop (s.image.setAt.getD k 0 + 32)).take (4096 * (s.image.sets.getD k {}).folds.length)).take 32768

/-- The 32-byte header of a set (R33). -/
def State.setHeader (s : State) (k : Nat) : List Byte := (s.dev.imageRaw.drop (s.image.setAt.getD k 0)).take 32

/-- Copy a set's fold images from the slice tier into the configuration slot that does not hold the resident set's copy, and its header into that
slot's set register (R121, R131, R133). -/
def Tile.copyConfig (t : Tile) (k : Nat) (header images : List Byte) : Tile :=
  if t.slot0 = some k ∨ t.slot1 = some k then t
  else if t.slot0.isSome ∧ t.slot0 = t.resident then
    { t with slot1 := some k, setReg1 := header, pad := t.pad.writeBytes (64 * configLine true) images }
  else { t with slot0 := some k, setReg0 := header, pad := t.pad.writeBytes (64 * configLine false) images }

/-- A copy that failed its parity is fetched again before it is used (R143). -/
def Tile.dropConfig (t : Tile) (k : Nat) : Tile :=
  { t with slot0 := if t.slot0 = some k then none else t.slot0, slot1 := if t.slot1 = some k then none else t.slot1 }

/-- Activate a set: the configuration epoch advances modulo 4 (R121, R122). -/
def Tile.activate (t : Tile) (k : Nat) : Tile := { t with resident := some k, configBad := false, epoch := t.epoch + 1 }

/-- The weave fires no task and its channels have drained (R121). -/
def Tile.weaveIdle (t : Tile) : Bool :=
  channelsEmpty t && (match t.current with
    | some r => decide (r.phase = .filling) || decide (r.phase = .filled)
    | none => true)

/-- A copy of a set from the slice tier meets a parity error there: SLICE_PARITY, and the set is fetched again. The spec gives the sets no place in
the slices (R121, R232; notes/assumptions/84.md). -/
def configReadError (p : Nat) (s : State) : State :=
  let (v, s) := s.fresh
  report (Raise.of .sliceParity (.tile p) v.toNat 0xFFFFFFFFFFFFFFFF 0 0) s

/-- A copy of a set must be read from the slice tier, and that read fails its parity. -/
def State.copyFails (s : State) (t : Tile) (k : Nat) (read : ReadOutcome) : Bool :=
  decide (t.slot0 ≠ some k) && decide (t.slot1 ≠ some k) && s.mem.configs.contains k && decide (read = .parity)

/-- CONFIG_LOAD: between tasks the sequencer copies, chains and activates the set of the tile's next task (R121 to R123,
R143, R232). `recordUpset`: a record fails its parity once resident. -/
def execConfigLoad (tile : Nat) (copy : CopyOutcome) (recordUpset : Bool) (s : State) : Host.Outcome State Fault Refusal :=
  guardUnit (decide (tile < 1152)) (
    let t := s.tile tile
    match t.current with
    | none => s
    | some r =>
      let k := (s.task r.task).configSet
      if !t.weaveIdle || (decide (t.resident = some k) && !t.configBad) then s
      else if s.copyFails t k copy.read then configReadError tile s
      else
        let t1 := t.copyConfig k (s.setHeader k) (s.setBytes k)
        if copy.padUpset then report (taskRaise .padParity tile r.task 0 s) (s.setTile tile { t1.dropConfig k with resident := none })
        else
          let t2 := t1.activate k
          if recordUpset then report (taskRaise .configParity tile r.task k s) (s.setTile tile { t2 with configBad := true })
          else s.setTile tile t2)

/-- RUN_AHEAD_CONFIG_LOAD: the set of the tile's first task of the next slot is copied into the pad, and once the weave is
idle for the rest of the slot it is loaded into the units (R60, R121, R122, R133). A copy that fails its parity on the chain raises PAD_PARITY
and is fetched again (R143). -/
def execRunAheadConfigLoad (a : AheadCopy) (s : State) : Host.Outcome State Fault Refusal :=
  guardUnit (decide (a.tile < 1152)) (
    let t := s.tile a.tile
    match s.nextFor a.tile with
    | none => s
    | some n =>
      let k := (s.task n).configSet
      if !s.inAttempt || decide (s.att.phase = .commit) then s
      else if s.copyFails t k a.copy.read then configReadError a.tile s
      else if !(decide (t.slot0 = some k) || decide (t.slot1 = some k)) then s.setTile a.tile (t.copyConfig k (s.setHeader k) (s.setBytes k))
      else if t.current.isNone && t.deque.isEmpty && channelsEmpty t && !(decide (t.resident = some k) && !t.configBad) then
        if a.copy.padUpset then report (taskRaise .padParity a.tile n 0 s) (s.setTile a.tile { t.dropConfig k with resident := none })
        else s.setTile a.tile (t.activate k)
      else s)

/-! ## The start of a weave (R55, R114, R117, R123) -/

/-- WEAVE_START: the task's weave fires once its fills are complete, its messages present and the run phase open; every
state bank is cleared (R18, R46, R54, R55, R75, R114, R117, R123). `configParity`: the resident configuration fails its
parity. -/
def execWeaveStart (tile : Nat) (configParity : Bool) (s : State) : Host.Outcome State Fault Refusal :=
  guardUnit (decide (tile < 1152)) (
    let t := s.tile tile
    match t.current with
    | none => s
    | some r =>
      let k := (s.task r.task).configSet
      if !(decide (r.phase = .filled) && s.inAttempt && decide (s.att.phase = .run) && !s.att.broadcast && !t.fenced
          && decide (t.resident = some k) && !t.configBad && (unmetQueues s t r.task).isEmpty) then s
      else if configParity then report (taskRaise .configParity tile r.task k s) (s.setTile tile { t with configBad := true })
      else s.setTile tile { t with current := some { r with phase := .firing }, banks := [], weave := {}, blockedOn := [],
                                   rings := t.rings.map (fun g => { g with order := (takeOrder t.pad g).map (·.off) }) })

/-! ## Reports and the failure broadcast (R75, R233) -/

/-- A loss of transit switching is reported, on a port die or in the transit channels; no other report of these sources comes this way (R289). -/
def pathReport (x : Raise) (s : State) : State :=
  let port := match x.src with | .port p => p | _ => 0
  if x.cond = .fabricPathFail ∧ s.dev.state ≠ .off ∧ s.dev.state ≠ .halted then raise (Raise.of .fabricPathFail x.src port 0 0 s.time.tick) s else s

/-- ERROR_REPORT: a report reaches the hub, which records it and may mark the attempt failed: the oldest report of a tile
under way, or with an operand that report, or a detection of a tile that no other command makes (R75, R128, R233, R354 to
R356, R443 to R447). -/
def execErrorReport (r : Option Raise) (s : State) : Host.Outcome State Fault Refusal :=
  match r with
  | none => .next (match s.att.reports with
    | [] => s
    | x :: l => receiveReport x { s with att := { s.att with reports := l } })
  | some x =>
    if s.att.reports.contains x then .next (receiveReport x { s with att := { s.att with reports := s.att.reports.erase x } })
    else match x.src with
      | .tile p =>
        if p < 1152 then
          .next (if s.computing then receiveReport { x with cls := Cond.cls x.cond, sev := Cond.sev x.cond } s else s)
        else .fault .noSuchUnit
      | .port p => guardUnit (decide (p < 24)) (pathReport x s)
      | .device => .next (pathReport x s)
      | _ => .next s

/-- A tile hears the broadcast: it starts no further task of the attempt, and tasks whose weave does not fire release their
regions (R75, R133). A drain whose list has run stands. -/
def hearFailure (t : Tile) : Tile :=
  { t with
    deque := [], board := {}, steal := {}, runAhead := none
    current := t.current.filter (fun r => decide (r.phase = .firing) || decide (r.phase = .draining) || decide (r.phase = .sending)) }

/-- FAILURE_BROADCAST: the failure of an attempt marked failed before its margin reaches the tiles, in the margin too when it was sent before;
the provisional admission is withdrawn (R75, R133, R212, R233). -/
def execFailureBroadcast (s : State) : Host.Outcome State Fault Refusal :=
  .next (if s.inAttempt && s.att.failed && !s.att.broadcast then
      { s with att := { s.att with broadcast := true, provisional := s.att.admitted }, tiles := s.tiles.map (fun x => (x.1, hearFailure x.2)) }
    else s)

/-! ## Phases (R54, R368) -/

/-- RUN_PHASE_OPEN: the commit window ends and the run phase opens (R54, R55). -/
def execRunPhaseOpen (s : State) : Host.Outcome State Fault Refusal :=
  .next (if s.inAttempt && decide (s.att.phase = .commit) then { s with att := { s.att with phase := .run } } else s)

/-- An edge of the wait graph: task and queue that wait, the physical tile they wait on, the tile they wait at (R154, R368). -/
structure WaitEdge where
  task : Nat
  queue : Nat
  src : Nat
  dst : Nat
  deriving DecidableEq, Repr

/-- A task of the image sends on a queue: one of its SEND streams names it (R119). -/
def sendsOn (cs : ConfigSet) (q : Nat) : Bool :=
  cs.records.any (fun x => x.2.2.op == 0x60 && unitKind x.1 == .address &&
    ((x.2.2.patA.mode == 13 && x.2.2.patA.queue == q) || (x.2.2.patB.mode == 13 && x.2.2.patB.queue == q)))

/-- The weave of a receiving task on a tile has ended (R154). -/
def weaveOver (s : State) (p task : Nat) : Bool :=
  s.att.finished.contains task || match (s.tile p).current with
    | some r => decide (r.task = task) && (decide (r.phase = .draining) || decide (r.phase = .sending) || s.weaveEnded (s.tile p) r)
    | none => false

/-- The edges of one tile (R154): a blocked send, or a waiting receive to every tile whose gang task sends on that queue and
has not finished. -/
def waitEdges (s : State) (p : Nat) : List WaitEdge :=
  let t := s.tile p
  match t.current with
  | none => []
  | some r =>
    (match t.blockedSend with
      | some (q, n) => [{ task := r.task, queue := n, src := p, dst := if weaveOver s q ((r.messages.head?.map (·.destTask)).getD 0) then p else q }]
      | none => [])
    ++ (if r.phase ≠ .filled then []
        else (t.blockedOn.map (fun n =>
          (s.att.admitted.filter (fun a => decide (a.task ≠ r.task) && decide ((s.task a.task).gang = (s.task r.task).gang)
              && decide ((s.task r.task).gang ≠ 0) && !s.att.finished.contains a.task && sendsOn (s.setOf a.task) n)).map
            (fun a => ({ task := r.task, queue := n, src := p, dst := s.physical a.tile } : WaitEdge)))).flatten)

/-- The edges from a tile. -/
def edgesFrom (es : List WaitEdge) (p : Nat) : List WaitEdge := es.filter (fun e => e.src == p)

/-- The simple cycles through a starting tile, as the edges followed, `n` steps at most; only tiles above the start are
passed, so that each cycle is found once. -/
def cyclesThrough (es : List WaitEdge) (start : Nat) : Nat → Nat → List WaitEdge → List (List WaitEdge)
  | 0, _, _ => []
  | n + 1, p, path =>
    ((edgesFrom es p).map (fun e =>
      if e.dst = start then [path ++ [e]]
      else if e.dst < start ∨ path.any (fun x => x.src == e.dst) then []
      else cyclesThrough es start n e.dst (path ++ [e]))).flatten

/-- What names a cycle: its edges by task and queue, lowest first (R368). -/
def cycleName (c : List WaitEdge) : List (Nat × Nat) :=
  (c.map (fun e => (e.task, e.queue))).mergeSort (fun a b => decide (a.1 < b.1) || (decide (a.1 = b.1) && decide (a.2 ≤ b.2)))

/-- A QUEUE_CYCLE item (R444). -/
def cycleItem (e : WaitEdge) : Nat := e.task + e.queue * 2 ^ 24 + e.src * 2 ^ 32

/-- Raise QUEUE_CYCLE: up to four tasks, lowest task number first; the JOB bit of each of those tiles is set (R359, R368). -/
def raiseCycle (c : List WaitEdge) (s : State) : State :=
  let it := (c.mergeSort (fun a b => decide (a.task ≤ b.task))).take 4
  let w := fun i => (it.map cycleItem).getD i 0
  let src := match it with | e :: _ => Source.tile e.src | [] => .device
  let s := raise (Raise.of .queueCycle src (w 0) (w 1) (w 2) (w 3)) s
  each (fun (e : WaitEdge) s => setSticky (2048 + 8 * e.src + CondClass.code .job) s) it s

/-- MARGIN_OPEN: the margin opens 1 µs before the boundary; the hub samples the wait-for reports and searches them for
cycles. A cycle found in two slots running raises QUEUE_CYCLE (R54, R154, R368). -/
def execMarginOpen (s : State) : Host.Outcome State Fault Refusal :=
  .next (if !(s.inAttempt && decide (s.att.phase = .run)) then s
    else
      let ps := s.tiles.map (·.1)
      let es := (ps.map (waitEdges s)).flatten
      let cs := (ps.map (fun p => cyclesThrough es p ps.length p [])).flatten
      let old := s.att.cycles
      let s := { s with att := { s.att with phase := .margin, cycles := cs.map cycleName } }
      each raiseCycle (cs.filter (fun c => old.contains (cycleName c))) s)

end Sys2Proof.Machine
end

