-- ==== Sys2Proof/Machine/Admission.lean ====
section
/-! DEFINITION. Admission and splitting, and work stealing (R20, R79 to R81, R204 to R212). -/

namespace Sys2Proof.Machine

/-! ## Admission (R205 to R208) -/

/-- The admission deadline (R205). -/
def State.deadline (s : State) : Nat :=
  let t := s.image.tickUs
  (t - 1) * 2000 - s.pol.admitGuard * (2 * t - 3) * 10

/-- Logical numbers withdrawn from admission: retiring tiles, and retirements under way (R85 Table 4, R216). -/
def State.withdrawn (s : State) : List Nat :=
  (s.tests.moves.filter (fun m => decide (m.kind = .retirement))).map (·.logical) ++ s.tests.retiring.filterMap (fun x => s.logical? x.1)

/-- The tiles open to admission, in logical order. -/
def State.openTiles (s : State) : List TilePlan :=
  let out := s.withdrawn
  ((List.range 1024).filter (fun l => !out.contains l)).map (fun l =>
    let p := s.physical l
    { logical := l, phys := p, resident := (s.tile p).sets.1, inPad := (s.tile p).sets.2 })

/-- The tile of least predicted end, ties to the lowest logical number (R205). -/
def bestTile (s : State) (mhz : Nat) (t : TaskNeeds) (taken : List Nat) : List TilePlan → Option (TilePlan × (Nat × Nat))
  | [] => none
  | p :: l =>
    let r := bestTile s mhz t taken l
    if 64 ≤ p.count ∨ taken.contains p.logical then r
    else
      let x := predict s mhz t p
      match r with
      | none => some (p, x)
      | some y => if y.2.2 < x.2 then r else some (p, x)

/-- The home tile instead, when its end is within AFFINITY_SLACK of the run phase (R205). -/
def chooseTile (s : State) (mhz : Nat) (t : TaskNeeds) (taken : List Nat) (ps : List TilePlan) : Option (TilePlan × (Nat × Nat)) :=
  match bestTile s mhz t taken ps with
  | none => none
  | some b =>
    let home := match s.job with
      | some j => if t.group = 0 ∨ s.ignores 3 then none else look? t.group j.homes
      | none => none
    match home with
    | none => some b
    | some h =>
      match ps.find? (fun p => decide (p.logical = h) && decide (p.count < 64) && !taken.contains h) with
      | none => some b
      | some p =>
        let x := predict s mhz t p
        if x.2 ≤ b.2.2 + s.pol.affinitySlack * (2 * s.image.tickUs - 3) * 10 then some (p, x) else some b

/-- An admission as it is built up. -/
structure AdmitState where
  tiles : List TilePlan
  out : List Admitted := []
  written : Nat := 0
  gang : Option Nat := none

def AdmitState.put (a : AdmitState) (t : TaskNeeds) (b : TilePlan × (Nat × Nat)) : AdmitState :=
  { a with
    tiles := a.tiles.map (fun p => if p.logical = b.1.logical then p.push t b.2 else p)
    out := a.out ++ [{ task := t.task, tile := b.1.logical, endAt := b.2.2 }], written := a.written + t.written }

/-- Place the members of one unit, each on a tile of its own; none when a member misses the deadline. A replay's set is
placed whatever the deadline (R20, R73, R205). -/
def placeUnit (s : State) (mhz : Nat) (force : Bool) : List TaskNeeds → List Nat → AdmitState → Option AdmitState
  | [], _, a => some a
  | t :: ts, taken, a =>
    match chooseTile s mhz t taken a.tiles with
    | none => none
    | some b => if b.2.2 ≤ s.deadline ∨ force then placeUnit s mhz force ts (b.1.logical :: taken) (a.put t b) else none

/-- The members of a task's unit within a task list. -/
def unitOf (s : State) (ts : List Nat) (t : Nat) : List Nat :=
  if (s.task t).gang = 0 then [t] else ts.filter (fun x => decide ((s.task x).gang = (s.task t).gang))

/-- Units of a task list: a gang counts as one, at its lowest task number (R205). -/
def unitsOf (s : State) (ts : List Nat) : List (List Nat) :=
  (ts.filter (fun t => decide ((unitOf s ts t).head? = some t))).map (unitOf s ts)

/-- Every task of the image with a gang number is in a list: a gang whose members lie in several waves never is (R20). -/
def State.gangWhole (s : State) (g : Nat) (u : List Nat) : Bool :=
  decide ((s.image.tasks.filter (fun t => decide (t.gang = g))).length ≤ u.length)

/-- Consider one unit: a gang with every member, or not at all (R20, R205, R207). -/
def admitUnit (s : State) (mhz : Nat) (force : Bool) (u : List Nat) (a : AdmitState) : AdmitState :=
  let ts := u.map s.needs
  let g := match ts with | t :: _ => t.gang | [] => 0
  let room := decide (4 * (s.heldFrames + a.written + (ts.map (·.written)).sum) ≤ 3 * s.pol.jobReserve)
  if (decide (g ≠ 0) && !s.gangWhole g u) || (!force && ((decide (g ≠ 0) && a.gang.isSome) || !room)) then a
  else match placeUnit s mhz force ts [] a with
    | none => a
    | some b => if g = 0 then b else { b with gang := some g }

/-- Admit tasks, in ascending task number (R205, R207, R208). -/
def admitAll (s : State) (mhz : Nat) (force : Bool) (ts : List Nat) : List Admitted :=
  (each (admitUnit s mhz force) (unitsOf s ts) { tiles := s.openTiles }).out.mergeSort (fun a b => decide (a.task ≤ b.task))

/-- The least predicted end of a task over all tiles (R206). -/
def leastEnd (s : State) (mhz task : Nat) : Nat :=
  match bestTile s mhz (s.needs task) [] s.openTiles with
  | some b => b.2.2
  | none => 0

/-! ## Splitting (R79, R80) -/

/-- The predicted load of a task on whatever tile (R79; notes/assumptions/16.md). -/
def loadOf (s : State) (i : Nat) : Nat :=
  let t := s.task i
  t.weaveCycles + t.fillBytes / 64 + t.drainBytes / 64

/-- The cut of a list of units where the loads of the two parts come closest to equal, the lower cut on ties; none for a
single unit. -/
def bestCut (loads : List Nat) : Option Nat :=
  let total := loads.sum
  (((List.range loads.length).filter (fun i => decide (0 < i))).map (fun i => (i, distance (2 * (loads.take i).sum) total))).foldl
    (fun (b : Option (Nat × Nat)) x => match b with
      | none => some x
      | some y => if x.2 < y.2 then some x else some y) none |>.map (·.1)

/-- Consecutive tasks joined so that no gang straddles a cut. -/
def blocksOf (s : State) (ts : List Nat) : List (List Nat) :=
  let g := ts.filter (fun t => decide ((s.task t).gang ≠ 0))
  match g with
  | [] => ts.map (fun t => [t])
  | x :: _ =>
    let hi := maxOf g
    (ts.filter (fun t => decide (t < x))).map (fun t => [t]) ++ [ts.filter (fun t => decide (x ≤ t) && decide (t ≤ hi))] ++
      (ts.filter (fun t => decide (hi < t))).map (fun t => [t])

/-- The two parts of a failed task set; none when it cannot be split (R79, R80). -/
def splitTasks (s : State) (ts : List Nat) : Option (List Nat × List Nat) :=
  let cut := fun (us : List (List Nat)) => (bestCut (us.map (fun u => (u.map (loadOf s)).sum))).map (fun i =>
    ((us.take i).flatten, (us.drop i).flatten))
  match cut (blocksOf s ts) with
  | some x => some x
  | none => cut (unitsOf s ts)

/-! ## Stealing (R209 to R212) -/

/-- The scope in which tile `q` lies for tile `p`: 1 region, 2 die, 3 adjacent dies, 4 beyond (R210). -/
def scopeOf (p q : Nat) : Nat :=
  if tileRegion p = tileRegion q then 1
  else if tileDie p = tileDie q then 2
  else if adjacentDies (tileDie p) (tileDie q) then 3 else 4

/-- The flagged tile of the nearest scope with the latest predicted end, of those not yet tried (R210, R211). -/
def State.stealCandidate (s : State) (p : Nat) : Option Nat :=
  let t := s.tile p
  let ok := s.tiles.filter (fun x => decide (x.1 ≠ p) && x.2.board.eligible && !t.steal.tried.contains x.1
    && decide (scopeOf p x.1 ≤ s.pol.stealScope))
  let near := (ok.map (fun x => scopeOf p x.1)).foldl Nat.min 4
  ((ok.filter (fun x => decide (scopeOf p x.1 = near))).foldl (fun (b : Option (Nat × Nat)) x =>
    match b with
    | none => some (x.1, x.2.board.endAt)
    | some y => if y.2 < x.2.board.endAt then some (x.1, x.2.board.endAt) else b) none).map (·.1)

/-- Send the next STEAL_REQ of an idle period, at most 8, with the thief's region speed (R210, R211). -/
def requestSteal (p : Nat) (s : State) : State :=
  let t := s.tile p
  if 8 ≤ t.steal.sent then s
  else match s.stealCandidate p with
    | none => s
    | some v => s.setTile p { t with steal := { t.steal with victim := some v, sent := t.steal.sent + 1, at_ := s.eventCycle,
                                                                speed := (s.region (tileRegion p)).speedNow } }

/-- An attempt in which tiles may steal: before the margin opens, and before the failure broadcast (R209, R212). -/
def State.stealing (s : State) : Bool := s.inAttempt && decide (s.att.phase ≠ .margin) && !s.att.broadcast && decide (s.pol.stealScope ≠ 0)

/-- A tile is idle: its deque empty, its weave idle and its last drain issued (R209). -/
def Tile.idleNow (t : Tile) : Bool :=
  t.deque.isEmpty && (match t.runAhead with | some r => r.ahead | none => true) &&
    (match t.current with | some r => decide (r.phase = .draining) || decide (r.phase = .sending) | none => true)

/-- TILE_IDLE: an idle tile searches the steal boards and sends STEAL_REQ (R209 to R211). -/
def execTileIdle (at_ : TileSpeed) (s : State) : Host.Outcome State Fault Refusal :=
  guardUnit (decide (at_.tile < 1152)) (
    let tile := at_.tile
    let s := measureSpeed tile at_.speed s
    let t := s.tile tile
    if !(s.stealing && t.idleNow && !t.fenced && (s.logical? tile).isSome) then s
    else
      let s := updateBoard tile (s.setTile tile { t with steal := { t.steal with idle := true } })
      if t.steal.victim.isSome then s else requestSteal tile s)

/-- The thief's predicted end of a task, from the moment of its request, the full 300 ns of the answer, and the speed it sent (R204,
R209 to R211). -/
def State.thiefEnd (s : State) (thief task : Nat) : Nat :=
  let t := s.tile thief
  let from_ := t.steal.at_ + 600
  let p : TilePlan := { logical := 0, phys := thief, prevEnd := from_, prevFire := from_, resident := t.sets.1, inPad := t.sets.2 }
  (predictAt s t.steal.speed s.clk.mhz (s.needs task) p).2

/-- The tasks of a gang a tile holds in the attempt, finished or not (R209). -/
def holdsGang (s : State) (p gang : Nat) : Bool :=
  let t := s.tile p
  decide (gang ≠ 0) && (t.deque ++ t.done ++ (match t.current with | some r => [r.task] | none => [])).any (fun k => decide ((s.task k).gang = gang))

/-- Every condition of R209 on a tail task; the victim's own predicted end is that of its last queued task (R210). -/
def mayGrant (s : State) (thief victim task : Nat) : Bool :=
  let e := s.thiefEnd thief task
  let own := s.ownEnd victim
  s.stealing && tailEligible s (s.tile victim) && !holdsGang s thief (s.task task).gang
    && decide (e ≤ (s.image.tickUs - 1) * 2000) && decide (e < own)

/-- STEAL_REQ: a victim checks a request against its tail descriptor and grants or refuses it (R204, R209 to R212,
R233). -/
def execStealReq (thief : Nat) (at_ : TileSpeed) (s : State) : Host.Outcome State Fault Refusal :=
  guardUnit (decide (thief < 1152) && decide (at_.tile < 1152)) (
    let victim := at_.tile
    let s := measureSpeed victim at_.speed s
    let t := s.tile thief
    if t.steal.victim ≠ some victim ∨ t.steal.granted.isSome ∨ t.steal.tried.contains victim then s
    else
      let no := s.setTile thief { t with steal := { t.steal with tried := t.steal.tried ++ [victim] } }
      match (s.tile victim).deque.getLast? with
      | none => no
      | some k =>
        if !mayGrant s thief victim k then no
        else
          let e := s.thiefEnd thief k
          let l := (s.logical? thief).getD 0
          let s := s.setTile thief { t with steal := { t.steal with granted := some k } }
          let moved := s.att.admitted.map (fun (a : Admitted) => if a.task = k then { a with tile := l, endAt := e, stolen := true } else a)
          let s := { s with att := { s.att with admitted := moved } }
          updateBoard victim (s.onTile victim (fun v => { v with deque := v.deque.dropLast })))

/-- STEAL_GRANT: the grant reaches the thief, which holds the descriptor (R133, R210, R211). -/
def execStealGrant (thief : Nat) (s : State) : Host.Outcome State Fault Refusal :=
  guardUnit (decide (thief < 1152)) (
    let t := s.tile thief
    match t.steal.granted with
    | none => s
    | some k => updateBoard thief (dropAhead thief (s.setTile thief { t with deque := t.deque ++ [k], steal := {} })))

/-- STEAL_REFUSAL: a refusal reaches the thief, which tries the next candidate of its scope (R211). -/
def execStealRefusal (thief : Nat) (s : State) : Host.Outcome State Fault Refusal :=
  guardUnit (decide (thief < 1152)) (
    let t := s.tile thief
    match t.steal.victim with
    | none => s
    | some v =>
      if t.steal.granted.isSome || !t.steal.tried.contains v then s
      else
        let s := s.setTile thief { t with steal := { t.steal with victim := none } }
        if s.stealing && t.idleNow then requestSteal thief s else s)

end Sys2Proof.Machine
end

