-- ==== Sys2Proof/Machine/Clock.lean ====
section
/-! DEFINITION. The region clocks, the performance state, the power limiter and the sensors (R383 to R404). -/

namespace Sys2Proof.Machine

/-- The device runs fabric ticks: every state between STARTING and HALTED (R7, R290). -/
def State.ticking (s : State) : Bool :=
  decide (s.dev.state = .standby ∨ s.dev.state = .ready ∨ s.dev.state = .running ∨ s.dev.state = .transit)

/-! ## The defect map in service (R418, R419) -/

/-- LOCATION of a tile or of its sensor: die [3:0], row [7:4], column [11:8] (R418 Table 4a). -/
def tileLocation (p : Nat) : Nat := p / 144 + 16 * (p % 144 / 12) + 256 * (p % 12)

/-- The tile at a LOCATION. -/
def locationTile (l : Nat) : Nat := tileNo (bits l 0 4) (bits l 4 4) (bits l 8 4)

/-- Append a defect map entry; the map holds 65,536 (R418). -/
def addDefect (kind origin : Nat) (c : Cond) (location : Nat) (s : State) : State :=
  if s.nor.defects.length < 65536 then
    { s with nor := { s.nor with defects := s.nor.defects ++
        [{ kind := kind, origin := origin, code := Cond.code c, location := location, serial := s.nor.bootSerial % 2 ^ 28 }] } }
  else s

/-! ## Stretching (R385 to R388, R400, R403) -/

/-- Of eight periods, those the limiter stretches at a level, and those thermal stretch takes (R387). -/
def limiterShare (level : Nat) : Nat := if level = 0 then 0 else 2 ^ (Nat.min level 3 - 1)

def thermalShare (on : Bool) : Nat := if on then 2 else 0

/-- Periods stretched in an interval of 10 µs for the thermal cause and for the limiter: in a region in thermal stretch a
period with both causes counts as thermal (R387; notes/assumptions/17.md). -/
def stretched (mhz level : Nat) (therm : Bool) : Nat × Nat :=
  let l := limiterShare level
  let t := thermalShare therm
  let len := 8 + Nat.max l t
  (mhz * 10 * t / len, mhz * 10 * (l - t) / len)

/-- DROOP_TRIP: a droop detector trips and the region's next period is stretched and counted (R385, R387). -/
def execDroopTrip (region : Nat) (s : State) : Host.Outcome State Fault Refusal :=
  guardUnit (decide (region < 72)) (
    if s.clk.mhz = 0 then s
    else s.onRegion region (fun r => { r with strDroop := Nat.min 0xFFFFFFFF (r.strDroop + 1), slotDroop := r.slotDroop + 1 }))

/-- Add limiter-stretched periods to a region's record, in units of 2^16 (R387 Table 2). -/
def Region.addLimit (r : Region) (n : Nat) : Region :=
  let x := r.limitPart + n
  { r with limitPart := x % 65536, strLimit := Nat.min 0xFFFF (r.strLimit + x / 65536) }

/-- LIMITER_INTERVAL: at each 10 µs the mean input power is compared with the cap; the level moves by one, and the first
rise of a slot is recorded (R400). The stretches of the interval that ends are counted (R387). -/
def execLimiterInterval (meanW : Nat) (s : State) : Host.Outcome State Fault Refusal :=
  .next (
    if s.clk.mhz = 0 || !s.ticking then s
    else
      let level := s.clk.limiterLevel
      let s := each (fun g s => s.onRegion g (fun r => r.addLimit (stretched s.clk.mhz level r.thermStretch).2)) (List.range 72) s
      let cap := s.pol.powerCapW
      let up := decide (cap * 105 < meanW * 100) && decide (level < 3)
      let next := if up then level + 1 else if decide (meanW * 100 < cap * 95) then level - 1 else level
      let first := up && !s.clk.limiterRaised
      let s := { s with clk := { s.clk with limiterLevel := next, limiterRaised := s.clk.limiterRaised || up,
                                            limiterActed := s.clk.limiterActed || decide (level ≠ 0) || decide (next ≠ 0) } }
      if first then raise (Raise.of .powerLimit .device 0 0 0 0) s else s)

/-! ## The sensors (R401 to R404) -/

/-- The 16 physical tiles of a clock region (R384). -/
def regionTiles (g : Nat) : List Nat := (List.range 1152).filter (fun p => tileRegion p == g)

/-- Tiles of a region whose sensor is not excluded (R401, R402). -/
def workingSensors (excluded : List Nat) (g : Nat) : List Nat := (regionTiles g).filter (fun p => !excluded.contains p)

/-- The region sensor's value: the highest reading of its working tile sensors (R401). -/
def regionSensor (excluded : List Nat) (readings : List (Sensor × Int)) (g : Nat) : Option Int :=
  ((workingSensors excluded g).filterMap (fun p => look? (.tile p) readings)).foldl
    (fun b v => match b with | none => some v | some x => some (max x v)) none

/-- Insert into an ascending list. -/
def insertInt (v : Int) : List Int → List Int
  | [] => [v]
  | x :: l => if v ≤ x then v :: x :: l else x :: insertInt v l

/-- Twice the median of some values; of an even count the mean of the two in the middle (R402; notes/assumptions/17.md). -/
def median2 (l : List Int) : Int :=
  let a := l.foldl (fun a v => insertInt v a) []
  let n := a.length
  if n % 2 = 1 then 2 * a.getD (n / 2) 0 else a.getD (n / 2) 0 + a.getD (n / 2 - 1) 0

/-- A reading a sensor in order cannot give (R402). -/
def implausible (v : Int) : Bool := decide (v < 0) || decide (150 < v)

/-- One tile sensor is excluded: SENSOR_FAIL as a note, the region degraded, the defect map entry; a region left with fewer
than four working sensors retires its active tiles (R402, R419). -/
def excludeSensor (p : Nat) (s : State) : State :=
  let g := tileRegion p
  let s := { s with clk := { s.clk with excluded := s.clk.excluded ++ [p], suspect := del p s.clk.suspect } }
  let s := s.onRegion g (fun r => { r with sensorDegraded := true })
  let s := raise ((Raise.of .sensorFail (.tile p) 0 0 0 0).as .note .warning) s
  let s := addDefect 3 3 .sensorFail (tileLocation p) s
  if (workingSensors s.clk.excluded g).length = 3 then
    each (fun q s => if (s.logical? q).isSome then raise ((Raise.of .sensorFail (.tile q) 0 0 0 0).as .retire .error) s else s)
      (regionTiles g) s
  else s

/-- The plausibility of one tile sensor: out of range at once, out of line with its region for 1 s (R402). -/
def checkTileSensor (p : Nat) (s : State) : State :=
  match look? (.tile p) s.clk.readings with
  | none => s
  | some v =>
    if s.clk.excluded.contains p then s
    else if implausible v then excludeSensor p s
    else
      let vals := (workingSensors s.clk.excluded (tileRegion p)).filterMap (fun q => look? (.tile q) s.clk.readings)
      let off := 2 * v - median2 vals
      if decide (30 < off) || decide (off < -30) then
        match look? p s.clk.suspect with
        | none => { s with clk := { s.clk with suspect := put p s.time.now s.clk.suspect } }
        | some t => if t + 2000000000 ≤ s.time.now then excludeSensor p s else s
      else { s with clk := { s.clk with suspect := del p s.clk.suspect } }

/-- The source a sensor's condition names, for sensors that are no tile's (R358 Table 3). -/
def sensorSource : Sensor → Source
  | .tile p => .tile p
  | .hbm k => .hbm k
  | .base d => .die d
  | .portDie i => .die (8 + i)
  | .hub => .die 12

/-- Trip threshold of a sensor that is no tile's (R402 Table 7). -/
def sensorTrip : Sensor → Int
  | .hbm _ => 105
  | _ => 110

/-- The thresholds of a sensor that is no tile's: a failed one, and a trip when it is reached (R402, R404). -/
def checkOther (x : Sensor) (old : Option Int) (v : Int) (s : State) : State :=
  let was := match old with | some o => implausible o | none => false
  let hot := match old with | some o => decide (sensorTrip x ≤ o) | none => false
  if implausible v then (if was then s else raise ((Raise.of .sensorFail (sensorSource x) 0 0 0 0).as .fatal .fatal) s)
  else if decide (sensorTrip x ≤ v) && !hot then raise (Raise.of .thermTrip (sensorSource x) 0 0 0 0) s
  else s

/-- Region temperature, the base die below it included (R401), as the record's byte. -/
def regionTemp (excluded : List Nat) (readings : List (Sensor × Int)) (g : Nat) : Byte :=
  let a := (regionSensor excluded readings g).getD 0
  let b := (look? (.base (g / 9)) readings).getD a
  BitVec.ofInt 8 (max a b)

/-- One region after a reading: thermal stretch, its record, its trip (R401, R403, R404). `old` is its sensor's value before. -/
def checkRegion (old : Nat → Option Int) (g : Nat) (s : State) : State :=
  match regionSensor s.clk.excluded s.clk.readings g with
  | none => s
  | some v =>
    let s := s.onRegion g (fun r =>
      { r with strTherm := Nat.min 0xFFFFFFFF (r.strTherm + (stretched s.clk.mhz s.clk.limiterLevel r.thermStretch).1),
               thermStretch := decide (100 ≤ v) || (r.thermStretch && decide (98 ≤ v)),
               temp := regionTemp s.clk.excluded s.clk.readings g })
    let hot := match old g with | some o => decide (110 ≤ o) | none => false
    if decide (110 ≤ v) && !hot then raise (Raise.of .thermTrip (.region g) 0 0 0 0) s else s

/-- Every value that has a throttle threshold: the regions, the base dies and the stacks (R402 Table 7). -/
def throttleValues (c : Clocks) : List Int :=
  (List.range 72).filterMap (regionSensor c.excluded c.readings) ++
    c.readings.filterMap (fun r => match r.1 with
      | .hbm _ => some r.2
      | .base _ => some r.2
      | _ => none)

/-- The stacks above 85 °C, whose refresh rate doubles (R234). -/
def fastStacks (readings : List (Sensor × Int)) : List Nat :=
  (List.range 16).filter (fun k => match look? (.hbm k) readings with | some v => decide (85 < v) | none => false)

/-- SENSOR_READ: the readings are taken over; implausible sensors, refresh rates, thermal stretch, throttle and trip thresholds follow
(R234, R401 to R404). -/
def readSensors (readings : List (Sensor × Int)) (s0 : State) : State :=
  let old := regionSensor s0.clk.excluded s0.clk.readings
  let s := { s0 with clk := { s0.clk with readings := each (fun r l => put r.1 r.2 l) readings s0.clk.readings } }
  let s := each (fun r s => match r.1 with
    | .tile p => checkTileSensor p s
    | _ => s) readings s
  let s := each (checkRegion old) (List.range 72) s
  let s := each (fun r s => match r.1 with
    | .tile _ => s
    | x => checkOther x (look? x s0.clk.readings) r.2 s) readings s
  let vals := throttleValues s.clk
  let hottest := ((List.range 72).filterMap (regionSensor s.clk.excluded s.clk.readings)).foldl max s.clk.hottest
  { s with mem := { s.mem with fastRefresh := fastStacks s.clk.readings },
           clk := { s.clk with throttleSeen := s.clk.throttleSeen || vals.any (fun v => decide (95 ≤ v)),
                               coolNow := s.clk.coolNow && vals.all (fun v => decide (v ≤ 90)), hottest := hottest,
                               tripped := s.clk.tripped && !s.clk.readings.all (fun r => decide (r.2 < 85)) } }

/-- A sensor of the part. -/
def sensorExists : Sensor → Bool
  | .tile p => decide (p < 1152)
  | .hbm k => decide (k < 16)
  | .base d => decide (d < 8)
  | .portDie i => decide (i < 4)
  | .hub => true

def execSensorRead (readings : List (Sensor × Int)) (s : State) : Host.Outcome State Fault Refusal :=
  guardUnit (readings.all (fun r => sensorExists r.1)) (if s.dev.state = .off then s else readSensors readings s)

/-- THERMAL_COMPARATOR_TRIP: the 120 °C comparator of a die stops its clocks and asserts FAULT_N; THERM_TRIP is raised
against the die (R404, R468; dies numbered as in the sticky map). -/
def execThermalComparatorTrip (die : Nat) (s : State) : Host.Outcome State Fault Refusal :=
  guardUnit (decide (die < 13)) (
    if s.dev.state = .off then s
    else
      let s := { s with
        dev := { s.dev with thermHw := true }
        clk := { s.clk with stoppedDies := if s.clk.stoppedDies.contains die then s.clk.stoppedDies else s.clk.stoppedDies ++ [die] } }
      raise (Raise.of .thermTrip (.die die) 0 0 0 0) s)

/-! ## Region speed and the performance state (R388, R393 to R396, R398) -/

/-- Tile cycles of a full slot at a state. -/
def slotCycles (mhz periodUs : Nat) : Nat := mhz * periodUs

/-- One region at the end of a slot of some µs: its speed, never below 0.5, the droop record, the counts of slow and of fast slots (R214, R388). -/
def closeRegion (us : Nat) (cycles : List (Nat × Nat)) (g : Nat) (s : State) : State :=
  let full := slotCycles s.clk.mhz us
  let n := Nat.max ((full + 1) / 2) (Nat.min full (look full g cycles))
  let speed := if full = 0 then 10000 else 10000 * n / full
  let r := s.region g
  let due := match r.droopRecorded with | none => true | some t => decide (t + 1024 ≤ s.time.tick)
  let rec_ := decide (n < 100 * r.slotDroop) && due
  let slow := if s.clk.limiterActed then r.slowSlots else if speed < 100 * s.pol.slowPct then r.slowSlots + 1 else 0
  let fast := if s.clk.limiterActed then r.fastSlots else if 9500 ≤ speed then r.fastSlots + 1 else 0
  let s := s.onRegion g (fun r => { r with speed := speed, speedNow := speed, slotDroop := 0, slowSlots := slow, fastSlots := fast,
                                           droopRecorded := if rec_ then some s.time.tick else r.droopRecorded })
  if rec_ then raise (Raise.of .droopStretch (.region g) 0 0 0 0) s else s

/-- The end of a slot for every region, and the power measured (R388, R398). -/
def closeClocks (us : Nat) (m : SlotMeasure) (s : State) : State :=
  let s := if s.clk.mhz = 0 then s else each (closeRegion us m.cycles) (List.range 72) s
  { s with clk := { s.clk with powerW := m.powerW, compW := m.compW, limiterActed := decide (s.clk.limiterLevel ≠ 0), limiterRaised := false } }

/-- Compute-die power by state (R398 Table 5). -/
def powerTable : List Nat := [377, 445, 520, 602, 691, 789, 894, 1007, 1129, 1260, 1400]

/-- c(f) of a state in MHz. -/
def compPower (mhz : Nat) : Nat := powerTable.getD (mhz / 100 - 10) 1400

/-- The predicted input power at a state is at most `pct` per cent of the cap (R398). -/
def predictedFits (c : Clocks) (f0 f cap pct : Nat) : Bool :=
  decide (100 * ((c.powerW - c.compW) * compPower f0 + c.compW * compPower f) ≤ pct * cap * compPower f0)

/-- The states, highest first. -/
def perfStates : List Nat := [2000, 1900, 1800, 1700, 1600, 1500, 1400, 1300, 1200, 1100, 1000]

/-- The cap ceiling (R393); none when no state meets the cap. -/
def capCeiling (c : Clocks) (f0 cap : Nat) : Option Nat := perfStates.find? (fun f => predictedFits c f0 f cap 100)

/-- Boundary action 3: the regions switch to the state announced in the slot before; a fall clears the limiter (R395, R400). -/
def switchState (s : State) : State :=
  match s.clk.pendingMhz with
  | none => s
  | some f =>
    let down := decide (f < s.clk.mhz)
    { s with clk := { s.clk with mhz := f, pendingMhz := none, limiterLevel := if down then 0 else s.clk.limiterLevel,
                                 limiterActed := if down then false else s.clk.limiterActed } }

/-- The thermal ceiling after the slot just ended (R393). -/
def thermalStep (c : Clocks) : Clocks :=
  if c.throttleSeen then { c with thermalCeil := Nat.max 1000 (c.thermalCeil - 100), coolSlots := 0, throttleSeen := false, coolNow := true }
  else
    let n := if c.coolNow then c.coolSlots + 1 else 0
    if 1024 ≤ n then { c with thermalCeil := Nat.min 2000 (c.thermalCeil + 100), coolSlots := 0, throttleSeen := false, coolNow := true }
    else { c with coolSlots := n, throttleSeen := false, coolNow := true }

/-- The choice of the state of the next slot (R393, R394). `f0` is the state of the last slot. -/
def chooseState (f0 : Nat) (s : State) : State :=
  if s.clk.mhz = 0 then s
  else
    let before := s.clk.thermalCeil
    let c := thermalStep s.clk
    let cap := s.pol.powerCapW
    let capC := capCeiling c f0 cap
    let ceil := Nat.min (capC.getD 1000) c.thermalCeil
    let next := c.mhz + 100
    let c := if ceil < c.mhz then { c with pendingMhz := some ceil, riseSlots := 0 }
      else if decide (next ≤ 2000) && decide (next ≤ c.thermalCeil) && predictedFits c f0 next cap 98 then
        (if 64 ≤ c.riseSlots + 1 then { c with pendingMhz := some next, riseSlots := 0 } else { c with riseSlots := c.riseSlots + 1 })
      else { c with riseSlots := 0 }
    let fell := decide (c.thermalCeil < before) && decide (c.thermalCeil < capC.getD 1000)
    let due := match c.throttleRecorded with | none => true | some t => decide (t + 1024 ≤ s.time.tick)
    if fell && due then raise (Raise.of .thermThrottle .device 0 0 0 0) { s with clk := { c with throttleRecorded := some s.time.tick } }
    else { s with clk := c }

end Sys2Proof.Machine
end

