-- ==== Sys2Proof/Machine/Flits.lean ====
section
/-! DEFINITION. Flits and packets on a link: their bytes, the CRC-32, lane groups and codewords, credits, and the order in which an output port
sends (R250, R256 to R261, R273, R274, R360). -/

namespace Sys2Proof.Machine

/-! ## The bytes of flits and packets (R256, R257, R261) -/

/-- The flit header of chapter 8 Table 6. -/
def flitHeader (f : Flit) : Nat :=
  f.fseq.toNat + f.fack.toNat * 2 ^ 12 + f.vc.toNat * 2 ^ 24 + (if f.sop then 2 ^ 28 else 0) + (if f.eop then 2 ^ 29 else 0) +
    (if f.nak then 2 ^ 30 else 0) + (if f.abort then 2 ^ 31 else 0)

/-- Bytes 0 to 251 of a flit. -/
def flitBody (f : Flit) : List Byte := leBytes 4 (flitHeader f) ++ (f.data ++ List.replicate 248 0).take 248

/-- One bit of the CRC-32 with the polynomial 0x04C11DB7, least significant bit first. -/
def crcBit (c : BitVec 32) : BitVec 32 := if c.getLsbD 0 then (c >>> 1) ^^^ 0xEDB88320 else c >>> 1

/-- One byte of the CRC-32. -/
def crcByte (c : BitVec 32) (b : Byte) : BitVec 32 := each (fun _ c => crcBit c) (List.range 8) (c ^^^ b.setWidth 32)

/-- The IEEE 802.3 CRC-32 of some bytes. PRESUMED (notes/assumptions/87.md): the start value, bit order and final inversion of IEEE 802.3; the spec
gives the polynomial alone. -/
def crc32 (l : List Byte) : BitVec 32 := ~~~ (l.foldl crcByte 0xFFFFFFFF)

/-- All 256 bytes of a flit, in the order sent. -/
def flitBytes (f : Flit) : List Byte := flitBody f ++ leBytes 4 (crc32 (flitBody f)).toNat

/-- The lane group of a data lane, and that of byte i of a flit: the flit is striped in quarters of 64 bytes (R257). -/
def laneGroup (lane : Nat) : Nat := lane / 2
def groupOfByte (i : Nat) : Nat := i / 64

/-- The data lane that carries symbol i of a lane group's codewords (R257). -/
def laneOfSymbol (group i : Nat) : Nat := 2 * group + i % 2

/-- A codeword of RS(544,514) with so many symbols in error can be corrected: its 30 check symbols correct 15 (R257). -/
def correctable (errors : Nat) : Bool := decide (2 * errors ≤ 544 - 514)

/-- The flit passes its CRC and holds no uncorrectable codeword (R257, R258). -/
def arrivesGood (a : FlitArrival) : Bool := a.symbolErrors.all correctable && decide (a.crc = crc32 (flitBody a.flit))

/-- The fibre that carries port p's transmit direction at its fibre-attach unit, its receive direction, and the laser feed's (R250 Table 3). -/
def txFibre (p : Nat) : Nat := 2 * (p % 4)
def rxFibre (p : Nat) : Nat := 2 * (p % 4) + 1
def feedFibre : Nat := 8

/-- A wavelength of the feed meets Table 2 (R249). -/
def feedMeets (f : Feed) : Bool :=
  decide (1500 ≤ f.power) && decide (f.power ≤ 2000) && decide (-25 ≤ f.offGrid) && decide (f.offGrid ≤ 25) && decide (f.noise ≤ -145)
    && f.slowAxis && decide (20 ≤ f.extinction)

/-- The lanes of a port that the laser feed lets lock in the transmit direction (R249). -/
def State.litLanes (s : State) (p : Nat) : BitVec 9 :=
  BitVec.ofNat 9 (((List.range 9).map (fun k => if feedMeets (look {} (9 * (p / 4) + k) s.fab.feeds) then 2 ^ k else 0)).sum)

/-- The data channel of a packet (R256 Table 6). -/
def packetVc (p : Packet) : Nat := 4 * p.cls.toNat + (if p.phase then 2 else 0) + (if p.dateline then 1 else 0)

/-- The packet header (R261 Table 7). -/
def packetHeader (p : Packet) : Nat :=
  p.dest.toNat + p.src.toNat * 2 ^ 24 + p.typ.toNat * 2 ^ 48 + p.cls.toNat * 2 ^ 54 + (if p.phase then 2 ^ 56 else 0) + p.ddim.toNat * 2 ^ 57 +
    p.rgen.toNat * 2 ^ 60 + p.window.toNat * 2 ^ 64 + p.wgen.toNat * 2 ^ 76 + p.offset.toNat * 2 ^ 80 + p.payload.length % 2 ^ 12 * 2 ^ 112 +
    p.status.toNat * 2 ^ 124 + p.e2eSeq.toNat * 2 ^ 128 + p.flow.toNat * 2 ^ 160 + p.chunk.toNat * 2 ^ 176 + p.epoch.toNat * 2 ^ 208 +
    p.coll.toNat * 2 ^ 216

/-- A packet on the wire: 32 bytes of header and its payload (R261). -/
def packetBytes (p : Packet) : List Byte := leBytes 32 (packetHeader p) ++ p.payload

/-- The packet that some bytes hold, received on a data channel, whose last bit is the date-line bit (R256 Table 6, R261 Table 7). -/
def parsePacket (vc : Nat) (l : List Byte) : Packet :=
  let h := leNat (l.take 32)
  { dest := BitVec.ofNat 24 (bits h 0 24), src := BitVec.ofNat 24 (bits h 24 24), typ := BitVec.ofNat 6 (bits h 48 6),
    cls := BitVec.ofNat 2 (bits h 54 2), phase := bit h 56, ddim := BitVec.ofNat 3 (bits h 57 3), rgen := BitVec.ofNat 4 (bits h 60 4),
    window := BitVec.ofNat 12 (bits h 64 12), wgen := BitVec.ofNat 4 (bits h 76 4), offset := BitVec.ofNat 32 (bits h 80 32),
    status := BitVec.ofNat 4 (bits h 124 4), e2eSeq := BitVec.ofNat 32 (bits h 128 32), flow := BitVec.ofNat 16 (bits h 160 16),
    chunk := BitVec.ofNat 32 (bits h 176 32), epoch := BitVec.ofNat 8 (bits h 208 8), coll := BitVec.ofNat 16 (bits h 216 16),
    payload := (l.drop 32).take (bits h 112 12), dateline := vc % 2 == 1 }

/-- Flits of a packet (R256, R261). -/
def packetFlits (p : Packet) : Nat := ceilDiv (32 + p.payload.length) 248

/-- The data of a packet's flits. -/
def packetChunks (p : Packet) : List (List Byte) := (List.range (packetFlits p)).map (fun i => ((packetBytes p).drop (248 * i)).take 248)

/-! ## Credits (R260) -/

/-- Flits of the neighbour's receive buffer reserved for a data VC: 64 for an URGENT one, 256 for each other. -/
def reservedFlits (vc : Nat) : Nat := if vc < 4 then 64 else 256

/-- Flits of the receive buffer of 16,384 that the VCs outside URGENT share. -/
def sharedFlits : Nat := 16384 - 4 * 64 - 8 * 256

/-- The sender holds a credit for a data VC: within its reserve, or outside URGENT within what is shared. -/
def Port.hasCredit (x : Port) (vc : Nat) : Bool :=
  let used := look 0 vc x.outstanding
  decide (used < reservedFlits vc) ||
    (decide (4 ≤ vc) && decide ((((List.range 8).map (fun k => look 0 (k + 4) x.outstanding - 256)).sum) < sharedFlits))

/-- Credits come back (R260). -/
def returnCredits (l : List (Nat × Nat)) (x : Port) : Port :=
  { x with outstanding := each (fun (c : Nat × Nat) o => put c.1 (look 0 c.1 o - c.2) o) l x.outstanding }

/-- A credit is owed for data flits of a VC that have passed on (R260). -/
def oweCredits (vc n : Nat) (x : Port) : Port :=
  if vc < 12 ∧ n ≠ 0 then { x with creditsOwed := put vc (look 0 vc x.creditsOwed + n) x.creditsOwed } else x

/-! ## The output port (R258, R273, R274, R360)

DESIGN CHOICE (notes/assumptions/87.md): the link runs ahead of the commands. Between two of them every flit leaves whose VC holds credits, one to
a flit time of 1.28 ns; a later packet does not go before flits that have left. -/

/-- Put a flit on the link: it takes the next FSEQ, on a LONG port that of its VC; a SHORT port shows FACK and any NAK owed, and keeps the flit in
its replay buffer (R256, R258, R259). -/
def Port.emit (f : Flit) (x : Port) : Port :=
  if x.long then
    let q := look 0 f.vc.toNat x.txSeqVc
    { x with txSeqVc := put f.vc.toNat (q + 1) x.txSeqVc, wire := x.wire ++ [{ f with fseq := q }] }
  else
    let g := { f with fseq := x.txSeq, fack := x.rxSeq, nak := x.nakOwed }
    let r := x.replay ++ [g]
    { x with txSeq := x.txSeq + 1, nakOwed := false, replay := r.drop (r.length - 2048), wire := x.wire ++ [g] }

/-- Flit times in which URGENT may use 16 (R273). -/
def urgentWindow : Nat := 781

/-- The flit time from which URGENT may send again (R273). -/
def Port.urgentFrom (x : Port) : Nat := match x.urgent[15]? with
  | some t => t + urgentWindow
  | none => 0

/-- The share of a circuit installed on the port. -/
def Port.share (x : Port) (c : Nat) : Nat := match x.circuits.find? (fun k => k.number == c) with
  | some k => k.share
  | none => 0

/-- The flit time from which a circuit's reserved rate lets its next flit go (R273). -/
def Port.circuitFrom (x : Port) (c : Nat) : Nat := if x.share c = 0 then 0 else ceilDiv (look 0 c x.due) (x.share c)

/-- A circuit uses its share: a flit is worth 256 units; a circuit that left more than a flit's worth unused has lost it (R273). -/
def Port.useShare (c t : Nat) (x : Port) : Port :=
  let used := look 0 c x.due
  { x with due := put c ((if t * x.share c < used + 256 then used else t * x.share c) + 256) x.due }

/-- The packet of a data VC that goes on, where the grant is held, or each requester's oldest (R274). -/
def Port.heads (x : Port) (vc : Nat) : List TxPacket :=
  let l := x.tx.filter (fun k => k.vc == vc)
  match l.find? (·.begun) with
  | some k => [k]
  | none => (List.range 3).filterMap (fun r => l.find? (fun k => k.requester == r))

/-- The flit time from which a packet may send its next flit (R273). -/
def Port.readyAt (x : Port) (k : TxPacket) : Nat :=
  if k.vc < 4 then x.urgentFrom else match k.circuit with
    | some c => x.circuitFrom c
    | none => 0

/-- The packets of a VC that may send at a flit time. -/
def Port.sendable (x : Port) (vc t : Nat) : List TxPacket :=
  if x.hasCredit vc then (x.heads vc).filter (fun k => decide (x.readyAt k ≤ t)) else []

/-- The data VC that sends at a flit time: URGENT before CIRCUIT before BULK, the VCs of a class in rotation (R273). -/
def Port.nextVc (x : Port) (t : Nat) : Option Nat :=
  let ofClass := fun (c : Nat) =>
    let req := (List.range 4).filter (fun k => !(x.sendable (4 * c + k) t).isEmpty)
    (firstFrom (look 0 c x.lastVc) req).map (4 * c + ·)
  ((ofClass 0).orElse fun _ => ofClass 1).orElse fun _ => ofClass 2

/-- Take the first flit from a packet of the queue; it leaves the queue with its last. -/
def dequeueFlit (k : TxPacket) (x : Port) : Port :=
  { x with tx := if k.chunks.length ≤ 1 then x.tx.erase k
                 else x.tx.map (fun y => if y = k then { k with begun := true, chunks := k.chunks.drop 1 } else y) }

/-- One flit of a packet leaves at a flit time (R258, R260, R273). -/
def Port.sendFlit (k : TxPacket) (t : Nat) (x : Port) : Port :=
  let f : Flit := { vc := BitVec.ofNat 4 k.vc, sop := !k.begun, eop := decide (k.chunks.length ≤ 1), data := k.chunks.headD [] }
  let x := dequeueFlit k (x.emit f)
  let x := { x with slot := t + 1, lastVc := put (k.vc / 4) (k.vc % 4 + 1) x.lastVc, outstanding := put k.vc (look 0 k.vc x.outstanding + 1) x.outstanding
                    urgent := if k.vc < 4 then (t :: x.urgent).take 16 else x.urgent }
  match k.circuit with
  | some c => x.useShare c t
  | none => x

/-- A data VC sends its next flit: a packet under way goes on, or the arbiter grants one of the requesters, with the weights in force; the end of a
packet ends the grant (R274, R360). -/
def Port.serve (weights : List Nat) (vc t : Nat) (x : Port) : Port :=
  let l := x.sendable vc t
  let arb := look ({} : Arbiter) vc x.arbs
  let r := if (l.any (·.begun)) then (l.head?, arb) else
    let g := arb.arbitrate (fun r => weights.getD r 0) (fun _ => false) (l.map (·.requester))
    (g.1.bind (fun r => l.find? (fun k => k.requester == r)), g.2)
  match r.1 with
  | none => x
  | some k =>
    let arb := if k.chunks.length ≤ 1 then r.2.release else r.2
    ({ x with arbs := put vc arb x.arbs }).sendFlit k t

/-- The next flit time at which a packet that has credits may send. -/
def Port.nextTime (x : Port) : Option Nat :=
  ((((List.range 12).filter x.hasCredit).map x.heads).flatten.map x.readyAt).min?

/-- The port has room to send: a SHORT port keeps each flit in its replay buffer of 2,048 until it is acknowledged (R258). -/
def Port.replayRoom (x : Port) : Bool := x.long || decide (x.replay.length < 2048)

/-- Flits leave while they may, at most so many turns of the port. -/
def Port.pump (weights : List Nat) : Nat → Port → Port
  | 0, x => x
  | n + 1, x =>
    if !x.replayRoom then x
    else match x.nextVc x.slot with
      | some vc => (x.serve weights vc x.slot).pump weights n
      | none => match x.nextTime with
        | some t => if x.slot < t then ({ x with slot := t }).pump weights n else x
        | none => x

/-- The flit time of now: a flit takes 1.28 ns, a cycle 0.5 ns (R256). -/
def State.flitTime (s : State) : Nat := s.time.now * 25 / 64

/-- The port sends what it may (R260, R273, R274). -/
def pumpPort (port : Nat) (s : State) : State :=
  s.onPort port (fun x =>
    let x := { x with slot := Nat.max x.slot s.flitTime }
    x.pump s.fab.weights (2 * (x.tx.map (·.chunks.length)).sum))

/-- The requester a packet of this device's own engines belongs to: the window engine's operations and replies, the collective engine's chunks and
barriers; the port's own packets count as transit (R274; notes/assumptions/87.md). -/
def ownRequester (typ : Nat) : Nat :=
  if 0x10 ≤ typ ∧ typ ≤ 0x20 then 1 else if 0x01 ≤ typ ∧ typ ≤ 0x08 then 2 else 0

/-- Hand a packet of a requester to a port: it is queued on its data channel and leaves as credits, class and arbiter let it (R256 to R261, R273, R274). -/
def sendAs (requester port : Nat) (p : Packet) (s : State) : State :=
  let k : TxPacket := { vc := packetVc p, requester := requester, circuit := if p.cls = 1 then some p.flow.toNat else none, chunks := packetChunks p }
  let s := s.onPort port (fun x => { x with tx := x.tx ++ [k] })
  pumpPort port { s with fab := { s.fab with sent := s.fab.sent ++ [(port, p)] } }

/-- A packet of this device leaves by a port. -/
def sendOn (port : Nat) (p : Packet) (s : State) : State := sendAs (ownRequester p.typ.toNat) port p s

/-- The packet of a VC whose grant is cut off ends with ABORT, and its flits still to leave are dropped; the VC goes on with the next (R274). -/
def Port.abort (p : Packet) (x : Port) : Port :=
  let vc := packetVc p
  let x := match x.tx.find? (fun k => k.vc == vc && k.begun) with
    | some k => { x with tx := x.tx.erase k }
    | none => x
  ({ x with arbs := put vc (look ({} : Arbiter) vc x.arbs).release x.arbs } : Port).emit { vc := BitVec.ofNat 4 vc, eop := true, abort := true }

end Sys2Proof.Machine
end

