-- ==== Sys2Proof/Machine/Reserve.lean ====
section
/-! DEFINITION. Reserve tiles: retirement, moves, rotation, region exchange, reserve testing, the crumb check's comparisons and
the health score (R213 to R217, R369 to R375, R378, R379). -/

namespace Sys2Proof.Machine

/-- A row that the part has (R235, R239). -/
def rowExists (r : RowRef) : Bool :=
  match r.unit with
  | .hbm k => decide (k < 16) && decide (r.sub < 64)
  | .ddr c => decide (c < 8) && decide (r.sub < 2)
  | _ => false

/-! ## Counting and choosing (R369 to R371) -/

/-- Reserve tiles that are not failed. -/
def liveReserves (t : Tests) : List (Nat × Reserve) := t.reserves.filter (fun r => decide (r.2.state ≠ .failed))

/-- The reserve count: tiles without a logical number that are not failed; one that comes in holds none until its exchange (R369). -/
def State.reserveCount (s : State) : Nat := (liveReserves s.tests).length + s.tests.moves.length

/-- Reserve tiles in a state. -/
def reservesIn (st : ReserveState) (l : List (Nat × Reserve)) : List (Nat × Reserve) := l.filter (fun r => decide (r.2.state = st))

/-- Verified reserves: RESERVE of the status page and RESERVE_NOW of IDENTIFY (R369). -/
def State.verified (s : State) : Nat := (reservesIn .verified s.tests.reserves).length

/-- The one longest in reserve; of equals the lowest physical position (R370; notes/assumptions/18.md). -/
def longest : List (Nat × Reserve) → Option (Nat × Reserve)
  | [] => none
  | a :: l => match longest l with
    | none => some a
    | some b => if a.2.since < b.2.since ∨ (a.2.since = b.2.since ∧ a.1 < b.1) then some a else some b

/-- Verified first, then parked, then under test; in each the one longest in reserve (R370). -/
def bestReserve (l : List (Nat × Reserve)) : Option Nat :=
  ((longest (reservesIn .verified l)).orElse fun _ =>
    (longest (reservesIn .parked l)).orElse fun _ => longest (reservesIn .underTest l)).map (·.1)

/-- The reserve tile a retirement of a tile takes: one of another clock region when there is one (R370). -/
def chooseReserve (s : State) (p : Nat) : Option Nat :=
  let live := liveReserves s.tests
  let other := live.filter (fun r => tileRegion r.1 ≠ tileRegion p)
  bestReserve (if other.isEmpty then live else other)

/-- RESERVE_LOW at 8 or fewer, again only after the count has risen above 8 (R371). W0 is the count. -/
def checkReserveLow (s : State) : State :=
  let n := s.reserveCount
  if 8 < n then { s with tests := { s.tests with reserveLowRecorded := false } }
  else if s.tests.reserveLowRecorded then s
  else raise (Raise.of .reserveLow .device n 0 0 0) { s with tests := { s.tests with reserveLowRecorded := true } }

/-- Set the state of a reserve tile. -/
def setReserve (p : Nat) (st : ReserveState) (s : State) : State :=
  let r := look {} p s.tests.reserves
  { s with tests := { s.tests with reserves := put p { r with state := st } s.tests.reserves } }

/-! ## Moves (R215, R216) -/

/-- A move begins: the incoming tile leaves the reserve. -/
def startMove (kind : MoveKind) (l p q : Nat) (s : State) : State :=
  { s with tests := { s.tests with
      moves := s.tests.moves ++ [{ logical := l, source := p, target := q, kind := kind, startTick := s.time.tick }]
      reserves := del q s.tests.reserves } }

/-- The exchange of a move: the tile map follows, in the NOR flash too; the tile that left is failed, under test or parked, and
the new one starts empty (R214 to R217, R369, R371, R416). -/
def exchange (m : Move) (s : State) : State :=
  let st := match m.kind with
    | .retirement => ReserveState.failed
    | .rotation => .underTest
    | .exchange => .parked
  let tileMap := setAt m.logical m.target s.tests.tileMap
  checkReserveLow { s with
    tests := { s.tests with tileMap := tileMap, moves := s.tests.moves.erase m,
                            activeSince := put m.target s.time.now (del m.source s.tests.activeSince),
                            reserves := put m.source { state := st, since := s.time.now } s.tests.reserves }
    nor := { s.nor with tileMap := tileMap }
    tiles := del m.source (del m.target s.tiles) }

/-- Boundary: the moves whose copy and load have ended take effect (R215). -/
def finishMoves (s : State) : State := each exchange (s.tests.moves.filter (·.copied)) s

/-- Within a compute reset every move takes effect, no boundary needed (R362). -/
def settleMoves (s : State) : State := each exchange s.tests.moves s

/-- TILE_EXCHANGE: the slice copy of a logical tile has ended and the incoming sequencer is loaded; the next boundary
exchanges the tiles (R215; notes/assumptions/18.md). -/
def execTileExchange (logical : Nat) (s : State) : Host.Outcome State Fault Refusal :=
  guardUnit (decide (logical < 1024))
    { s with tests := { s.tests with moves := s.tests.moves.map (fun m => if m.logical = logical then { m with copied := true } else m) } }

/-- The record of a retirement in the defect map and in the health score's counts (R378 P2, R419). -/
def noteRetirement (p : Nat) (c : Cond) (s : State) : State :=
  let s := addDefect 1 3 c (tileLocation p) s
  { s with health := { s.health with retirements := lastDay s.time.now s.health.retirements ++ [s.time.now] } }

/-- One retirement: an active tile moves to a reserve, a reserve tile becomes failed, and a tile that was about to come in is
replaced (R216, R369, R370). -/
def retireTile (x : Nat × Cond) (s : State) : State :=
  let p := x.1
  match s.logical? p with
  | some l =>
    match s.tests.moves.find? (fun m => m.source == p) with
    | some m =>
      if m.kind = .retirement then s
      else
        let s := noteRetirement p x.2 s
        { s with tests := { s.tests with moves := s.tests.moves.map (fun n => if n = m then { n with kind := .retirement } else n) } }
    | none =>
      let s := noteRetirement p x.2 s
      match chooseReserve s p with
      | none => raise (Raise.of .reserveExhausted (.tile p) 0 0 0 0) s
      | some q => startMove .retirement l p q s
  | none =>
    match s.tests.moves.find? (fun m => m.target == p) with
    | some m =>
      let s := noteRetirement p x.2 s
      let s := { s with tests := { s.tests with moves := s.tests.moves.erase m, reserves := put p { state := .failed } s.tests.reserves } }
      match chooseReserve s m.source with
      | none => raise (Raise.of .reserveExhausted (.tile p) 0 0 0 0) s
      | some q => checkReserveLow (startMove m.kind m.logical m.source q s)
    | none =>
      match look? p s.tests.reserves with
      | none => s
      | some r => if r.state = .failed then s else checkReserveLow (setReserve p .failed (noteRetirement p x.2 s))

/-- Boundary action 1: every tile marked since the last boundary is retired (R85 Table 4). -/
def retireAll (s : State) : State :=
  each retireTile s.tests.retiring { s with tests := { s.tests with retiring := [] } }

/-! ## Rotation and region exchange (R214, R217) -/

/-- The active tile longest active; of equals the lowest physical position (R217). -/
def oldestActive (since : List (Nat × Nat)) : List Nat → Option Nat
  | [] => none
  | p :: l => match oldestActive since l with
    | none => some p
    | some q =>
      let a := look 0 p since
      let b := look 0 q since
      if a < b ∨ (a = b ∧ p < q) then some p else some q

/-- A condition of the placement group whose source is a tile or a region (R444 Task form). -/
def placeRaise (c : Cond) (src : Source) (s : State) : Raise := { loafRaise c 0 s with src := src }

/-- Boundary action 2: a rotation due begins, unless a retirement takes its tile at this boundary (R85, R217). -/
def beginRotation (retired : List Nat) (s : State) : State :=
  if !s.tests.rotate then s
  else
    let s := { s with tests := { s.tests with rotate := false } }
    match oldestActive s.tests.activeSince s.tests.tileMap, longest (reservesIn .verified s.tests.reserves) with
    | some p, some q =>
      if retired.contains p || s.tests.moves.any (·.source == p) then s
      else match s.logical? p with
        | none => s
        | some l => raise (placeRaise .rotation (.tile p) s) (startMove .rotation l p q.1 s)
    | _, _ => s

/-- ROTATION: ROTATE_MIN minutes of uptime have passed; a rotation begins at the next boundary (R217). -/
def execRotation (s : State) : Host.Outcome State Fault Refusal :=
  .next (if s.computing && decide (s.pol.rotateMin ≠ 0) then { s with tests := { s.tests with rotate := true } } else s)

/-- The moves of a region exchange, one for each active tile in ascending logical number, each to the verified reserve outside
the region that is longest in reserve (R214, R216). -/
def exchangeRegion (g : Nat) : List Nat → State → State
  | [], s => s
  | l :: ls, s =>
    let s := match longest ((reservesIn .verified s.tests.reserves).filter (fun r => tileRegion r.1 ≠ g)) with
      | none => s
      | some q => startMove .exchange l (s.physical l) q.1 s
    exchangeRegion g ls s

/-- REGION_SLOW: a region has been slow for SLOW_TICKS slots; it is recorded, and its active tiles are exchanged when at least
8 verified reserves stay (R214). -/
def execRegionSlow (region : Nat) (s : State) : Host.Outcome State Fault Refusal :=
  guardUnit (decide (region < 72)) (
    if !s.computing || decide ((s.region region).slowSlots < s.pol.slowTicks) then s
    else
      let s := s.onRegion region (fun r => { r with slowSlots := 0 })
      let s := raise (placeRaise .regionSlow (.region region) s) s
      let ls := (List.range 1024).filter (fun l => decide (tileRegion (s.physical l) = region) && !s.tests.moves.any (·.logical == l))
      let outside := ((reservesIn .verified s.tests.reserves).filter (fun r => tileRegion r.1 ≠ region)).length
      if decide (ls.length ≤ outside) && decide (ls.length + 8 ≤ s.verified) then exchangeRegion region ls s else s)

/-- PARKED_TILE_VERIFIED: after SLOW_TICKS slots at 95 % speed or more a parked tile is a verified reserve again (R214). -/
def execParkedTileVerified (tile : Nat) (s : State) : Host.Outcome State Fault Refusal :=
  guardUnit (decide (tile < 1152)) (
    match look? tile s.tests.reserves with
    | none => s
    | some r =>
      if decide (r.state = .parked) && decide (s.pol.slowTicks ≤ (s.region (tileRegion tile)).fastSlots) then setReserve tile .verified s
      else s)

/-! ## Reserve testing (R372) -/

/-- The signature of a crumb program's output words: from zero, mix of the signature so far and the next word (R164, R374). -/
def crumbSignature (out : List Word64) : Word64 := out.foldl (fun sig w => BitVec.ofNat 64 (mix (sig ^^^ w).toNat)) 0

/-- An operand of a crumb program: the counter hash under the sweep's seed, the program's number for the tensor and the round for the step (R374). -/
def crumbOperand (seed : Word64) (program round draw element : Nat) : Nat := counterHash seed.toNat (program % 65536) draw element round

/-- A reserve tile becomes failed (R372, R419). -/
def failReserve (p : Nat) (s : State) : State :=
  let s := setReserve p .failed s
  let s := raise (Raise.of .reserveTestFail (.tile p) 0 0 0 0) s
  checkReserveLow (addDefect 1 3 .reserveTestFail (tileLocation p) s)

/-- One more program of its sweep without a mismatch; a sweep is 120,000 programs and verifies a tile under test. -/
def sweepProgram (p : Nat) (s : State) : State :=
  let r := look {} p s.tests.reserves
  let r := if r.programs + 1 < 120000 then { r with programs := r.programs + 1 }
    else { r with programs := 0, state := if r.state = .underTest then .verified else r.state }
  { s with tests := { s.tests with reserves := put p r s.tests.reserves } }

/-- A mismatch that no third tile could resolve: back to under test, or failed at the second within 24 hours. -/
def unresolved (p : Nat) (s : State) : State :=
  let r := look {} p s.tests.reserves
  let m := lastDay s.time.now r.mismatches ++ [s.time.now]
  let s := { s with tests := { s.tests with reserves := put p { r with state := .underTest, programs := 0, mismatches := m } s.tests.reserves } }
  if 2 ≤ m.length then failReserve p s else s

/-- A reserve tile that can run a crumb program. -/
def State.inReserve (s : State) (p : Nat) : Bool :=
  match look? p s.tests.reserves with
  | some r => decide (r.state ≠ .failed)
  | none => false

/-- RESERVE_PROGRAM_COMPLETE: a pair of reserve tiles on different dies ends a program with these output words; equal signatures count, and on
different ones a third die decides (R372, R374). -/
def execReserveProgramComplete (a b : Nat) (outA outB : List Word64) (third : Option (Nat × List Word64)) (s : State) :
    Host.Outcome State Fault Refusal :=
  guardUnit (decide (a < 1152) && decide (b < 1152) && (match third with | some c => decide (c.1 < 1152) | none => true)) (
    let sigA := crumbSignature outA
    let sigB := crumbSignature outB
    let third := third.map (fun c => (c.1, crumbSignature c.2))
    if s.clk.mhz = 0 || !s.ticking || !s.inReserve a || !s.inReserve b || decide (tileDie a = tileDie b) then s
    else if sigA = sigB then sweepProgram b (sweepProgram a s)
    else
      let third := third.filter (fun c => s.inReserve c.1 && decide (tileDie c.1 ≠ tileDie a) && decide (tileDie c.1 ≠ tileDie b))
      match third with
      | none => unresolved b (unresolved a s)
      | some c =>
        if c.2 = sigA then failReserve b (sweepProgram a s)
        else if c.2 = sigB then failReserve a (sweepProgram b s)
        else unresolved b (unresolved a s))

/-! ## The crumb check (R373 to R375) -/

/-- The tile a tested tile is paired with when its own place four dies on holds no active tile: any verified reserve of another
die (R374). -/
def counterpart (p : Nat) : Nat := (p + 576) % 1152

/-- The die is under the check's mask, where 0 names all. -/
def Crumb.covers (c : Crumb) (d : Nat) : Bool := c.dies == 0 || bit c.dies d

/-- The tiles a check tests: active tiles of the masked dies, and every non-failed tile in REQUALIFY (R374, R376). -/
def State.crumbTiles (s : State) (c : Crumb) : List Nat :=
  (List.range 1152).filter (fun p =>
    ((s.logical? p).isSome && c.covers (tileDie p)) || (s.tests.requalify.isSome && s.inReserve p))

/-- Whether two tiles form a pair of the check (R374). -/
def State.crumbPair (s : State) (p q : Nat) : Bool :=
  if (s.logical? (counterpart p)).isSome then q == counterpart p
  else decide (tileDie p ≠ tileDie q) && decide ((look? q s.tests.reserves).map (·.state) = some .verified)

/-- The pairs of a check: a pair of two tested tiles counts once. -/
def State.crumbPairs (s : State) (c : Crumb) : Nat :=
  let l := s.crumbTiles c
  (l.filter (fun p => !(l.contains (counterpart p) && (s.logical? (counterpart p)).isSome && (s.logical? p).isSome && decide (counterpart p < p)))).length

/-- The tiles that agree with no other of those that ran a program, of (tile, signature) pairs. -/
def loners (l : List (Nat × Word64)) : List Nat :=
  (l.filter (fun x => !l.any (fun y => y.1 ≠ x.1 && y.2 == x.2))).map (·.1)

/-- The reruns that stand: verified reserves on dies not yet used, in order (R375). -/
def State.reruns (s : State) (dies : List Nat) : List (Nat × Word64) → List (Nat × Word64)
  | [] => []
  | c :: l =>
    if decide ((look? c.1 s.tests.reserves).map (·.state) = some .verified) && !dies.contains (tileDie c.1) then
      c :: s.reruns (tileDie c.1 :: dies) l
    else s.reruns dies l

/-- What differing signatures bring: the tiles to retire, or `none` when no two of four match; an empty list when no reserve is
left for a rerun (R375). -/
def judgePair (a b : Nat × Word64) (more : List (Nat × Word64)) : Option (List Nat) :=
  match more with
  | [] => some []
  | c :: l =>
    if c.2 = a.2 ∨ c.2 = b.2 then some (loners [a, b, c])
    else match l with
      | [] => some []
      | d :: _ => if d.2 = a.2 ∨ d.2 = b.2 ∨ d.2 = c.2 then some (loners [a, b, c, d]) else none

/-- The comparison of one program of the check. -/
def comparePair (c : Crumb) (a b : Nat × Word64) (reruns : List (Nat × Word64)) (s : State) : State :=
  if a.2 = b.2 then s
  else
    let s := { s with tests := { s.tests with crumb := some { c with mismatches := c.mismatches + 1 } } }
    match judgePair a b (s.reruns [tileDie a.1, tileDie b.1] reruns) with
    | none => raise (Raise.of .crumbUnresolved .device c.seed.toNat 0 0 0) s
    | some out =>
      each (fun p s =>
        let s := record (Raise.of .crumbMismatch (.tile p) c.seed.toNat 0 0 0) s
        match s.tests.crumb with
        | none => s
        | some c => { s with tests := { s.tests with crumb := some { c with retired := if c.retired.contains p then c.retired else c.retired ++ [p] } } }) out s

/-- Every tested tile has run its sweep of 120,000 programs; tiles already found bad need run no further. -/
def State.crumbDone (s : State) (c : Crumb) : Bool :=
  (s.crumbTiles c).all (fun p => c.retired.contains p || decide (120000 ≤ look 0 p c.programs))

/-- One more program of a tested tile. -/
def crumbProgram (p : Nat) (s : State) : State :=
  match s.tests.crumb with
  | none => s
  | some c => { s with tests := { s.tests with crumb := some { c with programs := put p (look 0 p c.programs + 1) c.programs } } }

/-- The response of CRUMB_CHECK (R350 Table 16). -/
def crumbResponse (c : Crumb) : List Byte :=
  leBytes 4 c.pairs ++ leBytes 4 c.mismatches ++ leBytes 4 c.retired.length ++ ((c.retired.take 64).map (fun p => leBytes 2 (tileLocation p))).flatten

/-- The check has ended: answered, its retirements marked for the boundary after it (R375). -/
def endCrumb (s : State) : State :=
  match s.tests.crumb with
  | none => s
  | some c =>
    let s := dropCrumb s
    match c.mailbox with
    | none => s
    | some mb => respond mb (crumbResponse c) s

/-! ## The health score (R378, R379) -/

/-- L(n) of R378. -/
def healthLog (n : Nat) : Nat := if n = 0 then 0 else 25 * (1 + Nat.log2 n)

/-- Pace (R84): 10,000 with no started job. -/
def State.pace (s : State) : Nat :=
  match s.att.slips with
  | [] => 10000
  | h :: l =>
    let n := l.length
    if n = 0 then 10000 else 10000 * n / (n + (h - (h :: l).getLastD 0))

/-- Members of a lock mask. -/
def popcount9 (m : BitVec 9) : Nat := ((List.range 9).filter (fun i => m.getLsbD i)).length

/-- A port runs on a spared lane in a direction (R253). -/
def Port.spared (p : Port) : Bool := decide (p.state = .up) && (popcount9 p.txLock == 8 || popcount9 p.rxLock == 8)

/-- The seven terms of R378 Table 9, in order. -/
def healthTerms (s : State) : List Nat :=
  let now := s.time.now
  let started := match s.job with | some j => j.started | none => false
  let inBundle := fun p => match s.fab.plan with | some pl => pl.bundle.any (fun m => bit m p) | none => false
  let ports := List.range 24
  let d := (ports.filter (fun p => inBundle p && (decide ((s.port p).state = .down) || decide ((s.port p).state = .held)))).length
  let sp := (ports.filter (fun p => (s.port p).spared)).length
  [Nat.min 200 (healthLog (lastHour now s.health.corrected).length),
    Nat.min 200 (healthLog ((lastHour now s.health.discards).length + 4 * (lastDay now s.health.retirements).length)),
    Nat.min 150 (if started then (10000 - s.pace) / 20 else 0),
    Nat.min 100 (if started then 10 * (s.att.slip / s.pol.slipLimit) else 0),
    Nat.min 300 (12 * (24 - s.reserveCount)),
    Nat.min 150 (15 * d + 5 * sp + healthLog ((lastHour now s.health.linkErrors).length / 10000)),
    Nat.min 150 (10 * (s.clk.hottest - 80).toNat)]

/-- Position of the largest term, from 1; of equals the first. -/
def heaviest (l : List Nat) : Nat := (l.findIdx (fun x => x == l.foldl Nat.max 0)) + 1

/-- Bands of R379: 0 good, 1 watch, 2 suspect. -/
def bandOf (score : Nat) : Nat := if 800 ≤ score then 0 else if 500 ≤ score then 1 else 2

/-- HEALTH_SCORE_UPDATE: every second the score is formed again; a change of band is recorded with the old band, the new band
and the heaviest term (R378, R379). -/
def execHealthScoreUpdate (s : State) : Host.Outcome State Fault Refusal :=
  .next (
    if !s.dev.fenumRunning then s
    else
      let terms := healthTerms s
      let score := 1000 - terms.sum
      let band := bandOf score
      let old := s.health.band
      let now := s.time.now
      let s := { s with
        health := { s.health with score := score, band := band, corrected := lastHour now s.health.corrected,
                                  discards := lastHour now s.health.discards, retirements := lastDay now s.health.retirements,
                                  linkErrors := lastHour now s.health.linkErrors }
        clk := { s.clk with hottest := 0 }
        time := { s.time with uptimeS := s.time.uptimeS + 1 } }
      if band = old then s else raise (Raise.of .healthBand .device old band (heaviest terms) 0) s)

end Sys2Proof.Machine
end

