-- ==== Sys2Proof/Machine/Routing.lean ====
section
/-! DEFINITION. Routing by coordinates, exceptions and bundles, floods, the heal recomputation, and drain and swap (R262,
R266 to R274, R283 to R286, R344, R365). -/

namespace Sys2Proof.Machine

/-! ## Bundles (R264, R266) -/

/-- The bundle a port belongs to: 2i for + and 2i + 1 for − of dimension i. -/
def Plan.bundleOf (pl : Plan) (p : Nat) : Option Nat := (List.range 12).find? (fun b => bit (pl.bundle.getD b 0) p)

/-- The ports of a bundle, in port order. -/
def Plan.portsOf (pl : Plan) (b : Nat) : List Nat := (List.range 24).filter (fun p => bit (pl.bundle.getD b 0) p)

/-- A port is usable when it is up and has passed the coordinate check (R266). -/
def State.usablePort (s : State) (p : Nat) : Bool :=
  let x := s.port p
  decide (x.state = .up) && x.coordOk && !x.coordFailed

/-- The usable ports of a bundle now. -/
def State.usablePorts (s : State) (pl : Plan) (b : Nat) : List Nat := (pl.portsOf b).filter s.usablePort

/-- A bundle is usable while at least BUNDLE_MIN of its ports are (R266). -/
def State.bundleUsable (s : State) (pl : Plan) (b : Nat) : Bool := decide (pl.bundleMin ≤ (s.usablePorts pl b).length)

/-- A fabric condition's payload: port, lane and direction, peer, number, tick of detection (R444). -/
def fabRaise (c : Cond) (src : Source) (port lane dir peer num : Nat) (s : State) : Raise :=
  Raise.of c src (port % 32 + 32 * (lane % 16) + 512 * dir) (peer % 2 ^ 24) num s.time.tick

/-! ## One hop (R269 to R272) -/

/-- The preferred direction from coordinate c to t is + (R269). -/
def Plan.prefersPlus (pl : Plan) (i c t : Nat) : Bool :=
  let n := pl.sizeOf i
  decide ((t + n - c) % n ≤ n / 2)

/-- The neighbour's coordinate in a direction. -/
def Plan.step (pl : Plan) (i c : Nat) (plus : Bool) : Nat :=
  let n := pl.sizeOf i
  if plus then (c + 1) % n else (c + n - 1) % n

/-- The hop crosses the date-line link of its dimension, which runs from DATELINE to the position after it (R264, R269). -/
def Plan.crosses (pl : Plan) (i c : Nat) (plus : Bool) : Bool :=
  let d := pl.dateline.getD i 0
  if plus then c == d else pl.step i c false == d

/-- An exception entry's range holds a destination coordinate; LO above HI wraps (R271). -/
def Exc.holds (e : Exc) (t : Nat) : Bool :=
  if e.lo ≤ e.hi then decide (e.lo ≤ t) && decide (t ≤ e.hi) else decide (e.lo ≤ t) || decide (t ≤ e.hi)

/-- The first entry that matches (R271). -/
def findExc (l : List Exc) (dim : Nat) (phase : Bool) (t : Nat) : Option Exc :=
  l.find? (fun e => e.valid && e.dim == dim && (if phase then e.p1 else e.p0) && e.holds t)

/-- The order in which dimensions are corrected: ascending; after a detour the detoured one, the others, the detour's (R269,
R272). -/
def routeOrder (dims : Nat) (phase : Bool) (ddim : Nat) : List Nat :=
  if phase then
    let i := (ddim + dims - 1) % dims
    i :: ((List.range dims).filter (fun d => d ≠ i && d ≠ ddim) ++ [ddim])
  else List.range dims

/-- What a device does with a packet. -/
inductive Hop where
  | here
  | drop
  | out (dim : Nat) (plus : Bool) (phase : Bool) (ddim : Nat)
  deriving DecidableEq, Repr

/-- The routing decision at a device of some address (R269, R271, R272). -/
def Plan.hop (pl : Plan) (excs : List Exc) (self dest : Nat) (phase : Bool) (ddim : Nat) : Hop :=
  match (routeOrder pl.dims phase ddim).find? (fun i => pl.coord dest i ≠ pl.coord self i) with
  | none => .here
  | some i =>
    let t := pl.coord dest i
    let plus := pl.prefersPlus i (pl.coord self i) t
    match findExc excs i phase t with
    | none => .out i plus phase ddim
    | some e =>
      if e.action = 0 then .out i plus phase ddim
      else if e.action = 1 then .out i (!plus) phase ddim
      else if e.action = 2 then
        (if phase then .drop
         else
           let j := (i + 1) % pl.dims
           .out j (!e.detourMinus) true j)
      else .drop

/-- The active exception table: the plan's entries, then the computed ones (R271). -/
def State.exceptions (s : State) (pl : Plan) : List Exc := pl.exceptions ++ s.fab.computed

/-- The port of a bundle that a packet's flow takes; its own at the last swap, or the next one usable after it (R270). -/
def State.portFor (s : State) (b : Nat) (p : Packet) : Option Nat :=
  let l := s.fab.bundlePorts.getD b []
  let h := (p.src.toNat * 40503 + p.dest.toNat * 2654435761 + p.flow.toNat) % 2 ^ 32
  let k := h % l.length
  (l.drop k ++ l.take k).find? s.usablePort

/-- A packet of class CIRCUIT keeps its class only where its circuit holds a share of the port (R273). -/
def State.classOn (s : State) (port : Nat) (p : Packet) : Packet :=
  if p.cls = 1 ∧ !(s.port port).circuits.any (fun c => c.number == p.flow.toNat) then { p with cls := 2 } else p

/-- Route a packet that came in on a port, or from this device's own engines (R269 to R273). -/
def forward (inPort : Option Nat) (p : Packet) (s : State) : State :=
  match s.fab.plan with
  | none => { s with fab := { s.fab with linkDropped := s.fab.linkDropped + 1 } }
  | some pl =>
    match pl.hop (s.exceptions pl) pl.address p.dest.toNat p.phase p.ddim.toNat with
    | .here => s
    | .drop =>
      raise (fabRaise .routeDrop (match inPort with | some q => .port q | none => .device) (inPort.getD 0) 0 0 p.dest.toNat 0 s)
        { s with fab := { s.fab with routeDrops := s.fab.routeDrops + 1 } }
    | .out i plus phase ddim =>
      let b := 2 * i + (if plus then 0 else 1)
      let port := if s.bundleUsable pl b then s.portFor b p else none
      match port with
      | none => { s with fab := { s.fab with linkDropped := s.fab.linkDropped + 1 } }
      | some q =>
        let same := match inPort with
          | some a => decide ((pl.bundleOf a).map (· / 2) = some i)
          | none => false
        let line := (same && p.dateline) || pl.crosses i (pl.coord pl.address i) plus
        sendAs (if inPort.isSome then 0 else ownRequester p.typ.toNat) q (s.classOn q { p with phase := phase, ddim := BitVec.ofNat 3 ddim, dateline := line }) s

/-- A packet of this device's own engines: it waits while injection is stopped (R283). -/
def inject (p : Packet) (s : State) : State :=
  if s.fab.stopped then { s with fab := { s.fab with waiting := s.fab.waiting ++ [p] } } else forward none p s

/-- This device's fabric address, when a plan is committed. -/
def State.address (s : State) : Option Nat := s.fab.plan.map (·.address)

/-- Types that are forwarded (R261 Table 8). -/
def forwardedType (t : Nat) : Bool :=
  [0x01, 0x02, 0x03, 0x04, 0x08, 0x20, 0x21].contains t || (decide (0x10 ≤ t) && decide (t ≤ 0x1F))

/-- The device forwards: its transmitters are lit and its path works (R7, R262, R367). -/
def State.forwards (s : State) : Bool := s.dev.forwarding && s.ticking

/-- The packet is well formed: its payload fits, and its class is one that its type travels in (R261 Table 7, Table 8). DESIGN CHOICE
(notes/assumptions/87.md): one that is not counts as a reserved one. -/
def packetFits (p : Packet) : Bool :=
  let t := p.typ.toNat
  decide (p.payload.length ≤ 2048) &&
    (if t = 0x20 ∨ t = 0x21 then decide (p.cls = 0) else if 0x10 ≤ t then decide (p.cls = 1) || decide (p.cls = 2) else decide (p.cls = 2))

/-- The packet's type is reserved here: outside Table 8, or a collective type that its receiver does not know (R261, R307). -/
def State.reservedType (s : State) (p : Packet) : Bool :=
  let t := p.typ.toNat
  !forwardedType t || (decide (0x13 ≤ t) && decide (t ≤ 0x1F) && decide (s.address = some p.dest.toNat))

/-- A port outside every bundle of the plan carries no packet that is forwarded (R266). -/
def State.outsideBundles (s : State) (port : Nat) : Bool := match s.fab.plan with
  | some pl => (pl.bundleOf port).isNone
  | none => false

/-- TRANSIT_PACKET: a packet for another device comes in on an up port of a bundle and is forwarded; a reserved type is dropped and
counted (R261, R262, R266, R269 to R274). -/
def execTransitPacket (port : Nat) (p : Packet) (s : State) : Host.Outcome State Fault Refusal :=
  guardUnit (decide (port < 24)) (
    if !s.forwards || decide ((s.port port).state ≠ .up) then s
    else if s.reservedType p || !packetFits p then { s with fab := { s.fab with rsvDrops := s.fab.rsvDrops + 1 } }
    else if s.outsideBundles port then { s with fab := { s.fab with linkDropped := s.fab.linkDropped + 1 } }
    else forward (some port) p s)

/-- FABRIC_ARB_HOLD_CUTOFF: the grant of an output port made no progress for 4,096 cycles: it ends, and the packet with a flit that carries ABORT;
the port goes on with the next packet (R274, R360). -/
def execFabricArbHoldCutoff (port : Nat) (p : Packet) (s : State) : Host.Outcome State Fault Refusal :=
  guardUnit (decide (port < 24)) (
    if !s.forwards then s
    else
      let s := pumpPort port (s.onPort port (Port.abort p))
      let s := { s with fab := { s.fab with linkDropped := s.fab.linkDropped + 1 } }
      raise ((fabRaise .arbHoldCutoff (.port port) port 0 0 p.dest.toNat 0 s).as .note .warning) s)

/-! ## The heal recomputation (R285) -/

/-- The link from coordinate c in a direction of dimension i, on this device's ring, is down when either end reports it. -/
def linkDown (pl : Plan) (down : List (Nat × Nat × Bool)) (i c : Nat) (plus : Bool) : Bool :=
  let n := pl.step i c plus
  down.contains (pl.setCoord pl.address i c, i, plus) || down.contains (pl.setCoord pl.address i n, i, !plus)

/-- The path from c over some hops in a direction crosses a down link. -/
def pathDown (pl : Plan) (down : List (Nat × Nat × Bool)) (i : Nat) (plus : Bool) : Nat → Nat → Bool
  | 0, _ => false
  | k + 1, c => linkDown pl down i c plus || pathDown pl down i plus k (pl.step i c plus)

/-- Hops from c to t in a direction. -/
def Plan.hops (pl : Plan) (i c t : Nat) (plus : Bool) : Nat :=
  let n := pl.sizeOf i
  if plus then (t + n - c) % n else (c + n - t) % n

/-- A bundle serves a detour: usable here, and no Trigrim behind it (R285, R287). -/
def State.detourable (s : State) (pl : Plan) (b : Nat) : Bool :=
  s.bundleUsable pl b && !(s.usablePorts pl b).any (fun p => match (s.port p).peerHello with
    | some h => decide (h.generation = 3)
    | none => false)

/-- The action for one destination coordinate: 0 none, 1 REVERSE, 2 DETOUR +, 3 DETOUR −, 4 DROP (R285). -/
def State.healAction (s : State) (pl : Plan) (down : List (Nat × Nat × Bool)) (i t : Nat) : Nat :=
  let c := pl.coord pl.address i
  let plus := pl.prefersPlus i c t
  let j := (i + 1) % pl.dims
  if !pathDown pl down i plus (pl.hops i c t plus) c then 0
  else if !pathDown pl down i (!plus) (pl.hops i c t (!plus)) c then 1
  else if s.detourable pl (2 * j) then 2
  else if s.detourable pl (2 * j + 1) then 3
  else 4

/-- Neighbouring coordinates of equal action, as (first, last, action). -/
def mergeRuns : List (Nat × Nat) → List (Nat × Nat × Nat)
  | [] => []
  | (t, a) :: l => match mergeRuns l with
    | [] => [(t, t, a)]
    | (lo, hi, b) :: r => if a = b then (t, hi, b) :: r else (t, t, a) :: (lo, hi, b) :: r

/-- One computed entry (R271 Table 11, R285). -/
def healEntry (i : Nat) (r : Nat × Nat × Nat) : Exc :=
  { dim := i, valid := true, lo := r.1, hi := r.2.1, action := if r.2.2 = 1 then 1 else if r.2.2 = 4 then 3 else 2,
    detourMinus := r.2.2 == 3, p0 := true, p1 := true }

/-- The computed entries (R285). -/
def State.healEntries (s : State) (pl : Plan) (down : List (Nat × Nat × Bool)) : List Exc :=
  ((List.range pl.dims).map (fun i =>
    let c := pl.coord pl.address i
    let ts := (List.range (pl.sizeOf i - 1)).map (fun k => (c + 1 + k) % pl.sizeOf i)
    ((mergeRuns (ts.map (fun t => (t, s.healAction pl down i t)))).filter (fun r => r.2.2 ≠ 0)).map (healEntry i))).flatten

/-- Apply a flood event to the set of down links. -/
def applyEvent (e : Flood) (down : List (Nat × Nat × Bool)) : List (Nat × Nat × Bool) :=
  let k := (e.device, e.dim, e.plus)
  let l := down.filter (fun x => x ≠ k)
  if e.up then l else l ++ [k]

/-- Events in the order of their detection: tick, device and the device's own number. -/
def floodBefore (a b : Nat × Flood) : Bool :=
  decide (a.2.tick < b.2.tick) || (decide (a.2.tick = b.2.tick) && (decide (a.2.device < b.2.device) ||
    (decide (a.2.device = b.2.device) && decide (a.2.event ≤ b.2.event))))

/-- The down links once the events that enter by a stop tick are counted, whatever order they came in (R284, R285). -/
def Fabric.downAt (f : Fabric) (stop : Nat) : List (Nat × Nat × Bool) :=
  each (fun (x : Nat × Flood) d => applyEvent x.2 d) ((f.events.filter (fun x => decide (x.1 ≤ stop))).mergeSort floodBefore) f.downLinks

/-- The down links that the swap in progress or agreed counts. -/
def State.downNow (s : State) : List (Nat × Nat × Bool) := match s.fab.swap with
  | some w => s.fab.downAt w.stopAt
  | none => s.fab.downLinks

/-- Ports as the plan finds them when it is adopted: a port up at the swap counts as checked until a COORD packet shows otherwise (R268;
notes/assumptions/20.md). -/
def adoptPorts (pl : Plan) (s : State) : State :=
  { s with fab := { s.fab with ports := (List.range 24).map (fun p =>
      let x := s.port p
      (p, { x with long := bit pl.mode p, coordOk := decide (x.state = .up), coordFailed := false })) } }

/-- Recompute the shadow table against a plan, the committed one or one that enters at this swap; with HEAL off there is no computed entry (R285). -/
def recomputeRoutes (pl : Plan) (s : State) : State :=
  if !pl.heal then { s with fab := { s.fab with computedShadow := [] } }
  else
    let es := (if s.fab.plan = some pl then s else adoptPorts pl s).healEntries pl s.downNow
    if 65536 < pl.exceptions.length + es.length then
      raise (fabRaise .routeOverflow .device 0 0 0 pl.address 0 s) { s with fab := { s.fab with computedShadow := s.fab.computed } }
    else
      let dims := ((es.filter (fun e => e.action == 2)).map (·.dim)).eraseDups
      let s := { s with fab := { s.fab with computedShadow := es } }
      if 1 < dims.length then raise (fabRaise .routeDegraded .device 0 0 0 pl.address 0 s) s else s

/-! ## Drain and swap (R283, R285, R345) -/

/-- W of R283, in ticks. -/
def Plan.drainTicks (pl : Plan) : Nat := Nat.max 1 (ceilDiv pl.drainUs pl.tickUs)

/-- Join two swaps of one stop tick. -/
def Swap.join (a b : Swap) : Swap :=
  { a with plan := a.plan || b.plan, mailbox := a.mailbox.orElse fun _ => b.mailbox, planAt := if b.plan then b.planAt else a.planAt }

/-- Add a drain and swap: one with the same stop tick is joined; one whose stop tick falls within the swap in progress moves to
its swap tick, but a plan's commit joins it; a second swap never starts before the first has swapped (R283, R285, R345). -/
def insertSwap (n : Swap) (s : State) : State :=
  let later := fun (x : Swap) (s : State) => match s.fab.nextSwap with
    | none => { s with fab := { s.fab with nextSwap := some x } }
    | some y => { s with fab := { s.fab with nextSwap := some (if x.stopAt < y.stopAt then x.join y else y.join x) } }
  let moved := fun (x c : Swap) => { x with stopAt := c.swapAt, swapAt := c.swapAt + (x.swapAt - x.stopAt) }
  let now := fun (x : Swap) => { s with fab := { s.fab with swap := some x } }
  match s.fab.swap with
  | none => now n
  | some c =>
    if n.stopAt = c.stopAt then now (c.join n)
    else if n.stopAt < c.stopAt then
      (if n.swapAt < c.stopAt then later c (now n)
       else if c.plan then now (n.join c)
       else later (moved c n) (now n))
    else if c.swapAt < n.stopAt then later n s
    else if n.plan then now (c.join n)
    else later (moved n c) s

/-- Handle a flood event: it enters the swap that stops at T_f + k, which is scheduled and recomputed; a late one enters the next swap, whatever
it is (R284, R285). -/
def handleFlood (e : Flood) (s : State) : State :=
  if e.noRoute then s
  else
    let now := { s with fab := { s.fab with downLinks := applyEvent e s.fab.downLinks } }
    match s.fab.plan with
    | none => now
    | some pl =>
      if !pl.heal then now
      else
        let stop := e.tick + pl.floodTicks
        if stop ≤ s.time.tick then
          let s := { s with fab := { s.fab with events := s.fab.events ++ [(s.time.tick + 1, e)] } }
          raise (fabRaise .floodLate .device 0 0 0 e.device e.event s) s
        else
          let s := insertSwap { stopAt := stop, swapAt := stop + pl.drainTicks } { s with fab := { s.fab with events := s.fab.events ++ [(stop, e)] } }
          match s.fab.swap with
          | some c => if !c.stopped && !c.plan then recomputeRoutes pl s else s
          | none => s

/-- Emit a flood on every usable port but one (R284). -/
def emitFlood (e : Flood) (except : Option Nat) (s : State) : State :=
  let ps := (List.range 24).filter (fun p => s.usablePort p && except ≠ some p)
  { s with fab := { s.fab with floods := s.fab.floods ++ ps.map (fun p => (p, e)) } }

/-- A first copy: seen from now on, re-emitted, and handled, or queued while Fenum restarts (R284, R365). -/
def takeFlood (e : Flood) (port : Option Nat) (s : State) : State :=
  if s.fab.seenFloods.contains (e.device, e.event) then s
  else
    let s := emitFlood e port { s with fab := { s.fab with seenFloods := s.fab.seenFloods ++ [(e.device, e.event)] } }
    if s.dev.restarting then
      (if s.fab.floodQueue.length < 64 then { s with fab := { s.fab with floodQueue := s.fab.floodQueue ++ [(port.getD 24, e)] } }
       else { s with fab := { s.fab with routeStale := true } })
    else handleFlood e s

/-- A port of a bundle became usable, or stopped being usable: the device floods the event (R284). -/
def bundleEvent (port : Nat) (up : Bool) (s : State) : State :=
  match s.fab.plan with
  | none => s
  | some pl => match pl.bundleOf port with
    | none => s
    | some b =>
      let was := s.fab.usableBundles.contains b
      let now := s.bundleUsable pl b
      let s := { s with fab := { s.fab with
          usableBundles := if now then (if was then s.fab.usableBundles else s.fab.usableBundles ++ [b]) else s.fab.usableBundles.filter (· ≠ b)
          eventNo := s.fab.eventNo + 1 } }
      takeFlood { device := pl.address, dim := b / 2, plus := b % 2 == 0, up := up, tick := s.time.tick, event := s.fab.eventNo,
                  noRoute := was == now } none s

/-- PORT_DOWN_FLOOD: a flood that a bundle stopped being usable (R284, R285, R365). -/
def execPortDownFlood (port : Nat) (e : Flood) (s : State) : Host.Outcome State Fault Refusal :=
  guardUnit (decide (port < 24)) (
    if !s.forwards || decide ((s.port port).state ≠ .up) then s else takeFlood { e with up := false } (some port) s)

/-- PORT_UP_FLOOD: a flood that a bundle is usable again (R284, R285, R365). -/
def execPortUpFlood (port : Nat) (e : Flood) (s : State) : Host.Outcome State Fault Refusal :=
  guardUnit (decide (port < 24)) (
    if !s.forwards || decide ((s.port port).state ≠ .up) then s else takeFlood { e with up := true } (some port) s)

/-! ## Circuits (R273, R344) -/

/-- The hop a circuit takes at this device on its way, if its route passes here: other devices route by preference, this one by
its own tables (R344; notes/assumptions/20.md). -/
def circuitHop (pl : Plan) (excs : List Exc) (dest : Nat) : Nat → Nat → Option Nat
  | 0, _ => none
  | k + 1, cur =>
    let here := cur == pl.address
    match pl.hop (if here then excs else []) cur dest false 0 with
    | .here => none
    | .drop => none
    | .out i plus _ _ =>
      if here then some (2 * i + (if plus then 0 else 1))
      else circuitHop pl excs dest k (pl.setCoord cur i (pl.step i (pl.coord cur i) plus))

/-- The bundle by which a circuit comes in here, if it does: the one that faces the way it came (R287, R344). -/
def circuitEnters (pl : Plan) (excs : List Exc) (dest : Nat) : Nat → Nat → Option Nat
  | 0, _ => none
  | k + 1, cur =>
    match pl.hop (if cur == pl.address then excs else []) cur dest false 0 with
    | .out i plus _ _ =>
      let nxt := pl.setCoord cur i (pl.step i (pl.coord cur i) plus)
      if nxt == pl.address then some (2 * i + (if plus then 1 else 0)) else circuitEnters pl excs dest k nxt
    | _ => none

/-- The port of a bundle that a circuit's flow takes, of given ports. -/
def circuitPort (ports : List Nat) (c : Circuit) : Option Nat :=
  if ports = [] then none
  else some (ports.getD ((c.src * 40503 + c.dest * 2654435761 + c.number) % 2 ^ 32 % ports.length) 0)

/-- Each circuit with the port it leaves through here. -/
def circuitsHere (pl : Plan) (excs : List Exc) (ports : Nat → List Nat) : List (Nat × Circuit) :=
  pl.circuits.filterMap (fun c =>
    match circuitHop pl excs c.dest ((pl.size.take pl.dims).sum + 1) c.src with
    | none => none
    | some b => (circuitPort (ports b) c).map (·, c))

/-- Install the circuits at a swap; one that would take a port past 204 units is lost (R273). -/
def installCircuits (pl : Plan) (s : State) : State :=
  let s := { s with fab := { s.fab with ports := s.fab.ports.map (fun x => (x.1, { x.2 with circuits := [] })) } }
  each (fun (x : Nat × Circuit) s =>
    let used := ((s.port x.1).circuits.map (·.share)).sum
    if 204 < used + x.2.share then raise (fabRaise .circuitLost (.port x.1) x.1 0 0 x.2.dest x.2.number s) s
    else s.onPort x.1 (fun q => { q with circuits := q.circuits ++ [x.2] }))
    (circuitsHere pl (s.exceptions pl) (s.usablePorts pl)) s

/-- A COORD packet of a port (R268). -/
def coordPacket (pl : Plan) (b : Nat) : Packet :=
  { dest := 0, src := BitVec.ofNat 24 pl.address, typ := 0x32, cls := 0, payload := leBytes 4 pl.address ++ [BitVec.ofNat 8 (b / 2), BitVec.ofNat 8 (b % 2)] }

/-- Every up port of a bundle sends a COORD packet (R268; notes/assumptions/20.md). -/
def sendCoords (pl : Plan) (s : State) : State :=
  each (fun p s => match pl.bundleOf p with
    | none => s
    | some b => if (s.port p).state = .up then sendOn p (coordPacket pl b) s else s) (List.range 24) s

/-- A collective in progress at a stop: its window is longer by FLOOD_TICKS + W (R312), and its chunks on the way are marked for
re-issue (R310). -/
def CollRun.stop (c : CollRun) (tick ext : Nat) : CollRun :=
  { c with closeTick := if decide (c.closeTick ≠ 0) && !c.complete && decide (tick < c.closeTick) then c.closeTick + ext else c.closeTick,
           sent := c.sent.map (fun k => if k.acked then k else { k with beforeStop := true }) }

/-- A plan being committed enters the shadow tables at its T_S, with its entries recomputed against it; so at the swap itself where no boundary came
between (R345). -/
def formPlan (s : State) : State := match s.fab.swap, s.fab.shadow with
  | some w, some pl =>
    if w.plan && !w.formed && !s.dev.restarting then recomputeRoutes pl { s with fab := { s.fab with swap := some { w with formed := true } } } else s
  | _, _ => s

/-- INJECTION_STOP: at the boundary of the stop tick routed injection stops. A plan being committed enters the shadow tables at the boundary of its
T_S, also where it joined a swap whose stop is over (R283, R345). Windows of collectives in progress are extended (R312), and chunks sent so far are
marked for re-issue (R310). -/
def execInjectionStop (s : State) : Host.Outcome State Fault Refusal :=
  .next (match s.fab.swap with
    | none => s
    | some w =>
      if decide (s.time.tick < w.stopAt) || !s.ticking then s
      else
        let ext := match s.fab.plan with | some pl => pl.floodTicks + pl.drainTicks | none => 0
        let s := if w.stopped then s else { s with
          fab := { s.fab with swap := some { w with stopped := true }, stopped := true, stopTicks := (w.stopAt :: s.fab.stopTicks).take 16 }
          coll := s.coll.map (fun (c : CollRun) => c.stop s.time.tick ext) }
        if w.planAt ≤ s.time.tick then formPlan s else s)

/-- The committed plan's fields that ports and time follow: reach modes, tick period and index (R251, R268, R290). -/
def adoptPlan (pl : Plan) (s : State) : State :=
  let s := adoptPorts pl s
  { s with
    fab := { s.fab with plan := some pl, shadow := none }
    time := { s.time with periodUs := pl.tickUs, nextPeriodUs := pl.tickUs, tick := s.time.fabric / (pl.tickUs * 16000), anchor := pl.anchor } }

/-- Every bundle of a plan just adopted that is not usable is flooded, so that it counts as a down link (R266, R284; notes/assumptions/20.md). -/
def floodUnusable (pl : Plan) (s : State) : State :=
  each (fun b s =>
    if (pl.portsOf b).isEmpty || s.bundleUsable pl b then s
    else takeFlood { device := pl.address, dim := b / 2, plus := b % 2 == 0, up := false, tick := s.time.tick, event := s.fab.eventNo + 1, noRoute := false }
      none { s with fab := { s.fab with eventNo := s.fab.eventNo + 1 } }) (List.range 12) s

/-- FABRIC_TABLE_SWAP: at the swap tick the shadow tables become active; the next swap's entries are formed then (R266, R268, R270,
R273, R283 to R285, R345, R365). -/
def execFabricTableSwap (s : State) : Host.Outcome State Fault Refusal :=
  .next (match s.fab.swap with
    | none => s
    | some w =>
      if !w.stopped || decide (s.time.tick < w.swapAt) || !s.ticking then s
      else
        let stale := s.dev.restarting && (w.plan || !s.fab.floodQueue.isEmpty)
        let s := formPlan s
        let s := { s with fab := { s.fab with computed := s.fab.computedShadow, weights := s.fab.weightsShadow, swap := s.fab.nextSwap,
                                              nextSwap := none, routeStale := s.fab.routeStale || stale,
                                              downLinks := s.fab.downAt w.stopAt, events := s.fab.events.filter (fun x => decide (w.stopAt < x.1)) } }
        let s := match w.plan, s.fab.shadow with
          | true, some pl => adoptPlan pl s
          | _, _ => s
        let s := match s.fab.plan with
          | none => s
          | some pl =>
            let usable := if w.plan then (List.range 12).filter (s.bundleUsable pl) else s.fab.usableBundles
            let s := { s with fab := { s.fab with bundlePorts := (List.range 12).map (s.usablePorts pl), usableBundles := usable } }
            let s := sendCoords pl (installCircuits pl s)
            if w.plan then floodUnusable pl s else s
        let s := match s.fab.plan, s.fab.swap with
          | some pl, some c => if c.plan then s else recomputeRoutes pl s
          | _, _ => s
        match w.mailbox with
        | some mb => if (s.mailbox mb).wait = some .swap then answer mb stOk 0 s else s
        | none => s)

end Sys2Proof.Machine
end

