-- ==== Sys2Proof/Machine/Link.lean ====
section
/-! DEFINITION. Ports and links: training, HELLO and coordinates, flits and their retry, link-control flits and fabric time
(R252 to R263, R266, R268, R287, R291 to R295). -/

namespace Sys2Proof.Machine

/-! ## Fabric time over the links (R291 to R295) -/

/-- Hop budget of a reach mode, ps (R295 Table 2). -/
def hopBudget (long : Bool) : Nat := if long then 2500 else 400

/-- The plan whose anchor the device follows: the committed one, or before it the loaded one (R294). -/
def State.timePlan (s : State) : Option Plan := s.fab.plan.orElse fun _ => s.fab.shadow

/-- Parents on offer, as (budget, depth, port): up ports before a plan is committed, usable ones after (R292). -/
def State.parents (s : State) : List (Nat × Nat × Nat) :=
  (List.range 24).filterMap (fun p =>
    let x := s.port p
    let ok := if s.fab.plan.isSome then s.usablePort p else decide (x.state = .up)
    match ok, x.peerBudget with
    | true, some b => some (b.1, b.2, p)
    | _, _ => none)

/-- The smallest budget, then the smaller depth, then the lowest port (R292). -/
def bestParent : List (Nat × Nat × Nat) → Option (Nat × Nat × Nat)
  | [] => none
  | a :: l => match bestParent l with
    | none => some a
    | some b => if a.1 < b.1 ∨ (a.1 = b.1 ∧ (a.2.1 < b.2.1 ∨ (a.2.1 = b.2.1 ∧ a.2.2 ≤ b.2.2))) then some a else some b

/-- Fabric time moved by some picoseconds, in units of 62.5 ps. -/
def stepTime (ps : Int) (t : FabricTime) : FabricTime := { t with fabric := ((t.fabric : Int) + ps * 16 / 1000).toNat, offsetPs := 0 }

/-- Follow the parent's time: a step while no job is open, to lock or above 1 µs; otherwise the error stands and is slewed at
the boundaries (R294). -/
def followParent (offset : Int) (s : State) : State :=
  let big := decide (1000000 < offset) || decide (offset < -1000000)
  if s.job.isNone && (!s.time.locked || big) then { s with time := { stepTime offset s.time with locked := true } }
  else { s with time := { s.time with offsetPs := offset } }

/-- Choose the parent again: the anchor has none; without any the device enters holdover (R292, R293, R295). -/
def reparent (s : State) : State :=
  match s.timePlan with
  | none => s
  | some pl =>
    if pl.address = pl.anchor then
      { s with time := { s.time with parent := none, budgetPs := 0, depth := 0, locked := true, holdover := false, offsetPs := 0 } }
    else match bestParent s.parents with
      | none =>
        if s.time.parent.isSome then
          raise (fabRaise .timeHoldover .device 0 0 0 pl.anchor 0 s) { s with time := { s.time with parent := none, holdover := true } }
        else s
      | some b =>
        let budget := b.1 + hopBudget (s.port b.2.2).long
        let above := decide (1000 * pl.timeBudget < budget)
        let first := above && !s.time.budgetRecorded
        let s := { s with time := { s.time with parent := some b.2.2, budgetPs := budget, depth := b.2.1 + 1, holdover := false, budgetRecorded := above } }
        let s := followParent (s.port b.2.2).timeOffset s
        if first then raise (fabRaise .timeBudget .device b.2.2 0 0 pl.anchor 0 s) s else s

/-- The link delay that a time exchange shows, in ps: what its two flits took less what the neighbour held it (R291). -/
def linkDelay (request answer : Stamps) : Int := ((answer.received - request.sent) - (answer.sent - request.received)) / 2

/-- The neighbour's time less this device's, in ps, with the transmit path longer than the receive path by so much (R291). -/
def linkOffset (request answer : Stamps) (longer : Int) : Int :=
  ((request.received - request.sent) + (answer.sent - answer.received) - longer) / 2

/-- ASYM of a port in ps, by the plan whose anchor the device follows (R291, R294 Table 1). -/
def State.asymPs (s : State) (port : Nat) : Int := match s.timePlan with
  | some pl => pl.asym.getD port 0 * 125 / 2
  | none => 0

/-- LINK_CONTROL_FLIT: a link-control flit leaves with the credits owed, and its time exchange gives the link delay, the neighbour's offset, and its
accumulated budget and depth where it has a path to the anchor (R258, R260, R291 to R295). -/
def execLinkControlFlit (port : Nat) (request answer : Stamps) (peerBudget : Option Nat) (peerDepth : Nat) (s : State) : Host.Outcome State Fault Refusal :=
  guardUnit (decide (port < 24)) (
    if (s.port port).state ≠ .up then s
    else
      let longer := s.asymPs port
      reparent (s.onPort port (fun x =>
        { x.emit { vc := 12, credits := x.creditsOwed } with
          creditsOwed := [], delay := linkDelay request answer, timeOffset := linkOffset request answer longer,
          peerBudget := peerBudget.map (fun b => (b, peerDepth)) })))

/-! ## This device's HELLO (R263, R432) -/

/-- Bytes 0x00 to 0x4F of a HELLO payload, which its signature covers (R263 Table 9). -/
def helloBytes (h : Hello) : List Byte :=
  leBytes 16 h.serial.toNat ++ leBytes 2 h.generation.toNat ++ leBytes 1 h.port.toNat ++ leBytes 1 h.caps.toNat ++
    leBytes 4 h.fabricAddr.toNat ++ leBytes 8 h.planId.toNat ++ leBytes 16 h.nonce.toNat ++ leBytes 16 h.peerNonce.toNat ++
    leBytes 16 h.keyHash.toNat

/-- `n` times sixteen bytes of free values. -/
def freshBytes : Nat → State → List Byte × State
  | 0, s => ([], s)
  | n + 1, s =>
    let v := s.fresh
    let r := freshBytes n v.2
    (leBytes 16 v.1.toNat ++ r.1, r.2)

/-- KEY_HASH: the first 16 bytes of the SHA-384 of the signing key, the device's Alias key (R263 Table 9, R432). -/
def State.keyHash (s : State) : BitVec 128 :=
  BitVec.ofNat 128 (leNat ((hashBytes (Config.sha384 (Config.aliasKey s.nor.serial s.sec.aliasGen))).take 16))

/-- The chain of slot 0: what provisioning installed, and the Alias certificate (R432). -/
def chainDigest (s : State) : BitVec 384 := Config.sha384 (s.nor.certificate ++ leBytes 8 s.sec.aliasGen)

/-- This device's HELLO on a port, answering a challenge; its signature is a free value. -/
def sendHello (port : Nat) (peerNonce : BitVec 128) (s : State) : State :=
  let sig := freshBytes 6 s
  let s := sig.2
  let addr := match s.fab.plan with | some pl => pl.address + 2 ^ 31 | none => 0
  let id := match s.fab.plan with | some pl => pl.planId | none => 0
  let h : Hello := { serial := s.nor.serial, port := BitVec.ofNat 8 port, caps := 0xF, fabricAddr := BitVec.ofNat 32 addr, planId := id,
                     nonce := (s.port port).nonce, peerNonce := peerNonce, keyHash := s.keyHash }
  sendOn port { typ := 0x30, payload := helloBytes h ++ sig.1 } s

/-- The port sends its challenge: the first round of a HELLO exchange (R263). -/
def challengePeer (port : Nat) (s : State) : State :=
  let v := s.fresh
  sendHello port 0 (v.2.onPort port (fun x => { x with nonce := v.1 }))

/-- The HELLO_CERT packet that carries this device's certificate chain, shown by its digest (R263, R432; notes/assumptions/29.md). -/
def sendChain (port : Nat) (s : State) : State := sendOn port { typ := 0x31, payload := hashBytes (chainDigest s) } s

/-! ## Up and down (R252 to R255) -/

/-- Link state a port loses when it goes down (R255, R363). -/
def Port.cleared (x : Port) : Port :=
  { x with attempts := 0, nonce := 0, peerHello := none, peerChain := none, rxSeq := 0, rxSeqVc := [], nakOwed := false, discardVc := [],
           rxParts := [], txSeq := 0, txSeqVc := [], replay := [], tx := [], arbs := [], lastVc := [], urgent := [], due := [], outstanding := [],
           sameResends := 0, dropTimes := [], creditsOwed := [], peerBudget := none }

/-- An up port goes down: recorded, its flits discarded, retraining at once; at the third time in 3,600 s it is held (R255). -/
def portDown (p : Nat) (s : State) : State :=
  let x := s.port p
  if x.state ≠ .up then s
  else
    let was := s.usablePort p
    let times := lastHour s.time.now x.downTimes ++ [s.time.now]
    let flap := decide (3 ≤ times.length)
    let s := s.onPort p (fun x => { x.cleared with state := if flap then .held else .training, downs := x.downs + 1, downTimes := times })
    let s := raise (fabRaise .portDown (.port p) p 0 0 0 0 s) s
    let s := if flap then raise (fabRaise .portFlap (.port p) p 0 0 0 0 s) s else s
    let s := if was then bundleEvent p false s else s
    if s.time.parent = some p then reparent s else s

/-- The eight lowest-numbered locked lanes carry data (R253). -/
def dataLanes (m : BitVec 9) : List Nat := ((List.range 9).filter (fun i => m.getLsbD i)).take 8

/-- LANE_SPARED for a direction that locked exactly eight lanes: direction 0 transmits, 1 receives (R253). -/
def spareLane (p dir : Nat) (m : BitVec 9) (s : State) : State :=
  if popcount9 m = 8 then
    raise (fabRaise .laneSpared (.port p) p (((List.range 9).find? (fun i => !m.getLsbD i)).getD 0) dir 0 0 s) s
  else s

/-- The LIGHT phase measures the feed of a port's fibre-attach unit (R249, R252). -/
def measureFeed (port : Nat) (feed : List Feed) (s : State) : State :=
  { s with fab := { s.fab with feeds := each (fun k l => put (9 * (port / 4) + k) (feed.getD k {}) l) (List.range 9) s.fab.feeds } }

/-- At least eight lanes locked in each direction (R253, R254). -/
def bothLocked (tx rx : BitVec 9) : Bool := decide (8 ≤ popcount9 tx) && decide (8 ≤ popcount9 rx)

/-- PORT_TRAINING_ATTEMPT: an attempt reaches its HELLO phase, where the port sends its challenge, or it ends. The port comes up when both directions
locked eight lanes and the HELLO exchange succeeded; after the third failure it stays down. A wavelength that the laser feed lacks keeps its lane from
locking to transmit (R249, R252 to R254, R263). -/
def execPortTrainingAttempt (port : Nat) (t : Training) (s : State) : Host.Outcome State Fault Refusal :=
  guardUnit (decide (port < 24)) (
    let x := s.port port
    if x.state ≠ .training ∨ !s.dev.transmitters then s
    else
    let s := measureFeed port t.feed s
    let tx := t.txLock &&& s.litLanes port
    if t.atHello then (if bothLocked tx t.rxLock && decide (x.nonce = 0) then challengePeer port s else s)
    else if bothLocked tx t.rxLock && t.hello && x.peerHello.isSome && x.peerChain.isSome then
      let s := s.onPort port (fun x => { x with state := .up, attempts := 0, untrainedRecorded := false, txLock := tx, rxLock := t.rxLock })
      let s := spareLane port 1 t.rxLock (spareLane port 0 tx s)
      match s.fab.plan.bind (fun pl => (pl.bundleOf port).map (pl, ·)) with
      | none => s
      | some (pl, b) => if s.usablePort port then bundleEvent port true s else sendOn port (coordPacket pl b) s
    else
      let n := x.attempts + 1
      let last := decide (3 ≤ n)
      let s := s.onPort port (fun x => { x.cleared with state := if last then .down else .training, attempts := n, txLock := tx, rxLock := t.rxLock,
                                                        untrainedRecorded := x.untrainedRecorded || last })
      if last && !x.untrainedRecorded then raise (fabRaise .portUntrained (.port port) port 0 0 0 0 s) s else s)

/-- PORT_RETRY_TIMER: every 60 s a down port begins a new set of three attempts (R254). -/
def execPortRetryTimer (port : Nat) (s : State) : Host.Outcome State Fault Refusal :=
  guardUnit (decide (port < 24)) (
    if (s.port port).state = .down ∧ s.dev.transmitters then s.onPort port (fun x => { x.cleared with state := .training }) else s)

/-- PORT_LOSS_OF_LOCK: light or lock is lost on a lane; on a data lane the port goes down (R255). -/
def execPortLossOfLock (port lane : Nat) (s : State) : Host.Outcome State Fault Refusal :=
  guardUnit (decide (port < 24) && decide (lane < 9)) (
    let x := s.port port
    if (dataLanes x.txLock).contains lane || (dataLanes x.rxLock).contains lane then portDown port s else s)

/-- PORT_IDLE_TIMEOUT: no flit came in for 10 µs (R255). -/
def execPortIdleTimeout (port : Nat) (s : State) : Host.Outcome State Fault Refusal :=
  guardUnit (decide (port < 24)) (portDown port s)

/-! ## Flits (R256 to R261) -/

/-- Flits of the replay buffer from a sequence number on (R258). -/
def fromSeq (q : BitVec 12) (l : List Flit) : List Flit := l.dropWhile (fun f => f.fseq ≠ q)

/-- FACK frees the flits before it; a number outside the buffer frees all when it is the next to be sent, else none. -/
def freeTo (q : BitVec 12) (x : Port) : Port :=
  let l := fromSeq q x.replay
  if l ≠ [] then { x with replay := l, sameResends := if l.length < x.replay.length then 0 else x.sameResends }
  else if q = x.txSeq then { x with replay := [], sameResends := 0 }
  else x

/-- SHORT: the acknowledgement of a good flit, and where it carries NAK the resend of what the replay buffer holds from FACK on; the same flit failing
16 resends in a row takes the port down (R255, R258). -/
def linkAck (p : Nat) (f : Flit) (s : State) : State :=
  let s := s.onPort p (freeTo f.fack)
  let x := s.port p
  if !f.nak || decide (x.replay.head?.map (·.fseq) ≠ some f.fack) then s
  else if 16 ≤ x.sameResends then portDown p s
  else
    let n := x.replay.length
    let s := s.onPort p (fun x => { x with resends := x.resends + n, sameResends := x.sameResends + 1, wire := x.wire ++ x.replay, slot := x.slot + n })
    { s with health := { s.health with linkErrors := s.health.linkErrors ++ List.replicate n s.time.now } }

/-- A flit's data joins the packet in progress on its VC, which EOP completes; with ABORT, or past 9 flits, the packet is discarded (R256, R261). -/
def takeData (f : Flit) (x : Port) : Port :=
  let vc := f.vc.toNat
  if 12 ≤ vc then x
  else
    let part := (if f.sop then [] else look [] vc x.rxParts) ++ [(f.data ++ List.replicate 248 0).take 248]
    if !f.eop then { x with rxParts := put vc part x.rxParts }
    else
      let x := { x with rxParts := del vc x.rxParts }
      if f.abort || decide (9 < part.length) then x else { x with arrived := x.arrived ++ [parsePacket vc part.flatten] }

/-- What a flit taken does beside its data: a link-control flit brings credits back, and the port sends on (R260). -/
def takeCredits (p : Nat) (f : Flit) (s : State) : State :=
  if f.vc = 12 then pumpPort p (s.onPort p (returnCredits f.credits)) else s

/-- SHORT: a flit in sequence is taken, with its acknowledgement; a failed one, and every later one until the resend, is discarded and NAK is owed.
DESIGN CHOICE (notes/assumptions/87.md): an idle flit takes no number of its own (R256, R258). -/
def shortFlit (p : Nat) (a : FlitArrival) (s : State) : State :=
  let f := a.flit
  if !arrivesGood a then s.onPort p (fun x => { x with nakOwed := true })
  else if f.vc = 13 then linkAck p f s
  else if f.fseq ≠ (s.port p).rxSeq then s
  else
    let s := linkAck p f (s.onPort p (fun x => oweCredits f.vc.toNat 1 (takeData f { x with rxSeq := x.rxSeq + 1, nakOwed := false })))
    if (s.port p).state = .up then takeCredits p f s else s

/-- Drops in 10 ms that take a LONG port down: more than one in 10^6 of the 7,812,500 flits of 10 ms (R255, R256). -/
def longDropLimit : Nat := 7

/-- LONG: a flit has been dropped; more than one flit in 10^6 over 10 ms takes the port down (R255, R259). -/
def flitDropped (p : Nat) (s : State) : State :=
  let times := ((s.port p).dropTimes.filter (fun t => decide (s.time.now < t + 20000000))) ++ [s.time.now]
  let s := s.onPort p (fun x => { x with dropTimes := times })
  if longDropLimit < times.length then portDown p s else s

/-- LONG: a gap in FSEQ shows on a data VC: the packet with a flit in the gap is discarded and counted, and what follows of it up to its end.
DESIGN CHOICE (notes/assumptions/87.md): a gap counts one packet; how many lay wholly in it no flit tells (R259). -/
def flitGap (p : Nat) (f : Flit) (s : State) : State :=
  let vc := f.vc.toNat
  let s := s.onPort p (fun x => { x with linkDrops := x.linkDrops + 1, rxParts := del vc x.rxParts,
                                         discardVc := if f.sop then x.discardVc.filter (· ≠ vc) else vc :: x.discardVc.filter (· ≠ vc) })
  raise (fabRaise .linkDrop (.port p) p 0 1 0 0 s) { s with health := { s.health with linkErrors := s.health.linkErrors ++ [s.time.now] } }

/-- LONG: a data flit is taken unless its packet is being discarded (R259). -/
def takeLong (f : Flit) (x : Port) : Port :=
  let vc := f.vc.toNat
  if x.discardVc.contains vc && !f.sop then (if f.eop then { x with discardVc := x.discardVc.filter (· ≠ vc) } else x)
  else takeData f { x with discardVc := x.discardVc.filter (· ≠ vc) }

/-- LONG: a failed flit is dropped; the next one on its VC shows the gap. The credits of flits lost in it are owed with its own, so none starves the
link (R259, R260; notes/assumptions/87.md). -/
def longFlit (p : Nat) (a : FlitArrival) (s : State) : State :=
  let f := a.flit
  let vc := f.vc.toNat
  if !arrivesGood a then flitDropped p s
  else if vc = 13 then s
  else
    let missing := (f.fseq - look 0 vc (s.port p).rxSeqVc).toNat
    let s := s.onPort p (fun x => oweCredits vc (missing + 1) { x with rxSeqVc := put vc (f.fseq + 1) x.rxSeqVc })
    let s := if missing ≠ 0 ∧ vc < 12 then flitGap p f s else s
    takeCredits p f (s.onPort p (takeLong f))

/-- FLIT_RECEIVE: a flit arrives on an up port and is checked (R256 to R260). -/
def execFlitReceive (port : Nat) (f : FlitArrival) (s : State) : Host.Outcome State Fault Refusal :=
  guardUnit (decide (port < 24)) (
    if (s.port port).state ≠ .up then s
    else if (s.port port).long then longFlit port f s
    else shortFlit port f s)

/-! ## HELLO, certificates and coordinates (R263, R268) -/

/-- An invalid HELLO: the port is held down (R263, R289). -/
def authFail (port : Nat) (s : State) : State :=
  let s := s.onPort port (fun x => { x.cleared with state := .held })
  raise (fabRaise .portAuthFail (.port port) port 0 0 0 0 s) s

/-- With the neighbour's answer and its chain both here, the HELLO is valid or not (R263). -/
def checkHello (port : Nat) (s : State) : State :=
  let x := s.port port
  match x.peerHello, x.peerChain with
  | some h, some c =>
    if decide (h.peerNonce = x.nonce) && Config.chainVerify c h.keyHash && Config.helloVerify c (helloBytes h) h.signature then
      (if h.generation = 3 then s.onPort port (fun x => { x with long := false }) else s)
    else authFail port s
  | _, _ => s

/-- HELLO: in the first round the neighbour's challenge is answered, and this device's certificate chain follows, its own challenge before them where it
has sent none; in the second round the neighbour's answer is kept and checked (R263, R287). -/
def execHello (port : Nat) (h : Hello) (s : State) : Host.Outcome State Fault Refusal :=
  guardUnit (decide (port < 24)) (
    if (s.port port).state ≠ .training ∨ !s.dev.transmitters then s
    else if h.peerNonce = 0 then
      let s := if (s.port port).nonce = 0 then challengePeer port s else s
      sendChain port (sendHello port h.nonce s)
    else checkHello port (s.onPort port (fun x => { x with peerHello := some h })))

/-- HELLO_CERT: the neighbour's certificate chain (R263). -/
def execHelloCert (port : Nat) (chain : BitVec 384) (s : State) : Host.Outcome State Fault Refusal :=
  guardUnit (decide (port < 24)) (
    if (s.port port).state ≠ .training ∨ !s.dev.transmitters then s
    else checkHello port (s.onPort port (fun x => { x with peerChain := some chain })))

/-- The two checks of a COORD packet: the sender is one step away in the bundle's dimension and equal in every other coordinate,
and faces the opposite way (R268). -/
def coordMatches (pl : Plan) (b addr dim : Nat) (plus : Bool) : Bool :=
  let i := b / 2
  let c := pl.coord pl.address i
  let a := pl.coord addr i
  decide (dim = i) && (a == pl.step i c true || a == pl.step i c false) &&
    decide (pl.setCoord addr i 0 = pl.setCoord pl.address i 0) && decide (plus = (b % 2 == 1))

/-- COORD: the receiving port checks the sender's coordinates and direction; a port that fails is left out of its bundle until
the next FABRIC_COMMIT (R268). -/
def execCoord (port : Nat) (addr : BitVec 24) (dim : Nat) (plus : Bool) (s : State) : Host.Outcome State Fault Refusal :=
  guardUnit (decide (port < 24)) (
    if (s.port port).state ≠ .up then s
    else match s.fab.plan.bind (fun pl => (pl.bundleOf port).map (pl, ·)) with
      | none => s
      | some (pl, b) =>
        let was := s.usablePort port
        if coordMatches pl b addr.toNat dim plus then
          let s := s.onPort port (fun x => { x with coordOk := true })
          if !was && s.usablePort port then bundleEvent port true s else s
        else if (s.port port).coordFailed then s
        else
          let s := s.onPort port (fun x => { x with coordFailed := true })
          let s := raise (fabRaise .coordMismatch (.port port) port 0 0 addr.toNat 0 s) s
          if was then bundleEvent port false s else s)

/-- FENCE_NOTICE: the sender's notice is kept (R261 Table 8). -/
def execFenceNotice (port : Nat) (p : Packet) (s : State) : Host.Outcome State Fault Refusal :=
  guardUnit (decide (port < 24)) (
    if s.address ≠ some p.dest.toNat ∨ p.cls ≠ 0 ∨ (s.port port).state ≠ .up then s
    else { s with fab := { s.fab with fenceNotices := if s.fab.fenceNotices.contains p.src.toNat then s.fab.fenceNotices else s.fab.fenceNotices ++ [p.src.toNat] } })

end Sys2Proof.Machine
end

