-- ==== Sys2Proof/Machine/Journal.lean ====
section
/-! DEFINITION. The inbound journal: writes that come from outside an attempt, their replay and the replies they owe, and the
peer table they are numbered in (R67 to R69, R76, R276, R280, R281). -/

namespace Sys2Proof.Machine

/-! ## The peer table (R281) -/

def State.peer (s : State) (a : Nat) : Option Peer := s.fab.peers.find? (fun x => x.addr == a)

/-- Replace a peer's entry, or add it. -/
def putPeer (x : Peer) : List Peer → List Peer
  | [] => [x]
  | y :: l => if y.addr = x.addr then x :: l else y :: putPeer x l

def State.setPeer (s : State) (x : Peer) : State := { s with fab := { s.fab with peers := putPeer x s.fab.peers } }

/-- Whether a peer may have an entry: it has one, or the table of 65,536 has room (R281). -/
def State.peerRoom (s : State) (a : Nat) : Bool := (s.peer a).isSome || decide (s.fab.peers.length < 65536)

/-! ## Writes of the journal (R68, R69, R76) -/

/-- The 64-bit word of a line. -/
def wordOf (line : List Byte) (w : Nat) : Nat := leNat ((line.drop (8 * w)).take 8)

/-- A line with one 64-bit word replaced. -/
def setWord (line : List Byte) (w v : Nat) : List Byte := line.take (8 * w) ++ leBytes 8 v ++ line.drop (8 * w + 8)

/-- Element-wise addition with stochastic rounding under draw 2 (R157, R165, R276). -/
def addLane (f seed tensor step : Nat) (x : (Nat × Nat) × Nat) : Nat × Mark :=
  roundSr f true (counterHash seed tensor 2 x.2 step) ((decode f x.1.1).add (decode f x.1.2))

/-- An ADD on whatever the line holds (R68, R276). -/
def applyAdd (loaf line : Nat) (data : List Byte) (s : State) : State :=
  let l := loaf + line / 2048
  let tensor := match s.declared l with | some d => d.tensor | none => 0
  let f := (s.numericOf tensor).format
  let seed := match s.job with | some j => j.seed.toNat | none => 0
  let i := s.elementIndex tensor loaf line
  let r := ((((lanes16 (s.readPending loaf line)).zip (lanes16 data)).zipIdx i).map (addLane f seed tensor s.step))
  addCounts tensor { sat := marks .sat r, nan := marks .nan r } (replacePending loaf line (bytes16 (r.map (·.1))) s)

/-- A CAS executed against the pending contents: the old value is kept for the peer (R276, R280). -/
def applyCas (loaf line word : Nat) (compare swap : Word64) (peer seq : Nat) (s : State) : State :=
  let cur := s.readPending loaf line
  let old := wordOf cur word
  let s := if old = compare.toNat then replacePending loaf line (setWord cur word swap.toNat) s else s
  match s.peer peer with
  | some x => s.setPeer { x with casResults := put seq (BitVec.ofNat 64 old) x.casResults }
  | none => s

/-- A line of a host fill gives way to what a higher mailbox published in an earlier part of the same local tick, since both commands carry
its TICK_DONE (R50). -/
def State.fillGivesWay (s : State) (w : Writer) (loaf line : Nat) : Bool :=
  decide (w.rank = 4) && (match look? (loaf + line / 2048, line % 2048) s.mem.filled with
    | some mb => decide (w.key1 < mb)
    | none => false)

/-- Apply one journalled write to the pending state (R50, R68). -/
def applyJournal (op : JournalOp) (s : State) : State :=
  match op with
  | .put loaf line data w => if s.fillGivesWay w loaf line then s else writePending w loaf line data s
  | .add loaf line data => applyAdd loaf line data s
  | .cas loaf line word c v peer seq => applyCas loaf line word c v peer seq s
  | .scale loaf tray r w =>
    if (s.pendingFrame loaf).isSome && w.beats (look? (loaf, 32 * tray) s.mem.writers) then setScale loaf tray r s else s

/-- A write arrives: it is journalled under the attempt in progress and applied (R69). -/
def journalWrite (op : JournalOp) (answer : Option Packet) (s : State) : State :=
  let e : JournalEntry := { serial := s.att.serial, op := op, answer := answer }
  applyJournal op { s with mem := { s.mem with journal := s.mem.journal ++ [e] } }

/-- At a commit, the replies its writes owe are sent; a CAS carries the value it saw in this attempt (R76, R276). -/
def releaseReply (e : JournalEntry) (s : State) : State :=
  match e.answer with
  | none => s
  | some p =>
    let data := match e.op with
      | .cas _ _ _ _ _ peer seq => match s.peer peer with
        | some x => leBytes 8 (look 0 seq x.casResults).toNat
        | none => []
      | _ => []
    inject { p with payload := data } s

/-- The lines of host fills among journal entries, for the parts of the tick that follow (R50). -/
def noteFill (e : JournalEntry) (l : List ((Nat × Nat) × Nat)) : List ((Nat × Nat) × Nat) :=
  match e.op with
  | .put loaf line _ w =>
    let k := (loaf + line / 2048, line % 2048)
    if w.rank = 4 then put k (Nat.max w.key1 (look 0 k l)) l else l
  | _ => l

/-- The journal at a commit: replies leave, and only this attempt's entries stay (R50, R69). -/
def commitJournal (s : State) : State :=
  let mine := s.mem.journal.filter (fun e => e.serial == s.att.serial)
  let s := each releaseReply mine s
  { s with mem := { s.mem with journal := mine.map (fun e => { e with answer := none }), filled := each noteFill mine s.mem.filled } }

/-- The journal after a discard: the failed attempt's entries belong to the next and are applied again (R76). -/
def replayJournal (failed : Nat) (s : State) : State :=
  let again := s.mem.journal.filter (fun e => e.serial == failed)
  let s := { s with mem := { s.mem with journal := again.map (fun e => { e with serial := s.att.serial }) } }
  each (fun (e : JournalEntry) s => applyJournal e.op s) again s

end Sys2Proof.Machine
end

