-- ==== Sys2Proof/Machine/Collective.lean ====
section
/-! DEFINITION. The collective engine: staging, chunks and epochs, stages, reductions, results, completion windows, barriers,
and the end of a stop (R283, R296 to R314). -/

namespace Sys2Proof.Machine

/-! ## An entry at this device -/

/-- What a plan entry is here: image, declarations, plan, entry and shape. -/
structure CollCtx where
  coll : Nat
  im : Image
  ds : List Decl
  pl : Plan
  e : CollEntry
  sh : CollShape

/-- The context of an entry of the open job; none for an entry that is unknown here (R309). -/
def State.collCtx (s : State) (coll : Nat) : Option CollCtx :=
  match s.job, s.fab.plan with
  | some j, some pl =>
    match j.image.colls[coll]? with
    | none => none
    | some e => (shapeOf j.image j.decls pl e).map (fun sh => { coll := coll, im := j.image, ds := j.decls, pl := pl, e := e, sh := sh })
  | _, _ => none

def CollCtx.srcFmt (c : CollCtx) : Nat := loafFormat c.im c.ds c.e.srcLoaf

def CollCtx.dstFmt (c : CollCtx) : Nat := loafFormat c.im c.ds c.e.dstLoaf

/-- The address of a rank, and the rank of an address. -/
def CollCtx.addr (c : CollCtx) (r : Nat) : Nat := c.im.addrOf c.pl (c.im.groups.getD c.e.group {}) r

def CollCtx.rank (c : CollCtx) (a : Nat) : Option Nat := c.im.rankOf c.pl (c.im.groups.getD c.e.group {}) a

/-- Lines of a chunk (R297 CHUNK). -/
def CollEntry.chunkLines (e : CollEntry) : Nat := 64 * 2 ^ e.chunk

/-- Lines and trays of one unit of a transfer (R302). -/
def CollCtx.unitShape (c : CollCtx) (combine source : Bool) : Nat × Nat :=
  let f := if source then c.srcFmt else c.dstFmt
  if c.e.reduces then
    (if combine && !source then (128, 0) else (4096 / perLine f, if isTray f then 4096 / perLine f / 32 else 0))
  else (c.e.unitLines f, if isTray f then c.e.unitLines f / 32 else 0)

/-- Reduce-scatter stages of the entry (R303, R304). -/
def CollCtx.reduceStages (c : CollCtx) : Nat :=
  if c.e.op = 2 then c.e.stages else if c.e.op = 1 then c.e.stages / 2 else 0

/-- Segment of a rank in the whole data (R302). -/
def CollCtx.segmentOf (c : CollCtx) (r : Nat) : URange := segment (0, c.sh.units) c.sh.p r

/-- The unit of the destination range that a unit of the whole data is: its own place, or of REDUCE_SCATTER its place in the
segment that holds it (R300, R302). -/
def CollCtx.destUnit (c : CollCtx) (u : Nat) : Nat :=
  if c.e.op = 2 then
    match (List.range c.sh.p).find? (fun j => decide ((c.segmentOf j).1 ≤ u) && decide (u < (c.segmentOf j).2)) with
    | some j => u - (c.segmentOf j).1
    | none => u
  else u

/-! ## Runs -/

/-- The run of an entry in the job's current step. -/
def State.run (s : State) (coll : Nat) : Option CollRun := s.coll.find? (fun r => r.coll == coll && r.step == s.step)

def putRun (r : CollRun) : List CollRun → List CollRun
  | [] => [r]
  | x :: l => if x.coll = r.coll ∧ x.step = r.step then r :: l else x :: putRun r l

def State.setRun (s : State) (r : CollRun) : State := { s with coll := putRun r s.coll }

/-- Apply a function to an entry's run. -/
def State.onRun (s : State) (coll : Nat) (f : CollRun → CollRun) : State :=
  match s.run coll with
  | some r => s.setRun (f r)
  | none => s

/-- The entry has been issued in this step (R301). -/
def State.issued (s : State) (coll : Nat) : Bool :=
  match s.job with
  | some j => j.collIssued.contains coll
  | none => false

/-! ## Transfers and chunks (R302, R305, R310) -/

/-- The count a rank sends to this device, once it is known (R305). -/
def CollRun.countOf (r : CollRun) (i : Nat) : Option Nat := look? i r.recvCounts

/-- Lines and trays of a received transfer; none while an ALL_TO_ALL_V count is not known. -/
def CollCtx.recvSize (c : CollCtx) (r : CollRun) (x : Xfer) : Option (Nat × Nat) :=
  if c.e.op = 6 then (r.countOf x.peer).map (fun n => (n, if isTray c.dstFmt then n / 32 else 0))
  else
    let u := c.unitShape x.combine x.source
    some ((x.units.2 - x.units.1) * u.1, (x.units.2 - x.units.1) * u.2)

/-- Chunks of a transfer of some lines; a barrier round is one chunk (R302, R307). -/
def CollCtx.chunks (c : CollCtx) (lines : Nat) : Nat := if c.e.op = 7 then 1 else ceilDiv lines c.e.chunkLines

/-- Bytes of chunk `k` of a transfer: its lines and the scale records of its trays. -/
def CollCtx.chunkBytes (c : CollCtx) (size : Nat × Nat) (k : Nat) : Nat :=
  let n := Nat.min c.e.chunkLines (size.1 - k * c.e.chunkLines)
  64 * n + (if size.2 = 0 then 0 else 32 * (n / 32))

/-- The transfers received in a stage: of ALL_TO_ALL_V its counts in stage 0 and its data in stage 1 (R303, R305). -/
def CollCtx.recvs (c : CollCtx) (stage : Nat) : List Xfer :=
  if c.e.op = 6 then (if stage < 2 then c.sh.others.map (fun j => { peer := j, units := (0, 0) }) else [])
  else if stage < c.e.stages then (c.sh.stage stage).recvs else []

def CollCtx.sends (c : CollCtx) (stage : Nat) : List Xfer :=
  if c.e.op = 6 then (if stage < 2 then c.sh.others.map (fun j => { peer := j, units := (0, 0) }) else [])
  else if stage < c.e.stages then (c.sh.stage stage).sends else []

/-- A chunk number of a stage: stage in [31:20], index in [19:0] (R307). -/
def chunkNo (stage k : Nat) : Nat := stage * 2 ^ 20 + k

/-- A chunk held by the run. -/
def CollRun.chunk? (r : CollRun) (chunk peer : Nat) : Option RecvChunk := r.recv.find? (fun x => x.chunk == chunk && x.peer == peer)

def putChunk (x : RecvChunk) : List RecvChunk → List RecvChunk
  | [] => [x]
  | y :: l => if y.chunk = x.chunk ∧ y.peer = x.peer then x :: l else y :: putChunk x l

/-- Every chunk of a received transfer is complete. -/
def CollCtx.xferDone (c : CollCtx) (r : CollRun) (stage : Nat) (x : Xfer) : Bool :=
  if c.e.op = 6 ∧ stage = 0 then (r.countOf x.peer).isSome
  else match c.recvSize r x with
    | none => false
    | some size => (List.range (c.chunks size.1)).all (fun k => match r.chunk? (chunkNo stage k) (c.addr x.peer) with
      | some y => y.complete
      | none => false)

/-- The lines and scale records of a received transfer, its chunks joined. -/
def CollCtx.joined (c : CollCtx) (r : CollRun) (stage : Nat) (x : Xfer) : List Byte × List Byte :=
  match c.recvSize r x with
  | none => ([], [])
  | some size =>
    let parts := (List.range (c.chunks size.1)).map (fun k =>
      let d := match r.chunk? (chunkNo stage k) (c.addr x.peer) with | some y => y.data | none => []
      let n := 64 * Nat.min c.e.chunkLines (size.1 - k * c.e.chunkLines)
      (d.take n, d.drop n))
    ((parts.map (·.1)).flatten, (parts.map (·.2)).flatten)

/-- Units cut from joined lines and scale records. -/
def cutUnits (shape : Nat × Nat) (lo : Nat) (d : List Byte × List Byte) (n : Nat) : List (Nat × List Byte) :=
  (List.range n).map (fun i =>
    (lo + i, (d.1.drop (64 * shape.1 * i)).take (64 * shape.1) ++ (d.2.drop (32 * shape.2 * i)).take (32 * shape.2)))

/-- The units of a received transfer. -/
def CollCtx.recvUnits (c : CollCtx) (r : CollRun) (stage : Nat) (x : Xfer) : List (Nat × List Byte) :=
  cutUnits (c.unitShape x.combine x.source) x.units.1 (c.joined r stage x) (x.units.2 - x.units.1)

/-- The bytes of one unit to send: a partial or final result held, otherwise the source's. -/
def CollRun.unit (r : CollRun) (u : Nat) : List Byte := (look? u r.partials).getD (look [] u r.source)

/-- The chunks of a transfer to send, cut from its units (R302). -/
def CollCtx.cutChunks (c : CollCtx) (shape : Nat × Nat) (units : List (List Byte)) : List (List Byte) :=
  let lines := (units.map (·.take (64 * shape.1))).flatten
  let scales := (units.map (·.drop (64 * shape.1))).flatten
  let n := c.e.chunkLines
  (List.range (ceilDiv (lines.length / 64) n)).map (fun k =>
    (lines.drop (64 * n * k)).take (64 * n) ++ (scales.drop (32 * (n / 32) * k)).take (32 * (n / 32)))

/-! ## Packets (R302, R307, R310) -/

/-- The entry sends on its circuit: USE_CIRCUIT is 1 and the circuit is installed (Table 7). -/
def CollCtx.onCircuit (c : CollCtx) (s : State) : Bool :=
  c.e.useCircuit && s.fab.ports.any (fun p => p.2.circuits.any (fun k => k.number == c.e.circuitNo))

/-- The header of a collective packet. -/
def CollCtx.header (c : CollCtx) (typ chunk peer epoch : Nat) (s : State) : Packet :=
  let urgent := decide (typ = 0x20) || (decide (typ = 0x11) && decide (c.e.op = 7))
  let circuit := !urgent && decide (typ ≠ 0x12) && c.onCircuit s
  { dest := BitVec.ofNat 24 peer, src := BitVec.ofNat 24 c.pl.address, typ := BitVec.ofNat 6 typ,
    cls := if urgent then 0 else if circuit then 1 else 2, rgen := BitVec.ofNat 4 s.fab.resetGen,
    window := BitVec.ofNat 12 s.step, flow := if circuit then BitVec.ofNat 16 c.e.circuitNo else BitVec.ofNat 16 chunk,
    chunk := BitVec.ofNat 32 chunk, epoch := BitVec.ofNat 8 epoch, coll := BitVec.ofNat 16 c.coll }

/-- The type a chunk travels as: a barrier round, a count, or data. -/
def CollCtx.chunkType (c : CollCtx) (chunk : Nat) : Nat :=
  if c.e.op = 7 then 0x20 else if c.e.op = 6 ∧ chunk < 2 ^ 20 then 0x12 else 0x10

/-- Send a chunk's packets of at most 2,048 bytes (Table 7). -/
def sendChunk (c : CollCtx) (k : SentChunk) (s : State) : State :=
  let h := c.header (c.chunkType k.chunk) k.chunk k.peer k.epoch.toNat s
  each (fun i s => inject { h with offset := BitVec.ofNat 32 (32 * i), payload := (k.data.drop (2048 * i)).take 2048 } s)
    (List.range (Nat.max 1 (ceilDiv k.data.length 2048))) s

/-- Acknowledge a chunk in the class of the chunk, with this device's slip and pace (Table 7). -/
def sendAck (c : CollCtx) (p : Packet) (status : Nat) (s : State) : State :=
  let h := c.header 0x11 p.chunk.toNat p.src.toNat p.epoch.toNat s
  inject { h with window := p.window, cls := p.cls, flow := p.flow, payload := leBytes 4 (Nat.min 0xFFFFFFFF s.att.slip) ++ leBytes 2 s.pace ++ leBytes 2 status ++ List.replicate 8 0 } s

/-- An answer without a job or an entry: only the status and this device's figures (R309). -/
def sendBareAck (p : Packet) (status : Nat) (s : State) : State :=
  inject { p with dest := p.src, src := p.dest, typ := 0x11,
                  payload := leBytes 4 (Nat.min 0xFFFFFFFF s.att.slip) ++ leBytes 2 s.pace ++ leBytes 2 status ++ List.replicate 8 0 } s

/-! ## Staging (R306) -/

/-- A line of a staging loaf is written in place, in its frame, which is one of HBM4: neither versioned nor journalled (R306). -/
def stageLine (loaf j : Nat) (data : List Byte) (s : State) : State :=
  let c := s.committedFrame loaf
  if c ≠ noFrame then s.setFrameLine c j data
  else match s.freeExternal loaf false with
    | none => s
    | some f =>
      (({ s with mem := { s.mem.take f with bytes := copyFrame noFrame f s.mem.bytes } } : State).setEntry loaf
        { s.entry loaf with frameC := f }).setFrameLine f j data

/-- Bytes enter an entry's staging range in whole lines behind what it holds (R306; notes/assumptions/79.md). -/
def stageBytes (c : CollCtx) (bytes : List Byte) (s : State) : State :=
  match s.run c.coll with
  | none => s
  | some r =>
    let ls := (cutLines bytes).zipIdx r.staged
    each (fun (x : List Byte × Nat) s => if x.2 < c.e.stageLines then stageLine (c.e.stageLoaf + x.2 / 2048) (x.2 % 2048) x.1 s else s) ls
      (s.setRun { r with staged := r.staged + ls.length })

/-! ## Results (R304, R305, R307) -/

/-- The rank of a collective result: by entry, then by chunk number (R68, R307). -/
def collWriter (coll chunk : Nat) : Writer := { rank := 2, key1 := coll, key2 := chunk }

/-- Write lines of the destination range as a chunk result (R307). -/
def writeResult (w : Writer) (loaf line : Nat) (ls : List (List Byte)) (s : State) : State :=
  each (fun (x : List Byte × Nat) s => journalWrite (.put loaf (line + x.2) x.1 w) none s) ls.zipIdx s

/-- Write scale records of consecutive trays, from the tray of a line on. -/
def writeScales (w : Writer) (loaf line : Nat) (scales : List Byte) (s : State) : State :=
  each (fun i s =>
    let t := line / 32 + i
    journalWrite (.scale (loaf + t / 64) (t % 64) (parseScale ((scales.drop (32 * i)).take 32)) w) none s)
    (List.range (scales.length / 32)) s

/-- Write a final unit of a reduction: its lines, then its scale records. -/
def writeUnit (c : CollCtx) (chunk u : Nat) (bytes : List Byte) (s : State) : State :=
  let shape := c.unitShape false false
  let line := c.destUnit u * shape.1
  let s := writeResult (collWriter c.coll chunk) c.e.dstLoaf line (cutLines (bytes.take (64 * shape.1))) s
  writeScales (collWriter c.coll chunk) c.e.dstLoaf line (bytes.drop (64 * shape.1)) s

/-- The exact values of a unit: of the source or destination format with its trays' scales, or of RFORMAT (R160, R304). -/
def unitValues (f lines : Nat) (bytes : List Byte) : List Exact :=
  let codes := (codesOf f (bytes.take (64 * lines))).map (decode f)
  if isTray f then
    let per := 32 * perLine f
    codes.zipIdx.map (fun x =>
      let r := parseScale ((bytes.drop (64 * lines + 32 * (x.2 / per))).take 32)
      x.1.scale (-(scaleExp r.scale.toNat)))
  else codes

/-- The sum of two lists of values, lane by lane, with no rounding (R304). -/
def addValues : List Exact → List Exact → List Exact
  | x :: xs, y :: ys => x.add y :: addValues xs ys
  | xs, [] => xs
  | [], ys => ys

/-- RFORMAT's format code: 0 L16, 1 BF16 (R297). -/
def CollEntry.rFmt (e : CollEntry) : Nat := if e.rBf16 then 1 else 3

/-- The stored element index of the first destination element of a unit (R168, R304). -/
def CollCtx.elementOf (c : CollCtx) (u : Nat) (s : State) : Nat :=
  let d := c.destUnit u
  let line := d * (c.unitShape false false).1
  let tensor := match declOf c.ds c.e.dstLoaf with | some x => x.tensor | none => 0
  s.elementIndex tensor c.e.dstLoaf line

/-- Add a collective result's numerics counts: a discard leaves the result, and so its counts, and the next commit adds them; UNDERFLOW is of a
quantising drain only (R181, R307). -/
def addCollCounts (tensor : Nat) (c : TensorCounters) (s : State) : State :=
  if c = {} then s
  else s.onJob (fun j =>
    let o := look {} tensor j.collCounts
    { j with collCounts := put tensor { o with sat := o.sat + c.sat, nan := o.nan + c.nan, ovfTrays := o.ovfTrays + c.ovfTrays } j.collCounts })

/-- What rounding one unit of a reduction gives: its bytes, its counts, and whether NONFINITE is met (R157, R181, R304). -/
def reduceUnit (c : CollCtx) (stage u : Nat) (sum : List Exact) (s : State) : List Byte × TensorCounters × Bool :=
  let tensor := match declOf c.ds c.e.dstLoaf with | some x => x.tensor | none => 0
  let n := c.im.numerics.getD tensor {}
  let seed := match s.job with | some j => j.seed.toNat | none => 0
  let q : QuantKey := { seed := seed, tensor := tensor, draw := 3 + stage, step := s.step }
  let i := c.elementOf u s
  if stage + 1 < c.reduceStages then
    let r := roundAll q c.e.rFmt true 0 i sum
    (bytes16 (r.map (·.1)), { sat := marks .sat r, nan := marks .nan r }, false)
  else if isTray n.format then
    let per := 32 * perLine n.format
    let trays := 4096 / per
    let shape := c.unitShape false false
    let line := c.destUnit u * shape.1
    let rs := (List.range trays).map (fun t =>
      let tr := line / 32 + t
      quantiseTray q { n with current := true } false (s.scaleOf (c.e.dstLoaf + tr / 64) (tr % 64)) (i + per * t) ((sum.drop (per * t)).take per))
    ((rs.map (fun r => bytesOf n.format (r.codes.getD (List.replicate per 0)))).flatten ++ (rs.map (fun r => scaleBytes r.record)).flatten,
      { sat := (rs.map (·.counts.sat)).sum, nan := (rs.map (·.counts.nan)).sum, ovfTrays := (rs.map (·.counts.ovfTrays)).sum },
      rs.any (·.nonfinite))
  else
    let r := roundAll q n.format true 0 i sum
    (bytes16 (r.map (·.1)), { sat := marks .sat r, nan := marks .nan r }, decide (n.cls = 1) && sum.any (fun x => !x.finite))

/-- Combine one unit in a stage, hold the result and, when the stage completes it, write it (R304, R307). -/
def combineUnit (c : CollCtx) (stage : Nat) (x : (Nat × List (List Exact)) × Nat) (s : State) : State :=
  let u := x.1.1
  match s.run c.coll with
  | none => s
  | some r =>
    let own := match look? u r.partials with
      | some b => unitValues c.e.rFmt 128 b
      | none => unitValues c.srcFmt (c.unitShape true true).1 (look [] u r.source)
    let sum := x.1.2.foldl addValues own
    let y := reduceUnit c stage u sum s
    let tensor := match declOf c.ds c.e.dstLoaf with | some d => d.tensor | none => 0
    let s := addCollCounts tensor y.2.1 (s.setRun { r with partials := put u y.1 r.partials })
    if stage + 1 < c.reduceStages then s
    else
      let s := if y.2.2 then raise (loafRaise .nonfinite tensor s) s else s
      writeUnit c (chunkNo stage x.2) u y.1 s

/-- The combination of a reducing stage: every unit of its range with the contributions received for it (R303, R304). -/
def combineStage (c : CollCtx) (stage : Nat) (r : CollRun) (s : State) : State :=
  let xs := (c.recvs stage).filter (·.combine)
  match xs with
  | [] => s
  | x :: _ =>
    let shape := c.unitShape x.combine x.source
    let f := if x.source then c.srcFmt else c.e.rFmt
    let parts := xs.map (fun y => c.recvUnits r stage y)
    let us := (List.range (x.units.2 - x.units.1)).map (fun i =>
      ((x.units.1 + i, parts.map (fun p => unitValues f shape.1 (look [] (x.units.1 + i) p))), i * shape.1 / c.e.chunkLines))
    each (combineUnit c stage) us s

/-! ## Delivery of received lines (R305, R307) -/

/-- Lines of each rank's block as stored: a block that passes DST_LINES is cut (R305). -/
def storedCounts (dst : Nat) : Nat → List Nat → List (Nat × Nat)
  | _, [] => []
  | off, n :: ns =>
    let k := Nat.min n (dst - off)
    (off, k) :: storedCounts dst (off + k) ns

/-- The blocks of ALL_TO_ALL_V once every count is known: destination line and lines stored (R305). -/
def CollCtx.blocks (c : CollCtx) (r : CollRun) : Option (List (Nat × Nat)) :=
  let ns := (List.range c.sh.p).map (fun i => r.countOf i)
  if ns.all Option.isSome then some (storedCounts c.e.dstLines 0 (ns.map (·.getD 0))) else none

/-- Where the lines of a received transfer go: first destination line and how many are stored; none until it is known. -/
def CollCtx.place (c : CollCtx) (r : CollRun) (x : Xfer) : Option (Nat × Nat) :=
  if c.e.op = 6 then (c.blocks r).map (fun b => b.getD x.peer (0, 0))
  else
    let n := (c.unitShape false false).1
    some (c.destUnit x.units.1 * n, (x.units.2 - x.units.1) * n)

/-- Write one complete chunk of a transfer that combines nothing (R307). -/
def deliverChunk (c : CollCtx) (y : RecvChunk) (s : State) : State :=
  match s.run c.coll with
  | none => s
  | some r =>
    let stage := y.chunk / 2 ^ 20
    let k := y.chunk % 2 ^ 20
    match (c.rank y.peer).bind (fun q => (c.recvs stage).find? (fun x => x.peer == q)) with
    | none => s
    | some x =>
      if x.combine ∨ !y.complete ∨ y.delivered ∨ !r.begun ∨ c.e.op = 7 ∨ (c.e.op = 6 ∧ stage = 0) then s
      else match c.place r x, c.recvSize r x with
        | some (line, stored), some size =>
          let n := Nat.min c.e.chunkLines (size.1 - k * c.e.chunkLines)
          let keep := Nat.min n (stored - k * c.e.chunkLines)
          let l := line + k * c.e.chunkLines
          let s := s.setRun { r with recv := putChunk { y with delivered := true } r.recv }
          let s := writeResult (collWriter c.coll y.chunk) c.e.dstLoaf l (cutLines (y.data.take (64 * keep))) s
          writeScales (collWriter c.coll y.chunk) c.e.dstLoaf l ((y.data.drop (64 * n)).take (32 * (keep / 32))) s
        | _, _ => s

/-- Write every chunk that can now be written. -/
def deliverAll (c : CollCtx) (s : State) : State :=
  match s.run c.coll with
  | none => s
  | some r => each (deliverChunk c) r.recv s

/-- Own data of an operation that gathers, to its own place (R303). -/
def deliverOwn (c : CollCtx) (s : State) : State :=
  match s.run c.coll with
  | none => s
  | some r =>
    let shape := c.unitShape false false
    if c.e.reduces ∨ c.e.op = 7 then s
    else if c.e.op = 6 then
      match c.blocks r with
      | none => s
      | some b =>
        let (line, n) := b.getD c.sh.r (0, 0)
        let d := look [] c.sh.r r.source
        let whole := 64 * ((r.countOf c.sh.r).getD 0)
        let s := writeResult (collWriter c.coll 0) c.e.dstLoaf line (cutLines (d.take (64 * n))) s
        writeScales (collWriter c.coll 0) c.e.dstLoaf line ((d.drop whole).take (32 * (n / 32))) s
    else each (fun (x : Nat × List Byte) s =>
      let line := x.1 * shape.1
      let s := writeResult (collWriter c.coll 0) c.e.dstLoaf line (cutLines (x.2.take (64 * shape.1))) s
      writeScales (collWriter c.coll 0) c.e.dstLoaf line (x.2.drop (64 * shape.1)) s) r.source s

/-- The RECV array, written once every count is known, and A2A_TRUNCATED for each block that is cut (R305). -/
def writeRecv (c : CollCtx) (s : State) : State :=
  match s.run c.coll with
  | none => s
  | some r => match c.blocks r with
    | none => s
    | some b =>
      let bytes := (b.map (fun x => leBytes 4 x.2)).flatten
      let padded := bytes ++ List.replicate (64 * ceilDiv c.sh.p 16 - bytes.length) 0
      let s := writeResult (collWriter c.coll 0) c.e.countLoaf (ceilDiv c.sh.p 16) (cutLines padded) s
      each (fun i s =>
        if (b.getD i (0, 0)).2 < (r.countOf i).getD 0 then
          raise (fabRaise .a2aTruncated .device 0 0 0 (c.addr i) (chunkNo 1 0) s) s
        else s) (List.range c.sh.p) s

/-! ## Stages (R301 to R303, R312, R314) -/

/-- The window operations issued before the barrier have all been replied to (R282, R314). -/
def State.marksClear (s : State) (marks : List (Nat × Nat)) : Bool :=
  marks.all (fun m => match s.peer m.1 with
    | none => true
    | some x => x.unreplied.all (fun u => decide (m.2 ≤ u.seq)) && x.waiting.all (fun w => decide (m.2 ≤ w.1.e2eSeq.toNat)))

/-- The data of one transfer to send, in chunks. -/
def CollCtx.sendData (c : CollCtx) (r : CollRun) (stage : Nat) (x : Xfer) : List (List Byte) :=
  if c.e.op = 7 then [[]]
  else if c.e.op = 6 then
    (if stage = 0 then [leBytes 4 (r.sendCounts.getD x.peer 0)]
     else c.cutChunks (r.sendCounts.getD x.peer 0, 0) [look [] x.peer r.source])
  else c.cutChunks (c.unitShape x.combine x.source) ((List.range (x.units.2 - x.units.1)).map (fun i => r.unit (x.units.1 + i)))

/-- Send a stage's chunks, in ascending chunk order (R302, R310). -/
def sendStage (c : CollCtx) (stage : Nat) (s : State) : State :=
  match s.run c.coll with
  | none => s
  | some r =>
    let ks : List SentChunk := ((c.sends stage).map (fun x =>
      ((c.sendData r stage x).zipIdx).map (fun d => ({ chunk := chunkNo stage d.2, peer := c.addr x.peer, data := d.1 } : SentChunk)))).flatten
    let s := s.setRun { r with sent := r.sent ++ ks }
    each (sendChunk c) ks s

/-- A round or stage begins: its chunks are sent, but for a barrier's round 0 while window operations wait for replies. -/
def beginStage (c : CollCtx) (s : State) : State :=
  match s.run c.coll with
  | none => s
  | some r =>
    if c.e.op = 7 ∧ r.stage = 0 ∧ !s.marksClear r.barrierMarks then s else sendStage c r.stage s

/-- The stage has sent what it sends and holds what it receives. -/
def CollCtx.ready (c : CollCtx) (r : CollRun) : Bool :=
  r.begun && !r.finished && (c.recvs r.stage).all (c.xferDone r r.stage) &&
    (c.e.op ≠ 7 || r.sent.any (fun k => k.chunk / 2 ^ 20 == r.stage))

/-- An entry is complete when it has finished and every chunk it sent has been acknowledged (R312). -/
def settleRun (coll : Nat) (s : State) : State :=
  match s.run coll with
  | none => s
  | some r =>
    if r.finished ∧ !r.complete ∧ r.sent.all (·.acked) then
      (s.setRun { r with complete := true }).onJob (fun j => { j with collDone := j.collDone ++ [coll] })
    else s

/-- What a stage received and does not combine is held for the stages after it. -/
def CollCtx.keep (c : CollCtx) (r : CollRun) : CollRun :=
  let us := (((c.recvs r.stage).filter (fun x => !x.combine)).map (c.recvUnits r r.stage)).flatten
  { r with partials := each (fun (u : Nat × List Byte) l => put u.1 u.2 l) us r.partials }

/-- The next stage begins, or the entry has finished. -/
def nextStage (c : CollCtx) (s : State) : State :=
  match s.run c.coll with
  | none => s
  | some r =>
    if r.stage + 1 < c.e.stages then beginStage c (s.setRun { r with stage := r.stage + 1 })
    else settleRun c.coll (s.setRun { r with stage := r.stage + 1, finished := true })

/-- A stage whose inputs are complete combines them, and the next begins (R303, R304). -/
def completeStage (c : CollCtx) (s : State) : State :=
  match s.run c.coll with
  | none => s
  | some r =>
    if !c.ready r then s
    else
      let s := combineStage c r.stage r (s.setRun (if c.e.op = 6 then r else c.keep r))
      nextStage c s

/-- A barrier goes through every round whose message it holds (R314). -/
def advanceBarrier (c : CollCtx) : Nat → State → State
  | 0, s => s
  | n + 1, s => if c.e.op = 7 then advanceBarrier c n (completeStage c s) else s

/-- Round 0 of the barriers that waited for replies (R314). -/
def startBarriers (s : State) : State :=
  each (fun (r : CollRun) s =>
    match s.collCtx r.coll with
    | none => s
    | some c =>
      if c.e.op = 7 ∧ r.begun ∧ r.step = s.step ∧ r.stage = 0 ∧ r.sent.isEmpty ∧ !r.finished then
        advanceBarrier c (c.e.stages + 1) (beginStage c s)
      else s) s.coll s

/-- The units of a source range, with the scale records of their trays, and the number of the first (R301, R302). -/
def CollCtx.copySource (c : CollCtx) (s : State) : List (Nat × List Byte) :=
  let f := c.srcFmt
  let lines := if c.e.reduces then 4096 / perLine f else c.e.unitLines f
  let first := if c.e.op = 3 ∨ c.e.op = 5 then (c.segmentOf c.sh.r).1 else 0
  let mine := c.e.reduces || c.e.op != 4 || c.sh.r == c.e.root
  if !mine then []
  else (List.range (c.e.srcLines / Nat.max 1 lines)).map (fun i =>
    (first + i, s.readLines c.e.srcLoaf (lines * i) lines ++
      (if isTray f then ((List.range (lines / 32)).map (fun t =>
        let tr := lines * i / 32 + t
        scaleBytes (s.scaleOf (c.e.srcLoaf + tr / 64) (tr % 64)))).flatten else [])))

/-- The counts and blocks of ALL_TO_ALL_V, one block for each rank (R305). Lines past the source range are not staged: `fill`
stands for them (notes/assumptions/21.md). -/
def CollCtx.copyBlocks (c : CollCtx) (fill : List Byte) (s : State) : List Nat × List (Nat × List Byte) :=
  let f := c.srcFmt
  let counts := (List.range c.sh.p).map (fun i => leNat (((s.readLine c.e.countLoaf (i / 16)).drop (4 * (i % 16))).take 4))
  (counts, (List.range c.sh.p).map (fun j =>
    let start := (counts.take j).sum
    let n := counts.getD j 0
    (j, ((List.range n).map (fun i => if start + i < c.e.srcLines then s.readLine c.e.srcLoaf (start + i) else fill)).flatten ++
      (if isTray f then ((List.range (n / 32)).map (fun t =>
        let tr := start / 32 + t
        scaleBytes (s.scaleOf (c.e.srcLoaf + tr / 64) (tr % 64)))).flatten else []))))

/-- Copy the source and the counts into staging (R301, R306). -/
def stageInputs (c : CollCtx) (r : CollRun) (s : State) : State :=
  if c.e.op = 6 then
    let (fill, s) := freshBytes 4 s
    let x := c.copyBlocks fill s
    stageBytes c ((x.1.map (leBytes 4)).flatten ++ (x.2.map (·.2)).flatten)
      (s.setRun { r with begun := true, sendCounts := x.1, source := x.2, recvCounts := put c.sh.r (x.1.getD c.sh.r 0) r.recvCounts })
  else if c.e.op = 7 then s.setRun { r with begun := true }
  else
    let u := c.copySource s
    stageBytes c ((u.map (·.2)).flatten) (s.setRun { r with begun := true, source := u, partials := if c.e.reduces then [] else u })

/-- A group of one has no stage: a reduction's result is its own source, rounded once (notes/assumptions/21.md). -/
def soleResult (c : CollCtx) (s : State) : State :=
  match s.run c.coll with
  | none => s
  | some r =>
    let s := if c.e.reduces then
        each (fun (u : Nat × List Byte) s => combineUnit { c with e := { c.e with stages := if c.e.op = 2 then 1 else 2 } } 0 ((u.1, []), 0) s) r.source s
      else s
    s.onRun c.coll (fun r => { r with finished := true })

/-- What the engine's reads of an entry's source and counts met (R232, R240, R241, R301). -/
def sourceReads (c : CollCtx) (reads : List MemRead) (s : State) : State :=
  hubReads (fun r => readWithin r c.e.srcLoaf 0 c.e.srcLines || (decide (c.e.op = 6) && readWithin r c.e.countLoaf 0 (ceilDiv c.sh.p 16))) reads s

/-- Stage 0 of an entry that has been issued: its source and counts are staged, and what this device sends and holds itself goes its way (R301 to
R303, R305, R314). -/
def startStages (c : CollCtx) (r : CollRun) (s : State) : State :=
  let s := stageInputs c r s
  let s := deliverOwn c (if c.e.op = 6 then writeRecv c s else s)
  let s := deliverAll c s
  if c.e.stages = 0 then settleRun c.coll (soleResult c s) else advanceBarrier c (c.e.stages + 1) (beginStage c s)

/-- COLLECTIVE_STAGE0_START: 150 ns after its issue the engine copies an entry's source and counts into staging and begins
stage 0 (R301 to R303, R305, R306, R314). -/
def execCollectiveStage0Start (start : StageStart) (s : State) : Host.Outcome State Fault Refusal :=
  guardUnit (decide (start.coll < 65535)) (
    match s.collCtx start.coll, s.run start.coll with
    | some c, some r =>
      if r.begun || !s.issued start.coll then s
      else
        let s := sourceReads c start.reads s
        if s.job.isNone then s else startStages c r s
    | _, _ => s)

/-- COLLECTIVE_STAGE_COMPLETE: a stage's inputs are complete; it combines them and the next stage begins (R303, R304, R307). -/
def execCollectiveStageComplete (coll : Nat) (s : State) : Host.Outcome State Fault Refusal :=
  guardUnit (decide (coll < 65535)) (
    match s.collCtx coll with
    | some c => completeStage c s
    | none => s)

/-! ## Receiving (R305, R308, R309) -/

/-- A Trigrim neighbour shows this address: FABRIC_ADDR holds it below bit 31, which says that it is assigned (R263 Table 9, R287, R288). What
generation a device further off is of no packet tells (notes/assumptions/20.md). -/
def State.trigrim (s : State) (a : Nat) : Bool :=
  s.fab.ports.any (fun x => match x.2.peerHello with
    | some h => h.generation == 3 && h.fabricAddr.getLsbD 31 && h.fabricAddr.toNat % 2 ^ 24 == a
    | none => false)

/-- Compute is fenced or in reset (R278, R288, R309). -/
def State.shut (s : State) : Bool := s.dev.fenced || s.dev.resetBusy || decide (s.dev.state = .transit)

/-- The run of an entry; a chunk that comes before the issue makes it (R309). -/
def State.runOr (s : State) (coll : Nat) : CollRun := (s.run coll).getD { coll := coll, step := s.step }

/-- A received packet of a chunk, under its epochs (R308). -/
def RecvChunk.take (y : RecvChunk) (p : Packet) : RecvChunk :=
  let d := (p.epoch.toNat + 256 - y.epoch.toNat) % 256
  let own := fun (y : RecvChunk) => { y with held := put p.offset.toNat p.payload y.held }
  if d = 0 then own y
  else if d < 128 then own { y with epoch := p.epoch, held := [] }
  else y

/-- The packets of a chunk of some bytes, in order, when all are held. -/
def RecvChunk.assembled (y : RecvChunk) (bytes : Nat) : Option (List Byte) :=
  let ps := (List.range (Nat.max 1 (ceilDiv bytes 2048))).map (fun i => look? (32 * i) y.held)
  if ps.all Option.isSome then some ((ps.map (·.getD [])).flatten) else none

/-- Take a packet of an expected chunk; the chunk completes with its last packet (R308). -/
def takeChunk (c : CollCtx) (p : Packet) (s : State) : State :=
  let r := s.runOr c.coll
  let stage := p.chunk.toNat / 2 ^ 20
  let k := p.chunk.toNat % 2 ^ 20
  match (c.rank p.src.toNat).bind (fun q => (c.recvs stage).find? (fun x => x.peer == q)) with
  | none => s
  | some x =>
    let y := (r.chunk? p.chunk.toNat p.src.toNat).getD { chunk := p.chunk.toNat, peer := p.src.toNat, epoch := p.epoch }
    if y.complete then sendAck c p 0 s
    else
      let y := y.take p
      let size := if c.e.op = 7 then some (0, 0) else c.recvSize r x
      let whole := match size with
        | some z => if k < Nat.max 1 (c.chunks z.1) then y.assembled (if c.e.op = 7 then 0 else c.chunkBytes z k) else none
        | none => none
      match whole with
      | none => s.setRun { r with recv := putChunk y r.recv }
      | some d =>
        let s := stageBytes c d (s.setRun { r with recv := putChunk { y with complete := true, data := d, held := [] } r.recv })
        deliverAll c (sendAck c p 0 s)

/-- A count arrives: the peer's waiting chunks may now be whole (R305, R308). -/
def takeCountChunk (c : CollCtx) (p : Packet) (s : State) : State :=
  let r := s.runOr c.coll
  match c.rank p.src.toNat with
  | none => s
  | some q =>
    if c.e.op ≠ 6 then s
    else if (r.countOf q).isSome then sendAck c p 0 s
    else
      let r := { r with recvCounts := put q (leNat (p.payload.take 4)) r.recvCounts }
      let size := (c.recvSize r { peer := q, units := (0, 0) }).getD (0, 0)
      let fill := fun (y : RecvChunk) =>
        if y.peer = p.src.toNat ∧ !y.complete then
          match y.assembled (c.chunkBytes size (y.chunk % 2 ^ 20)) with
          | some d => { y with complete := true, data := d, held := [] }
          | none => y
        else y
      let done := r.recv.filter (fun y => decide (y.peer = p.src.toNat) && !y.complete && (fill y).complete)
      let s := stageBytes c (p.payload.take 4) (s.setRun { r with recv := r.recv.map fill })
      let s := each (fun (y : RecvChunk) s => stageBytes c (fill y).data s) done s
      let s := sendAck c p 0 s
      let s := each (fun (y : RecvChunk) s => sendAck c { p with chunk := BitVec.ofNat 32 y.chunk, epoch := y.epoch } 0 s) done s
      if r.begun && (c.blocks r).isSome then deliverAll c (deliverOwn c (writeRecv c s)) else s

/-- A packet of the collective engine arrives: FENCED, CLOSED, AHEAD, an old step's acknowledgement, or the chunk itself
(R288, R307, R309). -/
def receiveColl (p : Packet) (own : CollCtx → State → State) (s : State) : State :=
  if !s.forwards || decide (s.address ≠ some p.dest.toNat) then s
  else if s.shut then (if s.trigrim p.src.toNat then s else sendBareAck p 4 s)
  else match s.collCtx p.coll.toNat with
    | none => sendBareAck p 1 s
    | some c =>
      let d := (p.window.toNat + 4096 - s.step % 4096) % 4096
      if d = 0 then own c s
      else if d < 2048 then sendAck c p 6 s
      else sendAck c p 0 s

/-- A packet of a type that R307 Table 7 reserves, for this device, is dropped and counted. -/
def countReserved (p : Packet) (s : State) : State :=
  if decide (0x13 ≤ p.typ.toNat) && decide (p.typ.toNat ≤ 0x1F) && s.forwards && decide (s.address = some p.dest.toNat) then
    { s with fab := { s.fab with rsvDrops := s.fab.rsvDrops + 1 } }
  else s

/-- CHUNK_DATA: a packet of a collective chunk is received by epoch; the complete chunk is acknowledged (R288, R305 to R309). -/
def execChunkData (p : Packet) (s : State) : Host.Outcome State Fault Refusal :=
  .next (if p.typ ≠ 0x10 then countReserved p s else receiveColl p (fun c s => if c.e.op = 7 then s else takeChunk c p s) s)

/-- CHUNK_COUNT: an ALL_TO_ALL_V count arrives (R305, R307 to R309). -/
def execChunkCount (p : Packet) (s : State) : Host.Outcome State Fault Refusal :=
  .next (if p.typ ≠ 0x12 then s else receiveColl p (fun c s => takeCountChunk c p s) s)

/-- BARRIER: a barrier round's message arrives on URGENT and is acknowledged; the barrier goes on (R307 to R309, R314). -/
def execBarrier (p : Packet) (s : State) : Host.Outcome State Fault Refusal :=
  .next (if p.typ ≠ 0x20 then s
    else receiveColl p (fun c s => if c.e.op = 7 then advanceBarrier c (c.e.stages + 1) (takeChunk c p s) else s) s)

/-! ## Acknowledgements and timers (R310, R311, R313) -/

/-- COLL_PEER_LOST names the peer (R311, R444 Items form). -/
def peerLost (peer : Nat) (s : State) : State := raise (Raise.of .collPeerLost .device peer 0 0 0) s

/-- The chunk of a run that a peer has not acknowledged. -/
def SentChunk.is (k : SentChunk) (chunk peer : Nat) : Bool := k.chunk == chunk && k.peer == peer && !k.acked

/-- CHUNK_ACK: an acknowledgement releases its chunk, restarts its timer, or says that the peer's job is gone (R309 to R312). -/
def execChunkAck (p : Packet) (s : State) : Host.Outcome State Fault Refusal :=
  .next (
    let coll := p.coll.toNat
    let chunk := p.chunk.toNat
    let peer := p.src.toNat
    let slip := leNat (p.payload.take 4)
    let pace := leNat ((p.payload.drop 4).take 2)
    let status := leNat ((p.payload.drop 6).take 1) % 16
    if p.typ ≠ 0x11 || !s.forwards || s.shut || decide (s.address ≠ some p.dest.toNat) then s
    else
      let s := { s with fab := { s.fab with peerPace := put peer (slip, pace) s.fab.peerPace } }
      match s.run coll with
      | none => s
      | some r =>
        if p.window.toNat ≠ s.step % 4096 ∨ !r.sent.any (fun k => k.is chunk peer) then s
        else
          if status = 0 then
            settleRun coll (s.setRun { r with sent := r.sent.map (fun k => if k.is chunk peer then { k with acked := true } else k) })
          else if status = 6 then
            s.setRun { r with sent := r.sent.map (fun k => if k.is chunk peer then { k with reissues := 0 } else k) }
          else peerLost peer (s.setRun r))

/-- Send a chunk again at the next epoch (R310). -/
def reissue (c : CollCtx) (k : SentChunk) (timer : Bool) (s : State) : State :=
  let k' := { k with epoch := k.epoch + 1, beforeStop := false, reissues := if timer then k.reissues + 1 else k.reissues }
  sendChunk c k' (s.onRun c.coll (fun r => { r with sent := r.sent.map (fun x => if x.is k.chunk k.peer then k' else x) }))

/-- A flood event is held whose swap has not taken place, or a swap is pending (R310). -/
def State.swapPending (s : State) : Bool := s.fab.swap.isSome || s.fab.nextSwap.isSome || !s.fab.events.isEmpty || !s.fab.floodQueue.isEmpty

/-- CHUNK_TIMEOUT: CHUNK_TIMEOUT passes with no acknowledgement and no swap pending: the chunk is re-issued, or after 16
re-issues in a row the peer is lost (R310, R311). -/
def execChunkTimeout (coll chunk peer : Nat) (s : State) : Host.Outcome State Fault Refusal :=
  guardUnit (decide (coll < 65535)) (
    match s.collCtx coll, s.run coll with
    | some c, some r =>
      match r.sent.find? (fun k => k.is chunk peer) with
      | none => s
      | some k =>
        if s.fab.stopped || s.swapPending then s
        else if 16 ≤ k.reissues then peerLost peer s
        else
          let s := reissue c k true s
          raise (fabRaise .chunkReissue .device 0 0 0 peer chunk s) s
    | _, _ => s)

/-- The ranks a run still expects a chunk from, lowest first (R313). -/
def CollCtx.slowRanks (c : CollCtx) (r : CollRun) : List Nat :=
  (List.range c.sh.p).filter (fun q =>
    (List.range c.e.stages).any (fun st => (c.recvs st).any (fun x => x.peer == q && !c.xferDone r st x)))

/-- A PEER_SLOW item: address, then pace and slip, or all ones when no CHUNK_ACK has told them (R444). -/
def slowItem (peer : Nat) (p : Option (Nat × Nat)) : Nat :=
  match p with
  | some (slip, pace) => peer % 2 ^ 24 + pace % 2 ^ 16 * 2 ^ 24 + Nat.min 0xFFFFFF slip * 2 ^ 40
  | none => peer % 2 ^ 24 + (2 ^ 40 - 1) * 2 ^ 24

/-- PEER_SLOW: a window closes with its entry incomplete, and again each K ticks (R313). -/
def execPeerSlow (coll : Nat) (s : State) : Host.Outcome State Fault Refusal :=
  guardUnit (decide (coll < 65535)) (
    match s.collCtx coll, s.run coll with
    | some c, some r =>
      if !s.issued coll || r.complete || decide (s.time.tick < r.closeTick) then s
      else
        let items := ((c.slowRanks r).take 4).map (fun q => slowItem (c.addr q) (look? (c.addr q) s.fab.peerPace))
        let s := s.setRun { r with closeTick := r.closeTick + Nat.max 1 c.e.k }
        raise (Raise.of .peerSlow .device (items.getD 0 0) (items.getD 1 0) (items.getD 2 0) (items.getD 3 0)) s
    | _, _ => s)

/-! ## The issue of an entry (R301, R312) -/

/-- Ticks by which swaps extend a window that opens with slot `i` (R312). -/
def State.windowExtension (s : State) (i : Nat) : Nat :=
  match s.fab.plan with
  | none => 0
  | some pl =>
    let ext := pl.floodTicks + pl.drainTicks
    ext * (s.fab.stopTicks.filter (fun t => decide (i ≤ t + ext))).length

/-- Issue an entry at a boundary: its window opens with the slot that starts (R301, R312), and a barrier remembers the window
operations before it (R314). -/
def issueColl (coll : Nat) (s : State) : State :=
  match s.collCtx coll with
  | none => s
  | some c =>
    let marks := if c.e.op = 7 then s.fab.peers.map (fun x => (x.addr, x.nextSeq)) else []
    let r := s.runOr coll
    (s.setRun { r with openSlot := s.time.tick, closeTick := s.time.tick + c.e.k + s.windowExtension s.time.tick, barrierMarks := marks }).onJob
      (fun j => { j with collIssued := j.collIssued ++ [coll] })

/-! ## The end of a stop (R283, R310) -/

/-- A run's chunks that were on their way at the stop, in ascending chunk order. -/
def CollRun.stopped (r : CollRun) : List SentChunk :=
  (r.sent.filter (fun k => k.beforeStop && !k.acked)).mergeSort (fun a b => decide (a.chunk ≤ b.chunk))

/-- INJECTION_RESUME: after the swap routed injection resumes: chunks sent before the stop are re-issued first, then what waited
leaves; window timers go on (R280, R283, R310). -/
def execInjectionResume (s : State) : Host.Outcome State Fault Refusal :=
  .next (
    let held := match s.fab.swap with | some w => w.stopped | none => false
    if !s.fab.stopped || held || !s.ticking then s
    else
      let waiting := s.fab.waiting
      let gone := s.time.tick - s.fab.stopTicks.headD s.time.tick
      let s := { s with fab := { s.fab with stopped := false, waiting := [],
                                            peers := s.fab.peers.map (fun x => { x with unreplied := x.unreplied.map (fun u => { u with sentAt := u.sentAt + gone }) }) } }
      let s := each (fun (r : CollRun) s =>
        match s.collCtx r.coll with
        | none => s
        | some c => each (fun k s => reissue c k false s) r.stopped s) s.coll s
      each inject waiting s)

end Sys2Proof.Machine
end

