-- ==== Sys2Proof/Machine/Windows.lean ====
section
/-! DEFINITION. Remote operations: requests at the target, their end-to-end numbers, replies at the sender, timeouts, and the
release of staged operations at a commit (R67, R68, R275 to R282, R288, R347). -/

namespace Sys2Proof.Machine

/-! ## At the target (R276, R278, R280 to R282, R288) -/

/-- A reply to a request: RGEN and E2E_SEQ are echoed (R261, R282). -/
def replyTo (p : Packet) (status : Nat) (data : List Byte) : Packet :=
  { dest := p.src, src := p.dest, typ := 0x08, cls := 2, rgen := p.rgen, window := p.window, wgen := p.wgen, offset := p.offset,
    status := BitVec.ofNat 4 status, e2eSeq := p.e2eSeq, payload := data }

/-- The window line an operation names: of a CAS the line of its 64-bit word (R261). -/
def opLine (op : Nat) (p : Packet) : Nat := if op = 3 then p.offset.toNat / 8 else p.offset.toNat

/-- An ADD may target this format: one of the four 16-bit floating formats, from a Trigrim BF16 or FP16 only (R276, R287). -/
def State.addAllowed (s : State) (src loaf : Nat) : Bool :=
  let f := match s.declared loaf with | some d => (s.numericOf d.tensor).format | none => 0
  isFloat16 f && (!s.trigrim src || decide (f ≤ 2))

/-- The STATUS code of R278 Table 14 for an operation on an open job. Operations are numbered 0 PUT, 1 GET, 2 ADD, 3 CAS. -/
def windowStatus (op : Nat) (p : Packet) (s : State) : Nat :=
  match look? p.window.toNat s.fab.windows with
  | none => 1
  | some w =>
    let line := opLine op p
    if !w.valid ∨ w.gen ≠ p.wgen then 1
    else if !w.ops.getLsbD op ∨ !(w.peerAll || w.peer == p.src.toNat) then 2
    else if 2048 * w.count ≤ line then 3
    else if op = 2 ∧ !s.addAllowed p.src.toNat (w.first + line / 2048) then 2
    else 0

/-- The first loaf of the window a request names. -/
def State.windowBase (s : State) (p : Packet) : Nat := (look {} p.window.toNat s.fab.windows).first

/-- Forget what REPLY_ACK has passed; all ones stands for nothing held yet (R280 rule 4). -/
def Peer.purge (x : Peer) (ack : Nat) : Peer :=
  if ack = 0xFFFFFFFF then x
  else { x with casResults := x.casResults.filter (fun e => decide (ack < e.1)), refusals := x.refusals.filter (fun e => decide (ack < e.1)) }

/-- A reply to this request is still owed at a commit (R276). -/
def State.replyOwed (s : State) (p : Packet) : Bool :=
  s.mem.journal.any (fun e => match e.answer with
    | some a => a.dest == p.src && a.e2eSeq == p.e2eSeq
    | none => false)

/-- The access that an operation makes of a window line, and what its read met: a GET reads the committed line, an ADD or CAS the pending one,
and the first write to a loaf its committed line for the merge copy (R64, R232, R237, R240, R241, R276). -/
def opRead (op : Nat) (p : Packet) (read : ReadOutcome) (s : State) : State :=
  let base := s.windowBase p
  let l := base + opLine op p / 2048
  let j := opLine op p % 2048
  if op = 1 then
    hubReads (fun _ => true) [{ loaf := l, line := j, outcome := read }] { s with mem := hbmGrant (s.committedFrame l) j hbmFabric [] s.mem }
  else if op = 0 ∧ (s.pendingFrame l).isSome then s
  else hubReadPending base (opLine op p) read s

/-- An operation received before: nothing is applied and the reply is sent again (R280 rule 2). -/
def replyAgain (op : Nat) (p : Packet) (x : Peer) (s : State) : State :=
  match look? p.e2eSeq.toNat x.refusals with
  | some st => inject (replyTo p st []) s
  | none =>
    if s.replyOwed p then s
    else if op = 1 then inject (replyTo p 0 (s.readLine (s.windowBase p) p.offset.toNat)) s
    else if op = 3 then
      match look? p.e2eSeq.toNat x.casResults with
      | some v => inject (replyTo p 0 (leBytes 8 v.toNat)) s
      | none => s
    else inject (replyTo p 0 []) s

/-- Apply an operation in its turn (R276 Table 13, R68); a reset that its read leads to takes it too. -/
def applyOp (op : Nat) (p : Packet) (read : ReadOutcome) (s : State) : State :=
  let base := s.windowBase p
  let line := opLine op p
  let data := (p.payload ++ List.replicate 64 0).take 64
  let s := opRead op p read (touch (base + line / 2048) s)
  let ok := replyTo p 0 []
  if s.job.isNone then s
  else match op with
  | 0 => journalWrite (.put base line data { rank := 3, key1 := p.src.toNat, key2 := p.e2eSeq.toNat }) (some ok) s
  | 1 => inject { ok with payload := s.readLine base line } s
  | 2 => journalWrite (.add base line data) (some ok) s
  | _ => journalWrite (.cas base line (p.offset.toNat % 8) (BitVec.ofNat 64 (wordOf data 0)) (BitVec.ofNat 64 (wordOf data 1))
      p.src.toNat p.e2eSeq.toNat) (some ok) s

/-- A window request arrives (R278, R280 to R282, R288). -/
def receiveOp (op : Nat) (p : Packet) (read : ReadOutcome) (s : State) : State :=
  let a := p.src.toNat
  if !s.forwards || decide (s.address ≠ some p.dest.toNat) then s
  else if s.shut then (if s.trigrim a then s else inject (replyTo p 4 []) s)
  else if s.job.isNone then inject (replyTo p 1 []) s
  else if !s.peerRoom a then inject (replyTo p 5 []) s
  else
    let x := ((s.peer a).getD { addr := a }).purge p.chunk.toNat
    let d := (p.e2eSeq.toNat + 2 ^ 32 - x.expected) % 2 ^ 32
    if d = 0 then
      let x := { x with expected := (x.expected + 1) % 2 ^ 32 }
      let st := windowStatus op p s
      if st = 0 then applyOp op p read (s.setPeer x)
      else inject (replyTo p st []) (s.setPeer { x with refusals := put p.e2eSeq.toNat st x.refusals })
    else if d < 2 ^ 31 then s.setPeer x
    else replyAgain op p x (s.setPeer x)

/-- WINDOW_PUT: a PUT from a peer enters the pending version and the journal (R68, R69, R276, R278, R280 to R282). -/
def execWindowPut (o : WindowOp) (s : State) : Host.Outcome State Fault Refusal :=
  .next (if o.packet.typ = 0x01 then receiveOp 0 o.packet o.read s else s)

/-- WINDOW_GET: a GET reads the committed line and is answered at once (R276, R278, R280 to R282). -/
def execWindowGet (o : WindowOp) (s : State) : Host.Outcome State Fault Refusal :=
  .next (if o.packet.typ = 0x02 then receiveOp 1 o.packet o.read s else s)

/-- WINDOW_ADD: an ADD is rounded stochastically onto the pending contents (R68, R165, R276, R278, R280 to R282). -/
def execWindowAdd (o : WindowOp) (s : State) : Host.Outcome State Fault Refusal :=
  .next (if o.packet.typ = 0x03 then receiveOp 2 o.packet o.read s else s)

/-- WINDOW_CAS: a compare-and-swap on the pending contents (R76, R276, R278, R280 to R282). -/
def execWindowCas (o : WindowOp) (s : State) : Host.Outcome State Fault Refusal :=
  .next (if o.packet.typ = 0x04 then receiveOp 3 o.packet o.read s else s)

/-! ## At the sender (R276, R277, R280) -/

/-- Change a proxy binding's record. -/
def State.onProxy (s : State) (n : Nat) (f : Window → Window) : State :=
  { s with fab := { s.fab with proxies := match look? n s.fab.proxies with
      | some w => put n (f w) s.fab.proxies
      | none => s.fab.proxies } }

/-- A saturating 32-bit counter. -/
def bump32 (n : Nat) : Nat := Nat.min 0xFFFFFFFF (n + 1)

/-- REPLY_ACK: the number before the lowest without a reply (R280 rule 4). -/
def replyAck (x : Peer) (seq : Nat) : Nat := ((x.unreplied.map (·.seq)).foldl Nat.min seq + 2 ^ 32 - 1) % 2 ^ 32

/-- Send an operation with the REPLY_ACK of now. -/
def sendOp (x : Peer) (p : Packet) (s : State) : State :=
  inject { p with chunk := BitVec.ofNat 32 (replyAck x p.e2eSeq.toNat), rgen := BitVec.ofNat 4 s.fab.resetGen } s

/-- The waiting operations that may go now, in order: 256 without a reply, of which 8 CAS (R280 rule 3). -/
def pumpPeer (a : Nat) : Nat → State → State
  | 0, s => s
  | n + 1, s =>
    match s.peer a with
    | none => s
    | some x => match x.waiting with
      | [] => s
      | (p, proxy, line) :: rest =>
        let cas := (x.unreplied.filter (fun u => u.packet.typ == 4)).length
        if 256 ≤ x.unreplied.length ∨ (p.typ = 4 ∧ 8 ≤ cas) then s
        else
          let x' := { x with waiting := rest,
                             unreplied := x.unreplied ++ [{ seq := p.e2eSeq.toNat, packet := p, proxy := proxy, line := line, sentAt := s.time.tick }] }
          pumpPeer a n (sendOp x' p ((s.setPeer x').onProxy proxy (fun w => { w with issued := bump32 w.issued })))

/-- Send what may go to a peer. -/
def pumpAll (a : Nat) (s : State) : State :=
  match s.peer a with
  | some x => pumpPeer a x.waiting.length s
  | none => s

/-- An operation was refused: REFUSED counts it, and WINDOW_CLOSED or WINDOW_DENIED names the binding (R278). -/
def opRefused (proxy peer status : Nat) (s : State) : State :=
  let s := s.onProxy proxy (fun w => { w with refused := bump32 w.refused })
  let c : Cond := if status = 2 ∨ status = 3 ∨ status = 5 then .windowDenied else .windowClosed
  raise (fabRaise c .device 0 0 0 peer proxy s) s

/-- An operation through the binding waits for its reply or for its turn. -/
def State.proxyBusy (s : State) (n : Nat) : Bool :=
  s.fab.peers.any (fun x => x.unreplied.any (fun u => u.proxy == n) || x.waiting.any (fun w => w.2.1 == n))

/-- Answer the closes of proxy bindings whose operations have all had a reply (R347). -/
def answerProxies (s : State) : State :=
  each (fun mb s => match (s.mailbox mb).wait with
    | some (.replies n) => if s.proxyBusy n then s else answer mb stOk 0 s
    | _ => s) (List.range 16) s

/-- The line a CAS reply leaves: the old value, SUCCESS, DONE and STATUS (R277). -/
def casLine (old : Nat) (success : Bool) (status : Nat) : List Byte :=
  leBytes 8 old ++ leBytes 56 ((if success then 1 else 0) + 2 + status * 256)

/-- What a reply writes of the local proxy line (R277). -/
def replyWrites (u : Unreplied) (p : Packet) (s : State) : State :=
  let w : Writer := { rank := 3, key1 := p.src.toNat, key2 := u.seq }
  let base := (look {} u.proxy s.fab.proxies).first
  if u.packet.typ = 2 then
    (if p.status = 0 then journalWrite (.put base u.line ((p.payload ++ List.replicate 64 0).take 64) w) none s else s)
  else if u.packet.typ = 4 then
    let old := if p.status = 0 then leNat (p.payload.take 8) else 0
    journalWrite (.put base u.line (casLine old (decide (p.status = 0) && old == wordOf u.packet.payload 0) p.status.toNat) w) none s
  else s

/-- REPLY: a reply updates the binding's counts and any proxy line, and lets waiting operations go (R277, R278, R280, R282, R288,
R314, R347). -/
def execReply (p : Packet) (s : State) : Host.Outcome State Fault Refusal :=
  .next (
    let a := p.src.toNat
    if p.typ ≠ 0x08 || !s.forwards || s.shut || decide (s.address ≠ some p.dest.toNat) || decide (p.rgen.toNat ≠ s.fab.resetGen % 16) then s
    else match s.peer a with
      | none => s
      | some x => match x.unreplied.find? (fun u => u.seq == p.e2eSeq.toNat) with
        | none => s
        | some u =>
          let s := s.setPeer { x with unreplied := x.unreplied.filter (fun v => v.seq ≠ u.seq), retries := 0 }
          let s := if p.status = 0 then s.onProxy u.proxy (fun w => { w with acked := bump32 w.acked }) else opRefused u.proxy a p.status.toNat s
          let s := replyWrites u p s
          startBarriers (answerProxies (pumpAll a s)))

/-- E2E_TIMEOUT ticks have passed since some operation without a reply was last sent (R280 rule 5). -/
def Peer.due (x : Peer) (timeout now : Nat) : Bool := x.unreplied.any (fun u => decide (u.sentAt + timeout ≤ now))

/-- E2E_TIMEOUT: no reply for E2E_TIMEOUT ticks after a send: everything without a reply is sent again in order, or after E2E_RETRIES resends
the peer has timed out (R280, R347). -/
def execE2eTimeout (peer : Nat) (s : State) : Host.Outcome State Fault Refusal :=
  guardUnit (decide (peer < 2 ^ 24)) (
    match s.fab.plan, s.peer peer with
    | some pl, some x =>
      if s.fab.stopped || !x.due pl.e2eTimeout s.time.tick then s
      else if pl.e2eRetries ≤ x.retries then
        let s := s.setPeer { x with unreplied := [], waiting := [], retries := 0 }
        answerProxies (raise (Raise.of .remoteTimeout .device peer 0 0 0) s)
      else
        let x := { x with retries := x.retries + 1, unreplied := x.unreplied.map (fun u => { u with sentAt := s.time.tick }) }
        each (fun (u : Unreplied) s => sendOp x u.packet s) x.unreplied (s.setPeer x)
    | _, _ => s)

/-! ## Outbound staging (R67, R276, R280, R281) -/

/-- The order in which staged operations leave: task, drain list, line. -/
def OutOp.before (a b : OutOp) : Bool :=
  decide (a.task < b.task) || (decide (a.task = b.task) && (decide (a.entry < b.entry) || (decide (a.entry = b.entry) && decide (a.seq ≤ b.seq))))

/-- Of PUT, GET and CAS only the last on a line leaves, chosen as R39 chooses; every ADD leaves. -/
def winners : List OutOp → List OutOp
  | [] => []
  | o :: l => if o.op ≠ 2 ∧ l.any (fun x => x.op == o.op && x.proxy == o.proxy && x.line == o.line) then winners l else o :: winners l

/-- The request a staged operation becomes; none for a CAS line without VALID (R276 Table 13). -/
def OutOp.packet (o : OutOp) (w : Window) (self : Nat) : Option Packet :=
  let p : Packet := { dest := BitVec.ofNat 24 w.peer, src := BitVec.ofNat 24 self, typ := BitVec.ofNat 6 (o.op + 1), cls := 2,
                      window := BitVec.ofNat 12 w.window, wgen := w.gen, offset := BitVec.ofNat 32 o.line }
  match o.op with
  | 1 => some p
  | 3 =>
    if bit (leNat (o.data.take 5)) 32 then
      some { p with offset := BitVec.ofNat 32 (leNat (o.data.take 4)), payload := (o.data.drop 8).take 16 }
    else none
  | _ => some { p with payload := o.data }

/-- Give a staged operation its number; to a new peer with the table full it is refused here (R280, R281). -/
def issueOp (o : OutOp) (s : State) : State :=
  match look? o.proxy s.fab.proxies, s.address with
  | some w, some self =>
    match o.packet w self with
    | none => s
    | some p =>
      if !s.peerRoom w.peer then opRefused o.proxy w.peer 5 s
      else
        let x := (s.peer w.peer).getD { addr := w.peer }
        let p := { p with e2eSeq := BitVec.ofNat 32 x.nextSeq }
        s.setPeer { x with nextSeq := (x.nextSeq + 1) % 2 ^ 32, waiting := x.waiting ++ [(p, o.proxy, o.line)] }
  | _, _ => s

/-- At a commit the staged operations leave (R67, R276). -/
def releaseOutbound (s : State) : State :=
  let ops := winners (s.mem.outbound.mergeSort OutOp.before)
  let s := each issueOp ops { s with mem := { s.mem with outbound := [] } }
  each (fun (x : Peer) s => pumpAll x.addr s) s.fab.peers s

end Sys2Proof.Machine
end

