-- ==== Sys2Proof/Machine/Mailbox.lean ====
section
/-! DEFINITION. The mailboxes: taking a command, the refusals of R325 in their order, descriptor lists, and the identity, status
and policy commands (R218, R322 to R334, R436, R437). -/

namespace Sys2Proof.Machine

/-! ## Payload fields -/

/-- The number in `n` bytes of a mailbox's payload from an offset (R14, R322). -/
def Mailbox.arg (m : Mailbox) (off n : Nat) : Nat := m.payload.readLe off n

/-- `n` bytes of the payload. -/
def Mailbox.argBytes (m : Mailbox) (off n : Nat) : List Byte := m.payload.readBytes off n

/-- A sub-operation of CHECKPOINT, CLEAR_EVENTS, LIFECYCLE; AT_BOOT of FW_ACTIVATE; KIND of the window commands (R338, R345 Table
15, R347 Table 16). -/
def Mailbox.mode (m : Mailbox) : Nat := m.arg 0 1

def Mailbox.subop (m : Mailbox) : Nat := m.arg 0 4

def Mailbox.atBoot (m : Mailbox) : Bool := bit (m.arg 0 4) 0

def Mailbox.proxyKind (m : Mailbox) : Bool := bit (m.arg 0 4) 12

/-! ## The checks of R325 -/

/-- The commands of Table 7. -/
def knownCommands : List Nat :=
  [0x01, 0x02, 0x10, 0x20, 0x21, 0x22, 0x23, 0x24, 0x30, 0x31, 0x32, 0x33, 0x34, 0x40, 0x41, 0x42, 0x43, 0x50, 0x51, 0x60, 0x61, 0x62,
    0x63, 0x70, 0x71, 0x80, 0x81, 0x82]

/-- LEN fits the command's payload (R329; notes/assumptions/23.md where a command's length is not given as one number). -/
def lenFits (m : Mailbox) : Bool :=
  let n := m.len.toNat
  match m.cmd.toNat with
  | 0x02 => n == 8
  | 0x10 => n % 8 == 0 && decide (n ≤ 4032)
  | 0x20 => n == 8
  | 0x21 => n == 8
  | 0x22 => decide (32 ≤ n) && decide (n ≤ 4032) && n == 16 + 16 * m.arg 0 4
  | 0x23 => n == 24
  | 0x24 => n == 24
  | 0x30 => n == 16
  | 0x32 => n == 8
  | 0x34 => n == 24
  | 0x40 => n == 16
  | 0x41 => n == 8
  | 0x42 => n == 24
  | 0x43 => n == 24 || n == 4
  | 0x50 => n == 4
  | 0x60 => n == 16
  | 0x61 => if m.subop = 1 then n == 140 else n == 4
  | 0x62 => decide (9 ≤ n) && decide (n ≤ 4032) && n == 8 + m.arg 4 4
  | 0x63 => n == 28
  | 0x80 => n == 16
  | 0x81 => n == 4
  | 0x82 => if m.subop = 0 then n == 4 else decide (4 ≤ n) && decide (n ≤ 4032)
  | _ => n == 0

/-- A job that has been started, that is paused, that a JOB-class error has stopped (R10, R337). -/
def State.jobStarted (s : State) : Bool := match s.job with | some j => j.started | none => false

def State.jobPaused (s : State) : Bool := match s.job with | some j => j.paused | none => false

def State.jobStopped (s : State) : Bool := match s.job with | some j => j.stopped | none => false

/-- The states of Table 7 in which a command is taken (R10, R23, R329, R437). -/
def allowedIn (m : Mailbox) (d : DevState) (s : State) : Bool :=
  let S := decide (d = .standby)
  let Rd := decide (d = .ready)
  let Rn := decide (d = .running)
  let T := decide (d = .transit)
  match m.cmd.toNat with
  | 0x01 => decide (d ≠ .off)
  | 0x02 => decide (d ≠ .off)
  | 0x60 => decide (d ≠ .off)
  | 0x63 => decide (d ≠ .off)
  | 0x20 => S && decide (s.nor.lifecycle = .deployed)
  | 0x21 => S && s.dev.imageLoaded.isSome
  | 0x22 => Rd
  | 0x23 => Rd || Rn
  | 0x24 => Rd || Rn
  | 0x30 => Rd && !s.jobStarted && !s.jobStopped
  | 0x31 => Rn
  | 0x32 => Rd && s.jobPaused && !s.jobStopped
  | 0x33 => Rd || Rn
  | 0x34 => if m.mode = 0 then Rn || (Rd && s.jobStarted) else if m.mode = 1 then Rd && !s.jobStarted else Rd || Rn
  | 0x42 => Rd || Rn
  | 0x43 => Rd || Rn
  | 0x50 => S || Rd || Rn
  | 0x51 => S || T
  | 0x70 => S || Rd || Rn
  | 0x81 => if m.atBoot then S || Rd || Rn || T else S || T
  | 0x82 => if m.subop = 0 then S || Rd || Rn || T else S
  | _ => S || Rd || Rn || T

/-- The state in which the reset, restart or shutdown test in progress ends (R325, R364, R421). -/
def State.endState (s : State) : DevState :=
  if s.tests.shutdown.isSome then .halted else if s.dev.fatalTransit then .transit else .standby

/-- STOP_JOB, RESET_COMPUTE and SHUTDOWN, which MB00 accepts and which are always taken (R324, R330). -/
def strongCommand (c : Nat) : Bool := c == 0x33 || c == 0x70 || c == 0x71

/-- A long state change of R330 is in progress. -/
def State.changing (s : State) : Bool :=
  (List.range 16).any (fun mb =>
    let m := s.mailbox mb
    m.wait.isSome && [0x33, 0x70, 0x71, 0x31, 0x51, 0x81].contains m.cmd.toNat)

/-- Commands that R330 answers BUSY during one. -/
def changesState (m : Mailbox) : Bool :=
  let c := m.cmd.toNat
  [0x21, 0x30, 0x31, 0x32, 0x34, 0x50, 0x51, 0x80, 0x81].contains c || (c == 0x82 && m.subop != 0)

/-- The bulk group of R331; GET_DUMP only with a descriptor list. -/
def bulkCommand (m : Mailbox) : Bool :=
  let c := m.cmd.toNat
  [0x20, 0x21, 0x34, 0x40, 0x50, 0x51, 0x80, 0x82].contains c || (c == 0x63 && m.arg 20 8 != 0)

def State.bulkBusy (s : State) : Bool := (List.range 16).any (fun mb => (s.mailbox mb).wait.isSome && bulkCommand (s.mailbox mb))

/-- The first refusal that applies before a command's own checks: STATUS and DETAIL (R324, R325, R328 to R331, R343, R421).
DESIGN CHOICE (notes/assumptions/54.md): while the test access port holds compute fenced, commands that need it are answered FENCED. -/
def refusal (mb : Nat) (m : Mailbox) (s : State) : Option (Nat × Nat) :=
  let c := m.cmd.toNat
  let strong := strongCommand c
  if !knownCommands.contains c then some (stNotSupported, 0)
  else if mb = 0 ∧ !strong then some (stBadArg, 0)
  else if strong && decide (c ≠ 0x71) && s.tests.shutdown.isSome then some (stFenced, 0)
  else if !allowedIn m s.dev.state s && !(strong && s.changing) then
    (if s.dev.resetBusy && allowedIn m s.endState s then some (stBusy, 0) else some (stBadState, 0))
  else if s.dev.tap.isSome && (jobCommand c || decide (c = 0x21)) then some (stFenced, 0)
  else if changesState m && s.changing then some (stBusy, 0)
  else if bulkCommand m && s.bulkBusy then some (stBusy, 0)
  else if c = 0x40 ∧ (s.fab.swap.map (·.stopped)) = some true then some (stBusy, 0)
  else if !lenFits m then some (stBadArg, 0xFFFFFFFF)
  else none

/-! ## Taking a command (R323 to R326) -/

/-- Fenum scans the mailboxes: it runs, and does not restart (R324, R364, R411). -/
def State.scanning (s : State) : Bool := s.dev.fenumRunning && !s.dev.restarting

/-- TICK_TAKEN: 0 in STARTING and HALTED (R322). -/
def State.takenTick (s : State) : Word64 := if s.ticking then BitVec.ofNat 64 s.time.tick else 0

/-- Take the command that stands in a mailbox: refused under R325, or handed to its own meaning. -/
def takeCommand (mb : Nat) (f : Nat → Mailbox → State → State) (s : State) : State :=
  let m := s.mailbox mb
  if !m.owner || m.wait.isSome then s
  else
    let s := s.onMailbox mb (fun x => { x with tickTaken := s.takenTick })
    match refusal mb m s with
    | some r => answer mb r.1 r.2 s
    | none => f mb m s

/-- A row of the table for a mailbox: the command stands there and Fenum scans. -/
def command (mb : Nat) (is : Mailbox → Bool) (f : Nat → Mailbox → State → State) (s : State) : Host.Outcome State Fault Refusal :=
  guardUnit (decide (mb < 16)) (if s.scanning && is (s.mailbox mb) then takeCommand mb f s else s)

/-- The mailbox holds this command code. -/
def hasCmd (c : Nat) (m : Mailbox) : Bool := m.cmd.toNat == c

/-- A command taken waits. -/
def setWait (mb : Nat) (w : Wait) (s : State) : State := s.onMailbox mb (fun m => { m with wait := some w })

/-- UNKNOWN_COMMAND: a CMD outside Table 7 is answered NOT_SUPPORTED (R325, R353). -/
def execUnknownCommand (mb : Nat) (s : State) : Host.Outcome State Fault Refusal :=
  command mb (fun m => !knownCommands.contains m.cmd.toNat) (fun _ _ s => s) s

/-! ## Descriptor lists (R332) -/

/-- One descriptor keeps Table 6. -/
def descriptorFits (d : Descriptor) : Bool :=
  decide (d.rsv = 0) &&
    (if d.chain then decide (d.addr.toNat % 16 = 0)
     else decide (d.addr.toNat % 64 = 0) && decide (d.bytes.toNat % 64 = 0) && decide (64 ≤ d.bytes.toNat))

/-- The index of the first descriptor that breaks Table 6, or of the LAST one when the data bytes are not the length implied;
`none` for a list in order. -/
def listFault (total : Option Nat) : List Descriptor → Nat → Nat → Option Nat
  | [], i, _ => some i
  | d :: l, i, sum =>
    if 65536 ≤ i ∨ !descriptorFits d then some i
    else if d.chain then listFault total l (i + 1) sum
    else if d.last then
      match total with
      | some t => if sum + d.bytes.toNat = t then none else some i
      | none => none
    else listFault total l (i + 1) (sum + d.bytes.toNat)

/-- Bytes of the data descriptors up to LAST. -/
def listBytes : List Descriptor → Nat
  | [] => 0
  | d :: l => if d.chain then listBytes l else d.bytes.toNat + (if d.last then 0 else listBytes l)

/-- The writes that bytes make in the segments of a list, in list order. -/
def scatter : List Descriptor → List Byte → List HostWrite
  | [], _ => []
  | d :: l, out =>
    if out = [] then []
    else if d.chain then scatter l out
    else { addr := d.addr, bytes := out.take d.bytes.toNat } :: scatter l (out.drop d.bytes.toNat)

/-- Bytes of DMA, exactly as many as the list names. -/
def dmaData (n : Nat) (data : List Byte) : List Byte := (data ++ List.replicate (n - data.length) 0).take n

/-- A DMA of this command is in progress in the mailbox and may move (R318, R332). -/
def State.dmaOf (s : State) (mb cmd : Nat) : Option (List Byte) :=
  match (s.mailbox mb).wait with
  | some (.dma out) => if (s.mailbox mb).cmd.toNat = cmd ∧ s.host.mayWrite ∧ s.dev.fenumRunning then some out else none
  | _ => none

/-- DMA to the host ends: its bytes are written (R332). A list refused at a descriptor has written the segments before it
(notes/assumptions/24.md). -/
def writeOut (list : List Descriptor) (out : List Byte) (s : State) : State :=
  { s with host := { s.host with sent := s.host.sent ++ scatter list out } }

/-! ## IDENTIFY (R329 Table 8, R353, R369, R432, R437) -/

/-- The package the running firmware came from. -/
def State.runningFw (s : State) : FwPackage := ((if s.dev.runB then s.nor.slotB else s.nor.slotA).getD {})

/-- The package in the other slot. -/
def State.otherFw (s : State) : Option FwPackage := if s.dev.runB then s.nor.slotA else s.nor.slotB

/-- State codes of R437 Table 7. -/
def LifeCycle.code : LifeCycle → Nat
  | .blank => 0
  | .provisioned => 1
  | .deployed => 2
  | .returned => 3
  | .retired => 4

/-- The LIFECYCLE value of R437, debug bits included. -/
def State.lifecycleValue (s : State) : Nat :=
  LifeCycle.code s.nor.lifecycle + (if s.sec.debugOwner then 256 else 0) + (if s.sec.debugFull then 512 else 0)

/-- IDENTITY_HASH; a part without its DeviceID key shows a free value. -/
def identityHash (s : State) : List Byte × State :=
  if s.sec.deviceId then (hashBytes (Config.sha384 (Config.deviceKey s.nor.serial)), s) else freshBytes 3 s

def runIdentify (mb : Nat) (_ : Mailbox) (s : State) : State :=
  let h := identityHash s
  let s := h.2
  respond mb (leBytes 16 s.nor.serial.toNat ++ leBytes 2 4 ++ leBytes 2 0x0400 ++ leBytes 1 s.nor.reserveShip ++ leBytes 1 s.verified ++
    leBytes 1 s.nor.ddrChannels ++ leBytes 1 0 ++ leBytes 2 s.nor.dimmGib ++ leBytes 2 s.lifecycleValue ++ leBytes 4 0 ++
    leBytes 8 s.runningFw.version.toNat ++ leBytes 8 (s.otherFw.getD {}).version.toNat ++ h.1 ++ leBytes 16 0) s

/-- IDENTIFY (R326, R329 Table 8, R353). -/
def execIdentify (mb : Nat) (s : State) : Host.Outcome State Fault Refusal := command mb (hasCmd 0x01) runIdentify s

/-! ## GET_STATUS (R333 Table 9) -/

/-- `n` bytes of the sticky error map from an offset (R358). -/
def stickyBytes (m : BitVec 32768) (off n : Nat) : List Byte := leBytes n (m.toNat / 2 ^ (8 * off))

/-- An entry of section 1. -/
def countersBytes (tensor : Nat) (c : TensorCounters) : List Byte :=
  leBytes 4 tensor ++ leBytes 4 c.sat ++ leBytes 4 c.nan ++ leBytes 4 c.underflow ++ leBytes 4 c.ovfTrays ++ leBytes 4 c.recomputes

/-- A section's answer: COUNT, NEXT_INDEX and data; none for an INDEX that the section does not take. -/
abbrev Section := Option (Nat × Nat × List Byte)

def noMore : Nat := 0xFFFFFFFF

/-- Where a section of one item starts only at 0. -/
def whole (index count : Nat) (data : List Byte) : Section := if index = 0 then some (count, noMore, data) else none

def sectionSticky (index : Nat) (s : State) : Section :=
  let n := Nat.min 4016 (4096 - index)
  some (n, if index + n < 4096 then index + n else noMore, stickyBytes s.evt.sticky index n)

def sectionNumerics (index : Nat) (s : State) : Section :=
  match s.job with
  | none => some (0, noMore, [])
  | some j =>
    let n := Nat.min 167 (j.image.tensorCount - index)
    some (n, if index + n < j.image.tensorCount then index + n else noMore,
      ((List.range n).map (fun i => countersBytes (index + i) (look {} (index + i) j.counters))).flatten)

def sectionJob (index : Nat) (s : State) : Section :=
  match s.job with
  | none => whole index 0 []
  | some j =>
    let flag := fun (b : Bool) (i : Nat) => if b then 2 ^ i else 0
    whole index 1 (hashBytes j.image.reportHash ++ leBytes 8 j.image.compilerBuild.toNat ++ leBytes 4 j.step ++ leBytes 4 j.wave ++
      leBytes 4 j.committed.length ++ leBytes 2 j.image.tickUs ++ leBytes 2 j.image.flags ++
      leBytes 4 (flag j.started 0 + flag j.paused 1 + flag j.stopped 2 + flag j.restored 3))

/-- STATE of a PORTS entry. -/
def PortState.code : PortState → Nat
  | .down => 0
  | .training => 1
  | .up => 2
  | .held => 3

/-- A PORTS entry (32 bytes). -/
def portEntry (s : State) (p : Nat) : List Byte :=
  let x := s.port p
  let b := s.fab.plan.bind (fun pl => pl.bundleOf p)
  let place := match b with
    | some b => b / 2 * 2 ^ 22 + b % 2 * 2 ^ 25 + 2 ^ 26
    | none => 0
  leBytes 4 (PortState.code x.state + (if x.long then 4 else 0) + (if s.usablePort p then 8 else 0) + x.txLock.toNat * 2 ^ 4 +
      x.rxLock.toNat * 2 ^ 13 + place) ++
    leBytes 4 x.resends ++ leBytes 4 x.linkDrops ++ leBytes 4 x.downs ++ leBytes 16 0

/-- Section 3: the ports, and the power of the laser feeds as last measured (R249). -/
def sectionPorts (index : Nat) (s : State) : Section :=
  whole index 24 (((List.range 24).map (portEntry s)).flatten ++
    ((List.range 54).map (fun i => leBytes 2 (BitVec.ofInt 16 (look {} i s.fab.feeds).power).toNat)).flatten)

/-- A record of chapter 8 Table 12 (32 bytes). -/
def windowBytes (w : Window) (proxy : Bool) : List Byte :=
  leBytes 16 (w.first + w.count * 2 ^ 25 + w.gen.toNat * 2 ^ 50 + (if w.valid then 2 ^ 54 else 0) + (if proxy then 2 ^ 55 else 0) +
      w.ops.toNat * 2 ^ 56 + (if w.peerAll then 2 ^ 60 else 0) + w.peer * 2 ^ 64 + w.window * 2 ^ 88) ++
    leBytes 4 w.issued ++ leBytes 4 w.acked ++ leBytes 4 w.refused ++ leBytes 4 0

def sectionWindows (index : Nat) (s : State) : Section :=
  if s.job.isNone then some (0, noMore, [])
  else if 8192 ≤ index then none
  else
    let proxy := decide (4096 ≤ index)
    let first := index % 4096
    let n := Nat.min 125 (4096 - first)
    let l := if proxy then s.fab.proxies else s.fab.windows
    some (n, if first + n < 4096 then index + n else noMore,
      ((List.range n).map (fun i => windowBytes (look {} (first + i) l) proxy)).flatten)

/-- State code of a reserve tile's entry. -/
def ReserveState.code : ReserveState → Nat
  | .verified => 0
  | .parked => 1
  | .underTest => 2
  | .failed => 3

def sectionTiles (index : Nat) (s : State) : Section :=
  let live := (liveReserves s.tests).mergeSort (fun a b => decide (a.1 ≤ b.1))
  whole index 1 (((s.tests.tileMap.take 1024).map (fun p => leBytes 2 (tileLocation p))).flatten ++ leBytes 4 live.length ++
    (live.map (fun r => leBytes 2 (tileLocation r.1 + ReserveState.code r.2.state * 2 ^ 12))).flatten)

/-- A MEMORY entry (16 bytes); the patrol's progress in whole per cent. -/
def memoryEntry (s : State) (u : Source) (configured : Bool) : List Byte :=
  let c := look {} (memUnitNo u) s.mem.counts
  leBytes 4 c.corrected ++ leBytes 4 c.uncorrectable ++ leBytes 4 c.repairs ++
    leBytes 1 (if configured then 100 * c.patrolled / s.patrolLines u else 0) ++
    leBytes 1 ((if c.lost then 1 else 0) + (if configured then 0 else 2)) ++ leBytes 2 0

def sectionMemory (index : Nat) (s : State) : Section :=
  whole index 24 (((List.range 16).map (fun k => memoryEntry s (.hbm k) true)).flatten ++
    ((List.range 8).map (fun c => memoryEntry s (.ddr c) (s.nor.channels.contains c))).flatten)

/-- Section 7; a device without a parent names a free value for its port. -/
def sectionTime (index : Nat) (none_ : Nat) (s : State) : Section :=
  let t := s.time
  whole index 1 (leBytes 4 t.anchor ++ leBytes 4 ((if t.locked then 1 else 0) + (if t.holdover then 2 else 0)) ++
    leBytes 1 (t.parent.getD none_) ++ leBytes 1 t.depth ++ leBytes 2 0 ++ leBytes 4 t.budgetPs ++ leBytes 4 (BitVec.ofInt 32 t.offsetPs).toNat)

def runGetStatus (mb : Nat) (m : Mailbox) (s : State) : State :=
  let sec := m.arg 0 2
  let index := m.arg 4 4
  if m.arg 2 2 ≠ 0 then answer mb stBadArg 2 s
  else if 7 < sec then answer mb stBadArg 0 s
  else
    let (free, s) := freshBytes 1 s
    let r := match sec with
      | 0 => sectionSticky index s
      | 1 => sectionNumerics index s
      | 2 => sectionJob index s
      | 3 => sectionPorts index s
      | 4 => sectionWindows index s
      | 5 => sectionTiles index s
      | 6 => sectionMemory index s
      | _ => sectionTime index (leNat (free.take 1)) s
    match r with
    | none => answer mb stBadArg 4 s
    | some (n, next, data) => respond mb (leBytes 4 sec ++ leBytes 4 n ++ leBytes 4 next ++ leBytes 4 0 ++ data) s

/-- GET_STATUS (R326, R333). -/
def execGetStatus (mb : Nat) (s : State) : Host.Outcome State Fault Refusal := command mb (hasCmd 0x02) runGetStatus s

/-! ## SET_POLICY (R85, R218, R334) -/

/-- The keys of R334 Table 10 with range and step: lowest, highest, step (R218 Table 5). -/
def policyKeys : List (Nat × Nat × Nat × Nat) :=
  [(0x01, 0, 25, 1), (0x02, 0, 4096, 1), (0x03, 16384, 262144, 16384), (0x04, 1, 255, 1), (0x05, 1, 65535, 1), (0x06, 0, 50, 1),
    (0x07, 0, 50, 1), (0x08, 0, 3, 1), (0x09, 50, 99, 1), (0x0A, 1000, 1000000, 1), (0x0B, 0, 1440, 1), (0x0C, 0, 31, 1),
    (0x10, 1, 65535, 1), (0x11, 0, 1, 1), (0x12, 1500, 3000, 1)]

/-- The value in force under a key. -/
def Policy.get (p : Policy) (k : Nat) : Nat :=
  match k with
  | 0x01 => p.migratePct
  | 0x02 => p.sliceHeadroom
  | 0x03 => p.versionReserve
  | 0x04 => p.promoteMin
  | 0x05 => p.decayTicks
  | 0x06 => p.admitGuard
  | 0x07 => p.affinitySlack
  | 0x08 => p.stealScope
  | 0x09 => p.slowPct
  | 0x0A => p.slowTicks
  | 0x0B => p.rotateMin
  | 0x0C => p.ignoreHints
  | 0x10 => p.slipLimit
  | 0x11 => p.requireSigned
  | _ => p.powerCapW

/-- Change the value under a key. -/
def Policy.set (p : Policy) (k v : Nat) : Policy :=
  match k with
  | 0x01 => { p with migratePct := v }
  | 0x02 => { p with sliceHeadroom := v }
  | 0x03 => { p with versionReserve := v }
  | 0x04 => { p with promoteMin := v }
  | 0x05 => { p with decayTicks := v }
  | 0x06 => { p with admitGuard := v }
  | 0x07 => { p with affinitySlack := v }
  | 0x08 => { p with stealScope := v }
  | 0x09 => { p with slowPct := v }
  | 0x0A => { p with slowTicks := v }
  | 0x0B => { p with rotateMin := v }
  | 0x0C => { p with ignoreHints := v }
  | 0x10 => { p with slipLimit := v }
  | 0x11 => { p with requireSigned := v }
  | 0x12 => { p with powerCapW := v }
  | _ => p

/-- The items of the payload: KEY with the RSV bits above it, and VALUE. -/
def policyItems (m : Mailbox) : List (Nat × Nat) :=
  (List.range (m.len.toNat / 8)).map (fun i => (m.arg (8 * i) 4, m.arg (8 * i + 4) 4))

/-- A known key with a value in its range. -/
def itemFits (x : Nat × Nat) : Bool :=
  match look? x.1 policyKeys with
  | some (lo, hi, step) => decide (lo ≤ x.2) && decide (x.2 ≤ hi) && (x.2 - lo) % step == 0
  | none => false

/-- Every key with its value now in force, the response of SET_POLICY. -/
def policyBytes (p : Policy) : List Byte := (policyKeys.map (fun k => leBytes 4 k.1 ++ leBytes 4 (p.get k.1))).flatten

def runSetPolicy (mb : Nat) (m : Mailbox) (s : State) : State :=
  let items := policyItems m
  match items.findIdx? (fun x => !itemFits x) with
  | some i => answer mb stBadArg i s
  | none =>
    let p := items.foldl (fun p x => p.set x.1 x.2) s.pol
    let s := { s with pol := p }
    respond mb (policyBytes p) (if s.job.isSome then setPins s else s)

/-- SET_POLICY: all items of the list together, or none (R85, R218, R334). -/
def execSetPolicy (mb : Nat) (s : State) : Host.Outcome State Fault Refusal := command mb (hasCmd 0x10) runSetPolicy s

end Sys2Proof.Machine
end

