-- ==== Sys2Proof/Machine/JobCmds.lean ====
section
/-! DEFINITION. Job set-up and control by the host: LOAD_IMAGE, OPEN_JOB, DECLARE_LOAVES, HOST_FILL, HOST_DRAIN, START_JOB,
PAUSE_JOB, RESUME_JOB, STOP_JOB, RESET_COMPUTE and CHECKPOINT (R17, R21, R23 to R25, R40, R41, R49, R50, R53, R86, R87, R187,
R203, R328 to R342). -/

namespace Sys2Proof.Machine

/-! ## LOAD_IMAGE and OPEN_JOB (R23 to R25, R475) -/

/-- A LIST_ADDR off its alignment refuses the command. DESIGN CHOICE (notes/assumptions/75.md): a refused command has no effect (R325),
so the image loaded before stays; R23 takes it out only when a load that has begun fails. -/
def runLoadImage (mb : Nat) (m : Mailbox) (s : State) : State :=
  if m.arg 0 8 % 16 ≠ 0 then answer mb stBadArg 0 s else setWait mb (.dma []) s

/-- LOAD_IMAGE: the DMA of an image begins (R23, R332). -/
def execLoadImage (mb : Nat) (s : State) : Host.Outcome State Fault Refusal := command mb (hasCmd 0x20) runLoadImage s

/-- The image now loaded, or none. -/
def setImage (im : Option Image) (raw : List Byte) (s : State) : State := { s with dev := { s.dev with imageLoaded := im, imageRaw := raw } }

/-- The image's DMA has ended: its checks, and the answer (R23, R24, R332, R475). -/
def imageArrives (mb : Nat) (list : List Descriptor) (data : List Byte) (s : State) : State :=
  match listFault none list 0 0 with
  | some i => answer mb stBadArg i (setImage none [] s)
  | none =>
    let raw := dmaData (listBytes list) data
    match loadImageCheck raw (decide (s.pol.requireSigned = 1)) s.nor.imageKeys with
    | .inl r => answer mb r.1 r.2 (setImage none [] s)
    | .inr im => answer mb stOk 0 (setImage (some im) raw s)

/-- LOAD_IMAGE_DMA_COMPLETE: the image's bytes are here and are checked (R23, R24, R332, R475). -/
def execLoadImageDmaComplete (mb : Nat) (list : List Descriptor) (data : List Byte) (s : State) : Host.Outcome State Fault Refusal :=
  guardUnit (decide (mb < 16)) (match s.dmaOf mb 0x20 with
    | none => s
    | some _ => imageArrives mb list data s)

/-- The rates that predictions start from: 0.2 bytes a cycle from DDR5 with eight channels, 0.1 with four (R204, R231). -/
def Nor.startRates (n : Nor) : TierRates := { rateDdr := if n.ddrChannels = 4 then 100 else 200 }

/-- A job opens on a validated image: every declared loaf is in the zero tier (R17, R51, R131, R144, R186, R201 to R203, R218, R281,
R290). -/
def openJob (im : Image) (seed : Nat) (s : State) : State :=
  let s := { s with
    job := some { seed := BitVec.ofNat 64 seed, image := im, decls := im.decls }
    pol := { s.pol with jobReserve := s.pol.versionReserve, jobBackAll := bit s.pol.ignoreHints 4 }
    fab := { s.fab with peers := [] }
    coll := []
    att := { s.att with slip := 0, slips := [], phase := .commit, parts := [], cur := false, failures := 0, cycles := [], rates := s.nor.startRates }
    time := { s.time with nextPeriodUs := if s.fab.plan.isSome then s.time.nextPeriodUs else im.tickUs } }
  setDev .ready (pinLoaves (resetRings im s))

/-- The loaf ranges of the open records of a list of windows or proxies. -/
def openRanges (l : List (Nat × Window)) : List (Nat × Nat) := (l.filter (·.2.valid)).map (fun x => (x.2.first, x.2.count))

def runOpenJob (mb : Nat) (m : Mailbox) (s : State) : State :=
  match s.dev.imageLoaded with
  | none => answer mb stBadState 0 s
  | some im =>
    let fs := imageFaults s.dev.imageRaw im s.fab.plan (openRanges s.fab.proxies)
    if im.collPresent && s.fab.plan.isNone then answer mb stBadState 0 s
    else if fs ≠ [] then answer mb stBadArg (itemDetail fs) s
    else if !capacityOk im im.decls s.pol.versionReserve s.nor then answer mb stNoSpace 0 s
    else answer mb stOk 0 (openJob im.opened (m.arg 0 8) s)

/-- OPEN_JOB: the loaded image is validated and a job opens (R17, R25, R300). -/
def execOpenJob (mb : Nat) (s : State) : Host.Outcome State Fault Refusal := command mb (hasCmd 0x21) runOpenJob s

/-! ## DECLARE_LOAVES (R40, R41, R187, R203, R335) -/

/-- One record laid over the declarations: a new range, or an exact repeat that changes hints only; none when it breaks a rule. -/
def declareOne (tensors : Nat) (r : Nat) (ds : List Decl) : Option (List Decl) :=
  let d := parseDecl r
  if declBroken d ∨ bits r 56 8 ≠ 0 ∨ bits r 96 32 ≠ 0 ∨ tensors ≤ d.tensor then none
  else
    match ds.find? (fun e => declsMeet d e) with
    | none => some (ds ++ [d])
    | some e =>
      if e.first = d.first ∧ e.count = d.count ∧ e.unbacked = d.unbacked ∧ e.hostIn = d.hostIn ∧ e.hostOut = d.hostOut ∧ e.tensor = d.tensor
      then some (ds.map (fun x => if x.first = d.first then d else x)) else none

/-- KEEP_IN_SLICE loaves of some declarations; R41 allows 14,336. -/
def keptLoaves (ds : List Decl) : Nat := ((ds.filter (·.keepInSlice)).map (·.count)).sum

/-- The records in order: the new declarations, or the index of the first record that breaks a rule. -/
def declareEach (tensors : Nat) : List Nat → Nat → List Decl → Nat ⊕ List Decl
  | [], _, ds => .inr ds
  | r :: l, i, ds =>
    match declareOne tensors r ds with
    | none => .inl i
    | some ds' => declareEach tensors l (i + 1) ds'

/-- The records applied together: the limit of R41 is on what they leave, and a total above it names the first record that sets
KEEP_IN_SLICE (R41, R335). -/
def declareAll (tensors : Nat) (records : List Nat) (ds : List Decl) : Nat ⊕ List Decl :=
  match declareEach tensors records 0 ds with
  | .inl i => .inl i
  | .inr ds' => if 14336 < keptLoaves ds' then .inl ((records.findIdx? (fun r => (parseDecl r).keepInSlice)).getD 0) else .inr ds'


def runDeclareLoaves (mb : Nat) (m : Mailbox) (s : State) : State :=
  match s.job with
  | none => answer mb stBadState 0 s
  | some j =>
    if m.arg 4 12 ≠ 0 then answer mb stBadArg 0 s
    else match declareAll j.image.tensorCount ((List.range (m.arg 0 4)).map (fun i => m.arg (16 + 16 * i) 16)) j.decls with
      | .inl i => answer mb stBadArg i s
      | .inr ds =>
        if !capacityOk j.image ds s.pol.jobReserve s.nor then answer mb stNoSpace 0 s
        else answer mb stOk 0 (pinLoaves (s.onJob (fun j => { j with decls := ds })))

/-- DECLARE_LOAVES: records that declare new ranges or replace the hints of declared ones (R203, R335). -/
def execDeclareLoaves (mb : Nat) (s : State) : Host.Outcome State Fault Refusal := command mb (hasCmd 0x22) runDeclareLoaves s

/-! ## HOST_FILL and HOST_DRAIN (R49, R50, R87, R336) -/

/-- Every loaf from one to another is declared with a flag. -/
def rangeFlagged (ds : List Decl) (flag : Decl → Bool) : Nat → Nat → Nat → Bool
  | 0, loaf, last => decide (last < loaf)
  | n + 1, loaf, last =>
    if last < loaf then true
    else match declOf ds loaf with
      | none => false
      | some d => flag d && rangeFlagged ds flag n (d.first + d.count) last

/-- The payload offset of the first field of Table 11 that breaks a rule. -/
def hostArgs (m : Mailbox) (flag : Decl → Bool) (s : State) : Option Nat :=
  let first := m.arg 0 4
  let line := m.arg 4 4
  let lines := m.arg 8 8
  let last := first + (line + lines - 1) / 2048
  let ds := match s.job with | some j => j.decls | none => []
  if 33554432 ≤ first then some 0
  else if 2047 < line then some 4
  else if lines = 0 ∨ 2 ^ 33 < lines ∨ 33554432 ≤ last then some 8
  else if !rangeFlagged ds flag (ds.length + 1) first last then some 0
  else if m.arg 16 8 % 16 ≠ 0 then some 16
  else none

/-- The loaves of the lines that a HOST_FILL or HOST_DRAIN names (R336). -/
def Mailbox.rangeLoaves (m : Mailbox) : List Nat := (List.range ((m.arg 4 4 + m.arg 8 8 - 1) / 2048 + 1)).map (m.arg 0 4 + ·)

def runHostFill (mb : Nat) (m : Mailbox) (s : State) : State :=
  match hostArgs m (·.hostIn) s with
  | some d => answer mb stBadArg d s
  | none => setWait mb (.dma []) s

/-- HOST_FILL: the DMA of lines for HOST_IN loaves begins (R49, R332, R336). -/
def execHostFill (mb : Nat) (s : State) : Host.Outcome State Fault Refusal := command mb (hasCmd 0x23) runHostFill s

/-- The lines of a host fill enter the journal; in one commit the higher mailbox prevails (R50, R68, R69). -/
def fillJournal (mb loaf line : Nat) : List (List Byte) → State → State
  | [], s => s
  | d :: ds, s => fillJournal mb loaf (line + 1) ds (journalWrite (.put loaf line d { rank := 4, key1 := mb, key2 := 0 }) none s)

/-- HOST_FILL_DMA_COMPLETE: the lines enter pending versions; the command waits for the commit that publishes them (R49, R50, R68,
R69, R332, R336). -/
def execHostFillDmaComplete (mb : Nat) (list : List Descriptor) (data : List Byte) (s : State) : Host.Outcome State Fault Refusal :=
  guardUnit (decide (mb < 16)) (match s.dmaOf mb 0x23 with
    | none => s
    | some _ =>
      let m := s.mailbox mb
      let n := 64 * m.arg 8 8
      match listFault (some n) list 0 0 with
      | some i => answer mb stBadArg i s
      | none =>
        let s := touchAll (m.rangeLoaves) s
        setWait mb .publish (fillJournal mb (m.arg 0 4) (m.arg 4 4) (cutLines (dmaData n data)) s))

def runHostDrain (reads : List MemRead) (mb : Nat) (m : Mailbox) (s : State) : State :=
  match hostArgs m (·.hostOut) s with
  | some d => answer mb stBadArg d s
  | none =>
    let loaf := m.arg 0 4
    let line := m.arg 4 4
    let n := m.arg 8 8
    let s := grantReads loaf line n (touchAll m.rangeLoaves (setWait mb (.dma []) s))
    let s := hubReads (fun r => readWithin r loaf line n) reads s
    if (s.mailbox mb).wait = some (.dma []) then setWait mb (.dma (s.readLines loaf line n)) s else s

/-- HOST_DRAIN: the committed lines of HOST_OUT loaves, as they stand now, begin to go to the host; their loaves are touched (R49, R87, R197,
R336). -/
def execHostDrain (c : HostRead) (s : State) : Host.Outcome State Fault Refusal :=
  command c.mb (hasCmd 0x24) (runHostDrain c.reads) s

/-- HOST_DRAIN_COMPLETE: the last byte has been written to the host (R332, R336). -/
def execHostDrainComplete (mb : Nat) (list : List Descriptor) (s : State) : Host.Outcome State Fault Refusal :=
  guardUnit (decide (mb < 16)) (match s.dmaOf mb 0x24 with
    | none => s
    | some out => match listFault (some out.length) list 0 0 with
      | some i => answer mb stBadArg i (writeOut (list.take i) out s)
      | none => answer mb stOk 0 (writeOut list out s))

/-! ## START_JOB, PAUSE_JOB, RESUME_JOB (R21, R53, R86, R337) -/

/-- A job waits for its first slot: the mailbox and START_AT. -/
def setStart (mb at_ : Nat) (s : State) : State := setWait mb .slot (s.onJob (fun j => { j with startAt := some (mb, at_) }))

/-- START_JOB or RESUME_JOB has been taken and its first slot has not come. -/
def State.startDue (s : State) : Bool := match s.job with | some j => j.startAt.isSome | none => false

def runStartJob (mb : Nat) (m : Mailbox) (s : State) : State :=
  let from_ := bit (m.arg 4 4) 0
  let restored := match s.job with | some j => j.restoredAt.isSome && j.restored | none => false
  if s.startDue then answer mb stBusy 0 s
  else if from_ ∧ m.arg 0 4 ≠ 0 then answer mb stBadArg 0 s
  else if 2 ≤ m.arg 4 4 then answer mb stBadArg 4 s
  else if from_ && !restored then answer mb stBadState 0 s
  else setStart mb (m.arg 8 8) s

/-- START_JOB: the job waits for its first slot; it is answered at the boundary that opens it (R53, R337). -/
def execStartJob (mb : Nat) (s : State) : Host.Outcome State Fault Refusal := command mb (hasCmd 0x30) runStartJob s

def runResumeJob (mb : Nat) (m : Mailbox) (s : State) : State :=
  if s.startDue then answer mb stBusy 0 s else setStart mb (m.arg 0 8) s

/-- RESUME_JOB (R53, R337). -/
def execResumeJob (mb : Nat) (s : State) : Host.Outcome State Fault Refusal := command mb (hasCmd 0x32) runResumeJob s

/-- The provisional admission is discarded with its run-ahead (R86). -/
def dropProvisional (s : State) : State :=
  each (fun (x : Nat × Tile) s => if x.2.runAhead.isSome then dropAhead x.1 s else s) s.tiles
    { s with att := { s.att with provisional := [] } }

def runPauseJob (mb : Nat) (_ : Mailbox) (s : State) : State :=
  setWait mb .state (dropProvisional (s.onJob (fun j => { j with pausing := some mb })))

/-- PAUSE_JOB: from this boundary on no task is admitted (R86, R330). -/
def execPauseJob (mb : Nat) (s : State) : Host.Outcome State Fault Refusal := command mb (hasCmd 0x31) runPauseJob s

/-- No collective chunk of the job is outstanding: every entry issued is complete (R86, R301, R341). -/
def Job.collQuiet (j : Job) : Bool := j.collIssued.all (fun c => j.collDone.contains c)

/-- PAUSE_ENTER_READY: at the first boundary with no chunk outstanding the device enters READY and PAUSE_JOB is answered (R8,
R86). -/
def execPauseEnterReady (s : State) : Host.Outcome State Fault Refusal :=
  .next (match s.job with
    | none => s
    | some j => match j.pausing with
      | none => s
      | some mb =>
        if s.dev.state ≠ .running ∨ s.att.phase ≠ .commit ∨ !j.collQuiet then s
        else
          let s := s.onJob (fun j => { j with pausing := none, paused := true })
          let s := setDev .ready { s with att := { s.att with running := false } }
          if (s.mailbox mb).wait = some .state then answer mb stOk 0 s else s)

/-! ## STOP_JOB and RESET_COMPUTE (R8, R9, R328, R330, R361) -/

/-- A stronger state change overtakes a REQUALIFY, which is answered FENCED (R330). -/
def overtakeRequalify (s : State) : State :=
  match s.tests.requalify with
  | none => s
  | some (mb, _, _) => answer mb stFenced 0 (dropCrumb { s with tests := { s.tests with requalify := none } })

/-- A compute reset for the command in a mailbox: one already in progress ends it too (R330). -/
def takeReset (mb : Nat) (_ : Mailbox) (s : State) : State :=
  let s := setWait mb .state (overtakeRequalify s)
  if s.tests.reset.isSome then s else beginReset (some mb) none s

/-- STOP_JOB: the job is closed by a compute reset; answered on entering STANDBY (R8, R9, R10, R328, R330). -/
def execStopJob (mb : Nat) (s : State) : Host.Outcome State Fault Refusal := command mb (hasCmd 0x33) takeReset s

def runResetCompute (mb : Nat) (m : Mailbox) (s : State) : State := takeReset mb m s

/-- RESET_COMPUTE (R8, R9, R328, R330, R361). -/
def execResetCompute (mb : Nat) (s : State) : Host.Outcome State Fault Refusal := command mb (hasCmd 0x70) runResetCompute s

/-! ## CHECKPOINT (R87, R338 to R341) -/

/-- The declared loaves in ascending number. -/
def declaredLoaves (ds : List Decl) : List Nat :=
  ((ds.map (fun d => (List.range d.count).map (d.first + ·))).flatten).mergeSort (fun a b => decide (a ≤ b))

/-- The declared loaves of tray-scaled tensors. -/
def trayLoafList (im : Image) (ds : List Decl) : List Nat :=
  declaredLoaves (ds.filter (fun d => isTray (im.numerics.getD d.tensor {}).format))

/-- Bytes padded with zeros to a 64-byte boundary. -/
def padTo64 (b : List Byte) : List Byte := b ++ List.replicate (align64 b.length - b.length) 0

/-- Bytes of the parts of a stream before the loaves, for a number of exhausted trays (R339). -/
def headBytes (im : Image) (exhausted : Nat) : Nat :=
  256 + align64 (ceilDiv im.taskCount 8) + align64 (8 * exhausted) + align64 (24 * im.tensorCount)

/-- Length of the checkpoint stream of the open job (R339). -/
def streamBytes (j : Job) (exhausted : Nat) : Nat :=
  headBytes j.image exhausted + 131072 * (j.decls.map (·.count)).sum + 2048 * trayLoaves j.image j.decls

/-- The header of a stream (R339 Table 12). -/
def checkpointHeader (j : Job) (tick : Nat) : List Byte :=
  leBytes 4 0x54504B43 ++ leBytes 2 0x0400 ++ leBytes 2 (if j.collQuiet then 0 else 1) ++ leBytes 8 (streamBytes j j.exhausted.length) ++
    hashBytes j.image.taskHash ++ leBytes 8 j.seed.toNat ++ leBytes 4 j.step ++ leBytes 4 j.wave ++
    leBytes 4 (j.decls.map (·.count)).sum ++ leBytes 4 j.image.tensorCount ++ leBytes 4 j.exhausted.length ++ leBytes 4 0 ++
    leBytes 8 tick ++ leBytes 152 0

/-- The checkpoint stream of the state committed now (R87, R339, R340). -/
def checkpointStream (j : Job) (s : State) : List Byte :=
  checkpointHeader j s.time.tick ++
    padTo64 (leBytes (ceilDiv j.image.taskCount 8) ((j.committed.map (fun t => 2 ^ t)).sum)) ++
    padTo64 ((j.exhausted.map (fun x => leBytes 2 x.1 ++ leBytes 6 x.2)).flatten) ++
    padTo64 (((List.range j.image.tensorCount).map (fun t => countersBytes t (look {} t j.counters))).flatten) ++
    ((declaredLoaves j.decls).map (fun l => s.readLines l 0 2048)).flatten ++
    ((trayLoafList j.image j.decls).map (fun l => ((List.range 64).map (fun t => scaleBytes (s.scaleOf l t))).flatten)).flatten

/-- The checks that SAVE and RESTORE share: the payload offset of the first failure. A RESTORE's stream may hold any number of
exhausted trays (R338, R339; notes/assumptions/25.md). -/
def checkpointArgs (m : Mailbox) (j : Job) : Option Nat :=
  let total := m.arg 8 8
  let least := streamBytes j 0
  if 1 < m.mode then some 0
  else if m.arg 1 7 ≠ 0 then some 1
  else if m.mode = 0 ∧ total ≠ streamBytes j j.exhausted.length then some 8
  else if m.mode = 1 ∧ (total < least ∨ (total - least) % 64 ≠ 0) then some 8
  else if m.arg 16 8 % 16 ≠ 0 then some 16
  else none

/-- The committed state of every declared loaf is read for a SAVE: the reads' grants, what they met, and the stream (R87, R232, R237, R240,
R241, R339). -/
def saveState (j : Job) (reads : List MemRead) (mb : Nat) (s : State) : State :=
  let s := each (fun l s => grantReads l 0 2048 s) (declaredLoaves j.decls) (setWait mb (.dma []) s)
  let s := hubReads (fun r => decide (r.line < 2048) && (s.declared r.loaf).isSome) reads s
  if (s.mailbox mb).wait = some (.dma []) then setWait mb (.dma (checkpointStream j s)) s else s

def runCheckpoint (reads : List MemRead) (mb : Nat) (m : Mailbox) (s : State) : State :=
  match s.job with
  | none => answer mb stBadState 0 s
  | some j => match checkpointArgs m j with
    | some d => answer mb stBadArg d s
    | none => if m.mode = 0 then saveState j reads mb s else setWait mb (.dma []) s

/-- CHECKPOINT_SAVE: the committed state begins to go to the host as a stream (R87, R338 to R340). -/
def execCheckpointSave (c : HostRead) (s : State) : Host.Outcome State Fault Refusal :=
  command c.mb (fun m => hasCmd 0x34 m && m.mode ≠ 1) (runCheckpoint c.reads) s

def runRestore (mb : Nat) (m : Mailbox) (s : State) : State := runCheckpoint [] mb m s

/-- CHECKPOINT_RESTORE: the DMA of a stream begins (R338, R341). -/
def execCheckpointRestore (mb : Nat) (s : State) : Host.Outcome State Fault Refusal :=
  command mb (fun m => hasCmd 0x34 m && m.mode == 1) runRestore s

/-- A SAVE is in progress (R340). -/
def State.saving (s : State) : Bool :=
  (List.range 16).any (fun mb => let m := s.mailbox mb
    m.cmd == 0x34 && decide (m.mode = 0) && (match m.wait with | some (.dma _) => true | _ => false))

/-- The frames kept for a SAVE are freed, but for those that still hold a version (R340). -/
def freeKept (s : State) : State :=
  each (fun (k : Nat × Nat) s =>
    let e := s.entry k.1
    if e.frameC = k.2 ∨ e.frameP = k.2 then s else { s with mem := s.mem.drop (s.committedFrame k.1) k.2 })
    s.mem.kept { s with mem := { s.mem with kept := [] } }

/-- A stream that a RESTORE refuses (R338, R341; notes/assumptions/25.md). -/
def streamRefused (j : Job) (b : List Byte) : Bool :=
  let le := fun off n => rawLe b off n
  decide (le 0 4 ≠ 0x54504B43) || decide (le 4 2 ≠ 0x0400) || decide (le 6 2 ≠ 0) || decide (le 8 8 ≠ b.length) ||
    decide (le 0x10 48 ≠ leNat (hashBytes j.image.taskHash)) || decide (le 0x40 8 ≠ j.seed.toNat) ||
    decide (le 0x50 4 ≠ (j.decls.map (·.count)).sum) || decide (le 0x54 4 ≠ j.image.tensorCount) ||
    decide (streamBytes j (le 0x58 4) ≠ b.length)

/-- The numbers of the bits set in some bytes. -/
def bitList (n bits_ : Nat) : List Nat := (List.range n).filter (fun i => bit bits_ i)

/-- Lines of a restored loaf enter the journal. -/
def restoreLoaf (mb : Nat) (x : Nat × List Byte) (s : State) : State := fillJournal mb x.1 0 (cutLines x.2) s

/-- The scale block of a restored loaf enters the journal. -/
def restoreScales (mb : Nat) (x : Nat × List Byte) (s : State) : State :=
  each (fun t s => journalWrite (.scale x.1 t (parseScale ((x.2.drop (32 * t)).take 32)) { rank := 4, key1 := mb, key2 := 0 }) none s)
    (List.range 64) s

/-- Everything of the stream is written (R341). -/
def restoreStream (mb : Nat) (j : Job) (b : List Byte) (s : State) : State :=
  let ex := rawLe b 0x58 4
  let at2 := 256 + align64 (ceilDiv j.image.taskCount 8)
  let at3 := at2 + align64 (8 * ex)
  let at4 := headBytes j.image ex
  let loaves := declaredLoaves j.decls
  let trays := trayLoafList j.image j.decls
  let s := each (restoreLoaf mb) (loaves.zipIdx.map (fun (l, i) => (l, (b.drop (at4 + 131072 * i)).take 131072))) s
  let s := each (restoreScales mb) (trays.zipIdx.map (fun (l, i) => (l, (b.drop (at4 + 131072 * loaves.length + 2048 * i)).take 2048))) s
  let counters := (List.range j.image.tensorCount).map (fun t =>
    let a := at3 + 24 * t
    (t, ({ sat := rawLe b (a + 4) 4, nan := rawLe b (a + 8) 4, underflow := rawLe b (a + 12) 4, ovfTrays := rawLe b (a + 16) 4,
           recomputes := rawLe b (a + 20) 4 } : TensorCounters)))
  s.onJob (fun j => { j with
    counters := counters
    exhausted := (List.range ex).map (fun i => (rawLe b (at2 + 8 * i) 2, rawLe b (at2 + 8 * i + 2) 4))
    restoredAt := some (rawLe b 0x48 4, rawLe b 0x4C 4, bitList j.image.taskCount (rawLe b 256 (ceilDiv j.image.taskCount 8))) })

/-- CHECKPOINT_TRANSFER_COMPLETE: the stream of a SAVE has gone to the host, or that of a RESTORE has come and is written; its
writes wait for the next commit (R332, R338 to R342). -/
def execCheckpointTransferComplete (mb : Nat) (list : List Descriptor) (data : List Byte) (s : State) : Host.Outcome State Fault Refusal :=
  guardUnit (decide (mb < 16)) (match s.dmaOf mb 0x34, s.job with
    | some out, some j =>
      let m := s.mailbox mb
      let n := m.arg 8 8
      match listFault (some n) list 0 0 with
      | some i => if m.mode = 0 then answer mb stBadArg i (freeKept (writeOut (list.take i) out s)) else answer mb stBadArg i s
      | none =>
        if m.mode = 0 then answer mb stOk 0 (freeKept (writeOut list out s))
        else
          let b := dmaData n data
          if streamRefused j b then answer mb stBadArg 0 s else setWait mb .publish (restoreStream mb j b s)
    | _, _ => s)

end Sys2Proof.Machine
end

