-- ==== Sys2Proof/Machine/FabCmds.lean ====
section
/-! DEFINITION. The host's fabric and window commands: FABRIC_PLAN, FABRIC_COMMIT, WINDOW_OPEN and WINDOW_CLOSE (R264 to R267, R271,
R273, R275, R279, R283, R287, R290, R294, R343 to R347, R457). -/

namespace Sys2Proof.Machine

/-! ## The plan's encoding (R271 Table 11, R343 Tables 13 and 14) -/

/-- Exception entry. -/
def parseExc (r : Nat) : Exc :=
  { dim := bits r 0 3, valid := bit r 3, lo := bits r 4 24, hi := bits r 28 24, action := bits r 52 2, detourMinus := bit r 54,
    p0 := bit r 55, p1 := bit r 56 }

/-- Circuit record. -/
def parseCircuit (r : Nat) : Circuit := { number := bits r 0 16, share := bits r 16 8, src := bits r 32 24, dest := bits r 64 24 }

/-- EXC_COUNT and CIRC_COUNT. -/
def planCounts (raw : List Byte) : Nat × Nat := (rawLe raw 0xC0 4, rawLe raw 0xC4 4)

/-- A plan read from its bytes. Entries of dimensions beyond DIMS stand for nothing. -/
def parsePlan (raw : List Byte) : Plan :=
  let le := rawLe raw
  let dims := le 0x0C 1
  let flags := le 0x0D 1
  let n := planCounts raw
  { planId := BitVec.ofNat 64 (leNat ((hashBytes (Config.sha384 raw)).take 8)), address := le 8 4, dims := dims, mixed := bit flags 0,
    heal := bit flags 1, tickUs := le 0x0E 2,
    width := (List.range dims).map (fun i => le (0x10 + i) 1),
    size := (List.range dims).map (fun i => le (0x18 + 4 * i) 4),
    dateline := (List.range dims).map (fun i => le (0x30 + 4 * i) 4),
    bundle := (List.range (2 * dims)).map (fun i => le (0x48 + 4 * i) 4),
    bundleMin := le 0x78 1, floodTicks := le 0x79 1, drainUs := le 0x7A 2, e2eTimeout := le 0x7C 2, e2eRetries := le 0x7E 1,
    anchorSrc := bit (le 0x7F 1) 0, mode := le 0x80 4, anchor := le 0x84 4, timeBudget := le 0x88 1,
    asym := (List.range 24).map (fun p => signedOf 16 (le (0x90 + 2 * p) 2)),
    exceptions := (recordsAt raw 0x100 (8 * n.1) 8).map parseExc,
    circuits := (recordsAt raw (0x100 + 8 * n.1) (16 * n.2) 16).map parseCircuit }

/-- Ports of a mask. -/
def maskPorts (m : Nat) : List Nat := (List.range 24).filter (fun p => bit m p)

/-- The header's RSV fields, and those of the records, are zero; the counts and lengths fit. -/
def planShapeFits (raw : List Byte) : Bool :=
  let le := rawLe raw
  let n := planCounts raw
  le 0 4 == 0x4E414C50 && le 4 4 == raw.length && decide (n.1 ≤ 65536) && decide (n.2 ≤ 65536) && raw.length == 256 + 8 * n.1 + 16 * n.2
    && decide (le 0x0D 1 < 4) && le 0x16 2 == 0 && le 0x89 7 == 0 && le 0xC8 56 == 0 && decide (le 0x7F 1 ≤ 1)
    && (recordsAt raw 0x100 (8 * n.1) 8).all (fun r => bits r 57 7 == 0)
    && (recordsAt raw (0x100 + 8 * n.1) (16 * n.2) 16).all (fun r => bits r 24 8 == 0 && bits r 56 8 == 0 && bits r 88 40 == 0)
    && (List.range 6).all (fun i => decide (i < le 0x0C 1) || le (0x10 + i) 1 == 0)

/-- The ranges of R264 Table 10 and of R294 Table 1, and R265, R266, R283. -/
def planRangesFit (pl : Plan) : Bool :=
  let dims := List.range pl.dims
  let sum := pl.width.sum
  let masks := pl.bundle
  decide (1 ≤ pl.dims) && decide (pl.dims ≤ 6) && decide (pl.address < 2 ^ 24) && decide (pl.anchor < 2 ^ 24)
    && dims.all (fun i =>
      let w := pl.width.getD i 0
      decide (1 ≤ w) && decide (w ≤ 24) && decide (2 ≤ pl.sizeOf i) && decide (pl.sizeOf i ≤ 2 ^ w)
        && decide (pl.dateline.getD i 0 < pl.sizeOf i) && decide (pl.coord pl.address i < pl.sizeOf i))
    && decide (sum ≤ 24) && decide (pl.address < 2 ^ sum)
    && masks.all (fun m => decide (m < 2 ^ 24) && decide (1 ≤ (maskPorts m).length) && decide ((maskPorts m).length ≤ 8))
    && (List.range 24).all (fun p => decide ((masks.filter (fun m => bit m p)).length ≤ 1))
    && decide (1 ≤ pl.bundleMin) && decide (pl.bundleMin ≤ 8) && decide (8 ≤ pl.tickUs) && decide (pl.tickUs ≤ 1024)
    && decide (1 ≤ pl.floodTicks) && decide (pl.floodTicks ≤ 64) && decide (100 ≤ pl.drainUs) && decide (pl.drainUs ≤ 2000)
    && decide (pl.drainTicks * pl.tickUs ≤ 2000) && decide (1 ≤ pl.e2eTimeout) && decide (pl.e2eTimeout ≤ 1024)
    && decide (1 ≤ pl.e2eRetries) && decide (pl.e2eRetries ≤ 64) && decide (10 ≤ pl.timeBudget) && decide (pl.timeBudget ≤ 100)
    && decide (pl.mode < 2 ^ 24) && (List.range 24).all (fun p => bit pl.mode p || pl.asym.getD p 0 == 0)
    && pl.circuits.all (fun c => decide (1 ≤ c.share) && decide (c.share ≤ 204))

/-- A port faces a Trigrim (R287). -/
def State.facesTrigrim (s : State) (p : Nat) : Bool :=
  match (s.port p).peerHello with
  | some h => h.generation == 3
  | none => false

/-- The limits towards Trigrim devices (R287 Table 16), and those of circuits on a port (R344). -/
def planFitsHere (pl : Plan) (s : State) : Bool :=
  let cs := circuitsHere pl pl.exceptions pl.portsOf
  (!pl.mixed || (decide (pl.dims ≤ 4) && decide (pl.width.sum ≤ 20)))
    && pl.circuits.all (fun c => match circuitEnters pl pl.exceptions c.dest ((pl.size.take pl.dims).sum + 1) c.src with
        | some b => !(pl.portsOf b).any s.facesTrigrim
        | none => true)
    && (List.range 24).all (fun p =>
      let mine : List Circuit := (cs.filter (fun c => c.1 == p)).map (fun c => c.2)
      decide (mine.length ≤ 256) && decide ((mine.map (·.share)).sum ≤ 204)
        && (!s.facesTrigrim p || (mine.isEmpty && !bit pl.mode p)))

/-- While a job is open a plan may not change these (R264, R294). -/
def samePlace (a b : Plan) : Bool :=
  a.address == b.address && a.dims == b.dims && a.width == b.width && a.size == b.size && a.tickUs == b.tickUs && a.anchor == b.anchor
    && a.anchorSrc == b.anchorSrc

/-! ## FABRIC_PLAN (R264, R294, R343, R344, R457) -/

def runFabricPlan (mb : Nat) (m : Mailbox) (s : State) : State :=
  let n := m.arg 8 4
  if m.arg 0 8 % 16 ≠ 0 then answer mb stBadArg 0 s
  else if n < 256 ∨ 1573120 < n then answer mb stBadArg 8 s
  else if m.arg 12 4 ≠ 0 then answer mb stBadArg 12 s
  else setWait mb (.dma []) s

/-- FABRIC_PLAN: the DMA of a plan begins (R332, R343). -/
def execFabricPlan (mb : Nat) (s : State) : Host.Outcome State Fault Refusal := command mb (hasCmd 0x40) runFabricPlan s

/-- A plan loads into the shadow; a device with no committed plan adopts its anchor at once, and SYNC_CONFLICT names a pin kept for
fast shutdown (R294, R343, R457). -/
def loadPlan (pl : Plan) (s : State) : State :=
  let s := { s with fab := { s.fab with shadow := some pl } }
  let s := if pl.anchorSrc && s.nor.syncInFast && pl.address == pl.anchor then raise (Raise.of .syncConflict .device 0 0 0 0) s else s
  if s.fab.plan.isNone then reparent { s with time := { s.time with anchor := pl.anchor } } else s

/-- The plan's bytes are here: its checks, and the answer (R264 to R267, R287, R294, R332, R343, R344). -/
def planArrives (mb : Nat) (list : List Descriptor) (data : List Byte) (s : State) : State :=
  let n := (s.mailbox mb).arg 8 4
  match listFault (some (align64 n)) list 0 0 with
  | some i => answer mb stBadArg i s
  | none =>
    let raw := (dmaData (align64 n) data).take n
    let pl := parsePlan raw
    if !(planShapeFits raw && planRangesFit pl && planFitsHere pl s) then answer mb stBadArg 0 s
    else if s.job.isSome && !(match s.fab.plan with | some old => samePlace old pl | none => true) then answer mb stBadState 0 s
    else if (match s.fab.swap with | some w => w.plan && w.stopped | none => false) then answer mb stBusy 0 s
    else answer mb stOk 0 (loadPlan pl s)

/-- FABRIC_PLAN_DMA_COMPLETE: the plan's bytes are here and are checked (R264 to R267, R332, R343, R344). -/
def execFabricPlanDmaComplete (mb : Nat) (list : List Descriptor) (data : List Byte) (s : State) : Host.Outcome State Fault Refusal :=
  guardUnit (decide (mb < 16)) (match s.dmaOf mb 0x40 with
    | none => s
    | some _ => planArrives mb list data s)

/-! ## FABRIC_COMMIT (R283, R345) -/

/-- A FABRIC_COMMIT waits for its swap. -/
def State.committing (s : State) : Bool :=
  (match s.fab.swap with | some w => w.plan | none => false) || (match s.fab.nextSwap with | some w => w.plan | none => false)

/-- Ports the defect map lists; they stay held down (R418). -/
def State.defectPorts (s : State) : List Nat := (s.nor.defects.filter (fun d => d.kind == 2)).map (fun d => d.location % 32)

/-- Ports held down under PORT_FLAP or PORT_AUTH_FAIL are released and retrain (R255, R376). -/
def releaseHeld (s : State) : State :=
  each (fun p s => if (s.port p).state = .held ∧ !s.defectPorts.contains p then s.onPort p (fun x => { x.cleared with state := .training }) else s)
    (List.range 24) s

def runFabricCommit (mb : Nat) (m : Mailbox) (s : State) : State :=
  let t := m.arg 0 8
  match s.fab.shadow with
  | none => answer mb stBadState 0 s
  | some pl =>
    if !s.time.locked || (s.job.isSome && s.fab.plan.isNone) then answer mb stBadState 0 s
    else if s.committing then answer mb stBusy 0 s
    else if t < s.time.tick + 2 then answer mb stBadArg 0 s
    else
      let w := (s.fab.plan.getD pl).drainTicks
      setWait mb .swap (releaseHeld <| insertSwap { stopAt := t, swapAt := t + w, plan := true, planAt := t, mailbox := some mb } s)

/-- FABRIC_COMMIT: the loaded plan enters at the drain and swap that stops at T_S; held ports are released (R255, R283, R290,
R345). -/
def execFabricCommit (mb : Nat) (s : State) : Host.Outcome State Fault Refusal := command mb (hasCmd 0x41) runFabricCommit s

/-! ## WINDOW_OPEN and WINDOW_CLOSE (R275, R279, R345 Table 15, R346, R347) -/

/-- The record a WINDOW_OPEN describes. -/
def parseWindow (r : Nat) : Window :=
  { first := bits r 32 25, count := bits r 57 25, gen := BitVec.ofNat 4 (bits r 124 4), valid := true, ops := BitVec.ofNat 4 (bits r 82 4),
    peerAll := bit r 86, peer := bits r 88 24, window := bits r 112 12 }

/-- Two ranges share a loaf. -/
def windowsMeet (a b : Window) : Bool := rangesMeet a.first a.count b.first b.count

/-- A range touches a staging range of the open job's collective plan, which no proxy range may (R300). -/
def State.onStaging (s : State) (first count : Nat) : Bool :=
  match s.job with
  | some j => j.image.stagingRanges.any (fun x => rangesMeet first count x.1 x.2)
  | none => false

/-- The payload offset of the first field of a WINDOW_OPEN that breaks a rule of Table 15, of R275 or, for a proxy, of R300. -/
def windowArgs (r : Nat) (s : State) : Option Nat :=
  let w := parseWindow r
  let proxy := bit r 12
  let ds := match s.job with | some j => j.decls | none => []
  let openIn := fun (l : List (Nat × Window)) => l.any (fun x => x.2.valid && windowsMeet x.2 w)
  if bits r 13 19 ≠ 0 then some 1
  else if w.count = 0 ∨ !rangeFlagged ds (fun _ => true) (ds.length + 1) w.first (w.first + w.count - 1) then some 4
  else if bit r 87 ∨ (proxy ∧ (bits r 84 3 ≠ 0)) then some 10
  else if bits r 128 64 ≠ 0 then some 16
  else if proxy ∧ (openIn s.fab.proxies ∨ openIn s.fab.windows ∨ ds.any (fun d => d.hostIn && rangesMeet d.first d.count w.first w.count)) then some 4
  else if !proxy ∧ openIn s.fab.proxies then some 4
  else if proxy && s.onStaging w.first w.count then some 4
  else none

/-- A local window opens: its number's generation advances (R275). -/
def openLocal (n : Nat) (w : Window) (s : State) : State :=
  let old := look {} n s.fab.windows
  { s with fab := { s.fab with windows := put n { w with gen := old.gen + 1, window := 0 } s.fab.windows } }

def runWindowOpen (mb : Nat) (m : Mailbox) (s : State) : State :=
  let r := m.arg 0 24
  let n := bits r 0 12
  let proxy := bit r 12
  let old := look {} n (if proxy then s.fab.proxies else s.fab.windows)
  let recent := match old.closedAt with | some t => decide (s.time.tick ≤ t + 256) | none => false
  if old.valid then answer mb stBadState 0 s
  else if (if proxy then s.proxyBusy n else recent) then answer mb stBusy 0 s
  else match windowArgs r s with
    | some d => answer mb stBadArg d s
    | none =>
      if proxy then
        let w := parseWindow r
        respond mb (leBytes 4 w.gen.toNat) { s with fab := { s.fab with proxies := put n w s.fab.proxies } }
      else
        let s := openLocal n (parseWindow r) s
        respond mb (leBytes 4 (look {} n s.fab.windows).gen.toNat) s

/-- WINDOW_OPEN: a local window or a proxy binding opens over declared loaves (R275, R346). -/
def execWindowOpen (mb : Nat) (s : State) : Host.Outcome State Fault Refusal := command mb (hasCmd 0x42) runWindowOpen s

def runWindowCloseLocal (mb : Nat) (m : Mailbox) (s : State) : State :=
  let r := m.arg 0 4
  let n := bits r 0 12
  let w := look {} n s.fab.windows
  if bits r 13 19 ≠ 0 then answer mb stBadArg 1 s
  else if !w.valid then answer mb stBadArg 0 s
  else setWait mb .publish { s with fab := { s.fab with windows := put n { w with valid := false, closedAt := some s.time.tick } s.fab.windows } }

/-- WINDOW_CLOSE of a local window: a fence, answered at the commit that publishes the last operation let in (R279, R347). -/
def execWindowCloseLocal (mb : Nat) (s : State) : Host.Outcome State Fault Refusal :=
  command mb (fun m => hasCmd 0x43 m && !m.proxyKind) runWindowCloseLocal s

def runWindowCloseProxy (mb : Nat) (m : Mailbox) (s : State) : State :=
  let r := m.arg 0 4
  let n := bits r 0 12
  let w := look {} n s.fab.proxies
  if bits r 13 19 ≠ 0 then answer mb stBadArg 1 s
  else if !w.valid then answer mb stBadArg 0 s
  else
    let s := { s with fab := { s.fab with proxies := put n { w with valid := false, closedAt := some s.time.tick } s.fab.proxies } }
    if s.proxyBusy n then setWait mb (.replies n) s else answer mb stOk 0 s

/-- WINDOW_CLOSE of a proxy binding: answered once every operation through it has had its reply (R347). -/
def execWindowCloseProxy (mb : Nat) (s : State) : Host.Outcome State Fault Refusal :=
  command mb (fun m => hasCmd 0x43 m && m.proxyKind) runWindowCloseProxy s

end Sys2Proof.Machine
end

