-- ==== Sys2Proof/Machine/Recovery.lean ====
section
/-! DEFINITION. The crumb check, the end of a compute reset, REQUALIFY, Fenum restarts and firmware activation (R328, R350, R351,
R361 to R366, R372 to R377, R391, R392, R404, R427, R431). -/

namespace Sys2Proof.Machine

/-! ## CRUMB_CHECK (R350, R373 to R375) -/

def runCrumbCheck (mb : Nat) (m : Mailbox) (s : State) : State :=
  if m.arg 1 3 ≠ 0 then answer mb stBadArg 1 s
  else setWait mb .test (dropProvisional { s with tests := { s.tests with crumb := some { mailbox := some mb, dies := m.arg 0 1 } } })

/-- CRUMB_CHECK: a check of the masked dies is due; admission is held from this boundary on (R350, R373). -/
def execCrumbCheck (mb : Nat) (s : State) : Host.Outcome State Fault Refusal := command mb (hasCmd 0x50) runCrumbCheck s

/-- A collective entry of the job has an open window (R312, R373, R457). -/
def State.windowStands (s : State) : Bool :=
  s.coll.any (fun r => !r.complete && decide (r.openSlot ≤ s.time.tick) && decide (s.time.tick < r.closeTick))

/-- A sweep begins under a fresh seed; its pairs are counted (R374). -/
def beginSweep (c : Crumb) (s : State) : State :=
  let v := s.fresh
  let s := v.2
  { s with tests := { s.tests with crumb := some { c with begun := true, seed := v.1.setWidth 64, pairs := s.crumbPairs c } } }

/-- CRUMB_CHECK_BEGIN: at the first boundary with no collective window open, the sweep begins (R373, R374, R457). -/
def execCrumbCheckBegin (s : State) : Host.Outcome State Fault Refusal :=
  .next (match s.tests.crumb with
    | none => s
    | some c => if c.begun || !s.computing || decide (s.clk.mhz = 0) || s.windowStands then s else beginSweep c s)

/-- The sweep has ended. Step 2 of REQUALIFY makes its retirements at once and goes on to step 3 (R375, R376). -/
def finishSweep (s : State) : State :=
  match s.tests.requalify, s.tests.crumb with
  | some (_, 2, _), some c =>
    let s := settleMoves (each retireTile (c.retired.map (·, Cond.crumbMismatch)) { s with tests := { s.tests with crumb := none } })
    (match s.tests.requalify with
    | some (mb, _, t) => { s with tests := { s.tests with requalify := some (mb, 3, t) } }
    | none => s)
  | _, _ => endCrumb s

/-- One program of the check on a pair of tiles (R374, R375). -/
def crumbRun (tile partner : Nat) (sig sigPartner : Word64) (reruns : List (Nat × Word64)) (s : State) : State :=
  match s.tests.crumb with
  | none => s
  | some c =>
    if !c.begun || decide (s.clk.mhz = 0) || !s.ticking || !(s.crumbTiles c).contains tile || c.retired.contains tile
        || !s.crumbPair tile partner then s
    else
      let s := crumbProgram tile s
      let s := if (s.crumbTiles c).contains partner && s.crumbPair partner tile then crumbProgram partner s else s
      let s := match s.tests.crumb with
        | some c => comparePair c (tile, sig) (partner, sigPartner) reruns s
        | none => s
      match s.tests.crumb with
      | some c => if s.crumbDone c then finishSweep s else s
      | none => s

/-- CRUMB_PROGRAM_COMPLETE: a crumb program ends on a pair of tiles with these output words; the signatures are compared, with reruns on other dies
(R374 to R376). -/
def execCrumbProgramComplete (tile partner : Nat) (out outPartner : List Word64) (reruns : List (Nat × List Word64)) (s : State) :
    Host.Outcome State Fault Refusal :=
  guardUnit (decide (tile < 1152) && decide (partner < 1152) && reruns.all (fun r => decide (r.1 < 1152)))
    (crumbRun tile partner (crumbSignature out) (crumbSignature outPartner) (reruns.map (fun r => (r.1, crumbSignature r.2))) s)

/-! ## The end of a compute reset (R361 Table 6, R362) -/

/-- Tiles the defect map lists (R418). -/
def State.defectTiles (s : State) : List Nat := (s.nor.defects.filter (fun d => d.kind == 1)).map (fun d => locationTile d.location)

/-- An active tile that may not stay is replaced under R370; without a reserve RESERVE_EXHAUSTED is raised. -/
def replaceTile (p : Nat) (s : State) : State :=
  match s.logical? p with
  | none => s
  | some l =>
    if s.tests.moves.any (fun m => m.source == p) then s
    else match chooseReserve s p with
      | none => raise (Raise.of .reserveExhausted (.tile p) 0 0 0 0) s
      | some q => startMove .retirement l p q s

/-- The retirements of a reset: those named in it, and active tiles the defect map lists (R362, R418). -/
def resetRetire (s : State) : State :=
  let named := match s.tests.reset with | some run => run.retire | none => []
  let s := each retireTile named s
  settleMoves (each replaceTile ((s.defectTiles).filter (fun p => (s.logical? p).isSome)) s)

/-- What a compute reset leaves: the generation advances, windows, bindings and peers are cleared, down ports retrain, the
period returns to 32 µs without a plan, the crossings keep the settings of this calibration, and the oscillators run unless FATAL evidence stands
(R361 Table 6, R290, R363, R391, R392). -/
def clearCompute (s : State) : State :=
  let hold := s.dev.fatalTransit && s.tests.requalify.isNone
  let mhz := if hold then 0 else if s.clk.mhz = 0 then Nat.min 2000 s.clk.thermalCeil else s.clk.mhz
  { s with
    fab := { s.fab with resetGen := (s.fab.resetGen + 1) % 16, windows := [], proxies := [], peers := [],
                        ports := s.fab.ports.map (fun p =>
                          if decide (p.2.state = .down) && s.dev.transmitters then (p.1, { p.2.cleared with state := .training }) else p) }
    time := { s.time with nextPeriodUs := if s.fab.plan.isSome then s.time.nextPeriodUs else 32 }
    dev := { s.dev with fenced := s.dev.fatalTransit || s.dev.tap.isSome, resetBusy := false }
    clk := { s.clk with mhz := mhz, crossCal := s.clk.crossCal + 1 }
    tests := { s.tests with reset := none } }

/-- STANDBY forwards: what an abandoned shutdown test had turned off comes on again, but for transmitters that the test access port holds dark
(R7 Table 3, R436). -/
def enterService (s : State) : State :=
  setDev .standby { s with dev := { s.dev with forwarding := true, transmitters := s.dev.tap.isNone } }

/-- Commands that waited for the end of the reset are answered OK (R328, R329). -/
def answerResets (s : State) : State :=
  each (fun mb s =>
      let m := s.mailbox mb
      if decide (m.wait = some .state) && (m.cmd == 0x33 || m.cmd == 0x70) then answer mb stOk 0 s else s)
    (List.range 16) s

/-- After its first step REQUALIFY sweeps every non-failed tile (R376). -/
def requalifySweep (s : State) : State :=
  match s.tests.requalify with
  | some (mb, 1, t) => beginSweep {} { s with tests := { s.tests with requalify := some (mb, 2, t) } }
  | _ => s

/-- The reset ends in STANDBY, or in TRANSIT where FATAL evidence stands (R8, R362, R366). -/
def endReset (s : State) : State :=
  let s := clearCompute s
  let s := if s.dev.fatalTransit then s else enterService s
  requalifySweep (answerResets s)

/-- COMPUTE_RESET_COMPLETE: retraining, crossing calibration and repairs have ended. A lost unit or a retirement without a
reserve ends the reset after its wipe; otherwise the tiles that failed are retired and the device enters STANDBY (R244, R362,
R391). -/
def completeReset (failTiles : List Nat) (lostUnits : List Source) (s : State) : State :=
  if s.tests.reset.isNone || s.dev.restarting then s
  else
    let s := each memLost lostUnits (settleMoves s)
    let s := if s.tests.reset.isNone then s else each (fun p s => raise (Raise.of .crossCalFail (.tile p) 0 0 0 0) s) failTiles s
    let s := if s.tests.reset.isNone then s else resetRetire s
    if s.tests.reset.isNone then s else endReset s

/-- A stack, or a configured channel. -/
def State.memoryUnit (s : State) : Source → Bool
  | .hbm k => decide (k < 16)
  | .ddr c => s.nor.channels.contains c
  | _ => false

def execComputeResetComplete (failTiles : List Nat) (lostUnits : List Source) (s : State) : Host.Outcome State Fault Refusal :=
  guardUnit (failTiles.all (fun p => decide (p < 1152)) && lostUnits.all s.memoryUnit) (completeReset failTiles lostUnits s)

/-! ## REQUALIFY (R376, R377, R404) -/

def runRequalify (mb : Nat) (_ : Mailbox) (s : State) : State :=
  if s.clk.tripped || s.dev.resetBusy then answer mb stBusy 0 s
  else
    let s := { s with tests := { s.tests with requalify := some (mb, 1, decide (s.dev.state = .transit)) } }
    beginReset (some mb) none (setWait mb .test s)

/-- REQUALIFY: its first step, a compute reset, begins (R330, R376). After a trip it is BUSY until every sensor reads below 85 °C
(R404). -/
def execRequalify (mb : Nat) (s : State) : Host.Outcome State Fault Refusal := command mb (hasCmd 0x51) runRequalify s

/-- Every step has passed (R377). -/
def passRequalify (mb : Nat) (s : State) : State :=
  let s := { s with
    tests := { s.tests with requalify := none }
    dev := { s.dev with fatalTransit := false, fenced := false }
    health := { s.health with corrected := [], discards := [], retirements := [], linkErrors := [] } }
  answer mb stOk 0 (setDev .standby s)

/-- A unit that failed a test is named (R442). -/
def testFail (u : Source) (s : State) : State := raise (Raise.of .testFail u 0 0 0 0) s

/-- The next step of a REQUALIFY that has not failed. -/
def requalifyStep (n : Nat) (s : State) : State :=
  match s.tests.requalify with
  | some (mb, _, t) => { s with tests := { s.tests with requalify := some (mb, n, t) } }
  | none => s

/-- Soft repair of rows a march test found (R243, R376). -/
def softRepair (rows : List RowRef) (s : State) : State :=
  let s := each repairRow rows s
  { s with mem := { s.mem with softRepairs := s.mem.softRepairs ++ rows } }

/-- One step's tests end: 3 pads, slices and directory, 4 HBM4, 5 DDR5, 6 the ports. The march tests and the port traffic run in
parallel and are taken to end in the order of their numbers (R376). -/
def requalifyTest (found : TestResult) (s : State) : State :=
  match s.tests.requalify with
  | some (_, 3, _) =>
    if found.baseDies ≠ [] then failRequalify (each (fun d s => testFail (.die d) s) found.baseDies s)
    else
      let s := each (fun p s => retireTile (p, .testFail) (testFail (.tile p) s)) found.tiles s
      let s := settleMoves s
      releaseHeld (requalifyStep 4 s)
  | some (_, 4, _) => requalifyStep 5 (each (fun k s => memLost (.hbm k) s) found.hbm (softRepair found.rows s))
  | some (_, 5, _) => requalifyStep 6 (each (fun c s => memLost (.ddr c) s) found.ddr (softRepair found.rows s))
  | some (mb, 6, _) => passRequalify mb (each portDown found.ports s)
  | _ => s

/-- The units a test result names exist. -/
def testUnits (f : TestResult) : Bool :=
  f.tiles.all (fun p => decide (p < 1152)) && f.hbm.all (fun k => decide (k < 16)) && f.ddr.all (fun c => decide (c < 8))
    && f.baseDies.all (fun d => decide (d < 8)) && f.portDies.all (fun i => decide (i < 4)) && f.ports.all (fun p => decide (p < 24))
    && f.sensors.all (fun p => decide (p < 1152)) && f.rows.all rowExists

/-- REQUALIFY_TEST_COMPLETE: a march test or the 10 s port traffic test ends; the next step runs, or REQUALIFY is answered
(R376, R377). -/
def execRequalifyTestComplete (found : TestResult) (s : State) : Host.Outcome State Fault Refusal :=
  guardUnit (testUnits found) (requalifyTest found s)

/-! ## Fenum restarts (R364, R365) -/

/-- A restart in TRANSIT reached through FATAL evidence, or a third one: fence and wipe only, compute stays fenced (R364). -/
def restartFenced (code : Cond) (s : State) : State :=
  let retire := match s.tests.reset with | some run => run.retire | none => []
  let s := stopOscillators (dropJob (dropCrumb (fence (some (code, false)) s)))
  { s with dev := { s.dev with fatalTransit := true }, tests := { s.tests with reset := none, retiring := s.tests.retiring ++ retire } }

/-- Any other restart: a compute reset, which the restarted firmware completes; during one the wipe starts again, and the third
condition of one reset raises RESET_FAIL (R362, R364). -/
def restartReset (code : Cond) (s : State) : State :=
  match s.tests.reset with
  | none => startReset none (fence (some (code, false)) s)
  | some run =>
    if 3 ≤ run.contains + 1 then restartFenced code (record (Raise.of .resetFail .device 0 0 0 0) s)
    else wipe (captureDump code false { s with tests := { s.tests with reset := some { run with contains := run.contains + 1 } } })

/-- The record of a restart's cause, where it has one. -/
def recordCause (cause : Option Cond) (s : State) : State :=
  match cause with
  | some c => record (Raise.of c .device 0 0 0 0) s
  | none => s

/-- The shutdown test ends unfinished, and what its phases 5 to 7 turned off comes on again (R7 Table 3, R364, R420). -/
def dropShutdown (s : State) : State :=
  if s.tests.shutdown.isNone then s
  else { s with tests := { s.tests with shutdown := none },
                dev := { s.dev with forwarding := true, transmitters := s.dev.tap.isNone } }

/-- Both core pairs restart; compute is fenced at once, and every mailbox waits for the firmware (R328, R364). In STARTING and
HALTED the condition is recorded and the state stays (R8, R355). DESIGN CHOICE (notes/assumptions/77.md): Table 4 has no line for a restart during
the shutdown test; the test and its waiting SHUTDOWN are dropped, and R364 brings the device to STANDBY. -/
def fenumRestart (cause : Option Cond) (s : State) : State :=
  let s := recordCause cause s
  let code := cause.getD .fenumWatchdog
  let times := lastHour s.time.now s.dev.restarts ++ [s.time.now]
  let s := { s with dev := { s.dev with restarts := times, restarting := true } }
  if !s.ticking then s
  else
    let third := decide (3 ≤ times.length)
    let s := dropShutdown { s with tests := { s.tests with requalify := none } }
    let s := if third then record (Raise.of .fenumFail .device 0 0 0 0) { s with dev := { s.dev with fenumFail := true } } else s
    let s := if s.dev.fatalTransit || third then restartFenced code s else restartReset code s
    setDev .transit { s with dev := { s.dev with resetBusy := true } }

/-- FENUM_WATCHDOG: a core pair misses the watchdog; both pairs restart (R361, R364). -/
def execFenumWatchdog (s : State) : Host.Outcome State Fault Refusal :=
  .next (if s.scanning then fenumRestart (some .fenumWatchdog) s else s)

/-- FENUM_LOCKSTEP: the cores of a pair disagree; both pairs restart (R361, R364). -/
def execFenumLockstep (s : State) : Host.Outcome State Fault Refusal :=
  .next (if s.scanning then fenumRestart (some .fenumLockstep) s else s)

/-- The firmware that runs after a restart, and the slot it came from: FW_ACTIVATE's slot when it started, the former one
otherwise (R351, R427). -/
def restartSlot (started : Bool) (s : State) : State :=
  if s.dev.activating.isNone then s
  else if started then { s with dev := { s.dev with runB := !s.dev.runB } }
  else record (Raise.of .bootSlotFallback .device 0 0 0 0) { s with nor := { s.nor with activeB := s.dev.runB, trial := false, trialCount := 0 } }

/-- Every device-owned mailbox is answered: FENCED with DETAIL 1, a FW_ACTIVATE that caused the restart OK or FAILED (R328, R351). -/
def answerRestart (act : Option Nat) (started : Bool) (s : State) : State :=
  each (fun mb s =>
      if !(s.mailbox mb).owner then s
      else if act = some mb then
        (if started then respond mb (leBytes 8 s.runningFw.version.toNat) s else answer mb stFailed 0 s)
      else answer mb stFenced 1 s)
    (List.range 16) s

/-- Floods held during the restart are handled in arrival order, and a swap that ran without its recomputation, or a flood lost,
is recorded (R365). -/
def catchUpFloods (s : State) : State :=
  let q := s.fab.floodQueue
  let s := each (fun (x : Nat × Flood) s => handleFlood x.2 s) q { s with fab := { s.fab with floodQueue := [] } }
  if s.fab.routeStale then raise (fabRaise .routeStale .device 0 0 0 0 0 s) { s with fab := { s.fab with routeStale := false } } else s

/-- The restarted firmware runs (R364). -/
def firmwareRuns (started : Bool) (s : State) : State :=
  if !s.dev.restarting then s
  else
    let act := s.dev.activating
    let s := restartSlot started s
    let s := { s with dev := { s.dev with restarting := false, activating := none },
                      sec := { s.sec with aliasGen := if s.sec.alias_ then s.sec.aliasGen + 1 else s.sec.aliasGen } }
    let s := catchUpFloods (answerRestart act started s)
    if decide (s.dev.state = .transit) && s.dev.fatalTransit then wipe { s with dev := { s.dev with resetBusy := false } } else s

/-- FIRMWARE_RUNNING: the restarted firmware answers the mailboxes, handles the queued floods and derives the Alias key afresh; the
compute reset or the wipe goes on (R328, R351, R364, R365, R431). -/
def execFirmwareRunning (started : Bool) (s : State) : Host.Outcome State Fault Refusal := .next (firmwareRuns started s)

/-! ## FW_ACTIVATE (R351, R427) -/

/-- The staged slot becomes ACTIVE with TRIAL set; none when nothing is staged or a reserved flag is set. -/
def activateStaged (m : Mailbox) (s : State) : (Nat × Nat) ⊕ State :=
  if 2 ≤ m.arg 0 4 then .inl (stBadArg, 0)
  else if s.otherFw.isNone then .inl (stFailed, 0)
  else .inr { s with nor := { s.nor with activeB := !s.dev.runB, trial := true, trialCount := 0 } }

def runFwActivate (mb : Nat) (m : Mailbox) (s : State) : State :=
  if s.dev.resetBusy then answer mb stBusy 0 s
  else match activateStaged m s with
    | .inl r => answer mb r.1 r.2 s
    | .inr s => fenumRestart none (setWait mb .state { s with dev := { s.dev with activating := some mb } })

/-- FW_ACTIVATE: Fenum restarts on the staged slot (R351, R364, R427). -/
def execFwActivate (mb : Nat) (s : State) : Host.Outcome State Fault Refusal :=
  command mb (fun m => hasCmd 0x81 m && !m.atBoot) runFwActivate s

def runFwActivateAtBoot (mb : Nat) (m : Mailbox) (s : State) : State :=
  match activateStaged m s with
  | .inl r => answer mb r.1 r.2 s
  | .inr s => respond mb (leBytes 8 s.runningFw.version.toNat) s

/-- FW_ACTIVATE with AT_BOOT: the staged slot is marked for the next start (R351, R427). -/
def execFwActivateAtBoot (mb : Nat) (s : State) : Host.Outcome State Fault Refusal :=
  command mb (fun m => hasCmd 0x81 m && m.atBoot) runFwActivateAtBoot s

end Sys2Proof.Machine
end

