-- ==== Sys2Proof/Machine/Records.lean ====
section
/-! DEFINITION. Event records, the sticky map and dumps as the host reads and clears them, their persistence in NOR flash, and the
staging of firmware packages (R348, R349, R351, R359, R425, R426, R443 to R458). -/

namespace Sys2Proof.Machine

/-! ## Records as bytes (R443, R450, R453) -/

/-- An event record (R443 Table 1). -/
def eventBytes (e : EventRec) : List Byte :=
  let r := e.raised
  leBytes 8 e.seq ++ leBytes 8 e.tick.toNat ++ leBytes 4 e.cycle.toNat ++
    leBytes 4 (Severity.code r.sev + 8 * CondClass.code r.cls + 256 * Source.kind r.src + 65536 * Source.index r.src) ++
    leBytes 2 (Cond.code r.cond) ++ leBytes 2 r.logical.toNat ++ leBytes 4 0 ++
    leBytes 8 r.w0.toNat ++ leBytes 8 r.w1.toNat ++ leBytes 8 r.w2.toNat ++ leBytes 8 r.w3.toNat

/-- The highest number of some records; 0 of none. -/
def headOf (l : List EventRec) : Nat := maxOf (l.map (·.seq))

/-- HEAD_SEQ: the newest stored record of the hub ring (R448). -/
def State.eventHead (s : State) : Nat := headOf s.evt.ring

def runReadEvents (mb : Nat) (m : Mailbox) (s : State) : State :=
  let max_ := m.arg 2 2
  if 1 < m.arg 0 1 then answer mb stBadArg 0 s
  else if m.arg 1 1 ≠ 0 then answer mb stBadArg 1 s
  else if max_ = 0 ∨ 62 < max_ then answer mb stBadArg 2 s
  else if m.arg 4 4 ≠ 0 then answer mb stBadArg 4 s
  else
    let src := if m.arg 0 1 = 0 then s.evt.ring else s.nor.events
    let l := ((src.filter (fun e => decide (m.arg 8 8 ≤ e.seq))).mergeSort (fun a b => decide (a.seq ≤ b.seq))).take max_
    respond mb (leBytes 8 (headOf src) ++ leBytes 4 l.length ++ leBytes 52 0 ++ (l.map eventBytes).flatten) s

/-- READ_EVENTS: records in ascending SEQ from the hub ring or the NOR event area (R450). -/
def execReadEvents (mb : Nat) (s : State) : Host.Outcome State Fault Refusal := command mb (hasCmd 0x60) runReadEvents s

/-! ## Persistence (R359, R445, R451, R458) -/

/-- Records of the ring above PERSIST_SEQ up to a number, in ascending SEQ. -/
def State.unpersisted (s : State) (hi : Nat) : List EventRec :=
  (s.evt.ring.filter (fun e => decide (s.evt.persistSeq < e.seq) && decide (e.seq ≤ hi))).mergeSort (fun a b => decide (a.seq ≤ b.seq))

/-- One record enters the NOR event area under R447. -/
def persistOne (e : EventRec) (n : Nor) : Nor :=
  match storeRecord 524288 e n.events with
  | none => { n with eventsHead := Nat.max n.eventsHead e.seq }
  | some l => { n with events := l, eventsHead := Nat.max n.eventsHead e.seq }

/-- A copy has ended: its records and the sticky map stand in the NOR flash (R359, R451). -/
def persistTo (hi : Nat) (s : State) : State :=
  { s with nor := { each persistOne (s.unpersisted hi) s.nor with sticky := s.evt.sticky }
           evt := { s.evt with persistSeq := Nat.max s.evt.persistSeq hi } }

/-- Everything the ring holds is copied at once: at a fast shutdown, in phase 7 of the shutdown test, and for EVENTS_CLEARED (R424,
R451, R452). -/
def persistAll (s : State) : State := persistTo s.evt.headSeq { s with evt := { s.evt with copying := none, copyDue := false } }

/-- A NOR write fails verification: the data goes to the next spare block, while there is one (R458). -/
def norWriteFail (s : State) : State :=
  record (Raise.of .norWriteFail .device 0 0 0 0) { s with nor := { s.nor with spareBlocks := s.nor.spareBlocks - 1 } }

/-- EVENT_PERSIST: a copy of the records above PERSIST_SEQ begins; a failed write without a spare block leaves the data in the hub
only (R451, R457, R458). -/
def execEventPersist (writeFails : Bool) (s : State) : Host.Outcome State Fault Refusal :=
  .next (
    if !s.scanning || s.evt.copying.isSome then s
    else
      let s1 := { s with evt := { s.evt with copying := some s.evt.headSeq, copyDue := false } }
      if !writeFails then s1
      else if s.nor.spareBlocks = 0 then norWriteFail { s with evt := { s.evt with copyDue := false } }
      else norWriteFail s1)

/-! ## CLEAR_EVENTS (R348, R452) -/

def runClearEventsNonce (mb : Nat) (_ : Mailbox) (s : State) : State :=
  let v := s.fresh
  let s := v.2
  respond mb (leBytes 16 v.1.toNat) { s with sec := { s.sec with nonceClear := some v.1 } }

/-- CLEAR_EVENTS with SUBOP 0: a nonce, the only one that a signed clear may carry from now on (R348). -/
def execClearEventsNonce (mb : Nat) (s : State) : Host.Outcome State Fault Refusal :=
  command mb (fun m => hasCmd 0x61 m && m.subop == 0) runClearEventsNonce s

/-- A record outside a cleared range. -/
def outside (first last : Nat) (e : EventRec) : Bool := decide (e.seq < first) || decide (last < e.seq)

/-- An authorised clear: the records leave both stores, EVENTS_CLEARED is recorded and persisted at once, and the command is answered
(R452). -/
def applyClear (mb first last : Nat) (key : Word64) (s : State) : State :=
  let gone := ((s.evt.ring ++ s.nor.events).filter (fun e => !outside first last e)).map (·.seq)
  let n := gone.eraseDups.length
  let s := { s with
    evt := { s.evt with ring := s.evt.ring.filter (outside first last), clear := none }
    nor := { s.nor with events := s.nor.events.filter (outside first last) } }
  respond mb (leBytes 8 n) (persistAll (raise (Raise.of .eventsCleared .device first last key.toNat n) s))

/-- Bytes of a signature, big-endian halves as they stand in the payload, taken as one number. -/
def sigOf (b : List Byte) : BitVec 768 := BitVec.ofNat 768 (leNat b)

def runClearEventsClear (mb : Nat) (m : Mailbox) (s : State) : State :=
  let first := m.arg 4 8
  let last := m.arg 12 8
  let nonce := m.argBytes 20 16
  let key := m.arg 36 8
  if m.subop ≠ 1 then answer mb stBadArg 0 s
  else if last < first then answer mb stBadArg 4 s
  else if s.eventHead < last then answer mb stBadArg 12 s
  else match keyFor s.nor.clearKeys key with
    | none => answer mb stAuthFail 0 s
    | some k =>
      if s.sec.nonceClear ≠ some (BitVec.ofNat 128 (leNat nonce)) then answer mb stAuthFail 0 s
      else
        let s := { s with sec := { s.sec with nonceClear := none } }
        let signed := leBytes 16 s.nor.serial.toNat ++ nonce ++ m.argBytes 4 16
        if !Config.ecdsaVerify k (Config.sha384 signed) (sigOf (m.argBytes 44 96)) then answer mb stAuthFail 0 s
        else if s.evt.copying.isSome then
          setWait mb .copy { s with evt := { s.evt with clear := some (first, last, BitVec.ofNat 64 key, mb) } }
        else applyClear mb first last (BitVec.ofNat 64 key) s

/-- CLEAR_EVENTS with SUBOP 1: a signed clear of a range, applied once a running copy has ended (R348, R452, R457). -/
def execClearEventsClear (mb : Nat) (s : State) : Host.Outcome State Fault Refusal :=
  command mb (fun m => hasCmd 0x61 m && m.subop != 0) runClearEventsClear s

/-- EVENT_PERSIST_COMPLETE: a copy has ended; a clear that waited is applied (R451, R452). -/
def execEventPersistComplete (s : State) : Host.Outcome State Fault Refusal :=
  .next (match s.evt.copying with
    | none => s
    | some hi =>
      let s := persistTo hi { s with evt := { s.evt with copying := none } }
      match s.evt.clear with
      | none => s
      | some (first, last, key, mb) =>
        if (s.mailbox mb).wait = some .copy then applyClear mb first last key s else { s with evt := { s.evt with clear := none } })

/-! ## CLEAR_STICKY (R348, R358, R359) -/

/-- Bits set in a number of `n` bits. -/
def countBits (n v : Nat) : Nat := ((List.range n).filter (fun i => v.testBit i)).length

def runClearSticky (mb : Nat) (m : Mailbox) (s : State) : State :=
  let off := m.arg 0 4
  let n := m.arg 4 4
  if n = 0 ∨ 4024 < n then answer mb stBadArg 4 s
  else if 4096 < off + n then answer mb stBadArg 0 s
  else
    let mask : BitVec 32768 := BitVec.ofNat 32768 (m.arg 8 n * 2 ^ (8 * off))
    let cleared := countBits 32768 (s.evt.sticky &&& mask).toNat
    let s := { s with evt := { s.evt with sticky := s.evt.sticky &&& ~~~mask } }
    respond mb (leBytes 4 cleared) (raise (Raise.of .stickyCleared .device off n cleared 0) s)

/-- CLEAR_STICKY: a mask is applied to the sticky map as write-one-to-clear; STICKY_CLEARED follows (R348, R358, R359). -/
def execClearSticky (mb : Nat) (s : State) : Host.Outcome State Fault Refusal := command mb (hasCmd 0x62) runClearSticky s

/-! ## Dumps (R349, R453, R454) -/

/-- The header of a dump (R453 Table 4), 4 KiB. -/
def dumpHeader (d : Dump) : List Byte :=
  let dirs := d.sections.foldl (fun (a : List Byte × Nat) x => (a.1 ++ leBytes 4 x.1 ++ leBytes 4 0 ++ leBytes 4 a.2 ++ leBytes 4 x.2, a.2 + x.2)) ([], 4096)
  let h := leBytes 4 0x504D5544 ++ leBytes 2 0x0400 ++ leBytes 2 d.cause ++ leBytes 8 d.causeSeq ++ leBytes 8 d.snapTick ++
    leBytes 8 d.bootSerial ++ leBytes 8 d.bytes ++ leBytes 4 d.sections.length ++
    leBytes 4 ((if d.extends_ then 1 else 0) + (if d.fatal then 2 else 0) + (if d.incomplete then 4 else 0)) ++ dirs.1
  h ++ List.replicate (4096 - h.length) 0

/-- A directory entry as 64 bits (R188, chapter 6 Table 2). -/
def DirEntry.bits (e : DirEntry) : Nat :=
  e.frameC + 2 ^ 25 * e.frameP + 2 ^ 50 * e.ptag.toNat + 2 ^ 54 * e.pkind.toNat + 2 ^ 55 * e.backed.toNat + 2 ^ 56 * e.access

/-- A slice frame record as 64 bits (R193, chapter 6 Table 3). -/
def SliceRec.bits (r : SliceRec) : Nat := r.loaf + 2 ^ 25 * r.back + 2 ^ 50 * r.pinned.toNat

/-- A clock region record as 128 bits (R387, chapter 12 Table 2). -/
def Region.bits (r : Region) : Nat :=
  r.strDroop + 2 ^ 32 * r.strTherm + 2 ^ 64 * r.strLimit + 2 ^ 80 * r.speed + 2 ^ 96 * r.temp.toNat + 2 ^ 104 * r.thermStretch.toNat +
    2 ^ 105 * r.sensorDegraded.toNat + 2 ^ 106 * r.trim.toNat

/-- Byte of a section of a dump, by its type and the offset in it (R453 Table 5). -/
def sectionByte (d : Dump) (type off : Nat) : Byte :=
  match type with
  | 1 =>
    let t := look ([], []) (off / 16384) d.tiles
    let o := off % 16384
    if o / 16 < t.1.length then BitVec.ofNat 8 (t.1.getD (o / 16) 0 / 256 ^ (o % 16))
    else if 256 ≤ o ∧ (o - 256) / 2 < t.2.length then BitVec.ofNat 8 (t.2.getD ((o - 256) / 2) 0 / 256 ^ (o % 2))
    else Config.dumpByte d.free type off
  | 2 => (match d.dir[off / 8]? with
    | some e => BitVec.ofNat 8 (e.2.bits / 256 ^ (off % 8))
    | none => 0)
  | 3 => BitVec.ofNat 8 ((look {} (off / 8) d.slices).bits / 256 ^ (off % 8))
  | 4 => BitVec.ofNat 8 ((look {} (off / 16) d.regions).bits / 256 ^ (off % 16))
  | _ => Config.dumpByte d.free type off

/-- Byte of a dump at an offset: the header, then the sections one after another; zero past its end. -/
def dumpByteAt (d : Dump) (off : Nat) : Byte :=
  if d.bytes ≤ off then 0
  else if off < 4096 then (dumpHeader d).getD off 0
  else
    let find := d.sections.foldl (fun (a : Option Byte × Nat) x => match a.1 with
      | some v => (some v, a.2)
      | none => if a.2 < x.2 then (some (sectionByte d x.1 a.2), a.2) else (none, a.2 - x.2)) (none, off - 4096)
    find.1.getD 0

/-- The dump a SOURCE selects: the newest complete one of the hub buffer (FLAGS[2] clear), or the one in the NOR flash (R453, R454), with
its hub slot. -/
def State.dumpOf (s : State) (source : Nat) : Option (Nat × Dump) :=
  let whole := fun d : Option Dump => d.filter (fun x => !x.incomplete)
  if source = 1 then s.nor.dump.map (0, ·)
  else match whole s.evt.dump0, whole s.evt.dump1 with
    | some a, some b => if a.causeSeq < b.causeSeq then some (1, b) else some (0, a)
    | some a, none => some (0, a)
    | none, some b => some (1, b)
    | none, none => none

/-- The response of GET_DUMP (R345 Table 16). -/
def dumpInfo (d : Option Dump) : List Byte :=
  match d with
  | some d => leBytes 8 d.bytes ++ leBytes 4 d.cause ++ leBytes 4 0 ++ leBytes 8 d.snapTick
  | none => leBytes 24 0

/-- `n` bytes of a dump from an offset. -/
def dumpBytes (d : Dump) (off n : Nat) : List Byte := (List.range n).map (fun i => dumpByteAt d (off + i))

def runGetDump (mb : Nat) (m : Mailbox) (s : State) : State :=
  let source := m.arg 0 4
  let off := m.arg 4 8
  let list := m.arg 20 8
  if 1 < source then answer mb stBadArg 0 s
  else if off % 4096 ≠ 0 then answer mb stBadArg 4 s
  else if list % 16 ≠ 0 then answer mb stBadArg 20 s
  else
    let s := { s with host := { s.host with dumpMap := none, dumpView := none } }
    match s.dumpOf source with
    | none => respond mb (dumpInfo none) s
    | some (slot, d) =>
      if list = 0 then respond mb (dumpInfo (some d)) { s with host := { s.host with dumpMap := some (source, slot, off), dumpView := some d } }
      else setWait mb (.dma (dumpInfo (some d) ++ dumpBytes d off (m.arg 12 8))) s

/-- GET_DUMP: a dump is mapped into the window, or its bytes begin to go to the host (R332, R349, R454). -/
def execGetDump (mb : Nat) (s : State) : Host.Outcome State Fault Refusal := command mb (hasCmd 0x63) runGetDump s

/-- GET_DUMP_DMA_COMPLETE: the dump's bytes are with the host (R332, R349). The first 24 bytes held are the response. -/
def execGetDumpDmaComplete (mb : Nat) (list : List Descriptor) (s : State) : Host.Outcome State Fault Refusal :=
  guardUnit (decide (mb < 16)) (match s.dmaOf mb 0x63 with
    | none => s
    | some out =>
      let data := out.drop 24
      match listFault (some data.length) list 0 0 with
      | some i => answer mb stBadArg i (writeOut (list.take i) data s)
      | none => respond mb (out.take 24) (writeOut list data s))

/-- A hub slot's dump. -/
def State.hubDump (s : State) (slot : Nat) : Option Dump := if slot = 0 then s.evt.dump0 else s.evt.dump1

/-- The copy of a dump to the NOR flash may start: at once after FATAL evidence, else when the compute reset has ended (R454). -/
def State.dumpMayPersist (s : State) (d : Dump) : Bool := d.fatal || (s.tests.reset.isNone && !s.dev.restarting)

/-- Whether a dump replaces the one in the NOR area (R454). -/
def State.dumpReplaces (s : State) (d : Dump) : Bool := d.fatal || !(match s.nor.dump with | some x => x.fatal | none => false)

/-- DUMP_PERSIST: the copy of a captured dump to the NOR flash begins (R454, R457). -/
def execDumpPersist (s : State) : Host.Outcome State Fault Refusal :=
  .next (match s.evt.dumpDue with
    | none => s
    | some slot => match s.hubDump slot with
      | none => { s with evt := { s.evt with dumpDue := none } }
      | some d =>
        if s.evt.persisting.isSome || !s.scanning || !s.dumpMayPersist d then s
        else { s with evt := { s.evt with dumpDue := none, persisting := if s.dumpReplaces d then some slot else none } })

/-- The dump in the course of being copied stands in the NOR flash (R454, R455). -/
def finishDumpCopy (s : State) : State :=
  match s.evt.persisting with
  | none => s
  | some slot => { s with nor := { s.nor with dump := s.hubDump slot }, evt := { s.evt with persisting := none } }

/-- DUMP_PERSIST_COMPLETE: the copy ends and the NOR dump is replaced (R454). -/
def execDumpPersistComplete (s : State) : Host.Outcome State Fault Refusal := .next (finishDumpCopy s)

/-! ## Firmware packages (R351, R425, R426) -/

/-- The part of a package that a component names; none when it lies outside. -/
def component (raw : List Byte) (i : Nat) : Option (List Byte) :=
  let off := rawLe raw (0x18 + 8 * i) 4
  let len := rawLe raw (0x1C + 8 * i) 4
  if off + len ≤ raw.length then some ((raw.drop off).take len) else none

/-- A component matches its hash (R426). -/
def componentFits (raw : List Byte) (i : Nat) : Bool :=
  match component raw i with
  | some b => Config.sha384 b == BitVec.ofNat 384 (rawLe raw (0x30 + 48 * i) 48) && (i != 0 || decide (b.length ≤ 1048576))
  | none => false

/-- A package read from its bytes (R425 Table 5). -/
def parsePackage (raw : List Byte) : FwPackage :=
  let signer := (raw.drop 0xC0).take 97
  { version := BitVec.ofNat 64 (rawLe raw 8 8), svn := rawLe raw 0x10 1, generation := rawLe raw 6 2, signer := Config.sha384 signer,
    signatureOk := rawLe raw 0 4 == 0x4B505746 && rawLe raw 4 2 == 0x0100 &&
      Config.ecdsaVerify signer (Config.sha384 (raw.take 0x130)) (sigOf ((raw.drop 0x130).take 96)),
    starterOk := componentFits raw 0, componentsOk := componentFits raw 1 && componentFits raw 2,
    hashes := (List.range 3).map (fun i => BitVec.ofNat 384 (rawLe raw (0x30 + 48 * i) 48)) }

/-- The checks of the boot ROM on header and starter (R426). -/
def Nor.headerVerifies (n : Nor) (p : FwPackage) : Bool :=
  n.fwKeys.any (fun k => k.1 == p.signer && !k.2) && p.signatureOk && p.generation == 4 && decide (n.minSvn ≤ p.svn) && p.starterOk

/-- Every check of R426. -/
def Nor.verifies (n : Nor) (p : FwPackage) : Bool := n.headerVerifies p && p.componentsOk

/-- The package of the slot that does not run. -/
def setOther (p : Option FwPackage) (s : State) : State :=
  { s with nor := if s.dev.runB then { s.nor with slotA := p } else { s.nor with slotB := p } }

def runFwStage (mb : Nat) (m : Mailbox) (s : State) : State :=
  if 134217728 < m.arg 0 8 then answer mb stBadArg 0 s
  else if m.arg 8 8 % 16 ≠ 0 then answer mb stBadArg 8 s
  else setWait mb (.dma []) s

/-- FW_STAGE: the DMA of a package into the inactive slot begins (R332, R351). -/
def execFwStage (mb : Nat) (s : State) : Host.Outcome State Fault Refusal := command mb (hasCmd 0x80) runFwStage s

/-- FW_STAGE_DMA_COMPLETE: the package stands in the inactive slot and is verified; one that fails leaves the slot empty (R332, R351,
R426). -/
def execFwStageDmaComplete (mb : Nat) (list : List Descriptor) (data : List Byte) (s : State) : Host.Outcome State Fault Refusal :=
  guardUnit (decide (mb < 16)) (match s.dmaOf mb 0x80 with
    | none => s
    | some _ =>
      let n := (s.mailbox mb).arg 0 8
      match listFault (some (align64 n)) list 0 0 with
      | some i => answer mb stBadArg i (if i = 0 then s else setOther none s)
      | none =>
        let p := parsePackage ((dmaData (align64 n) data).take n)
        if s.nor.verifies p then respond mb (leBytes 8 p.version.toNat) (setOther (some p) s)
        else answer mb stAuthFail 0 (setOther none s))

end Sys2Proof.Machine
end

