-- ==== Sys2Proof/Machine/Start.lean ====
section
/-! DEFINITION. Power, pins and the start: supplies, PERST_N and hot reset, the steps of a start, fast shutdown, the test access port
and the I3C sideband's writes (R8, R294, R319, R363, R391, R407 to R418, R424 to R430, R436, R464 to R472). -/

namespace Sys2Proof.Machine

/-! ## Records that a start reads (R414, R418, R422) -/

/-- A defect map entry (R418 Table 4a). -/
def defectBytes (d : Defect) : List Byte :=
  leBytes 8 (d.kind % 16 + 16 * (d.origin % 16) + 256 * (d.code % 65536) + 2 ^ 24 * (d.location % 4096) + 2 ^ 36 * (d.serial % 2 ^ 28))

/-- The SHA-384 of the defect map, over its entries (R414, R422; notes/assumptions/27.md). -/
def mapHash (l : List Defect) : BitVec 384 := Config.sha384 ((l.map defectBytes).flatten)

/-- Bytes 0x000 to 0x13F of a shutdown record (R422 Table 4), which its MAC covers. -/
def recordBytes (r : ShutdownRecord) : List Byte :=
  leBytes 4 0x52445453 ++ leBytes 2 0x0100 ++ leBytes 2 r.result ++ leBytes 8 r.bootSerial ++ leBytes 8 r.testTime ++
    leBytes 8 r.fwVersion.toNat ++ hashBytes r.mapHash ++ hashBytes r.memIdHash ++ r.coverage ++ leBytes 2 r.newDefects ++
    leBytes 2 r.reserveAfter ++ leBytes 2 r.repairs ++ leBytes 4 0 ++ r.phaseMs ++
    leBytes 144 ((r.reserveMap.map (fun p => 2 ^ p)).sum)

/-! ## Steps 1 and 2: the boot ROM (R410, R426, R427, R429, R430) -/

/-- Step 1: the UDS and the keys derived from it, or IDENTITY_FAIL. A retired part holds no identity (R430, R439). -/
def bootIdentity (uds : Bool) (s : State) : State :=
  let ok := uds && decide (s.nor.lifecycle ≠ .retired)
  let s := { s with dev := { s.dev with udsOk := uds }, sec := { s.sec with uds := ok, deviceId := ok, recordKey := ok, cdiS := ok } }
  if ok then s else raise (Raise.of .identityFail .device 0 0 0 0) s

/-- The package in a slot passes the boot ROM's checks. -/
def Nor.bootable (n : Nor) (p : Option FwPackage) : Bool := match p with | some x => n.headerVerifies x | none => false

/-- The slot the boot ROM does not take. -/
def Nor.otherSlot (n : Nor) : Option FwPackage := if n.activeB then n.slotA else n.slotB

def Nor.activeSlot (n : Nor) : Option FwPackage := if n.activeB then n.slotB else n.slotA

/-- The other slot becomes ACTIVE (R427). -/
def slotFallback (s : State) : State :=
  record (Raise.of .bootSlotFallback .device 0 0 0 0)
    { s with nor := { s.nor with activeB := !s.nor.activeB, trial := false, trialCount := 0 } }

/-- Neither slot verifies: FAULT_N, no host link, and the recovery transfer waits (R429, R472). -/
def noFirmware (s : State) : State :=
  { s with dev := { s.dev with noFirmware := true, startStep := 2 }, side := { s.side with recStatus := 1 } }

/-- Step 2: the ACTIVE slot, or the other one when it fails verification or has been tried twice (R427). -/
def bootSlot (s : State) : State :=
  let s := if s.nor.trial then { s with nor := { s.nor with trialCount := s.nor.trialCount + 1 } } else s
  let good := s.nor.bootable s.nor.activeSlot
  let spent := s.nor.trial && decide (2 ≤ s.nor.trialCount)
  let toStarter := fun s : State => { s with dev := { s.dev with noFirmware := false, startStep := 3 } }
  if good && !(spent && s.nor.bootable s.nor.otherSlot) then toStarter s
  else if s.nor.bootable s.nor.otherSlot then toStarter (slotFallback s)
  else noFirmware s

/-- Board configuration installed before takes effect at a start (R440). -/
def applyBoard (n : Nor) : Nor :=
  match n.nextBoard with
  | some (channels, gib, fast) => { n with ddrChannels := channels, dimmGib := gib, syncInFast := fast, nextBoard := none }
  | none => n

/-- A start begins at step 1; the microseconds that records give before fabric time starts count from here (R408, R410, R443). -/
def beginStart (uds : Bool) (s : State) : State :=
  bootSlot (bootIdentity uds { s with nor := applyBoard s.nor, time := { s.time with boundaryAt := s.time.now } })

/-- VAUX3_ON: a power-on start. The hub ring starts empty and numbering resumes at SEQ_LIMIT; the sticky map comes from the NOR flash
(R359, R408, R445, R451). -/
def execVaux3On (udsMatches : Bool) (addrSel : BitVec 2) (s : State) : Host.Outcome State Fault Refusal :=
  .next (
    if s.dev.state ≠ .off then s
    else beginStart udsMatches { s with
      dev := { s.dev with state := .starting, vaux3 := true, addrSel := addrSel }
      evt := { s.evt with sticky := s.nor.sticky, headSeq := s.nor.seqLimit } })

/-! ## Steps 3 to 9: the starter, Fenum and training (R391, R409 to R413, R415) -/

/-- Entries of the defect map in force; a map that fails its checks holds none (R418). -/
def State.defectMap (s : State) : List Defect := if s.nor.defectsOk then s.nor.defects else []

/-- Step 8: every port begins its training attempts, but for those the defect map holds down (R252, R410, R418). -/
def startPorts (s : State) : State :=
  let held := if s.nor.defectsOk then s.defectPorts else []
  { s with
    dev := { s.dev with transmitters := true }
    fab := { s.fab with ports := (List.range 24).map (fun p =>
      (p, { (s.port p).cleared with state := if held.contains p then .held else .training })) } }

/-- Rows already marked take soft repair, and the frames withheld for them are free again (R243, R410). -/
def startRepairs (s : State) : State :=
  let rows := s.mem.markedRows
  let s := each repairRow rows s
  { s with mem := { s.mem with markedRows := [], softRepairs := s.mem.softRepairs ++ rows, withheld := [] } }

/-- Fenum starts; steps 6 to 9 run to their end (R391, R410, R411, R413). -/
def startFenum (calFail : List Nat) (s : State) : State :=
  let s := { s with
    dev := { s.dev with fenumRunning := true, runB := s.nor.activeB, startStep := 10 }
    nor := { s.nor with bootSerial := s.nor.bootSerial + 1 }
    sec := { s.sec with cdiF := s.sec.cdiS, alias_ := s.sec.cdiS, aliasGen := s.sec.aliasGen + 1 }
    clk := { s.clk with mhz := Nat.min 2000 s.clk.thermalCeil } }
  let s := startPorts (startRepairs s)
  let s := each (fun p s => raise (Raise.of .crossCalFail (.tile p) 0 0 0 0) s) calFail s
  { s with tests := { s.tests with retiring := s.tests.retiring ++ calFail.map (·, Cond.crossCalFail) } }

/-- VIN12_READY: VIN12 is within limits with PWR_OK high. The starter verifies the other components, and steps 4 to 9 run (R409 to
R413, R427, R464). -/
def execVin12Ready (calFail : List Nat) (s : State) : Host.Outcome State Fault Refusal :=
  guardUnit (calFail.all (fun p => decide (p < 1152))) (
    if s.dev.state ≠ .starting ∨ s.dev.startStep ≠ 3 then s
    else
      let s := { s with dev := { s.dev with vin12 := true, pwrOk := true, vin12Absent := false } }
      let whole := fun p : Option FwPackage => match p with | some x => s.nor.verifies x | none => false
      if whole s.nor.activeSlot then startFenum calFail s
      else if whole s.nor.otherSlot then startFenum calFail (slotFallback s)
      else noFirmware s)

/-- VIN12_ABSENT_TIMEOUT: VIN12 is absent 1 s after the starter began; FAULT_N is asserted (R409, R468). -/
def execVin12AbsentTimeout (s : State) : Host.Outcome State Fault Refusal :=
  .next (if s.dev.state = .starting ∧ s.dev.startStep = 3 then { s with dev := { s.dev with vin12Absent := true } } else s)

/-! ## Step 10: a cold or a warm start (R414, R415) -/

/-- The conditions of R414 for a valid record, in order. -/
def recordConditions (r : ShutdownRecord) (memId : BitVec 384) (s : State) : List Bool :=
  let age := s.side.timeUtc.toNat - r.testTime
  [s.sec.recordKey && r.mac == Config.recordMac (recordBytes r), decide (r.result ≤ 1), decide (r.bootSerial + 1 = s.nor.bootSerial),
    s.nor.defectsOk && r.mapHash == mapHash s.nor.defects, r.memIdHash == memId,
    s.side.timeSet && decide (r.testTime ≠ 0) && decide (r.testTime ≤ s.side.timeUtc.toNat) && decide (age ≤ 2591999)]

/-- The number of the first condition that fails, from 1; none for a valid record. Without a record the first one fails. -/
def recordFault (memId : BitVec 384) (s : State) : Option Nat :=
  match s.nor.record with
  | none => some 1
  | some r => ((recordConditions r memId s).findIdx? (!·)).map (· + 1)

/-- START_TESTS: steps 6 to 9 have ended; the shutdown record makes the start warm, or the first condition that failed is recorded
(R414, R415, R418). -/
def execStartTests (memIdHash : BitVec 384) (s : State) : Host.Outcome State Fault Refusal :=
  .next (
    if s.dev.state ≠ .starting ∨ s.dev.startStep ≠ 10 then s
    else
      let s := { s with dev := { s.dev with memIdHash := memIdHash, startStep := 11 } }
      match recordFault memIdHash s with
      | none => raise (Raise.of .startWarm .device 0 0 0 0) { s with dev := { s.dev with warm := true } }
      | some n =>
        let s := raise (Raise.of .startCold .device n 0 0 0) { s with dev := { s.dev with warm := false } }
        { s with nor := { s.nor with defects := s.defectMap, defectsOk := true } })

/-! ## Steps 11 and 12 (R369 to R371, R402, R416 to R418) -/

/-- A failing tile, sensor or port is named and enters the defect map (R417, R422, R442). -/
def foundDefects (origin : Nat) (f : TestResult) (s : State) : State :=
  let s := each (fun p s => addDefect 1 origin .testFail (tileLocation p) (raise (Raise.of .testFail (.tile p) 0 0 0 0) s)) f.tiles s
  let s := each (fun p s => addDefect 3 origin .testFail (tileLocation p) (raise (Raise.of .testFail (.tile p) 0 0 0 0) s)) f.sensors s
  let s := each (fun p s => addDefect 2 origin .testFail p (raise (Raise.of .testFail (.port p) 0 0 0 0) s)) f.ports s
  let s := each (fun d s => raise (Raise.of .testFail (.die d) 0 0 0 0) s) f.baseDies s
  each (fun i s => raise (Raise.of .testFail (.die (8 + i)) 0 0 0 0) s) f.portDies s

/-- Reserve states at step 11: failed where the defect map lists the tile; after a warm start verified as the record says, after a
cold one verified (R369, R415). -/
def startReserves (s : State) : List (Nat × Reserve) :=
  let bad := s.defectTiles
  let good := match s.nor.record with | some r => r.reserveMap | none => []
  ((List.range 1152).filter (fun p => !s.nor.tileMap.contains p)).map (fun p =>
    (p, ({ state := if bad.contains p then .failed else if s.dev.warm && !good.contains p then .underTest else .verified,
           since := s.time.now } : Reserve)))

/-- An active tile that the defect map lists is replaced, with no boundary (R370, R416). -/
def replaceAtStart (l : Nat) (s : State) : State :=
  let p := s.physical l
  if !s.defectTiles.contains p then s
  else match chooseReserve s p with
    | none => raise (Raise.of .reserveExhausted (.tile p) 0 0 0 0) s
    | some q => settleMoves (startMove .retirement l p q s)

/-- Step 11: the defect map and the tile map are applied and the reserve states set (R402, R416, R418). -/
def applyMaps (s : State) : State :=
  let s := each (fun (x : Nat × Cond) s => noteRetirement x.1 x.2 s) s.tests.retiring s
  let sensors := (s.nor.defects.filter (fun d => d.kind == 3)).map (fun d => locationTile d.location)
  let s := { s with
    clk := { s.clk with excluded := sensors }
    tests := { s.tests with tileMap := s.nor.tileMap, moves := [], retiring := [] } }
  let s := each (fun p s => s.onRegion (tileRegion p) (fun r => { r with sensorDegraded := true })) sensors s
  let s := { s with tests := { s.tests with reserves := startReserves s } }
  let s := each replaceAtStart (List.range 1024) s
  each (fun p s => if s.defectPorts.contains p then s.onPort p (fun x => { x with state := .held }) else s) (List.range 24) s

/-- Memory units a start has lost: those that failed, and every configured channel without VDDQ_DDR (R417, R466). -/
def lostMemory (f : TestResult) (s : State) : List Source :=
  let ddr := s.nor.channels.filter (fun c => f.ddr.contains c || !s.dev.vddqOk)
  f.hbm.map Source.hbm ++ ddr.map Source.ddr

/-- The case of R417 that ends the start in HALTED, numbered in the order of that rule from 1. -/
def haltCause (f : TestResult) (s : State) : Option Nat :=
  ([decide (s.defectTiles.eraseDups.length > 128), decide (lostMemory f s ≠ []), decide (f.baseDies ≠ []), decide (f.portDies ≠ []), !s.dev.udsOk,
    decide (s.nor.lifecycle = .retired)].findIdx? id).map (· + 1)

/-- Step 12: keys, wipe, STANDBY and fabric time; the crossings keep the settings that this start calibrated (R245, R290, R361, R391, R410, R427). -/
def enterStandby (s : State) : State :=
  let s := wipe s
  let s := { s with
    dev := { s.dev with fenced := false, forwarding := true, resetBusy := false, startStep := 0 }
    nor := { s.nor with trial := false, trialCount := 0, ddrTrained := s.nor.channels }
    clk := { s.clk with crossCal := s.clk.crossCal + 1 }
    time := { s.time with running := true, fabric := 0, tick := 0, boundaryAt := s.time.now, periodUs := 32, nextPeriodUs := 32 } }
  checkReserveLow (setDev .standby s)

/-- The start's tests have ended: HALTED, or STANDBY (R417). -/
def completeStart (f : TestResult) (s : State) : State :=
  let s := applyMaps (foundDefects 1 f s)
  let s := each memLost (lostMemory f s) s
  match haltCause f s with
  | some n => enterHalted none (raise (Raise.of .startHalt .device n 0 0 0) s)
  | none => enterStandby s

/-- START_COMPLETE: the tests end; the maps are applied and the device enters STANDBY, or HALTED (R410, R416, R417). -/
def execStartComplete (found : TestResult) (s : State) : Host.Outcome State Fault Refusal :=
  guardUnit (testUnits found) (if s.dev.state = .starting ∧ s.dev.startStep = 11 then completeStart found s else s)

/-! ## Fast shutdown (R424, R465) -/

/-- The record of a fast shutdown in progress takes a second cause, in the ring and in the NOR flash (R465). -/
def amendCause (mask : Nat) (s : State) : State :=
  let fix := fun e : EventRec => if e.raised.cond = .fastShutdown ∧ e.seq = s.evt.headSeq
    then { e with raised := { e.raised with w0 := BitVec.ofNat 64 mask } } else e
  { s with evt := { s.evt with ring := s.evt.ring.map fix }, nor := { s.nor with events := s.nor.events.map fix } }

/-- A fast shutdown may still be running: 50 ms have not passed since it began (R424). -/
def State.inFastShutdown (s : State) : Bool := decide (s.dev.fastCause ≠ 0) && decide (s.time.now < s.dev.fastAt + 100000000)

/-- FAST_SHUTDOWN, abandon, fence and wipe, persist, HALTED. A second cause within one is added to its record (R424, R465). -/
def fastShutdown (cause : BitVec 2) (s : State) : State :=
  match s.dev.state with
  | .off => s
  | .halted =>
    if s.inFastShutdown then
      let m := s.dev.fastCause ||| cause
      amendCause m.toNat { s with dev := { s.dev with fastCause := m } }
    else s
  | _ =>
    let s := record (Raise.of .fastShutdown .device cause.toNat 0 0 0) { s with dev := { s.dev with fastCause := cause, fastAt := s.time.now } }
    enterHalted none (persistAll s)

/-- PWR_OK_LOW: PWR_OK has been low for 10 µs (R465). -/
def execPwrOkLow (s : State) : Host.Outcome State Fault Refusal :=
  .next (if s.dev.vaux3 then fastShutdown 2 { s with dev := { s.dev with pwrOk := false } } else s)

/-- SYNC_IN_LOW: SYNC_IN has been low for 10 µs; a fast shutdown where the board configuration says so (R424, R469). -/
def execSyncInLow (s : State) : Host.Outcome State Fault Refusal :=
  .next (
    let s := { s with dev := { s.dev with syncIn := false } }
    if s.dev.vaux3 && s.nor.syncInFast then fastShutdown 1 s else s)

/-- Picoseconds from a fabric time, in units of 62.5 ps, to the nearest multiple of 1 s. -/
def toSecond (stamp : Nat) : Int :=
  let r := stamp % 16000000000
  (if r < 8000000000 then -(r : Int) else (16000000000 - r : Int)) * 125 / 2

/-- SYNC_IN_EDGE: on the anchor with ANCHOR_SRC 1 a rising edge, stamped in fabric time, is the one-per-second reference; elsewhere
it is ignored (R292, R294, R457, R469). -/
def execSyncInEdge (stamp : Nat) (s : State) : Host.Outcome State Fault Refusal :=
  .next (
    let s := { s with dev := { s.dev with syncIn := true } }
    match s.timePlan with
    | some pl =>
      if pl.anchorSrc && pl.address == pl.anchor && !s.nor.syncInFast && s.ticking then
        followParent (toSecond stamp) { s with time := { s.time with syncStamp := some stamp } }
      else s
    | none => s)

/-! ## Device reset and loss of power (R8, R319, R363, R408) -/

/-- What a device reset keeps of the recorder: ring, dumps, trace and counters; a copy that it cuts off begins again (R363, R445,
R454). -/
def keptRecorder (e : Recorder) : Recorder :=
  { e with persisting := none, copying := none, clear := none, dumpDue := e.persisting.orElse fun _ => e.dumpDue }

/-- The device after PERST_N or a hot reset: STARTING, waiting for the start; what Table 7 of R363 lists is kept (R8, R319, R363,
R434, R441, R471). -/
def deviceReset (s : State) : State :=
  { s with
    dev := { state := .starting, deviceReset := true, udsOk := s.dev.udsOk, vaux3 := s.dev.vaux3, vin12 := s.dev.vin12, pwrOk := s.dev.pwrOk,
             perstN := s.dev.perstN, syncIn := s.dev.syncIn, vddqOk := s.dev.vddqOk, addrSel := s.dev.addrSel, thermHw := s.dev.thermHw }
    host := { sent := s.host.sent, msix := s.host.msix, unsupported := s.host.unsupported }
    time := { now := s.time.now }
    job := none, att := {}, tiles := [], coll := [], tests := {}, pol := {}, health := {}
    mem := wipeMem s.mem
    fab := { sent := s.fab.sent, floods := s.fab.floods }
    clk := { stoppedDies := s.clk.stoppedDies }
    evt := keptRecorder s.evt
    sec := { aliasGen := s.sec.aliasGen, memKeyGen := s.sec.memKeyGen, debugOwner := s.sec.debugNext == 1, debugFull := s.sec.debugNext == 2 } }

/-- A device reset whose start begins at once, unless PERST_N is asserted (R408, R439, R441). -/
def resetAndStart (s : State) : State :=
  let s := deviceReset s
  if s.dev.perstN then beginStart s.dev.udsOk s else s

/-- PERST_N or a hot reset: the device reset comes at once, and after a fast shutdown in progress only at the release (R465). -/
def takeDeviceReset (s : State) : State :=
  if s.dev.state = .off then s
  else if s.inFastShutdown then { s with dev := { s.dev with resetAfter := true } }
  else deviceReset s

/-- PERST_N_ASSERT (R8, R319, R408, R465). -/
def execPerstNAssert (s : State) : Host.Outcome State Fault Refusal := .next (takeDeviceReset { s with dev := { s.dev with perstN := false } })

/-- HOT_RESET: the start waits for its end, which PERST_N_RELEASE stands for too (R8, R319, R408). -/
def execHotReset (s : State) : Host.Outcome State Fault Refusal := .next (takeDeviceReset s)

/-- PERST_N_RELEASE: PERST_N is released, or a hot reset ends; a device reset's start begins from step 1 (R408, R465). -/
def execPerstNRelease (s : State) : Host.Outcome State Fault Refusal :=
  .next (
    let s := { s with dev := { s.dev with perstN := true } }
    let s := if s.dev.resetAfter then deviceReset s else s
    if s.dev.state = .starting ∧ s.dev.deviceReset ∧ s.dev.startStep = 0 then beginStart s.dev.udsOk s else s)

/-- POWER_REMOVED: nothing stays but the NOR flash and the fuses (R8, R407). What the device has already sent stays sent. -/
def execPowerRemoved (s : State) : Host.Outcome State Fault Refusal :=
  .next { State.reset with
    nor := s.nor
    host := { sent := s.host.sent, msix := s.host.msix, unsupported := s.host.unsupported }
    fab := { sent := s.fab.sent, floods := s.fab.floods }
    freeCtr := s.freeCtr
    pending := s.pending }

/-! ## Other pins (R436, R466) -/

/-- The transmitters go dark; forwarding ends and every port is down (R420, R424, R436). -/
def darkPorts (s : State) : State :=
  { s with dev := { s.dev with transmitters := false, forwarding := false },
           fab := { s.fab with ports := s.fab.ports.map (fun p => (p.1, { p.2 with state := if p.2.state = .held then .held else .down })) } }

/-- The test access port turns off the transmitters; the state and its forwarding stay (R8, R436). -/
def tapDark (s : State) : State :=
  let s := darkPorts s
  { s with dev := { s.dev with forwarding := decide (s.dev.state = .standby ∨ s.dev.state = .ready ∨ s.dev.state = .running ∨ s.dev.state = .transit) } }

/-- TAP_ENTER_EXTEST: EXTEST, CLAMP or HIGHZ fences and wipes compute, answers the job's commands and turns off the transmitters; the device state
stays, since R8 lists no change (R8, R328, R361, R436). -/
def execTapEnterExtest (which : TapInstr) (s : State) : Host.Outcome State Fault Refusal :=
  .next (
    let s := { s with dev := { s.dev with tap := some which } }
    match s.dev.state with
    | .off => s
    | _ => tapDark (fence none (fenceCommands s)))

/-- TAP_LEAVE_EXTEST: leaving those instructions causes a device reset (R436). -/
def execTapLeaveExtest (s : State) : Host.Outcome State Fault Refusal :=
  .next (
    if s.dev.tap.isNone then s
    else
      let s := { s with dev := { s.dev with tap := none } }
      if s.dev.state = .off then s else resetAndStart s)

/-- VDDQ_DDR_FAULT: VDDQ_DDR has been out of its limits for 1 ms; in service MEM_LOST is raised for every configured channel
(R466). -/
def execVddqDdrFault (s : State) : Host.Outcome State Fault Refusal :=
  .next (
    let s := { s with dev := { s.dev with vddqOk := false } }
    if s.ticking then each (fun c s => memLost (.ddr c) s) s.nor.channels s else s)

/-! ## The I3C sideband (R414, R471, R472) -/

/-- TIME_UTC_WRITE: byte 7 of TIME_UTC has been written (R471). -/
def execTimeUtcWrite (value : Word64) (s : State) : Host.Outcome State Fault Refusal :=
  .next (if s.dev.vaux3 then { s with side := { s.side with timeUtc := value, timeSet := true } } else s)

/-- TIME_UTC_TICK: one second has passed since the write or the last tick (R471). -/
def execTimeUtcTick (s : State) : Host.Outcome State Fault Refusal :=
  .next (if s.dev.vaux3 && s.side.timeSet then { s with side := { s.side with timeUtc := s.side.timeUtc + 1 } } else s)

/-- REC_LENGTH_WRITE: in state 1, or in state 4 which it first returns to 1, reception starts (R472; notes/assumptions/28.md). -/
def execRecLengthWrite (value : Word32) (s : State) : Host.Outcome State Fault Refusal :=
  .next (
    if (s.side.recStatus ≠ 1 ∧ s.side.recStatus ≠ 4) ∨ 134217728 < value.toNat then s
    else { s with side := { s.side with recLength := value.toNat, recBytes := 0, recData := [], recStatus := if value = 0 then 3 else 2 } })

/-- REC_DATA_WRITE: four bytes are appended, up to REC_LENGTH; the last of them starts the verification (R472). -/
def execRecDataWrite (value : Word32) (s : State) : Host.Outcome State Fault Refusal :=
  .next (
    if s.side.recStatus ≠ 2 then s
    else
      let data := (s.side.recData ++ leBytes 4 value.toNat).take s.side.recLength
      { s with side := { s.side with recData := data, recBytes := data.length, recStatus := if data.length = s.side.recLength then 3 else 2 } })

/-- REC_VERIFY_DONE: the package stands in slot A; one that verifies restarts the start at step 1 (R426, R429, R472). -/
def execRecVerifyDone (s : State) : Host.Outcome State Fault Refusal :=
  .next (
    if s.side.recStatus ≠ 3 then s
    else
      let p := parsePackage s.side.recData
      let s := { s with nor := { s.nor with slotA := some p } }
      if s.nor.verifies p then
        beginStart s.dev.udsOk { s with side := { s.side with recStatus := 5 }, dev := { s.dev with noFirmware := false } }
      else { s with side := { s.side with recStatus := 4 } })

end Sys2Proof.Machine
end

