-- ==== Sys2Proof/Machine/Shutdown.lean ====
section
/-! DEFINITION. SHUTDOWN and the phases of the shutdown test (R361, R417, R420 to R423, R428, R430, R435, R451, R455). -/

namespace Sys2Proof.Machine

/-- Weaker state changes in progress are cut off as FENCED (R330). -/
def overtakeResets (s : State) : State :=
  each (fun mb s =>
      let m := s.mailbox mb
      if m.wait.isSome && [0x33, 0x70, 0x31].contains m.cmd.toNat then answer mb stFenced 0 s else s)
    (List.range 16) (overtakeRequalify s)

/-- Retirements still due, and moves in progress, take effect at once: no boundary and no reset will make them (R216, R362). -/
def settleRetirements (s : State) : State :=
  let named := match s.tests.reset with | some run => run.retire | none => []
  let s := { s with tests := { s.tests with reset := none, retiring := s.tests.retiring ++ named } }
  settleMoves (retireAll s)

/-- Phase 1 begins: the job is stopped, compute fenced and wiped, and the memory keys are discarded (R361, R420, R421, R435). -/
def beginShutdown (mb : Nat) (s : State) : State :=
  let s := dropCrumb (dropJob (fence none (fenceCommands (overtakeResets s))))
  let s := settleRetirements s
  let s := { s with
    sec := { s.sec with memKeys := [] }
    dev := { s.dev with resetBusy := true }
    tests := { s.tests with shutdown := some (mb, 1), newDefects := 0, hardRepairs := 0, testFailed := false, rotate := false } }
  setDev .transit s

def runShutdown (mb : Nat) (_ : Mailbox) (s : State) : State :=
  let s := setWait mb .state s
  if s.tests.shutdown.isSome then s else beginShutdown mb s

/-- SHUTDOWN: the shutdown test begins; a second one waits for its end too (R330, R420, R421). -/
def execShutdown (mb : Nat) (s : State) : Host.Outcome State Fault Refusal := command mb (hasCmd 0x71) runShutdown s

/-- Tiles that fail leave the tile map and the reserve; without a reserve the part no longer meets R417 (R370, R422). -/
def testReplace (p : Nat) (s : State) : State :=
  match s.logical? p with
  | none => match look? p s.tests.reserves with
    | some _ => setReserve p .failed s
    | none => s
  | some l => match chooseReserve s p with
    | none => raise (Raise.of .reserveExhausted (.tile p) 0 0 0 0) { s with tests := { s.tests with testFailed := true } }
    | some q => settleMoves (startMove .retirement l p q s)

/-- What a phase found: defect map entries with ORIGIN 2, replacements, and failures beyond repair (R417, R420, R422). -/
def testFound (f : TestResult) (s : State) : State :=
  let s := foundDefects 2 f s
  let s := each testReplace f.tiles s
  let s := each (fun p s => s.onPort p (fun x => { x with state := .held })) f.ports s
  let lost := f.hbm.map Source.hbm ++ (f.ddr.filter (fun c => s.nor.channels.contains c)).map Source.ddr
  let s := each (fun u s => raise (Raise.of .testFail u 0 0 0 0) (raise (Raise.of .memLost u 0 0xFFFFFFFFFFFFFFFF 0 0) (countMem u (fun c => { c with lost := true }) s))) lost s
  let n := f.tiles.length + f.sensors.length + f.ports.length
  let fatal := decide (lost ≠ []) || decide (f.baseDies ≠ []) || decide (f.portDies ≠ [])
  { s with
    clk := { s.clk with excluded := s.clk.excluded ++ f.sensors.filter (fun p => !s.clk.excluded.contains p) }
    tests := { s.tests with newDefects := s.tests.newDefects + n, testFailed := s.tests.testFailed || fatal } }

/-- Phase 4: every row marked, repaired softly since power-on, or found by the march takes hard repair (R243, R420). -/
def hardRepair (found : List RowRef) (s : State) : State :=
  let rows := (s.mem.markedRows ++ s.mem.softRepairs ++ found).eraseDups
  let s := each repairRow rows s
  { s with mem := { s.mem with markedRows := [], softRepairs := [], withheld := [] },
           tests := { s.tests with hardRepairs := s.tests.hardRepairs + rows.length } }

/-- A phase from 1 to 6 ends and the next begins; phase 5 starts with the transmitters off (R420). -/
def endPhase (found : TestResult) (repairs : List RowRef) (s : State) : State :=
  match s.tests.shutdown with
  | none => s
  | some (mb, n) =>
    if 7 ≤ n then s
    else
      let s := testFound found s
      let s := if n = 4 then hardRepair repairs s else s
      let s := { s with tests := { s.tests with shutdown := some (mb, n + 1) } }
      if n = 4 then reparent (darkPorts s) else s

/-- SHUTDOWN_PHASE_COMPLETE (R420 to R422). -/
def execShutdownPhaseComplete (found : TestResult) (repairs : List RowRef) (s : State) : Host.Outcome State Fault Refusal :=
  guardUnit (testUnits found && repairs.all rowExists) (endPhase found repairs s)

/-- RESULT of the test (R422). -/
def testResult (s : State) : Nat :=
  if s.tests.testFailed then 2 else if s.tests.newDefects = 0 then 0 else 1

/-- The shutdown record of phase 7; coverage figures and durations are measured, and free (R422 Table 4). -/
def shutdownRecord (s : State) : ShutdownRecord × State :=
  let cov := freshBytes 1 s
  let ms := freshBytes 2 cov.2
  let s := ms.2
  let live := liveReserves s.tests
  let r : ShutdownRecord :=
    { result := testResult s, bootSerial := s.nor.bootSerial, testTime := if s.side.timeSet then s.side.timeUtc.toNat else 0,
      fwVersion := s.runningFw.version, mapHash := mapHash s.nor.defects, memIdHash := s.dev.memIdHash, newDefects := s.tests.newDefects,
      reserveAfter := live.length, repairs := s.tests.hardRepairs, reserveMap := live.map (·.1), coverage := cov.1.take 6,
      phaseMs := ms.1.take 28 ++ leBytes 4 0 }
  ({ r with mac := Config.recordMac (recordBytes r) }, s)

/-- MIN_SVN rises to the running package's SVN after a test that passed (R428). -/
def raiseSvn (result : Nat) (s : State) : State :=
  if result ≤ 1 ∧ s.nor.minSvn < s.runningFw.svn then
    raise (Raise.of .svnRaised .device s.runningFw.svn 0 0 0) { s with nor := { s.nor with minSvn := s.runningFw.svn } }
  else s

/-- Every SHUTDOWN that waits is answered OK. -/
def answerShutdowns (s : State) : State :=
  each (fun mb s =>
      let m := s.mailbox mb
      if m.wait.isSome && m.cmd == 0x71 then answer mb stOk 0 s else s)
    (List.range 16) s

/-- Phase 7 ends: record, events and dump are in the NOR flash, and the device enters HALTED (R420 to R422, R428, R451, R455). -/
def endShutdown (s : State) : State :=
  match s.tests.shutdown with
  | some (_, 7) =>
    let r := shutdownRecord s
    let s := { r.2 with nor := { r.2.nor with record := some r.1, tileMap := r.2.tests.tileMap } }
    let s := raise (Raise.of .shutdownDone .device r.1.result s.tests.newDefects 0 0) s
    let s := persistAll (finishDumpCopy (raiseSvn r.1.result s))
    enterHalted none (answerShutdowns s)
  | _ => s

/-- SHUTDOWN_TEST_COMPLETE (R421, R422). -/
def execShutdownTestComplete (s : State) : Host.Outcome State Fault Refusal := .next (endShutdown s)

end Sys2Proof.Machine
end

