-- ==== Sys2Proof/Machine/Life.lean ====
section
/-! DEFINITION. LIFECYCLE and the DOE mailbox (R348, R430 to R441). -/

namespace Sys2Proof.Machine

/-! ## The signed body (R438 Table 8) -/

/-- The body starts after SUBOP in the payload. -/
structure Body where
  serial : Nat
  nonce : BitVec 128
  target : Nat
  index : Nat
  flags : Nat
  argLen : Nat
  /-- bytes of the body before the signature -/
  signed : List Byte
  signer : List Byte
  operand : List Byte
  sig : List Byte
  deriving DecidableEq, Repr

/-- Read the body of a command. -/
def readBody (m : Mailbox) : Body :=
  let n := m.arg 44 4
  { serial := m.arg 4 16, nonce := BitVec.ofNat 128 (m.arg 20 16), target := m.arg 36 2, index := m.arg 38 2, flags := m.arg 40 4, argLen := n,
    signed := m.argBytes 4 (64 + n), signer := m.argBytes 68 97, operand := m.argBytes 165 (n - 97), sig := m.argBytes (68 + n) 96 }

/-- ARG_LEN is in its range and fits LEN (R438 Table 8). -/
def bodyFits (m : Mailbox) : Bool :=
  let n := m.arg 44 4
  decide (97 ≤ n) && decide (n ≤ 3868) && m.len.toNat == 4 + 64 + n + 96

/-- The state with a code of R437 Table 7. -/
def lifeOf : Nat → Option LifeCycle
  | 0 => some .blank
  | 1 => some .provisioned
  | 2 => some .deployed
  | 3 => some .returned
  | 4 => some .retired
  | _ => none

/-- The transitions of Table 9. -/
def transitionAllowed (a b : LifeCycle) : Bool :=
  match a, b with
  | .blank, .provisioned => true
  | .provisioned, .deployed => true
  | .deployed, .returned => true
  | .returned, .deployed => true
  | .provisioned, .retired => true
  | .deployed, .retired => true
  | .returned, .retired => true
  | _, _ => false

/-- The signers Table 9 permits: Serrazor always, and the owner out of DEPLOYED to RETURNED or RETIRED. -/
def ownerMaySign (a b : LifeCycle) : Bool :=
  match a, b with
  | .deployed, .returned => true
  | .deployed, .retired => true
  | _, _ => false

/-- A Serrazor life-cycle key that has not been revoked (R438). -/
def Nor.serrazorKey (n : Nor) (k : List Byte) : Bool := n.lifecycleKeys.any (fun x => x.1 == Config.sha384 k && !x.2)

/-- The owner key of the key store (R438). -/
def Nor.isOwner (n : Nor) (k : List Byte) : Bool := match n.ownerKey with | some o => Config.sha384 o == Config.sha384 k | none => false

/-- SERIAL, NONCE, signer and signature (R348, R438 step 3). -/
def authentic (b : Body) (signer : Bool) (s : State) : Bool :=
  b.serial == s.nor.serial.toNat && decide (s.sec.nonceLife = some b.nonce) && signer && Config.ecdsaVerify b.signer (Config.sha384 b.signed) (sigOf b.sig)

/-- A nonce serves once: one that matches is spent, whatever the rest of the check says (R348). -/
def spendNonce (b : Body) (s : State) : State :=
  if s.sec.nonceLife = some b.nonce then { s with sec := { s.sec with nonceLife := none } } else s

/-- AUTH_FAIL, and SIGNATURE_REFUSED is recorded (R438, R442). -/
def refuseSigned (mb : Nat) (s : State) : State := answer mb stAuthFail 0 (raise (Raise.of .signatureRefused .device 0 0 0 0) s)

/-- The payload offset of a field of the body that must be zero and is not. -/
def bodyReserved (m : Mailbox) (indexed : Bool) : Option Nat :=
  if !indexed ∧ m.arg 38 2 ≠ 0 then some 38
  else if (if indexed then 2 ≤ m.arg 40 4 else m.arg 40 4 ≠ 0) then some 40
  else if m.arg 48 20 ≠ 0 then some 48
  else none

/-! ## GET_NONCE (R348) -/

def runLifecycleGetNonce (mb : Nat) (_ : Mailbox) (s : State) : State :=
  let v := s.fresh
  let s := v.2
  respond mb (leBytes 16 v.1.toNat) { s with sec := { s.sec with nonceLife := some v.1 } }

/-- LIFECYCLE with SUBOP 0: the one nonce that a signed request may carry from now on (R348). -/
def execLifecycleGetNonce (mb : Nat) (s : State) : Host.Outcome State Fault Refusal :=
  command mb (fun m => hasCmd 0x82 m && m.subop == 0) runLifecycleGetNonce s

/-! ## TRANSITION (R437 to R439) -/

/-- The erasure of a transition or an unlock: hub evidence and working state, and every user region; numbering starts again (R439,
R451). -/
def eraseUser (s : State) : State :=
  { s with
    evt := { dropped := s.evt.dropped, truncated := false }
    nor := { s.nor with events := [], eventsHead := 0, seqLimit := 0, sticky := 0, dump := none, imageKeys := [], clearKeys := [] }
    host := { s.host with dumpMap := none, dumpView := none } }

/-- Steps 1 and 2 of R439. -/
def wipeForLife (s : State) : State := eraseUser (fence none s)

/-- Board configuration in 16 bytes (R438 Table 10): channels, size, SYNC_IN_FAST; none when it breaks the table. -/
def parseBoard (b : List Byte) : Option (Nat × Nat × Bool) :=
  let v := leNat b
  let channels := bits v 0 4
  let gib := bits v 4 12
  if (channels = 4 ∨ channels = 8) ∧ (gib = 64 ∨ gib = 128 ∨ gib = 256) ∧ v < 2 ^ 17 then some (channels, gib, bit v 16) else none

/-- The operand of a transition has the length Table 9 gives it (R438). -/
def transitionOperand (b : LifeCycle) (operand : List Byte) : Bool :=
  match b with
  | .provisioned => decide (operand ≠ [])
  | .deployed => operand.length == 113
  | _ => operand.isEmpty

/-- Steps 3 and 4 of R439: the new state, and what the operand installs. -/
def installState (old new : LifeCycle) (operand : List Byte) (n : Nor) : Nor :=
  let n := { n with lifecycle := new, ownerKey := if old = .deployed then none else n.ownerKey }
  match new with
  | .provisioned => { n with certificate := operand }
  | .deployed =>
    let n := { n with ownerKey := some (operand.take 97) }
    (match parseBoard (operand.drop 97) with
    | some (channels, gib, fast) => { n with ddrChannels := channels, dimmGib := gib, syncInFast := fast, nextBoard := none }
    | none => n)
  | _ => n

/-- An authenticated transition: wiped, recorded first in the new log, answered, then a device reset (R439). -/
def transition (mb : Nat) (new : LifeCycle) (operand : List Byte) (s : State) : State :=
  let s := wipeForLife s
  let s := { s with nor := installState s.nor.lifecycle new operand s.nor }
  resetAndStart (answer mb stOk 0 (raise (Raise.of .lifecycleChange .device (LifeCycle.code new) 0 0 0) s))

def runLifecycleTransition (mb : Nat) (m : Mailbox) (s : State) : State :=
  let b := readBody m
  if m.subop ≠ 1 then answer mb stBadArg 0 s
  else if !bodyFits m then answer mb stBadArg 44 s
  else match lifeOf b.target with
    | none => answer mb stBadArg 36 s
    | some new =>
      if !transitionOperand new b.operand then answer mb stBadArg 44 s
      else match bodyReserved m false with
        | some d => answer mb stBadArg d s
        | none =>
          if !transitionAllowed s.nor.lifecycle new then answer mb stBadArg 36 s
          else if new = .deployed ∧ (parseBoard (b.operand.drop 97)).isNone then answer mb stBadArg 262 s
          else
            let signer := s.nor.serrazorKey b.signer || (ownerMaySign s.nor.lifecycle new && s.nor.isOwner b.signer)
            let ok := authentic b signer s
            let s := spendNonce b s
            if ok then transition mb new b.operand s else refuseSigned mb s

/-- LIFECYCLE TRANSITION (R437 to R439). -/
def execLifecycleTransition (mb : Nat) (s : State) : Host.Outcome State Fault Refusal :=
  command mb (fun m => hasCmd 0x82 m && (m.subop == 1 || decide (4 ≤ m.subop))) runLifecycleTransition s

/-! ## INSTALL_KEY (R440) -/

/-- Slots of a kind of Table 11. -/
def keySlots : Nat → Nat
  | 1 => 8
  | 2 => 4
  | 3 => 1
  | _ => 0

/-- The operand has the length Table 11 gives it; a revocation carries none. -/
def keyOperand (kind : Nat) (revoke : Bool) (operand : List Byte) : Bool :=
  if revoke then operand.isEmpty else if kind = 3 then operand.length == 16 else operand.length == 97

/-- The key store, or the board configuration of the next start, after an installation. -/
def installKey (kind slot : Nat) (revoke : Bool) (operand : List Byte) (n : Nor) : Nor :=
  match kind with
  | 1 => { n with imageKeys := if revoke then del slot n.imageKeys else put slot operand n.imageKeys }
  | 2 => { n with clearKeys := if revoke then del slot n.clearKeys else put slot operand n.clearKeys }
  | _ => { n with nextBoard := if revoke then none else parseBoard operand }

def runLifecycleInstallKey (mb : Nat) (m : Mailbox) (s : State) : State :=
  let b := readBody m
  let revoke := bit b.flags 0
  if !bodyFits m then answer mb stBadArg 44 s
  else if keySlots b.target = 0 then answer mb stBadArg 36 s
  else if !keyOperand b.target revoke b.operand then answer mb stBadArg 44 s
  else match bodyReserved m true with
    | some d => answer mb stBadArg d s
    | none =>
      if s.nor.lifecycle ≠ .deployed then answer mb stBadArg 0 s
      else if keySlots b.target ≤ b.index then answer mb stBadArg 38 s
      else if b.target = 3 ∧ !revoke ∧ (parseBoard b.operand).isNone then answer mb stBadArg 165 s
      else
        let ok := authentic b (s.nor.isOwner b.signer) s
        let s := spendNonce b s
        if ok then
          answer mb stOk 0 (raise (Raise.of .keyChange .device b.target b.index 0 0)
            { s with nor := installKey b.target b.index revoke b.operand s.nor })
        else refuseSigned mb s

/-- LIFECYCLE INSTALL_KEY: signed by the owner, in DEPLOYED; it wipes nothing (R440). -/
def execLifecycleInstallKey (mb : Nat) (s : State) : Host.Outcome State Fault Refusal :=
  command mb (fun m => hasCmd 0x82 m && m.subop == 2) runLifecycleInstallKey s

/-! ## DEBUG_UNLOCK (R441) -/

/-- The level is valid in the current state. -/
def unlockAllowed (level : Nat) (l : LifeCycle) : Bool :=
  (level == 1 && decide (l = .deployed)) || (level == 2 && (decide (l = .blank) || decide (l = .returned)))

/-- An authenticated unlock: it wipes as a transition does, and the start of its own device reset runs with the debug bit set. -/
def unlock (mb level : Nat) (s : State) : State :=
  let s := wipeForLife s
  let s := { s with sec := { s.sec with debugNext := level } }
  resetAndStart (answer mb stOk 0 (raise (Raise.of .debugUnlocked .device level 0 0 0) s))

def runLifecycleDebugUnlock (mb : Nat) (m : Mailbox) (s : State) : State :=
  let b := readBody m
  if !bodyFits m || !b.operand.isEmpty then answer mb stBadArg 44 s
  else match bodyReserved m false with
    | some d => answer mb stBadArg d s
    | none =>
      if !unlockAllowed b.target s.nor.lifecycle then answer mb stBadArg 36 s
      else
        let ok := authentic b (if b.target = 1 then s.nor.isOwner b.signer else s.nor.serrazorKey b.signer) s
        let s := spendNonce b s
        if ok then unlock mb b.target s else refuseSigned mb s

/-- LIFECYCLE DEBUG_UNLOCK: level 1 by the owner in DEPLOYED, level 2 by Serrazor in BLANK and RETURNED (R441). -/
def execLifecycleDebugUnlock (mb : Nat) (s : State) : Host.Outcome State Fault Refusal :=
  command mb (fun m => hasCmd 0x82 m && m.subop == 3) runLifecycleDebugUnlock s

/-! ## The DOE mailbox: SPDM and IDE_KM (R431 to R434) -/

/-- One answer joins those given: a kind, 0 for an error, and a value. -/
def doeAnswer (kind : Nat) (v : BitVec 384) (s : State) : State := { s with sec := { s.sec with doeAnswers := s.sec.doeAnswers ++ [(kind, v)] } }

def doeError (s : State) : State := doeAnswer 0 0 s

/-- A value that the standards or a signature determine, and the spec does not: free. -/
def doeFree (kind : Nat) (s : State) : State :=
  let v := s.fresh
  doeAnswer kind (v.1.setWidth 384) v.2

/-- Measurement blocks 1 to 7 (R433 Table 6); block 5 holds SVN with MIN_SVN above it. -/
def measurement (s : State) : Nat → Option (BitVec 384)
  | 1 => some Config.bootRomId
  | 2 => some (s.runningFw.hashes.getD 0 0)
  | 3 => some (s.runningFw.hashes.getD 1 0)
  | 4 => some (s.runningFw.hashes.getD 2 0)
  | 5 => some (BitVec.ofNat 384 (s.runningFw.svn + 256 * s.nor.minSvn))
  | 6 => some (BitVec.ofNat 384 s.lifecycleValue)
  | 7 => some (mapHash s.nor.defects)
  | _ => none

/-- The device can show an identity: its keys stand and its certificates are installed (R430, R432, R437 Table 7). -/
def State.hasIdentity (s : State) : Bool := s.sec.alias_ && decide (s.nor.lifecycle ≠ .blank) && decide (s.nor.lifecycle ≠ .retired)

/-- The device's part in an SPDM session or the IDE stream ends. -/
def endSpdm (s : State) : State :=
  { s with sec := { s.sec with spdmHandshake := false, spdmSession := false } }

/-- The answer to one request, in the order the responder's state allows it (R433, R434; notes/assumptions/29.md). -/
def doeRespond (r : DoeRequest) (s : State) : State :=
  let ready := s.sec.spdmAlgs && s.hasIdentity
  match r with
  | .getVersion =>
    doeAnswer 1 0x13 { s with sec := { s.sec with spdmVersion := true, spdmCaps := false, spdmAlgs := false, spdmHandshake := false, spdmSession := false } }
  | .getCapabilities => if s.sec.spdmVersion then doeFree 2 { s with sec := { s.sec with spdmCaps := true } } else doeError s
  | .negotiateAlgorithms => if s.sec.spdmCaps then doeFree 3 { s with sec := { s.sec with spdmAlgs := true } } else doeError s
  | .getDigests => if ready then doeAnswer 4 (chainDigest s) s else doeError s
  | .getCertificate slot => if ready && slot == 0 then doeAnswer 5 (chainDigest s) s else doeError s
  | .challenge _ => if ready then doeFree 6 s else doeError s
  | .getMeasurements 0 _ => if ready then doeAnswer 7 7 s else doeError s
  | .getMeasurements i _ =>
    if !ready then doeError s
    else match measurement s i with
      | some v => doeAnswer 7 v s
      | none => doeError s
  | .keyExchange _ => if ready then doeFree 8 { s with sec := { s.sec with spdmHandshake := true, spdmSession := false } } else doeError s
  | .finish => if s.sec.spdmHandshake then doeAnswer 9 0 { s with sec := { s.sec with spdmHandshake := false, spdmSession := true } } else doeError s
  | .endSession => if s.sec.spdmSession then doeAnswer 10 0 (endSpdm s) else doeError s
  | .ideKeyProgram n _ =>
    if s.sec.spdmSession && (s.sec.ideKeys.isEmpty || s.sec.ideKeys.contains n) then doeAnswer 11 0 { s with sec := { s.sec with ideKeys := [n] } } else doeError s
  | .ideKeyStart n => if s.sec.spdmSession && s.sec.ideKeys.contains n then doeAnswer 12 0 { s with sec := { s.sec with ideOn := [n] } } else doeError s
  | .ideKeyStop n =>
    if s.sec.spdmSession && s.sec.ideOn.contains n then doeAnswer 13 0 { s with sec := { s.sec with ideOn := [], ideKeys := [] } } else doeError s
  | .other _ => doeError s

/-- DOE_REQUEST: an SPDM 1.3 or IDE_KM request is answered (R433, R434). -/
def execDoeRequest (r : DoeRequest) (s : State) : Host.Outcome State Fault Refusal :=
  .next (if s.scanning && s.host.linkUp then doeRespond r s else s)

end Sys2Proof.Machine
end

