-- ==== Sys2Proof/Machine/HostLink.lean ====
section
/-! DEFINITION. The host link: register writes, the completion ring, DMA errors, the mailbox scans and the status page (R316 to R324,
R352). -/

namespace Sys2Proof.Machine

/-! ## The mailbox scans (R324) -/

/-- The meaning of each command of Table 7, by its code and sub-operation. -/
def mailboxRun (m : Mailbox) (mb : Nat) (x : Mailbox) (s : State) : State :=
  match m.cmd.toNat with
  | 0x01 => runIdentify mb x s
  | 0x02 => runGetStatus mb x s
  | 0x10 => runSetPolicy mb x s
  | 0x20 => runLoadImage mb x s
  | 0x21 => runOpenJob mb x s
  | 0x22 => runDeclareLoaves mb x s
  | 0x23 => runHostFill mb x s
  | 0x24 => runHostDrain [] mb x s
  | 0x30 => runStartJob mb x s
  | 0x31 => runPauseJob mb x s
  | 0x32 => runResumeJob mb x s
  | 0x33 => takeReset mb x s
  | 0x34 => if m.mode = 1 then runRestore mb x s else runCheckpoint [] mb x s
  | 0x40 => runFabricPlan mb x s
  | 0x41 => runFabricCommit mb x s
  | 0x42 => runWindowOpen mb x s
  | 0x43 => if m.proxyKind then runWindowCloseProxy mb x s else runWindowCloseLocal mb x s
  | 0x50 => runCrumbCheck mb x s
  | 0x51 => runRequalify mb x s
  | 0x60 => runReadEvents mb x s
  | 0x61 => if m.subop = 0 then runClearEventsNonce mb x s else runClearEventsClear mb x s
  | 0x62 => runClearSticky mb x s
  | 0x63 => runGetDump mb x s
  | 0x70 => runResetCompute mb x s
  | 0x71 => runShutdown mb x s
  | 0x80 => runFwStage mb x s
  | 0x81 => if m.atBoot then runFwActivateAtBoot mb x s else runFwActivate mb x s
  | 0x82 => match m.subop with
    | 0 => runLifecycleGetNonce mb x s
    | 2 => runLifecycleInstallKey mb x s
    | 3 => runLifecycleDebugUnlock mb x s
    | _ => runLifecycleTransition mb x s
  | _ => s

/-- The scan of one mailbox takes the command that stands in it (R323 to R325). -/
def runMailbox (mb : Nat) (s : State) : State := if s.scanning then takeCommand mb (mailboxRun (s.mailbox mb)) s else s

/-- The scan at a boundary: MB01 to MB15 in order, then MB00 (R85, R324). -/
def scanBoundary (s : State) : State := runMailbox 0 (each runMailbox ((List.range 15).map (· + 1)) s)

/-- MB00_SCAN: between boundaries MB00 is scanned every 2 µs (R85, R324). -/
def execMb00Scan (s : State) : Host.Outcome State Fault Refusal := .next (if s.ticking then runMailbox 0 s else s)

/-- STARTING or HALTED: no ticks run (R321, R324). -/
def State.idleDevice (s : State) : Bool := decide (s.dev.state = .starting ∨ s.dev.state = .halted)

/-- SLOW_MAILBOX_SCAN: in STARTING and HALTED all sixteen are scanned every 100 µs (R324). -/
def execSlowMailboxScan (s : State) : Host.Outcome State Fault Refusal :=
  .next (if s.idleDevice then each runMailbox (List.range 16) s else s)

/-! ## The status page (R84, R321) -/

/-- A temperature in a byte. -/
def tempByte (v : Int) : Byte := BitVec.ofNat 8 (Nat.min 255 v.toNat)

/-- The byte of a sensor's latest reading; 0 without one. -/
def State.sensorByte (s : State) (x : Sensor) : Byte := tempByte (look 0 x s.clk.readings)

/-- Bit g is set when any bit of bytes 32g to 32g + 31 of the sticky map is (R321). -/
def stickySummary (m : BitVec 32768) : BitVec 128 :=
  BitVec.ofNat 128 (((List.range 128).filter (fun g => decide (m.toNat / 2 ^ (256 * g) % 2 ^ 256 ≠ 0))).map (fun g => 2 ^ g)).sum

/-- One rewrite of the page: REFRESH rises by two (R321). -/
def refreshPage (s : State) : State :=
  let started := match s.job with | some j => j.started | none => false
  let ofJob := fun (f : Job → Nat) => match s.job with | some j => f j | none => 0
  let page : StatusPage :=
    { refresh := s.host.page.refresh + 2, state := BitVec.ofNat 4 (DevState.code s.dev.state), jobOpen := s.job.isSome,
      timeLocked := s.time.locked, linkReduced := s.host.reduced, resetBusy := s.dev.resetBusy, reserve := BitVec.ofNat 8 s.verified,
      health := BitVec.ofNat 16 s.health.score, pace := BitVec.ofNat 16 s.pace, freqMhz := BitVec.ofNat 16 s.clk.mhz,
      fabricTick := BitVec.ofNat 64 s.time.tick, localTick := if started then BitVec.ofNat 64 (ofJob (·.localTick)) else 0,
      slip := BitVec.ofNat 32 (Nat.min 0xFFFFFFFF s.att.slip), step := BitVec.ofNat 32 (ofJob (·.step)), wave := BitVec.ofNat 16 (ofJob (·.wave)),
      powerW := BitVec.ofNat 16 s.clk.powerW, powerCapW := BitVec.ofNat 16 s.pol.powerCapW, stickySummary := stickySummary s.evt.sticky,
      tempRegion := (List.range 72).map (fun g => (s.region g).temp), tempHbm := (List.range 16).map (fun k => s.sensorByte (.hbm k)),
      tempPort := (List.range 4).map (fun i => s.sensorByte (.portDie i)), tempHub := s.sensorByte .hub,
      eventHead := BitVec.ofNat 64 s.eventHead,
      mbOwner := BitVec.ofNat 16 (((List.range 16).filter (fun mb => (s.mailbox mb).owner)).map (fun mb => 2 ^ mb)).sum }
  { s with host := { s.host with page := page } }

/-- STATUS_PAGE_SLOW_REFRESH: in STARTING and HALTED the page is rewritten every 100 µs (R321). -/
def execStatusPageSlowRefresh (s : State) : Host.Outcome State Fault Refusal :=
  .next (if s.idleDevice && s.scanning then refreshPage s else s)

/-! ## The completion ring (R352) -/

/-- A CR_ENTRIES the ring may have: 0, or a power of two from 64 to 65,536 (R352 Table 17). -/
def ringSize (v : Word32) : Bool := (List.range 11).any (fun k => v.toNat == 2 ^ (k + 6))

/-- A write of CR_ENTRIES: index 0, phase 1; any value the table does not list disables the ring. -/
def setRing (v : Word32) (h : HostLink) : HostLink :=
  { h with crEntries := if ringSize v then v else 0, crTail := 0, crHead := 0, crPhase := true, coalescing := 0 }

/-- BAR0 answers the host: the link is up (R411). -/
def State.barOpen (s : State) : Bool := s.host.linkUp

/-- CR_ENTRIES_WRITE (R352). -/
def execCrEntriesWrite (value : Word32) (s : State) : Host.Outcome State Fault Refusal :=
  .next (if s.barOpen then { s with host := setRing value s.host } else s)

/-- COMPLETION_COALESCE_TIMER: COAL_US after the first waiting record, vector 16 is raised (R352 Table 19). -/
def execCompletionCoalesceTimer (s : State) : Host.Outcome State Fault Refusal :=
  .next (if s.host.coalescing = 0 then s else irq 16 { s with host := { s.host with coalescing := 0 } })

/-! ## Register writes (R318, R320, R322, R323, R352 Table 17) -/

/-- One dword of a completion-ring register block. -/
def ringRegWrite (off v : Nat) (h : HostLink) : HostLink :=
  match off with
  | 0x00 => { h with crBase := BitVec.ofNat 64 (h.crBase.toNat / 2 ^ 32 * 2 ^ 32 + v) }
  | 0x04 => { h with crBase := BitVec.ofNat 64 (h.crBase.toNat % 2 ^ 32 + v * 2 ^ 32) }
  | 0x08 => setRing (BitVec.ofNat 32 v) h
  | 0x0C => { h with coalUs := BitVec.ofNat 16 v, coalCount := BitVec.ofNat 16 (v / 65536) }
  | 0x14 => { h with crHead := BitVec.ofNat 32 v }
  | 0x18 => { h with overflow := h.overflow && !bit v 0, ringError := h.ringError && !bit v 1 }
  | _ => h

/-- One dword of a mailbox the host owns; what is read-only or reserved stays. -/
def mailboxWrite (off v : Nat) (m : Mailbox) : Mailbox :=
  if off = 0 then { m with owner := bit v 0 }
  else if off = 4 then { m with seq := BitVec.ofNat 16 v, cmd := BitVec.ofNat 16 (v / 65536) }
  else if off = 8 then { m with completion := bit v 0, interrupt := bit v 1, len := BitVec.ofNat 16 (v / 65536) }
  else if off < 64 then m
  else { m with payload := m.payload.writeBytes (off - 64) (leBytes 4 v) }

/-- One aligned dword of BAR0: the mailboxes and the completion ring take writes, everything else discards them (R320, R323). -/
def bar0Dword (off v : Nat) (s : State) : State :=
  if 0x1000 ≤ off ∧ off < 0x11000 then
    let mb := (off - 0x1000) / 0x1000
    if (s.mailbox mb).owner then s else s.onMailbox mb (mailboxWrite (off % 0x1000) v)
  else if 0x20000 ≤ off ∧ off < 0x20020 then { s with host := ringRegWrite (off - 0x20000) v s.host }
  else s

/-- A write to BAR0: 4 or 8 bytes, naturally aligned; the upper dword first, so that OWNER comes last (R320, R323). -/
def bar0Write (off width : Nat) (v : Word64) (s : State) : State :=
  if (width ≠ 4 ∧ width ≠ 8) ∨ off % width ≠ 0 ∨ 0x4000000 ≤ off then { s with host := { s.host with unsupported := s.host.unsupported + 1 } }
  else
    let s := if width = 8 then bar0Dword (off + 4) (v.toNat / 2 ^ 32) s else s
    bar0Dword off (v.toNat % 2 ^ 32) s

/-- A write to BAR4: the MSI-X table takes it; the pending-bit array, and what lies past either, discards it (R316). -/
def bar4Write (off width : Nat) (v : Word64) (h : HostLink) : HostLink :=
  if (width ≠ 4 ∧ width ≠ 8) ∨ off % width ≠ 0 ∨ 512 ≤ off then h else { h with msixTable := h.msixTable.writeBytes off (leBytes width v.toNat) }

/-- A size that the Max Payload and Max Read Request fields can hold: 128 bytes to 4 KiB (R316). -/
def payloadCode (n : Nat) : Bool := [128, 256, 512, 1024, 2048, 4096].contains n

/-- REGISTER_WRITE: BAR0, BAR4, or one of the PCI Express enables; writes and vectors held leave when both enables allow it (R316, R318, R320). -/
def execRegisterWrite (target : RegTarget) (width : Nat) (value : Word64) (s : State) : Host.Outcome State Fault Refusal :=
  .next (
    if !s.host.linkUp then s
    else match target with
      | .bar0 off => bar0Write off width value s
      | .bar4 off => { s with host := bar4Write off width value s.host }
      | .payloadSize => if payloadCode value.toNat then { s with host := { s.host with maxPayload := value.toNat } } else s
      | .readRequestSize => if payloadCode value.toNat then { s with host := { s.host with maxReadRequest := value.toNat } } else s
      | .busMaster => { s with host := HostLink.flush { s.host with busMaster := decide (value ≠ 0) } }
      | .powerState =>
        if value = 0 ∨ value = 3 then { s with host := HostLink.flush { s.host with dState := value.toNat } } else s)

/-! ## The link and its DMA (R317, R318) -/

/-- HOST_LINK_TRAINED: below x16 or below 128 GT/s the link is reduced (R317, R411). -/
def execHostLinkTrained (width gts : Nat) (s : State) : Host.Outcome State Fault Refusal :=
  .next (
    if !s.dev.fenumRunning || !s.dev.perstN then s
    else
      let low := decide (width < 16) || decide (gts < 128)
      let s := { s with host := { s.host with linkUp := true, linkWidth := width, linkGts := gts, reduced := low } }
      if low then raise (Raise.of .hostLinkReduced .host width gts 0 0) s else s)

/-- What a transfer that fails leaves behind: no image, an empty firmware slot, no kept frames (R25, R340, R351). -/
def dropTransfer (m : Mailbox) (s : State) : State :=
  match m.cmd.toNat with
  | 0x20 => setImage none [] s
  | 0x34 => if m.mode = 0 then freeKept s else s
  | 0x80 => setOther none s
  | _ => s

/-- A command's DMA fails and the command is answered (R318). -/
def dmaFails (mb status : Nat) (s : State) : State :=
  let m := s.mailbox mb
  match m.wait with
  | some (.dma _) => if s.dev.fenumRunning then answer mb status 0 (dropTransfer m s) else s
  | _ => s

/-- DMA_COMPLETION_TIMEOUT: a DMA read had no completion within 50 ms (R318). -/
def execDmaCompletionTimeout (mb : Nat) (s : State) : Host.Outcome State Fault Refusal := guardUnit (decide (mb < 16)) (dmaFails mb stTimeout s)

/-- DMA_WAIT_TIMEOUT: the command's DMA has waited 10 s in total (R318). -/
def execDmaWaitTimeout (mb : Nat) (s : State) : Host.Outcome State Fault Refusal := guardUnit (decide (mb < 16)) (dmaFails mb stTimeout s)

/-- The write of a completion record failed: RING_ERROR, and the ring is disabled (R352 Table 17). -/
def recordFails (s : State) : State := if s.host.ringOn then { s with host := { s.host with ringError := true } } else s

/-- DMA_COMPLETION_ERROR: a completion came with an error status (R318); of a completion record's write that failed it tells in the same way
(R352; notes/assumptions/59.md). -/
def execDmaCompletionError (target : DmaTarget) (s : State) : Host.Outcome State Fault Refusal :=
  match target with
  | .command mb => guardUnit (decide (mb < 16)) (dmaFails mb stFailed s)
  | .record => .next (recordFails s)

end Sys2Proof.Machine
end

