-- ==== Sys2Proof/Machine/Tick.lean ====
section
/-! DEFINITION. The boundary: fabric time, the verdict on the attempt that has ended, commit, discard and split, the boundary
actions, the mailbox scan, admission and the records of the boundary (R19 to R21, R51 to R54, R59, R63, R65, R71 to R87, R181, R189,
R205 to R208, R290, R294, R301, R321, R324, R327, R342, R360, R456). -/

namespace Sys2Proof.Machine

/-! ## Fabric time (R51, R52, R290, R294) -/

/-- The part of a time error that a slot of some µs slews away, in ps: at most 10 ns per ms (R294). -/
def slewPart (offset : Int) (us : Nat) : Int := max (-(10 * us : Int)) (min offset (10 * us))

/-- Fabric time moves to the boundary: with a plan to the next multiple of its period, without one by the period. The local
oscillator's cycles follow, shorter or longer by the slew (R52, R290, R294). -/
def advanceTime (planned : Bool) (t : FabricTime) : FabricTime :=
  let unit := t.periodUs * 16000
  let target := if planned then (t.fabric / unit + 1) * unit else t.fabric + unit
  let adj := slewPart t.offsetPs t.periodUs
  let cycles := (((target - t.fabric : Nat) : Int) - adj * 16 / 1000).toNat / 8
  let now := Nat.max t.now (t.boundaryAt + cycles)
  { t with now := now, boundaryAt := now, fabric := target, tick := if planned then target / unit else t.tick + 1,
           periodUs := t.nextPeriodUs, offsetPs := t.offsetPs - adj }

/-! ## The end of a slot -/

/-- Reports that reach the hub by the boundary are received, migrations that have not ended are abandoned, and copies that met an
upset are dealt with (R56, R64, R78, R199, R200). Nothing is marked before its margin any more (R75). -/
def closeSlot (m : SlotMeasure) (s : State) : State :=
  let rs := s.att.reports
  let s := { s with att := { s.att with phase := .margin, reports := [], rates := s.att.rates.measured m } }
  let s := each receiveReport rs s
  let s := if s.job.isSome then each copyRead m.copies s else s
  let s := each areaRead m.areas s
  let s := { s with att := { s.att with reports := [] } }
  if s.job.isSome then each cancelMigration m.unfinished s else s

/-- A condition of the hub about the attempt: task, value (R444 Task form). -/
def hubRaise (c : Cond) (src : Source) (task value : Nat) (s : State) : Raise :=
  match s.job with
  | some j => Raise.of c src (task % 2 ^ 24 + j.step * 2 ^ 24) s.att.serial j.localTick value
  | none => Raise.of c src (task % 2 ^ 24) s.att.serial 0 value

/-- The first ring that still holds a message: its physical tile and queue. -/
def residue : List (Nat × Tile) → Option (Nat × Nat)
  | [] => none
  | (p, t) :: l => match t.rings.findIdx? (fun r => decide (r.msgs ≠ 0)) with
    | some q => some (p, q)
    | none => residue l

/-- QUEUE_RESIDUE: an unconsumed message stands in a receive ring (R71; notes/assumptions/30.md). -/
def checkResidue (s : State) : State :=
  match residue s.tiles with
  | none => s
  | some (p, q) =>
    let task := ((s.att.admitted.find? (fun a => s.physical a.tile == p)).map (·.task)).getD 0
    raise (hubRaise .queueResidue (.tile p) task q s) s

/-- Admitted tasks that have not finished (R56). -/
def State.unfinishedTasks (s : State) : List Nat := (s.att.admitted.map (·.task)).filter (fun t => !s.att.finished.contains t)

/-- TICK_OVERRUN: a task has not finished in an attempt that was not marked failed before its margin (R75, R79). The value is their number. -/
def checkOverrun (s : State) : State :=
  let u := s.unfinishedTasks
  if u.isEmpty || s.att.failed then s
  else raise (hubRaise .tickOverrun .device (u.headD 0) u.length s) { s with att := { s.att with split := true } }

/-! ## Commit (R19 to R21, R65, R82 to R84, R181, R301, R327, R342) -/

/-- A 32-bit counter saturates (R181). -/
def satAdd (a b : Nat) : Nat := Nat.min 0xFFFFFFFF (a + b)

/-- Counts of an attempt added to a tensor's counters. -/
def TensorCounters.plus (a b : TensorCounters) : TensorCounters :=
  { sat := satAdd a.sat b.sat, nan := satAdd a.nan b.nan, underflow := satAdd a.underflow b.underflow,
    ovfTrays := satAdd a.ovfTrays b.ovfTrays, recomputes := satAdd a.recomputes b.recomputes }

/-- The job after the commit of some tasks. -/
def Job.commitTasks (j : Job) (tasks : List Nat) : Job :=
  { j with
    committed := j.committed ++ tasks.filter (fun t => !j.committed.contains t)
    issuersDone := j.issuersDone ++ tasks.filter (fun t => (j.image.tasks.getD t {}).collective && !j.issuersDone.contains t)
    counters := each (fun (x : Nat × TensorCounters) l => put x.1 ((look {} x.1 l).plus x.2) l) (j.attemptCounts ++ j.collCounts) j.counters
    attemptCounts := []
    collCounts := [] }

/-- Tasks that carry an entry's COLLECTIVE_ID. -/
def Image.issuers (im : Image) (c : Nat) : List Nat :=
  (List.range im.tasks.length).filter (fun t => let d := im.tasks.getD t {}; d.collective && d.collectiveId == c)

/-- The tasks flagged COLLECTIVE that have committed in a step restored at a wave with some of its tasks done (R301, R341). -/
def Image.issuersBy (im : Image) (wave : Nat) (done : List Nat) : List Nat :=
  (List.range im.tasks.length).filter (fun t => let d := im.tasks.getD t {}; d.collective && (decide (d.wave < wave) || done.contains t))

/-- Entries that a commit of some tasks issues: it publishes the last of theirs in this step, whatever their waves (R301). -/
def Job.dueColls (j : Job) (tasks : List Nat) : List Nat :=
  (List.range j.image.colls.length).filter (fun c =>
    let l := j.image.issuers c
    !j.collIssued.contains c && l.any tasks.contains && l.all (fun t => j.issuersDone.contains t || tasks.contains t))

/-- Commands whose effect this commit publishes are answered: with the local tick of the attempt, or for an empty attempt of READY with
the fabric tick (R327, R336, R341, R342, R347). -/
def answerPublished (running : Bool) (localTick : Nat) (s : State) : State :=
  each (fun mb s =>
      let m := s.mailbox mb
      if m.wait ≠ some .publish then s
      else
        let s := if m.cmd == 0x34 then s.onJob (fun j => { j with restored := true }) else s
        if running then answerLocal mb stOk localTick s else answer mb stOk 0 s)
    (List.range 16) s

/-- Tasks of a wave. -/
def Image.waveTasks (im : Image) (w : Nat) : List Nat := (List.range im.tasks.length).filter (fun t => (im.tasks.getD t {}).wave == w)

/-- The first wave from a number on that has a task (R19; notes/assumptions/30.md). -/
def Image.waveFrom (im : Image) (w : Nat) : Option Nat :=
  ((List.range im.waveCount).filter (fun x => decide (w ≤ x) && !(im.waveTasks x).isEmpty)).head?

/-- The wave admitted next, and whether it opens a new step. -/
def Job.nextWave (j : Job) : Nat × Bool :=
  match j.image.waveFrom (j.wave + 1) with
  | some w => (w, false)
  | none => ((j.image.waveFrom 0).getD 0, true)

/-- Every task of the wave has committed and every collective it issued is complete (R19). -/
def Job.waveDone (j : Job) : Bool := (j.image.waveTasks j.wave).all j.committed.contains && j.collQuiet

/-- A complete wave gives way to the next; after the last one the step number advances (R19, R21, R178, R179). -/
def advanceWave (s : State) : State :=
  match s.job with
  | none => s
  | some j =>
    if !j.waveDone then s
    else match j.nextWave with
      | (w, false) => s.onJob (fun j => { j with wave := w, committed := [] })
      | (w, true) =>
        let step := (j.step + 1) % 2 ^ 32
        { (s.onJob (fun j => { j with wave := w, committed := [], step := step, collIssued := [], issuersDone := [], collDone := [], exhausted := [], overflowed := [] }))
          with coll := s.coll.filter (fun r => decide (r.step = step)) }

/-- Slip grows by one; SLIP_LIMIT is recorded at each multiple of the setting (R82, R83). -/
def growSlip (s : State) : State :=
  let n := s.att.slip + 1
  let s := { s with att := { s.att with slip := n } }
  if n % s.pol.slipLimit = 0 then raise (hubRaise .slipLimit .device 0 n s) s else s

/-- The commit of an attempt of the running job: a part that leaves another behind it does not complete its tick (R53, R79, R82,
R84). -/
def completeTick (s : State) : State :=
  let parts := if s.att.cur then s.att.parts.drop 1 else s.att.parts
  let more := s.att.cur && !parts.isEmpty
  let s := { s with att := { s.att with parts := parts, failures := 0 } }
  if more then growSlip s
  else
    let s := { s with mem := { s.mem with filled := [] } }
    let s := s.onJob (fun j => { j with localTick := j.localTick + 1 })
    advanceWave { s with att := { s.att with slips := (s.att.slip :: s.att.slips).take 1025 } }

/-- Verdict 5 of R72: the attempt commits. -/
def commitAttempt (s : State) : State :=
  let running := s.att.running
  let tasks := s.att.admitted.map (·.task)
  let tick := match s.job with | some j => j.localTick | none => 0
  let due := match s.job with | some j => j.dueColls tasks | none => []
  let s := commitJournal (judgeVersions true s.saving s)
  let s := releaseOutbound (s.onJob (fun j => j.commitTasks tasks))
  let s := answerPublished running tick (each issueColl due s)
  if running then completeTick s else { s with mem := { s.mem with filled := [] } }

/-! ## Discard (R73 to R81) -/

/-- Hardware errors that the health score counts when they discard an attempt (R378 P2). -/
def hardwareCause (c : Cond) : Bool :=
  [Cond.padParity, .sliceParity, .steerSkew, .schedDeviation, .drainTimeout, .configParity, .arbHoldCutoff].contains c

/-- What a discard drops: pending versions, counts and outbound staging (R73, R181). -/
def dropWrites (s : State) : State :=
  let s := judgeVersions false s.saving s
  { (s.onJob (fun j => { j with attemptCounts := [] })) with mem := { s.mem with outbound := [] } }

/-- Verdict 4 of R72: the attempt will be replayed, in two parts when it asks for a split (R73, R79 to R81, R207). -/
def discardAttempt (s : State) : State :=
  let s := if s.att.replayNoted then s else record (tickReplay s) s
  let hw := s.att.raised.any (fun r => hardwareCause r.cond)
  let tasks := s.att.admitted.map (·.task)
  let cut := if s.att.split then splitTasks s tasks else none
  let again := match cut with
    | some (a, b) => [a, b]
    | none => if tasks.isEmpty then [] else [tasks]
  let rest := if s.att.cur then s.att.parts.drop 1 else s.att.parts
  let s := if hw then { s with health := { s.health with discards := lastHour s.time.now s.health.discards ++ [s.time.now] } } else s
  let s := { s with att := { s.att with
    parts := again ++ rest, failures := s.att.failures + 1,
    provisional := if s.att.broadcast && cut.isNone then s.att.provisional else [] } }
  growSlip (dropWrites s)

/-- Verdict 3 of R72: the job stands stopped in READY; a PAUSE_JOB in progress ends there too (R10, R72, R329). -/
def stopJob (s : State) : State :=
  let s := dropWrites s
  let pausing := match s.job with | some j => j.pausing | none => none
  let s := s.onJob (fun j => { j with stopped := true, pausing := none })
  let s := setDev .ready { s with att := { s.att with running := false, parts := [], cur := false, provisional := [], failures := 0 } }
  match pausing with
  | some mb => answer mb stOk 0 s
  | none => s

/-! ## The verdict (R72, R456) -/

/-- VERDICT codes of a trace entry (R456 Table 6). -/
inductive Verdict where
  | commit | discard | split | contain | job | fatal | noJob
  deriving DecidableEq, Repr

def Verdict.code : Verdict → Nat
  | .commit => 0
  | .discard => 1
  | .split => 2
  | .contain => 3
  | .job => 4
  | .fatal => 5
  | .noJob => 6

/-- The most severe of the conditions raised decides; the third failure in a row is contained (R72, R77). -/
def State.verdict (s : State) : Verdict :=
  if s.att.raised.any (fun r => decide (r.cls = .contain)) then .contain
  else if s.att.raised.any (fun r => decide (r.cls = .job)) then .job
  else if s.att.raised.any (fun r => decide (r.cls = .replay)) then
    (if 2 ≤ s.att.failures then .contain else if s.att.split && (splitTasks s (s.att.admitted.map (·.task))).isSome then .split else .discard)
  else .commit

/-- The condition a compute reset of the verdict names: the first of class CONTAIN, or REPLAY_LIMIT, which is recorded (R77, R453). -/
def containVerdict (s : State) : State :=
  match s.att.raised.find? (fun r => decide (r.cls = .contain)) with
  | some r => beginReset none (some r.cond) s
  | none => beginReset none (some .replayLimit) (record (hubRaise .replayLimit .device 0 (s.att.failures + 1) s) s)

/-- Every tile at the start of an attempt: no task, no deque, no cached mapping; run-ahead fills stay until the admission is known (R62, R73,
R191, R208). -/
def freshTile (t : Tile) : Tile :=
  { t with deque := [], current := none, runAhead := t.runAhead.filter (·.ahead), channels := [], done := [], fenced := false, board := {},
           steal := {}, blockedOn := [], blockedSend := none, cache := [] }

/-- A new attempt: the next serial (R73, R189). -/
def openAttempt (s : State) : State :=
  match s.job with
  | none => s
  | some _ =>
    { s with
      att := { s.att with serial := s.att.serial + 1, admitted := [], cur := false, finished := [], raised := [], failed := false,
                          broadcast := false, split := false, replayNoted := false, phase := .commit }
      tiles := s.tiles.map (fun x => (x.1, freshTile x.2)) }

/-- The receive rings of the tiles that the boundary's exchanges leave in use are empty as the attempt opens (R144, R215). -/
def openRings (s : State) : State :=
  match s.job with
  | none => s
  | some j => resetRings j.image s

/-- A verdict under which the inbound journal is applied again to the next attempt (R72, R76). DESIGN CHOICE (notes/assumptions/76.md): after a
job stop too, in the first empty attempt of READY, so that what peers and the host were told will be kept is kept. -/
def Verdict.again : Verdict → Bool
  | .discard => true
  | .split => true
  | .job => true
  | _ => false

/-- The verdict takes effect and a new attempt opens; a discard applies the journal again (R72, R76). -/
def applyVerdict (v : Verdict) (s : State) : State :=
  match v with
  | .contain => containVerdict s
  | .noJob => s
  | .fatal => s
  | _ =>
    let serial := s.att.serial
    let s := match v with
      | .commit => commitAttempt s
      | .job => stopJob s
      | _ => discardAttempt s
    let s := openAttempt s
    if v.again then replayJournal serial s else s

/-- The verdict on the slot that has ended: of an attempt of the job, of an empty one, or of one that was abandoned (R72, R342,
R456). -/
def judge (s : State) : Verdict × State :=
  if s.job.isNone then
    (match s.att.lost with
    | some _ => (if s.dev.fatalTransit then .fatal else .contain, s)
    | none => (.noJob, s))
  else if !s.att.running then (.commit, applyVerdict .commit s)
  else
    let s := checkOverrun (checkResidue s)
    if s.job.isNone then (.fatal, s) else (s.verdict, applyVerdict s.verdict s)

/-! ## Boundary actions (R85) -/

/-- Actions 1 to 5: retirement, rotation, performance state, shadow weights; `us` is the length of the slot that has ended. In TRANSIT that no
reset passes through, a retirement needs no copy and is made at once (R355). The table swap is a step of its own (R85, R360). -/
def boundaryActions (us : Nat) (m : SlotMeasure) (s : State) : State :=
  let retired := s.tests.retiring.map (·.1)
  let s := if s.computing then beginRotation retired (finishMoves (retireAll s))
    else if decide (s.dev.state = .transit) && s.tests.reset.isNone then settleMoves (retireAll s) else s
  let f0 := s.clk.mhz
  let s := chooseState f0 (switchState (closeClocks us m s))
  { s with fab := { s.fab with weights := s.fab.weightsShadow }, mem := { s.mem with hbmWeights := s.mem.hbmWeightsShadow } }

/-- A START_JOB or RESUME_JOB whose first slot this is: RUNNING, and the local tick is the fabric tick (R21, R53, R82, R337, R341). -/
def beginRun (s : State) : State :=
  match s.job with
  | none => s
  | some j => match j.startAt with
    | none => s
    | some (mb, t) =>
      if s.dev.state ≠ .ready ∨ s.time.tick < t ∨ s.dev.fenced then s
      else
        let m := s.mailbox mb
        let first := j.image.waveFrom 0
        let place := fun j : Job =>
          if m.cmd ≠ 0x30 then j
          else match (if bit (m.arg 4 4) 0 then j.restoredAt else none) with
            | some (step, wave, done) => { j with step := step, wave := wave, committed := done, issuersDone := j.image.issuersBy wave done }
            | none => { j with step := m.arg 0 4, wave := first.getD 0, committed := [], issuersDone := [] }
        let s := s.onJob (fun j => { place j with startAt := none, started := true, paused := false, localTick := s.time.tick, unfitSlots := 0 })
        let s := setDev .running { s with att := { s.att with running := true, slip := 0, slips := [0], failures := 0 } }
        answerLocal mb stOk s.time.tick s

/-! ## Admission (R59, R61, R205 to R208) -/

/-- Admission is held: a pause, a crumb check, a fenced compute domain, or no frame left to keep for a SAVE (R86, R340, R350, R436). -/
def State.admissionHeld (s : State) : Bool :=
  (match s.job with | some j => j.pausing.isSome | none => true) || s.tests.crumb.isSome || s.dev.fenced
    || (s.saving && decide (s.pol.jobReserve / 4 ≤ s.mem.kept.length))

/-- A provisional admission can be confirmed: it names no withdrawn tile (R59, R85). -/
def State.confirmable (s : State) (l : List Admitted) : Bool := !l.isEmpty && l.all (fun a => !s.withdrawn.contains a.tile)

/-- Tasks of the wave that have not committed. -/
def Job.remaining (j : Job) : List Nat := (j.image.waveTasks j.wave).filter (fun t => !j.committed.contains t)

/-- The task set of the attempt: the part to run, or what the wave still has (R59, R73, R79, R205). -/
def chooseAdmission (j : Job) (s : State) : List Admitted :=
  let prov := s.att.provisional.mergeSort (fun a b => decide (a.task ≤ b.task))
  match s.att.parts with
  | ts :: _ => if s.confirmable prov ∧ prov.map (·.task) = ts then prov else admitAll s s.clk.mhz true ts
  | [] => if s.confirmable prov && prov.all (fun a => j.remaining.contains a.task) then prov else admitAll s s.clk.mhz false j.remaining

/-- TASK_UNFIT after 16 slots in a row in which tasks remained and none was admitted (R206). -/
def countUnfit (j : Job) (s : State) : State :=
  let idle := s.att.admitted.isEmpty && !j.remaining.isEmpty
  let n := if idle then j.unfitSlots + 1 else 0
  let s := s.onJob (fun j => { j with unfitSlots := if n = 16 then 0 else n })
  let t := j.remaining.headD 0
  if n = 16 then raise (hubRaise .taskUnfit .device t (leastEnd s s.clk.mhz t) s) s else s

/-- Descriptors go to the deques in ascending task number; run-ahead for another task than the head of a deque is released (R63, R73,
R133, R208, R210). -/
def pushTasks (s : State) : State :=
  let s := each (fun (a : Admitted) s => s.onTile (s.physical a.tile) (fun t => { t with deque := t.deque ++ [a.task] })) s.att.admitted
    { s with tiles := s.tiles.map (fun x => (x.1, { x.2 with openSets := x.2.sets })) }
  each (fun (x : Nat × Tile) s =>
    let s := match x.2.runAhead with
      | some r => if (s.tile x.1).deque.head? = some r.task then s else dropAhead x.1 s
      | none => s
    updateBoard x.1 s) s.tiles s

/-- Entries in progress that will not be complete when the slot ends (R59). -/
def State.collsBeyond (s : State) (j : Job) : Bool :=
  j.collIssued.any (fun c => !j.collDone.contains c && (match s.run c with | some r => decide (s.time.tick + 1 < r.closeTick) | none => true))

/-- The tasks admitted provisionally to the next slot: the next part, the rest of the wave, or the next wave, when the attempt's commit
completes this one (R59). -/
def nextTasks (j : Job) (s : State) : Bool × List Nat :=
  let now := s.att.admitted.map (·.task)
  match (if s.att.cur then s.att.parts.drop 1 else []) with
  | ts :: _ => (true, ts)
  | [] =>
    let left := j.remaining.filter (fun t => !now.contains t)
    if !left.isEmpty then (false, left)
    else if s.collsBeyond j || !(j.dueColls now).isEmpty then (false, [])
    else (false, j.image.waveTasks j.nextWave.1)

/-- The commit window's admission: this slot's task set is confirmed and the next one's admitted provisionally (R54, R59, R205). -/
def admitSlot (s : State) : State :=
  match s.job with
  | none => s
  | some j =>
    if s.dev.state ≠ .running then s
    else if s.admissionHeld then pushTasks { s with att := { s.att with provisional := [] } }
    else
      let l := chooseAdmission j s
      let s := pushTasks { s with att := { s.att with admitted := l, cur := !s.att.parts.isEmpty, provisional := [] } }
      let s := countUnfit j s
      let n := nextTasks j s
      { s with att := { s.att with provisional := admitAll s (s.clk.pendingMhz.getD s.clk.mhz) n.1 n.2 } }

/-- The configuration sets that the running wave and the next one use (R121). -/
def Job.waveSets (j : Job) : List Nat :=
  ((j.image.waveTasks j.wave ++ j.image.waveTasks j.nextWave.1).map (fun t => (j.image.tasks.getD t {}).configSet)).eraseDups

/-- The rest of the commit window with a job open: run-ahead is checked against the commit, old entries are normalised, the sets of the wave and
the next are kept in the slice tier and migrations planned (R63, R121, R190, R197 to R199). -/
def placementWork (fresh : List Nat) (s : State) : State :=
  match s.job with
  | none => s
  | some j =>
    let s := offerReads (sweepDue (revalidateAll fresh s))
    planMigrations { s with mem := { s.mem with decaySlots := s.mem.decaySlots + 1, configs := j.waveSets } }

/-! ## The record of the boundary (R456) -/

/-- One trace entry; the ring holds 262,144. -/
def writeTrace (v : Verdict) (serial localTick : Nat) (s : State) : State :=
  let e : TraceEntry := { fabricTick := s.time.tick, attempt := serial, localTick := localTick, verdict := v.code, freqMhz := s.clk.mhz,
                          tasks := Nat.min 0xFFFF s.att.admitted.length, powerW := s.clk.powerW }
  let l := s.evt.trace ++ [e]
  { s with evt := { s.evt with trace := if l.length > 262144 then l.drop 1 else l, traceHead := s.time.tick }, att := { s.att with lost := none } }

/-- Loaves that the commit of the attempt gives a new version (R63). -/
def State.freshLoaves (s : State) : List Nat := (s.mem.dir.filter (fun x => s.entryCurrent x.2 && !x.2.pkind)).map (·.1)

/-- The commit window after the verdict: boundary actions, the scan, the first slot of a job, admission, the status page and the trace
(R7, R54, R85, R321, R324). While Fenum restarts, the page goes on reporting the state (R7, R364). A command of the scan may end in a device
reset, and nothing follows it then. -/
def commitWindow (us : Nat) (m : SlotMeasure) (v : Verdict) (serial localTick : Nat) (fresh : List Nat) (s : State) : State :=
  let s := scanBoundary (openRings (boundaryActions us m s))
  if !s.ticking then s
  else
    let s := placementWork fresh (admitSlot (beginRun s))
    writeTrace v serial localTick (refreshPage s)

/-- The boundary. -/
def boundary (m : SlotMeasure) (s : State) : State :=
  let us := s.time.periodUs
  let s := closeSlot m s
  let s := { s with time := advanceTime s.fab.plan.isSome s.time }
  let id := match s.att.lost, s.job with
    | some x, _ => x
    | none, some j => (s.att.serial, j.localTick)
    | none, none => (0, 0)
  let fresh := s.freshLoaves
  let r := judge s
  commitWindow us m r.1 id.1 id.2 (if r.1 = .commit then fresh else []) r.2

/-- TICK_BOUNDARY: a slot ends in fabric time, in every state from STANDBY to TRANSIT (R7, R52, R72, R85, R290). -/
def execTickBoundary (m : SlotMeasure) (s : State) : Host.Outcome State Fault Refusal := .next (if s.ticking then boundary m s else s)

end Sys2Proof.Machine
end

