-- ==== Sys2Proof/Machine/Dispatch.lean ====
section
/-! DEFINITION. One arm per command: each row of spec/opcode_table.json calls its own meaning. -/

namespace Sys2Proof.Machine

def exec (i : Instr) (s : State) : Host.Outcome State Fault Refusal :=
  match i with
  | .vaux3On udsMatches addrSel => Sys2Proof.Machine.execVaux3On udsMatches addrSel s
  | .vin12Ready calFail => Sys2Proof.Machine.execVin12Ready calFail s
  | .vin12AbsentTimeout => Sys2Proof.Machine.execVin12AbsentTimeout s
  | .startTests memIdHash => Sys2Proof.Machine.execStartTests memIdHash s
  | .startComplete found => Sys2Proof.Machine.execStartComplete found s
  | .pwrOkLow => Sys2Proof.Machine.execPwrOkLow s
  | .syncInLow => Sys2Proof.Machine.execSyncInLow s
  | .syncInEdge stamp => Sys2Proof.Machine.execSyncInEdge stamp s
  | .perstNAssert => Sys2Proof.Machine.execPerstNAssert s
  | .hotReset => Sys2Proof.Machine.execHotReset s
  | .perstNRelease => Sys2Proof.Machine.execPerstNRelease s
  | .powerRemoved => Sys2Proof.Machine.execPowerRemoved s
  | .tapEnterExtest which => Sys2Proof.Machine.execTapEnterExtest which s
  | .tapLeaveExtest => Sys2Proof.Machine.execTapLeaveExtest s
  | .vddqDdrFault => Sys2Proof.Machine.execVddqDdrFault s
  | .thermalComparatorTrip die => Sys2Proof.Machine.execThermalComparatorTrip die s
  | .sensorRead readings => Sys2Proof.Machine.execSensorRead readings s
  | .timeUtcWrite value => Sys2Proof.Machine.execTimeUtcWrite value s
  | .timeUtcTick => Sys2Proof.Machine.execTimeUtcTick s
  | .recLengthWrite value => Sys2Proof.Machine.execRecLengthWrite value s
  | .recDataWrite value => Sys2Proof.Machine.execRecDataWrite value s
  | .recVerifyDone => Sys2Proof.Machine.execRecVerifyDone s
  | .registerWrite target width value => Sys2Proof.Machine.execRegisterWrite target width value s
  | .crEntriesWrite value => Sys2Proof.Machine.execCrEntriesWrite value s
  | .hostLinkTrained width gts => Sys2Proof.Machine.execHostLinkTrained width gts s
  | .dmaCompletionTimeout mb => Sys2Proof.Machine.execDmaCompletionTimeout mb s
  | .dmaWaitTimeout mb => Sys2Proof.Machine.execDmaWaitTimeout mb s
  | .dmaCompletionError target => Sys2Proof.Machine.execDmaCompletionError target s
  | .completionCoalesceTimer => Sys2Proof.Machine.execCompletionCoalesceTimer s
  | .mb00Scan => Sys2Proof.Machine.execMb00Scan s
  | .slowMailboxScan => Sys2Proof.Machine.execSlowMailboxScan s
  | .statusPageSlowRefresh => Sys2Proof.Machine.execStatusPageSlowRefresh s
  | .unknownCommand mb => Sys2Proof.Machine.execUnknownCommand mb s
  | .identify mb => Sys2Proof.Machine.execIdentify mb s
  | .getStatus mb => Sys2Proof.Machine.execGetStatus mb s
  | .setPolicy mb => Sys2Proof.Machine.execSetPolicy mb s
  | .loadImage mb => Sys2Proof.Machine.execLoadImage mb s
  | .openJob mb => Sys2Proof.Machine.execOpenJob mb s
  | .declareLoaves mb => Sys2Proof.Machine.execDeclareLoaves mb s
  | .hostFill mb => Sys2Proof.Machine.execHostFill mb s
  | .hostFillDmaComplete mb list data => Sys2Proof.Machine.execHostFillDmaComplete mb list data s
  | .hostDrain cmd => Sys2Proof.Machine.execHostDrain cmd s
  | .hostDrainComplete mb list => Sys2Proof.Machine.execHostDrainComplete mb list s
  | .startJob mb => Sys2Proof.Machine.execStartJob mb s
  | .pauseJob mb => Sys2Proof.Machine.execPauseJob mb s
  | .pauseEnterReady => Sys2Proof.Machine.execPauseEnterReady s
  | .resumeJob mb => Sys2Proof.Machine.execResumeJob mb s
  | .stopJob mb => Sys2Proof.Machine.execStopJob mb s
  | .checkpointSave cmd => Sys2Proof.Machine.execCheckpointSave cmd s
  | .checkpointRestore mb => Sys2Proof.Machine.execCheckpointRestore mb s
  | .checkpointTransferComplete mb list data => Sys2Proof.Machine.execCheckpointTransferComplete mb list data s
  | .fabricPlan mb => Sys2Proof.Machine.execFabricPlan mb s
  | .fabricCommit mb => Sys2Proof.Machine.execFabricCommit mb s
  | .windowOpen mb => Sys2Proof.Machine.execWindowOpen mb s
  | .windowCloseLocal mb => Sys2Proof.Machine.execWindowCloseLocal mb s
  | .windowCloseProxy mb => Sys2Proof.Machine.execWindowCloseProxy mb s
  | .crumbCheck mb => Sys2Proof.Machine.execCrumbCheck mb s
  | .crumbCheckBegin => Sys2Proof.Machine.execCrumbCheckBegin s
  | .crumbProgramComplete tile partner out outPartner reruns => Sys2Proof.Machine.execCrumbProgramComplete tile partner out outPartner reruns s
  | .requalify mb => Sys2Proof.Machine.execRequalify mb s
  | .readEvents mb => Sys2Proof.Machine.execReadEvents mb s
  | .clearEventsNonce mb => Sys2Proof.Machine.execClearEventsNonce mb s
  | .clearEventsClear mb => Sys2Proof.Machine.execClearEventsClear mb s
  | .clearSticky mb => Sys2Proof.Machine.execClearSticky mb s
  | .getDump mb => Sys2Proof.Machine.execGetDump mb s
  | .resetCompute mb => Sys2Proof.Machine.execResetCompute mb s
  | .computeResetComplete failTiles lostUnits => Sys2Proof.Machine.execComputeResetComplete failTiles lostUnits s
  | .shutdown mb => Sys2Proof.Machine.execShutdown mb s
  | .shutdownTestComplete => Sys2Proof.Machine.execShutdownTestComplete s
  | .fwStage mb => Sys2Proof.Machine.execFwStage mb s
  | .fwActivate mb => Sys2Proof.Machine.execFwActivate mb s
  | .fwActivateAtBoot mb => Sys2Proof.Machine.execFwActivateAtBoot mb s
  | .lifecycleGetNonce mb => Sys2Proof.Machine.execLifecycleGetNonce mb s
  | .lifecycleTransition mb => Sys2Proof.Machine.execLifecycleTransition mb s
  | .lifecycleInstallKey mb => Sys2Proof.Machine.execLifecycleInstallKey mb s
  | .lifecycleDebugUnlock mb => Sys2Proof.Machine.execLifecycleDebugUnlock mb s
  | .tickBoundary m => Sys2Proof.Machine.execTickBoundary m s
  | .runPhaseOpen => Sys2Proof.Machine.execRunPhaseOpen s
  | .marginOpen => Sys2Proof.Machine.execMarginOpen s
  | .taskBegin at_ => Sys2Proof.Machine.execTaskBegin at_ s
  | .fillLineReturn tile runAhead entry line outcome => Sys2Proof.Machine.execFillLineReturn tile runAhead entry line outcome s
  | .fillListComplete tile => Sys2Proof.Machine.execFillListComplete tile s
  | .weaveStart tile configParity => Sys2Proof.Machine.execWeaveStart tile configParity s
  | .mstream f => Sys2Proof.Machine.execMstream f s
  | .mstreamAcc f => Sys2Proof.Machine.execMstreamAcc f s
  | .fma f => Sys2Proof.Machine.execFma f s
  | .mul f => Sys2Proof.Machine.execMul f s
  | .add f => Sys2Proof.Machine.execAdd f s
  | .sub f => Sys2Proof.Machine.execSub f s
  | .accum f => Sys2Proof.Machine.execAccum f s
  | .min f => Sys2Proof.Machine.execMin f s
  | .max f => Sys2Proof.Machine.execMax f s
  | .cmp f => Sys2Proof.Machine.execCmp f s
  | .iadd f => Sys2Proof.Machine.execIadd f s
  | .isub f => Sys2Proof.Machine.execIsub f s
  | .and f => Sys2Proof.Machine.execAnd f s
  | .or f => Sys2Proof.Machine.execOr f s
  | .xor f => Sys2Proof.Machine.execXor f s
  | .shift f => Sys2Proof.Machine.execShift f s
  | .exp2 f => Sys2Proof.Machine.execExp2 f s
  | .log2 f => Sys2Proof.Machine.execLog2 f s
  | .rcp f => Sys2Proof.Machine.execRcp f s
  | .rsqrt f => Sys2Proof.Machine.execRsqrt f s
  | .rng f => Sys2Proof.Machine.execRng f s
  | .cvt f => Sys2Proof.Machine.execCvt f s
  | .reduce f => Sys2Proof.Machine.execReduce f s
  | .route f => Sys2Proof.Machine.execRoute f s
  | .select f => Sys2Proof.Machine.execSelect f s
  | .filter f => Sys2Proof.Machine.execFilter f s
  | .compact f => Sys2Proof.Machine.execCompact f s
  | .count f => Sys2Proof.Machine.execCount f s
  | .merge f => Sys2Proof.Machine.execMerge f s
  | .union f => Sys2Proof.Machine.execUnion f s
  | .intersect f => Sys2Proof.Machine.execIntersect f s
  | .rowRead f upset => Sys2Proof.Machine.execRowRead f upset s
  | .rowWrite f => Sys2Proof.Machine.execRowWrite f s
  | .columnRead f upset => Sys2Proof.Machine.execColumnRead f upset s
  | .columnWrite f => Sys2Proof.Machine.execColumnWrite f s
  | .stridedRead f upset => Sys2Proof.Machine.execStridedRead f upset s
  | .stridedWrite f => Sys2Proof.Machine.execStridedWrite f s
  | .indexedRowRead f upset => Sys2Proof.Machine.execIndexedRowRead f upset s
  | .indexedRowWrite f => Sys2Proof.Machine.execIndexedRowWrite f s
  | .gather f upset => Sys2Proof.Machine.execGather f upset s
  | .scatter f => Sys2Proof.Machine.execScatter f s
  | .probe f upset => Sys2Proof.Machine.execProbe f upset s
  | .append f => Sys2Proof.Machine.execAppend f s
  | .send f => Sys2Proof.Machine.execSend f s
  | .take f upset => Sys2Proof.Machine.execTake f upset s
  | .pull f upset => Sys2Proof.Machine.execPull f upset s
  | .weaveHoldLimit tile => Sys2Proof.Machine.execWeaveHoldLimit tile s
  | .schedDeviation tile measured => Sys2Proof.Machine.execSchedDeviation tile measured s
  | .weaveDrainEnd tile padUpset merge => Sys2Proof.Machine.execWeaveDrainEnd tile padUpset merge s
  | .drainTimeout tile => Sys2Proof.Machine.execDrainTimeout tile s
  | .drainComplete tile => Sys2Proof.Machine.execDrainComplete tile s
  | .errorReport r => Sys2Proof.Machine.execErrorReport r s
  | .failureBroadcast => Sys2Proof.Machine.execFailureBroadcast s
  | .messageRingWrite sender receiver upset => Sys2Proof.Machine.execMessageRingWrite sender receiver upset s
  | .ringSendRetry retry => Sys2Proof.Machine.execRingSendRetry retry s
  | .ringArbHoldCutoff sender receiver => Sys2Proof.Machine.execRingArbHoldCutoff sender receiver s
  | .configLoad tile copy recordUpset => Sys2Proof.Machine.execConfigLoad tile copy recordUpset s
  | .runAheadConfigLoad ahead => Sys2Proof.Machine.execRunAheadConfigLoad ahead s
  | .runAheadFillIssue tile => Sys2Proof.Machine.execRunAheadFillIssue tile s
  | .tileIdle at_ => Sys2Proof.Machine.execTileIdle at_ s
  | .stealReq thief victim => Sys2Proof.Machine.execStealReq thief victim s
  | .stealGrant thief => Sys2Proof.Machine.execStealGrant thief s
  | .stealRefusal thief => Sys2Proof.Machine.execStealRefusal thief s
  | .directorySweep loaf outcome => Sys2Proof.Machine.execDirectorySweep loaf outcome s
  | .accessDecay => Sys2Proof.Machine.execAccessDecay s
  | .regionSlow region => Sys2Proof.Machine.execRegionSlow region s
  | .parkedTileVerified tile => Sys2Proof.Machine.execParkedTileVerified tile s
  | .rotation => Sys2Proof.Machine.execRotation s
  | .tileExchange logical => Sys2Proof.Machine.execTileExchange logical s
  | .reserveProgramComplete a b outA outB third => Sys2Proof.Machine.execReserveProgramComplete a b outA outB third s
  | .healthScoreUpdate => Sys2Proof.Machine.execHealthScoreUpdate s
  | .fenumWatchdog => Sys2Proof.Machine.execFenumWatchdog s
  | .fenumLockstep => Sys2Proof.Machine.execFenumLockstep s
  | .firmwareRunning started => Sys2Proof.Machine.execFirmwareRunning started s
  | .dumpPersist => Sys2Proof.Machine.execDumpPersist s
  | .eventPersist writeFails => Sys2Proof.Machine.execEventPersist writeFails s
  | .droopTrip region => Sys2Proof.Machine.execDroopTrip region s
  | .limiterInterval meanW => Sys2Proof.Machine.execLimiterInterval meanW s
  | .patrolLine frame line outcome => Sys2Proof.Machine.execPatrolLine frame line outcome s
  | .ddrWriteCrcError frame line retriesFailed => Sys2Proof.Machine.execDdrWriteCrcError frame line retriesFailed s
  | .hbmArbHoldCutoff stack pc => Sys2Proof.Machine.execHbmArbHoldCutoff stack pc s
  | .portTrainingAttempt port t => Sys2Proof.Machine.execPortTrainingAttempt port t s
  | .portRetryTimer port => Sys2Proof.Machine.execPortRetryTimer port s
  | .portLossOfLock port lane => Sys2Proof.Machine.execPortLossOfLock port lane s
  | .portIdleTimeout port => Sys2Proof.Machine.execPortIdleTimeout port s
  | .flitReceive port f => Sys2Proof.Machine.execFlitReceive port f s
  | .linkControlFlit port request answer peerBudget peerDepth => Sys2Proof.Machine.execLinkControlFlit port request answer peerBudget peerDepth s
  | .hello port h => Sys2Proof.Machine.execHello port h s
  | .helloCert port chain => Sys2Proof.Machine.execHelloCert port chain s
  | .coord port addr dim plus => Sys2Proof.Machine.execCoord port addr dim plus s
  | .transitPacket port p => Sys2Proof.Machine.execTransitPacket port p s
  | .portDownFlood port e => Sys2Proof.Machine.execPortDownFlood port e s
  | .portUpFlood port e => Sys2Proof.Machine.execPortUpFlood port e s
  | .injectionStop => Sys2Proof.Machine.execInjectionStop s
  | .fabricTableSwap => Sys2Proof.Machine.execFabricTableSwap s
  | .injectionResume => Sys2Proof.Machine.execInjectionResume s
  | .fabricArbHoldCutoff port p => Sys2Proof.Machine.execFabricArbHoldCutoff port p s
  | .windowPut op => Sys2Proof.Machine.execWindowPut op s
  | .windowGet op => Sys2Proof.Machine.execWindowGet op s
  | .windowAdd op => Sys2Proof.Machine.execWindowAdd op s
  | .windowCas op => Sys2Proof.Machine.execWindowCas op s
  | .reply p => Sys2Proof.Machine.execReply p s
  | .e2eTimeout peer => Sys2Proof.Machine.execE2eTimeout peer s
  | .barrier p => Sys2Proof.Machine.execBarrier p s
  | .chunkData p => Sys2Proof.Machine.execChunkData p s
  | .chunkAck p => Sys2Proof.Machine.execChunkAck p s
  | .chunkCount p => Sys2Proof.Machine.execChunkCount p s
  | .chunkTimeout coll chunk peer => Sys2Proof.Machine.execChunkTimeout coll chunk peer s
  | .collectiveStage0Start start => Sys2Proof.Machine.execCollectiveStage0Start start s
  | .collectiveStageComplete coll => Sys2Proof.Machine.execCollectiveStageComplete coll s
  | .peerSlow coll => Sys2Proof.Machine.execPeerSlow coll s
  | .loadImageDmaComplete mb list data => Sys2Proof.Machine.execLoadImageDmaComplete mb list data s
  | .fabricPlanDmaComplete mb list data => Sys2Proof.Machine.execFabricPlanDmaComplete mb list data s
  | .fwStageDmaComplete mb list data => Sys2Proof.Machine.execFwStageDmaComplete mb list data s
  | .getDumpDmaComplete mb list => Sys2Proof.Machine.execGetDumpDmaComplete mb list s
  | .requalifyTestComplete found => Sys2Proof.Machine.execRequalifyTestComplete found s
  | .shutdownPhaseComplete found repairs => Sys2Proof.Machine.execShutdownPhaseComplete found repairs s
  | .eventPersistComplete => Sys2Proof.Machine.execEventPersistComplete s
  | .dumpPersistComplete => Sys2Proof.Machine.execDumpPersistComplete s
  | .doeRequest r => Sys2Proof.Machine.execDoeRequest r s
  | .fenceNotice port p => Sys2Proof.Machine.execFenceNotice port p s

end Sys2Proof.Machine
end

