-- ==== Sys2Proof/Machine/Step.lean ====
section
/-! DEFINITION. The step: the command at the front of the queue acts; with an empty queue one nominal cycle passes. -/

namespace Sys2Proof.Machine

/-- One step. With no command waiting nothing but time changes: one nominal cycle of 0.5 ns passes (R14;
notes/assumptions/6.md). -/
def step (s : State) : Host.Outcome State Fault Refusal :=
  match s.pending with
  | [] => .next { s with time := { s.time with now := s.time.now + 1 } }
  | c :: q => exec c { s with pending := q }

/-- The state with the command that a table word spells at the front of its queue. No row has bits, so it is the state. -/
def State.withFetchWord (s : State) (nbits w : Nat) : State :=
  match decodeTableWord nbits w with
  | some c => { s with pending := c :: s.pending }
  | none => s

end Sys2Proof.Machine
end

