-- ==== Sys2Proof/Machine/Views.lean ====
section
/-! DEFINITION. What the host reads in BAR0 and the board on the I3C sideband: the status page, the mailboxes, the completion-ring
registers, the event-recorder and dump windows, and the register block (R320 to R322, R349, R352, R436, R448, R456, R468, R471). A read
changes nothing, so these are functions of the state and no step. -/

namespace Sys2Proof.Machine

/-- Bits as a number, the first at bit 0. -/
def bitsNat : List Bool → Nat
  | [] => 0
  | b :: l => (if b then 1 else 0) + 2 * bitsNat l

/-- Bytes brought to a length with zeros. -/
def padded (n : Nat) (b : List Byte) : List Byte := (b ++ List.replicate n 0).take n

/-- The status page as last rewritten (R321 Table 3). -/
def statusBytes (p : StatusPage) : List Byte :=
  leBytes 8 p.refresh.toNat ++
    leBytes 1 (p.state.toNat + 16 * bitsNat [p.jobOpen, p.timeLocked, p.linkReduced, p.resetBusy]) ++ leBytes 1 p.reserve.toNat ++
    leBytes 2 p.health.toNat ++ leBytes 2 p.pace.toNat ++ leBytes 2 p.freqMhz.toNat ++ leBytes 8 p.fabricTick.toNat ++
    leBytes 8 p.localTick.toNat ++ leBytes 4 p.slip.toNat ++ leBytes 4 p.step.toNat ++ leBytes 2 p.wave.toNat ++ leBytes 2 p.powerW.toNat ++
    leBytes 2 p.powerCapW.toNat ++ leBytes 2 0 ++ leBytes 16 p.stickySummary.toNat ++ padded 72 p.tempRegion ++ padded 16 p.tempHbm ++
    padded 4 p.tempPort ++ [p.tempHub] ++ leBytes 3 0 ++ leBytes 8 p.eventHead.toNat ++ leBytes 2 p.mbOwner.toNat

/-- A mailbox's header (R322 Table 4). -/
def mailboxHeader (m : Mailbox) : List Byte :=
  leBytes 4 (bitsNat [m.owner]) ++ leBytes 2 m.seq.toNat ++ leBytes 2 m.cmd.toNat ++
    leBytes 2 (bitsNat [m.completion, m.interrupt, m.doneLocal]) ++ leBytes 2 m.len.toNat ++ leBytes 2 m.status.toNat ++
    leBytes 2 m.respLen.toNat ++ leBytes 8 m.tickTaken.toNat ++ leBytes 8 m.tickDone.toNat ++ leBytes 4 m.detail.toNat ++ leBytes 28 0

/-- The completion-ring registers (R352 Table 17). -/
def ringRegs (h : HostLink) : List Byte :=
  leBytes 8 h.crBase.toNat ++ leBytes 4 h.crEntries.toNat ++ leBytes 2 h.coalUs.toNat ++ leBytes 2 h.coalCount.toNat ++
    leBytes 4 h.crTail.toNat ++ leBytes 4 h.crHead.toNat ++ leBytes 8 (bitsNat [h.overflow, h.ringError])

/-- The header of the event-recorder window (R448 Table 3). -/
def windowHeader (s : State) : List Byte :=
  let l := s.evt.ring.map (·.seq)
  leBytes 8 s.eventHead ++ leBytes 8 (l.foldl Nat.min (l.headD 0)) ++ leBytes 4 l.length ++ leBytes 4 0 ++ leBytes 8 s.evt.persistSeq ++
    (s.evt.dropped.map (leBytes 4)).flatten ++ leBytes 12 0 ++ leBytes 8 s.evt.traceHead ++ leBytes 1 (bitsNat [s.evt.truncated])

/-- A trace entry (R456 Table 6). -/
def traceBytes (e : TraceEntry) : List Byte :=
  leBytes 8 e.fabricTick ++ leBytes 8 e.attempt ++ leBytes 8 e.localTick ++ leBytes 2 e.verdict ++ leBytes 2 e.freqMhz ++ leBytes 2 e.tasks ++
    leBytes 2 e.powerW

/-- Byte `off` of the event-recorder window (R448). -/
def windowByte (off : Nat) (s : State) : Byte :=
  if off < 0x1000 then (windowHeader s).getD off 0
  else if off < 0x401000 then
    (match s.evt.ring[(off - 0x1000) / 64]? with
    | some e => (eventBytes e).getD ((off - 0x1000) % 64) 0
    | none => 0)
  else if 0x700000 ≤ off then
    (match s.evt.trace[(off - 0x700000) / 32]? with
    | some e => (traceBytes e).getD ((off - 0x700000) % 32) 0
    | none => 0)
  else 0

/-- Byte `off` of the dump window: of the dump that GET_DUMP has mapped, as it stood then, whatever is captured or copied since (R349). -/
def dumpWindowByte (off : Nat) (s : State) : Byte :=
  match s.host.dumpMap, s.host.dumpView with
  | some (_, _, base), some d => dumpByteAt d (base + off)
  | _, _ => 0

/-- A byte of BAR0 (R320 Table 2); RSV locations read as zero. -/
def bar0Byte (off : Nat) (s : State) : Byte :=
  if off < 0x1000 then (statusBytes s.host.page).getD off 0
  else if off < 0x11000 then
    let m := s.mailbox ((off - 0x1000) / 0x1000)
    let o := off % 0x1000
    if o < 64 then (mailboxHeader m).getD o 0 else m.payload.read (o - 64)
  else if 0x20000 ≤ off ∧ off < 0x21000 then (ringRegs s.host).getD (off - 0x20000) 0
  else if 0x100000 ≤ off ∧ off < 0x1000000 then windowByte (off - 0x100000) s
  else if 0x1000000 ≤ off ∧ off < 0x4000000 then dumpWindowByte (off - 0x1000000) s
  else 0

/-- A read of BAR0: 4 or 8 bytes, naturally aligned; any other is completed as an Unsupported Request (R320). -/
def bar0Read (off width : Nat) (s : State) : Option (List Byte) :=
  if (width ≠ 4 ∧ width ≠ 8) ∨ off % width ≠ 0 ∨ 0x4000000 ≤ off then none else some ((List.range width).map (fun i => bar0Byte (off + i) s))

/-- The pending-bit array: a bit for each vector that is held (R316, R318). -/
def pendingBits (s : State) : List Byte := leBytes 4 ((List.range 32).map (fun v => if s.host.msixHeld.contains v then 2 ^ v else 0)).sum

/-- A byte of BAR4: the MSI-X table of 32 entries, and the pending-bit array (R316). -/
def bar4Byte (off : Nat) (s : State) : Byte :=
  if off < 512 then s.host.msixTable.read off
  else if 0x2000 ≤ off then (pendingBits s).getD (off - 0x2000) 0
  else 0

/-- The setting that a clock crossing's synchroniser stands at: the stored one of the performance state, loaded as the state changes (R391). -/
def State.crossing (crossing : Nat) (s : State) : Nat := Config.crossSetting s.clk.crossCal crossing s.clk.mhz

/-- The JTAG IDCODE (R436). -/
def idcode : Nat := 1 + 2 * Config.manufacturer.toNat + 4096 * 0x4C47 + 2 ^ 28

/-- The hottest sensor, in a byte (R401, R471). -/
def State.tempMax (s : State) : Byte := tempByte ((s.clk.readings.map (·.2)).foldl max 0)

/-- The sideband's register block, 40 bytes; REC_DATA is write-only (R471 Table 6). -/
def sidebandBytes (s : State) : List Byte :=
  leBytes 4 idcode ++ leBytes 1 ((if s.dev.fenumRunning then DevState.code s.dev.state else 0) + 16 * bitsNat [s.faultN]) ++
    leBytes 1 (bitsNat s.faultCause) ++ [s.tempMax] ++ leBytes 1 0 ++ leBytes 8 s.side.timeUtc.toNat ++ leBytes 2 s.clk.powerW ++ leBytes 2 0 ++
    leBytes 1 s.side.recStatus ++ leBytes 3 0 ++ leBytes 4 s.side.recBytes ++ leBytes 4 0 ++ leBytes 4 s.side.recLength ++ leBytes 4 0

end Sys2Proof.Machine
end

