-- ==== Sys2Proof/WellFormed.lean ====
section
/-! DEFINITION. Which commands name units that the part has (R2, R89, R248, R253, R322, R384, R401, R460): tiles, weave units, fold
slots, clock regions, ports and their lanes, stacks, channels, dies, mailboxes, loaves and collective entries. -/

namespace Sys2Proof

/-- A physical tile: 8 compute dies of 144 (R2). -/
def tileOk (p : Nat) : Bool := decide (p < 1152)

/-- A logical tile (R2). -/
def logicalOk (l : Nat) : Bool := decide (l < 1024)

/-- A port of the fabric (R248). -/
def portOk (p : Nat) : Bool := decide (p < 24)

/-- A mailbox (R322). -/
def mailboxOk (mb : Nat) : Bool := decide (mb < 16)

/-- A clock region (R384). -/
def regionOk (g : Nat) : Bool := decide (g < 72)

/-- A loaf number has 25 bits (R184). -/
def loafOk (l : Nat) : Bool := decide (l < 33554432)

/-- A line of a loaf (R183). -/
def lineOk (j : Nat) : Bool := decide (j < 2048)

/-- A collective entry of an image: 0xFFFF stands for none (R29). -/
def collOk (k : Nat) : Bool := decide (k < 65535)

/-- A firing: a tile, one of its 32 units and one of 8 fold slots (R89, R112). -/
def Firing.wf (f : Firing) : Bool := decide (f.tile < 1152) && decide (f.unit < 32) && decide (f.fold < 8)

/-- A sensor (R401). -/
def Sensor.wf : Sensor → Bool
  | .tile p => tileOk p
  | .hbm s => decide (s < 16)
  | .base d => decide (d < 8)
  | .portDie i => decide (i < 4)
  | .hub => true

/-- A row of a pseudo-channel of a stack, or of a subchannel of a channel (R235, R239, R243). -/
def RowRef.wf (r : RowRef) : Bool :=
  match r.unit with
  | .hbm k => decide (k < 16) && decide (r.sub < 64)
  | .ddr c => decide (c < 8) && decide (r.sub < 2)
  | _ => false

/-- The units a test result names (R417, R422). -/
def TestResult.wf (f : TestResult) : Bool :=
  f.tiles.all tileOk && f.hbm.all (fun k => decide (k < 16)) && f.ddr.all (fun c => decide (c < 8)) && f.baseDies.all (fun d => decide (d < 8))
    && f.portDies.all (fun i => decide (i < 4)) && f.ports.all portOk && f.sensors.all tileOk && f.rows.all RowRef.wf

/-- The source of a report (R359). A source that is no tile carries its number in a field of the record and names what the part has. -/
def Source.wf : Source → Bool
  | .tile p => tileOk p
  | .port p => portOk p
  | _ => true

/-- A unit that loses memory in a compute reset (R244): a stack, or a channel. -/
def Source.isMemory : Source → Bool
  | .hbm k => decide (k < 16)
  | .ddr c => decide (c < 8)
  | _ => false

/-- Every unit a command names exists on the part. -/
def Instr.wf : Instr → Bool
  | .vin12Ready calFail => calFail.all tileOk
  | .startComplete found => found.wf
  | .thermalComparatorTrip die => decide (die < 13)
  | .sensorRead readings => readings.all (fun r => r.1.wf)
  | .dmaCompletionTimeout mb => mailboxOk mb
  | .dmaWaitTimeout mb => mailboxOk mb
  | .dmaCompletionError target => match target with
    | .command mb => mailboxOk mb
    | .record => true
  | .unknownCommand mb => mailboxOk mb
  | .identify mb => mailboxOk mb
  | .getStatus mb => mailboxOk mb
  | .setPolicy mb => mailboxOk mb
  | .loadImage mb => mailboxOk mb
  | .openJob mb => mailboxOk mb
  | .declareLoaves mb => mailboxOk mb
  | .hostFill mb => mailboxOk mb
  | .hostFillDmaComplete mb _ _ => mailboxOk mb
  | .hostDrain cmd => mailboxOk cmd.mb
  | .hostDrainComplete mb _ => mailboxOk mb
  | .startJob mb => mailboxOk mb
  | .pauseJob mb => mailboxOk mb
  | .resumeJob mb => mailboxOk mb
  | .stopJob mb => mailboxOk mb
  | .checkpointSave cmd => mailboxOk cmd.mb
  | .checkpointRestore mb => mailboxOk mb
  | .checkpointTransferComplete mb _ _ => mailboxOk mb
  | .fabricPlan mb => mailboxOk mb
  | .fabricCommit mb => mailboxOk mb
  | .windowOpen mb => mailboxOk mb
  | .windowCloseLocal mb => mailboxOk mb
  | .windowCloseProxy mb => mailboxOk mb
  | .crumbCheck mb => mailboxOk mb
  | .crumbProgramComplete tile partner _ _ reruns => tileOk tile && tileOk partner && reruns.all (fun r => tileOk r.1)
  | .requalify mb => mailboxOk mb
  | .readEvents mb => mailboxOk mb
  | .clearEventsNonce mb => mailboxOk mb
  | .clearEventsClear mb => mailboxOk mb
  | .clearSticky mb => mailboxOk mb
  | .getDump mb => mailboxOk mb
  | .resetCompute mb => mailboxOk mb
  | .computeResetComplete failTiles lostUnits => failTiles.all tileOk && lostUnits.all Source.isMemory
  | .shutdown mb => mailboxOk mb
  | .fwStage mb => mailboxOk mb
  | .fwActivate mb => mailboxOk mb
  | .fwActivateAtBoot mb => mailboxOk mb
  | .lifecycleGetNonce mb => mailboxOk mb
  | .lifecycleTransition mb => mailboxOk mb
  | .lifecycleInstallKey mb => mailboxOk mb
  | .lifecycleDebugUnlock mb => mailboxOk mb
  | .taskBegin at_ => tileOk at_.tile
  | .fillLineReturn tile _ _ _ _ => tileOk tile
  | .fillListComplete tile => tileOk tile
  | .weaveStart tile _ => tileOk tile
  | .mstream f => f.wf
  | .mstreamAcc f => f.wf
  | .fma f => f.wf
  | .mul f => f.wf
  | .add f => f.wf
  | .sub f => f.wf
  | .accum f => f.wf
  | .min f => f.wf
  | .max f => f.wf
  | .cmp f => f.wf
  | .iadd f => f.wf
  | .isub f => f.wf
  | .and f => f.wf
  | .or f => f.wf
  | .xor f => f.wf
  | .shift f => f.wf
  | .exp2 f => f.wf
  | .log2 f => f.wf
  | .rcp f => f.wf
  | .rsqrt f => f.wf
  | .rng f => f.wf
  | .cvt f => f.wf
  | .reduce f => f.wf
  | .route f => f.wf
  | .select f => f.wf
  | .filter f => f.wf
  | .compact f => f.wf
  | .count f => f.wf
  | .merge f => f.wf
  | .union f => f.wf
  | .intersect f => f.wf
  | .rowRead f _ => f.wf
  | .rowWrite f => f.wf
  | .columnRead f _ => f.wf
  | .columnWrite f => f.wf
  | .stridedRead f _ => f.wf
  | .stridedWrite f => f.wf
  | .indexedRowRead f _ => f.wf
  | .indexedRowWrite f => f.wf
  | .gather f _ => f.wf
  | .scatter f => f.wf
  | .probe f _ => f.wf
  | .append f => f.wf
  | .send f => f.wf
  | .take f _ => f.wf
  | .pull f _ => f.wf
  | .weaveHoldLimit tile => tileOk tile
  | .schedDeviation tile _ => tileOk tile
  | .weaveDrainEnd tile _ _ => tileOk tile
  | .drainTimeout tile => tileOk tile
  | .drainComplete tile => tileOk tile
  | .errorReport r => match r with
    | none => true
    | some x => x.src.wf
  | .messageRingWrite sender receiver _ => tileOk sender && tileOk receiver
  | .ringSendRetry retry => tileOk retry.sender
  | .ringArbHoldCutoff sender receiver => tileOk sender && tileOk receiver
  | .configLoad tile _ _ => tileOk tile
  | .runAheadConfigLoad ahead => tileOk ahead.tile
  | .runAheadFillIssue tile => tileOk tile
  | .tileIdle at_ => tileOk at_.tile
  | .stealReq thief victim => tileOk thief && tileOk victim.tile
  | .stealGrant thief => tileOk thief
  | .stealRefusal thief => tileOk thief
  | .directorySweep loaf _ => loafOk loaf
  | .regionSlow region => regionOk region
  | .parkedTileVerified tile => tileOk tile
  | .tileExchange logical => logicalOk logical
  | .reserveProgramComplete a b _ _ third => tileOk a && tileOk b && (match third with
    | some c => tileOk c.1
    | none => true)
  | .droopTrip region => regionOk region
  | .patrolLine _ line _ => lineOk line
  | .ddrWriteCrcError _ line _ => lineOk line
  | .hbmArbHoldCutoff stack pc => decide (stack < 16) && decide (pc < 64)
  | .portTrainingAttempt port _ => portOk port
  | .portRetryTimer port => portOk port
  | .portLossOfLock port lane => portOk port && decide (lane < 9)
  | .portIdleTimeout port => portOk port
  | .flitReceive port _ => portOk port
  | .linkControlFlit port _ _ _ _ => portOk port
  | .hello port _ => portOk port
  | .helloCert port _ => portOk port
  | .coord port _ _ _ => portOk port
  | .transitPacket port _ => portOk port
  | .portDownFlood port _ => portOk port
  | .portUpFlood port _ => portOk port
  | .fabricArbHoldCutoff port _ => portOk port
  | .e2eTimeout peer => decide (peer < 2 ^ 24)
  | .chunkTimeout coll _ _ => collOk coll
  | .collectiveStage0Start start => collOk start.coll
  | .collectiveStageComplete coll => collOk coll
  | .peerSlow coll => collOk coll
  | .loadImageDmaComplete mb _ _ => mailboxOk mb
  | .fabricPlanDmaComplete mb _ _ => mailboxOk mb
  | .fwStageDmaComplete mb _ _ => mailboxOk mb
  | .getDumpDmaComplete mb _ => mailboxOk mb
  | .requalifyTestComplete found => found.wf
  | .shutdownPhaseComplete found repairs => found.wf && repairs.all RowRef.wf
  | .fenceNotice port _ => portOk port
  | .vaux3On _ _ => true
  | .vin12AbsentTimeout => true
  | .startTests _ => true
  | .pwrOkLow => true
  | .syncInLow => true
  | .syncInEdge _ => true
  | .perstNAssert => true
  | .hotReset => true
  | .perstNRelease => true
  | .powerRemoved => true
  | .tapEnterExtest _ => true
  | .tapLeaveExtest => true
  | .vddqDdrFault => true
  | .timeUtcWrite _ => true
  | .timeUtcTick => true
  | .recLengthWrite _ => true
  | .recDataWrite _ => true
  | .recVerifyDone => true
  | .registerWrite _ _ _ => true
  | .crEntriesWrite _ => true
  | .hostLinkTrained _ _ => true
  | .completionCoalesceTimer => true
  | .mb00Scan => true
  | .slowMailboxScan => true
  | .statusPageSlowRefresh => true
  | .pauseEnterReady => true
  | .crumbCheckBegin => true
  | .shutdownTestComplete => true
  | .tickBoundary _ => true
  | .runPhaseOpen => true
  | .marginOpen => true
  | .failureBroadcast => true
  | .accessDecay => true
  | .rotation => true
  | .healthScoreUpdate => true
  | .fenumWatchdog => true
  | .fenumLockstep => true
  | .firmwareRunning _ => true
  | .dumpPersist => true
  | .eventPersist _ => true
  | .limiterInterval _ => true
  | .injectionStop => true
  | .fabricTableSwap => true
  | .injectionResume => true
  | .windowPut _ => true
  | .windowGet _ => true
  | .windowAdd _ => true
  | .windowCas _ => true
  | .reply _ => true
  | .barrier _ => true
  | .chunkData _ => true
  | .chunkAck _ => true
  | .chunkCount _ => true
  | .eventPersistComplete => true
  | .dumpPersistComplete => true
  | .doeRequest _ => true

end Sys2Proof
end

