-- ==== Sys2Proof/Safety.lean ====
section
/-! DEFINITION. What counts as a safe run: commands about units the part has, states whose byte memories are canonical and whose
records are numbered and bounded as chapter 14 says, and what no step takes back. -/

namespace Sys2Proof.Machine

/-- The units a command names are on this board: memory frames and channels of the DIMMs it carries (R184, R440). -/
def State.hasUnits (s : State) : Instr → Bool
  | .computeResetComplete _ lostUnits => lostUnits.all s.memoryUnit
  | .patrolLine frame _ _ => s.externalFrame frame
  | .ddrWriteCrcError frame _ _ => decide (0x800000 ≤ frame) && s.externalFrame frame
  | _ => true

/-- The command answers a next state, and that state has a property. -/
def Completes (c : Instr) (s : State) (P : State → Prop) : Prop := ∃ t, exec c s = .next t ∧ P t

/-- What recording a condition can change: the recorder, SEQ_LIMIT in the NOR header, the interrupts, the health counts, the trip latch
of the clocks and the conditions of the attempt in progress. -/
def OnlyRecorded (s t : State) : Prop :=
  t = { s with
    evt := t.evt
    nor := { s.nor with seqLimit := t.nor.seqLimit }
    host := { s.host with msix := t.host.msix, msixHeld := t.host.msixHeld }
    health := { s.health with corrected := t.health.corrected }
    clk := { s.clk with tripped := t.clk.tripped }
    att := { s.att with raised := t.att.raised } }

/-- Every byte memory is in its canonical form: addresses rising, no zero byte listed. -/
structure CanonicalMemory (s : State) : Prop where
  pads : ∀ x ∈ s.tiles, Memory.wf x.2.pad = true
  frames : Memory.wf s.mem.bytes = true
  payloads : ∀ x ∈ s.host.mailboxes, Memory.wf x.2.payload = true

/-- The recorder: its stores hold at most 65,536 and 524,288 records and 262,144 trace entries (R446, R451, R456); no stored number is 0
or above HEAD_SEQ, and HEAD_SEQ is within the block that SEQ_LIMIT ends (R445); one DROPPED counter for each severity (R447). -/
structure RecorderSound (s : State) : Prop where
  ring : s.evt.ring.length ≤ 65536
  area : s.nor.events.length ≤ 524288
  trace : s.evt.trace.length ≤ 262144
  ringSeq : ∀ e ∈ s.evt.ring, 1 ≤ e.seq ∧ e.seq ≤ s.evt.headSeq
  areaSeq : ∀ e ∈ s.nor.events, 1 ≤ e.seq ∧ e.seq ≤ s.nor.seqLimit
  head : s.evt.headSeq ≤ s.nor.seqLimit
  dropped : s.evt.dropped.length = 5

/-- The invariant that every step keeps. -/
structure Sound (s : State) : Prop where
  memory : CanonicalMemory s
  recorder : RecorderSound s

/-- What a state `o` has and no command takes back: the serial number in the fuses, MIN_SVN (R426, R428), what has been sent to the host
and the vectors raised, the free values used, and the waiting commands, which only a step takes. -/
structure Follows (o s : State) : Prop where
  serial : s.nor.serial = o.nor.serial
  minSvn : o.nor.minSvn ≤ s.nor.minSvn
  sent : o.host.sent <+: s.host.sent
  vectors : o.host.msix <+: s.host.msix
  free : o.freeCtr ≤ s.freeCtr
  queue : s.pending = o.pending

end Sys2Proof.Machine
end

