-- ==== Sys2Proof/Certificates/Slice0/Obligations.lean ====
section
/-! DEFINITION. The statements for the provers: 60 obligations, from the numbered rules of spec/, with the words they are written in. -/

/-! ## The lanes of vector units -/

section

namespace Sys2Proof.Certificates

open Sys2Proof.Machine

/-! ## Words for statements about the weave -/

/-- The three inputs of a firing are there, of its epoch: it takes tokens `a`, `b` and `c` and leaves the tile as `t` (R92, R122). -/
def Takes (sh : Shot) (w : Want × Want × Want) (s : State) (a b c : Token) (t : Tile) : Prop :=
  ∃ t1 t2, fetch sh sh.cfg.inA w.1 (s.tile sh.p) = .got a t1 ∧ fetch sh sh.cfg.inB w.2.1 t1 = .got b t2 ∧
    fetch sh sh.cfg.inC w.2.2 t2 = .got c t

/-- The firing `f` of a record of operation code `op` happens at `s` and takes these tokens. -/
def Fires (op : Nat) (w : Shot → Want × Want × Want) (f : Firing) (s : State) (sh : Shot) (a b c : Token) (t : Tile) : Prop :=
  f.wf = true ∧ shot? f s = some sh ∧ sh.cfg.op = op ∧ Takes sh (w sh) s a b c t

/-- The command completes a firing that produces one token on both outputs, `lat` cycles later, and writes nothing else in the tile. -/
def Produces (i : Instr) (s : State) (sh : Shot) (t : Tile) (lat : Nat) (valid last : Bool) (data : List Byte → Prop) : Prop :=
  ∃ r d, exec i s = .next (finishFiring sh r s) ∧ r.tile = t ∧ r.latency = lat ∧ r.conds = [] ∧
    r.out0 = some (d, valid, last) ∧ r.out1 = some (d, valid, last) ∧ data d

/-- Lane `l` of 16 bits of a token's data. -/
def lane (d : List Byte) (l : Nat) : Nat := (lanes16 d).getD l 0

/-- The operand value of lane `l` in the record's operand format, MODE[12:8] (R101). -/
def operandLane (sh : Shot) (k : Token) (l : Nat) : Exact := decode (bits sh.cfg.mode 0 5) (lane k.data l)

/-- The stored code of an exact value in lane `l`: rounded once into the record's format, keyed by the job seed, the tensor, draw 0, the
element index ELEM_BASE + t × TASK_STRIDE + n × ELEM_STRIDE + l modulo 2^64 and the step (R102, R165, R167). -/
def stored (sh : Shot) (l : Nat) (x : Exact) : Nat :=
  (roundSr (outFmt sh.numeric) true
    (counterHash sh.seed sh.cfg.tensor 0
      ((sh.cfg.elemBase + sh.run.task * sh.cfg.taskStride + sh.bank.fired * sh.cfg.elemStride + l) % 2 ^ 64) sh.step) x).1

/-- A token taken on B under B_HOLD becomes the held one when it is due; otherwise the held one serves (R478). -/
def heldToken (sh : Shot) (b : Token) : Token :=
  match sh.bank.held with
  | none => b
  | some h => if sh.cfg.holdFirings < sh.bank.heldServed then b else h

/-- How many firings the held token has served before this one (R478). -/
def heldIndex (sh : Shot) : Nat :=
  match sh.bank.held with
  | none => 0
  | some _ => if sh.cfg.holdFirings < sh.bank.heldServed then 0 else sh.bank.heldServed

/-- Operand b: the token on input B lane by lane, or with B_HOLD one lane of the held token in every lane (R478). -/
def bToken (sh : Shot) (b : Token) : Token := if sh.cfg.bHold then heldToken sh b else b

def bLane (sh : Shot) (b : Token) (l : Nat) : Exact :=
  if sh.cfg.bHold then operandLane sh (heldToken sh b) ((sh.cfg.holdLane + heldIndex sh * sh.cfg.holdStep) % 32)
  else operandLane sh b l

/-- A two or three operand operation on lanes: each lane of the result is the rounded value of the operation on the operands' lanes, and a
bubble operand makes the result a bubble (R94, R101, R478). -/
def LaneOperation (c : Firing → Instr) (op lat : Nat) (third : Bool) (fn : Exact → Exact → Exact → Exact) : Prop :=
  ∀ f s sh a b e t, Fires op (wantsArith third) f s sh a b e t → a.data.length = 64 → b.data.length = 64 → e.data.length = 64 →
    if a.valid && (bToken sh b).valid && (e.valid || !third) then
      Produces (c f) s sh t lat true a.last (fun d => d.length = 64 ∧
        ∀ l < 32, lane d l = stored sh l (fn (operandLane sh a l) (bLane sh b l) (operandLane sh e l)))
    else Produces (c f) s sh t lat false a.last (fun d => d = List.replicate 64 0)

/-- An operation on the lanes of one operand. -/
def LaneFunction (c : Firing → Instr) (op : Nat) (fn : Exact → Exact) : Prop :=
  ∀ f s sh a b e t, Fires op wantsOne f s sh a b e t → a.data.length = 64 →
    if a.valid then
      Produces (c f) s sh t 8 true a.last (fun d => d.length = 64 ∧ ∀ l < 32, lane d l = stored sh l (fn (operandLane sh a l)))
    else Produces (c f) s sh t 8 false a.last (fun d => d = List.replicate 64 0)

/-- An integer operation on two's complement lanes: 64 lanes of 8 bits with an INT8 target, 32 of 16 otherwise (R101). -/
def IntegerOperation (c : Firing → Instr) (op : Nat) (f8 : Record → BitVec 8 → BitVec 8 → BitVec 8)
    (f16 : Record → BitVec 16 → BitVec 16 → BitVec 16) : Prop :=
  ∀ f s sh a b e t, Fires op wantsInt f s sh a b e t → a.data.length = 64 → b.data.length = 64 →
    if a.valid && b.valid then
      Produces (c f) s sh t 1 true a.last (fun d => d.length = 64 ∧
        if sh.numeric.format = 5 then ∀ l < 64, d.getD l 0 = f8 sh.cfg (a.data.getD l 0) (b.data.getD l 0)
        else ∀ l < 32, BitVec.ofNat 16 (lane d l) = f16 sh.cfg (BitVec.ofNat 16 (lane a.data l)) (BitVec.ofNat 16 (lane b.data l)))
    else Produces (c f) s sh t 1 false a.last (fun d => d = List.replicate 64 0)

/-- SHIFT by a signed amount: left by a positive one, right by the magnitude of a negative one, with copies of the sign bit or, with
MODE[13], zeros (R479). -/
def shifted {w : Nat} (r : Record) (x y : BitVec w) : BitVec w :=
  if 0 ≤ y.toInt then x <<< y.toInt.toNat
  else if bit r.mode 5 then x >>> y.toInt.natAbs
  else x.sshiftRight y.toInt.natAbs

end Sys2Proof.Certificates

open Sys2Proof Sys2Proof.Machine Sys2Proof.Certificates

/-- FMA, MUL, ADD, SUB, MIN and MAX: each of the 32 lanes of the result is the exact operation on the operands' lanes, rounded once with the lane's own
key, with B_HOLD serving one lane of the held token; a bubble operand makes a bubble; the token comes 4 cycles later, 2 for MIN and MAX. Rests on R94, R101, R102, R165, R167, R478. -/
def Obligations.LaneArithmetic : Prop :=
  LaneOperation .fma 0x20 4 true (fun a b c => (a.mul b).add c) ∧
  LaneOperation .mul 0x21 4 false (fun a b _ => a.mul b) ∧
  LaneOperation .add 0x22 4 false (fun a b _ => a.add b) ∧
  LaneOperation .sub 0x23 4 false (fun a b _ => a.add b.neg) ∧
  LaneOperation .min 0x25 2 false (fun a b _ => minMax false a b) ∧
  LaneOperation .max 0x26 2 false (fun a b _ => minMax true a b)

/-- EXP2, LOG2, RCP and RSQRT: each lane is the function of the operand's lane, rounded once with the lane's key; a bubble makes a bubble;
the token comes 8 cycles later. Rests on R94, R101, R102, R167, R484. -/
def Obligations.LaneFunctions : Prop :=
  LaneFunction .exp2 0x2E exp2 ∧ LaneFunction .log2 0x2F log2 ∧ LaneFunction .rcp 0x30 rcp ∧ LaneFunction .rsqrt 0x31 rsqrt

/-- IADD, ISUB, AND, OR, XOR and SHIFT on two's complement lanes, 64 of 8 bits with an INT8 target and 32 of 16 bits otherwise; SHIFT goes left by a
positive amount and right by a negative one, with sign copies or zeros; a bubble makes a bubble; the token comes 1 cycle later. Rests on R94, R101, R479. -/
def Obligations.IntegerLanes : Prop :=
  IntegerOperation .iadd 0x28 (fun _ x y => x + y) (fun _ x y => x + y) ∧
  IntegerOperation .isub 0x29 (fun _ x y => x - y) (fun _ x y => x - y) ∧
  IntegerOperation .and 0x2A (fun _ x y => x &&& y) (fun _ x y => x &&& y) ∧
  IntegerOperation .or 0x2B (fun _ x y => x ||| y) (fun _ x y => x ||| y) ∧
  IntegerOperation .xor 0x2C (fun _ x y => x ^^^ y) (fun _ x y => x ^^^ y) ∧
  IntegerOperation .shift 0x2D shifted shifted

end

/-! ## Accumulators, reductions, steering and set operations -/

section

namespace Sys2Proof.Certificates

open Sys2Proof.Machine

/-- Operand values of the lanes of a token in the record's operand format (R101). -/
def operandLanes (sh : Shot) (k : Token) : List Exact := (List.range 32).map (operandLane sh k)

/-- The accumulator after a firing of ACCUM: acc + a × b in every lane, each rounded, or the lane's own a × b when it is empty; a bubble
operand is skipped (R94, R101, R479). -/
def accumulated (sh : Shot) (a b : Token) (l : Nat) : Nat :=
  let p := (operandLane sh a l).mul (bLane sh b l)
  if a.valid && (bToken sh b).valid then
    stored sh l (if sh.bank.accFull then (decode (outFmt sh.numeric) (sh.bank.acc.getD l 0).toNat).add p else p)
  else (sh.bank.acc.getD l 0).toNat

/-- The pairwise tree of REDUCE over exact values, without rounding: maximum or minimum (R101, R479). -/
def treeOf (op : Exact → Exact → Exact) (x : Nat → Exact) : Nat → Nat → Exact
  | 0, i => x i
  | n + 1, i => op (treeOf op x n (2 * i)) (treeOf op x n (2 * i + 1))

/-- The sum tree of REDUCE: node `i` of level `n + 1` is the sum of two nodes of level `n`, rounded with the key of the lane that R479 gives
it: the levels take lanes 0 to 15, 16 to 23, 24 to 27, 28 to 29 and 30. -/
def sumNode (sh : Shot) (x : Nat → Exact) : Nat → Nat → Exact
  | 0, i => x i
  | n + 1, i => decode (outFmt sh.numeric) (stored sh (32 - 32 / 2 ^ n + i) ((sumNode sh x n (2 * i)).add (sumNode sh x n (2 * i + 1))))

/-- Key width in bits of a steering record, MODE[8] (chapter 3 Table 8). -/
def keyWidth (r : Record) : Nat := if bit r.mode 0 then 32 else 16

/-- Keys in a token, the null key, and key `i` of a token's data (R103, chapter 3). -/
def keyCount (r : Record) : Nat := 512 / keyWidth r

def nullOf (r : Record) : Nat := 2 ^ keyWidth r - 1

def keyAt (r : Record) (d : List Byte) (i : Nat) : Nat := leNat d / 2 ^ (keyWidth r * i) % 2 ^ keyWidth r

/-- The keys of a token's data in order. -/
def tokenKeys (r : Record) (d : List Byte) : List Nat := (List.range (keyCount r)).map (keyAt r d)

/-- Keys packed to the low places, the rest null (Table 6). -/
def packedKeys (r : Record) (ks : List Nat) : List Nat := (ks ++ List.replicate (keyCount r) (nullOf r)).take (keyCount r)

/-- The beat and fold check of a control operation passes: BEAT of the data is BEAT of the control token plus BEAT_OFFSET plus the number of
data firings the control token has governed, modulo 16, and the FOLD of the control token is the expected one where it is checked (R124). -/
def InStep (sh : Shot) (a b : Token) : Prop :=
  a.beat % 16 = (b.beat + sh.cfg.beatOffset + sh.bank.governed) % 16 ∧ (sh.cfg.foldCheck = true → b.fold = sh.cfg.expectFold)

/-- A control operation: with the check passed the outputs are as `act` says; with it failed both outputs are bubbles and STEER_SKEW is
reported (R124, R125). -/
def ControlOperation (c : Firing → Instr) (op : Nat)
    (act : Shot → Token → Token → (List Byte × Bool × Bool) → (List Byte × Bool × Bool) → Prop) : Prop :=
  ∀ f s sh a b e t, Fires op wantsControl f s sh a b e t → a.data.length = 64 → b.data.length = 64 →
    ∃ r o0 o1, exec (c f) s = .next (finishFiring sh r s) ∧ r.tile = t ∧ r.latency = 2 ∧ r.out0 = some o0 ∧ r.out1 = some o1 ∧
      (InStep sh a b → r.conds = [] ∧ act sh a b o0 o1) ∧
      (¬ InStep sh a b → r.conds = [(.steerSkew, sh.cycle)] ∧ o0 = (List.replicate 64 0, false, a.last) ∧ o1 = o0) ∧
      r.bank.governed = (if sh.bank.governed < sh.cfg.govern then sh.bank.governed + 1 else 0)

/-- The keys of two streams in merged order, those of stream A first among equals (R104). -/
def mergedKeys (a b : List Nat) : List Nat := List.merge a b (fun x y => decide (x ≤ y))

/-- The output token `d` of a set operation on the keys that wait of its two streams: the first keys of the merge, with those `keep` does not
keep replaced by null, and nulls after the last; `keep` looks at both streams, at the key before and at the key (R104, R105, Table 6). -/
def MergedToken (r : Record) (keep : List Nat → List Nat → Option Nat → Nat → Prop) (k : Bank) (d : List Byte) : Prop :=
  let ks := mergedKeys k.keysA k.keysB
  d.length = 64 ∧ ∀ i < keyCount r,
    (∀ x, ks[i]? = some x →
      let before := if i = 0 then k.lastOut else ks[i - 1]?
      (keep k.keysA k.keysB before x → keyAt r d i = x) ∧ (¬ keep k.keysA k.keysB before x → keyAt r d i = nullOf r)) ∧
    (ks[i]? = none → keyAt r d i = nullOf r)

/-- The merge of a set operation's record `r`, `pull` being the record of its address unit: with A + B outputs not yet merged, output j is
merged once 8 + j tokens of the streams are pulled, or all A + B; the keys it takes leave both streams. Without them nothing is merged
(R104). -/
def MergeSteps (op : SetOp) (keep : List Nat → List Nat → Option Nat → Nat → Prop) : Prop :=
  ∀ (r pull : Record) (k : Bank) (n : Nat), r.setOp = op → k.keysA.Pairwise (· ≤ ·) → k.keysB.Pairwise (· ≤ ·) →
    (∀ x, x ∈ k.keysA ∨ x ∈ k.keysB → x < 2 ^ keyWidth r) →
    let all := pull.patA.accesses + pull.patB.accesses
    if k.outs.length < all ∧ min all (8 + k.outs.length) ≤ k.pulledA + k.pulledB then
      ∃ d k', MergedToken r keep k d ∧ k'.outs = k.outs ++ [d] ∧
        mergedKeys k'.keysA k'.keysB = (mergedKeys k.keysA k.keysB).drop (keyCount r) ∧
        k'.lastOut = (((mergedKeys k.keysA k.keysB).take (keyCount r)).getLast?).or k.lastOut ∧
        k' = { k with keysA := k'.keysA, keysB := k'.keysB, lastOut := k'.lastOut, outs := k'.outs } ∧
        fillOuts r pull (n + 1) k = fillOuts r pull n k'
    else fillOuts r pull (n + 1) k = k

/-- A firing of a set operation: it produces one of its A + B output tokens, valid, the last of them marked LAST, 10 cycles later: the merged
one, or, while its keys are still to come, a token that owes them. After A + B tokens it produces nothing (R104). -/
def SetFiring (c : Firing → Instr) (op : Nat) : Prop :=
  ∀ f s sh, f.wf = true → shot? f s = some sh → sh.cfg.op = op →
    let pull := sh.set.record (sh.u - 7) sh.f
    let all := pull.patA.accesses + pull.patB.accesses
    (sh.bank.produced < all → ∃ r d, exec (c f) s = .next (finishFiring sh r s) ∧ r.tile = s.tile sh.p ∧ r.latency = 10 ∧ r.conds = [] ∧
      r.bank = { sh.bank with produced := sh.bank.produced + 1 } ∧ r.out0 = some (d, true, sh.bank.produced + 1 == all) ∧ r.out1 = r.out0 ∧
      (∀ x, sh.bank.outs[sh.bank.produced]? = some x → d = x ∧ r.owed = none) ∧
      (sh.bank.outs[sh.bank.produced]? = none → r.owed = some sh.bank.produced)) ∧
    (all ≤ sh.bank.produced → exec (c f) s = .next (finishFiring sh { bank := sh.bank, tile := s.tile sh.p } s))

end Sys2Proof.Certificates

open Sys2Proof Sys2Proof.Machine Sys2Proof.Certificates

/-- ACCUM: acc + a × b in every lane, or a × b when it is empty, a bubble operand skipped; acc goes out at LAST or at the FIRE_COUNT-th firing, and the bank
then is empty; otherwise nothing goes out and the bank holds it. Rests on R94, R101, R479. -/
def Obligations.AccumulatorFirings : Prop :=
  ∀ f s sh a b e t, Fires 0x24 (wantsArith false) f s sh a b e t → a.data.length = 64 → b.data.length = 64 →
    (sh.bank.accFull = true → sh.bank.acc.length = 32) →
    ∃ r, exec (.accum f) s = .next (finishFiring sh r s) ∧ r.tile = t ∧ r.latency = 4 ∧ r.conds = [] ∧ r.out1 = r.out0 ∧
      let full := sh.bank.accFull || (a.valid && (bToken sh b).valid)
      if a.last ∨ sh.bank.accCount + 1 = sh.cfg.fireCount then
        r.bank.acc = [] ∧ r.bank.accFull = false ∧ r.bank.accCount = 0 ∧
        ∃ d, r.out0 = some (d, full, a.last) ∧ d.length = 64 ∧ ∀ l < 32, lane d l = if full then accumulated sh a b l else 0
      else r.out0 = none ∧ r.bank.accFull = full ∧ r.bank.accCount = sh.bank.accCount + 1 ∧
        (full = true → r.bank.acc.length = 32 ∧ ∀ l < 32, (r.bank.acc.getD l 0).toNat = accumulated sh a b l)

/-- CMP gives 0xFFFF or 0 in each lane by its comparison; REDUCE gives in lane 0 the sum, rounded at each level of the pairwise tree, the maximum or the
minimum of a token's lanes; RNG gives in each lane the low 16 bits of the counter hash of seed, tensor, 65535, element index and step. Rests on R101, R166, R479. -/
def Obligations.CompareReduceRandom : Prop :=
  (∀ f s sh a b e t, Fires 0x27 (wantsArith false) f s sh a b e t → a.data.length = 64 → b.data.length = 64 → sh.cfg.bHold = false →
    Produces (.cmp f) s sh t 2 (a.valid && b.valid) a.last (fun d => d.length = 64 ∧ ∀ l < 32, lane d l =
      if a.valid && b.valid && compareLanes (bits sh.cfg.mode 5 2) (operandLane sh a l) (operandLane sh b l) then 0xFFFF else 0)) ∧
  (∀ f s sh a b e t, Fires 0x34 wantsOne f s sh a b e t → a.data.length = 64 →
    Produces (.reduce f) s sh t 6 a.valid a.last (fun d => d.length = 64 ∧ (∀ l < 32, 0 < l ∨ a.valid = false → lane d l = 0) ∧
      (a.valid = true → bits sh.cfg.mode 5 2 = 0 →
        lane d 0 = stored sh 30 ((sumNode sh (operandLane sh a) 4 0).add (sumNode sh (operandLane sh a) 4 1))) ∧
      (a.valid = true → bits sh.cfg.mode 5 2 = 1 → lane d 0 = stored sh 0 (treeOf (minMax true) (operandLane sh a) 5 0)) ∧
      (a.valid = true → bits sh.cfg.mode 5 2 = 2 → lane d 0 = stored sh 0 (treeOf (minMax false) (operandLane sh a) 5 0)))) ∧
  (∀ f s sh a b e t, Fires 0x32 (fun _ => (.no, .no, .no)) f s sh a b e t →
    Produces (.rng f) s sh t 6 true false (fun d => d.length = 64 ∧ ∀ l < 32, lane d l =
      counterHash sh.seed sh.cfg.tensor 65535
        ((sh.cfg.elemBase + sh.run.task * sh.cfg.taskStride + sh.bank.fired * sh.cfg.elemStride + l) % 2 ^ 64) sh.step % 65536))

/-- ROUTE passes a token to both outputs; SELECT sends it by its control token; FILTER keeps the keys whose control lanes are not 0; COMPACT packs the keys that
are not null; COUNT counts them, of a token or, in running mode, up to LAST; a control operation whose beat or fold check fails gives bubbles and
STEER_SKEW. Rests on chapter 3 Table 6, R94, R124, R125, R481. -/
def Obligations.SteeringTokens : Prop :=
  (∀ f s sh a b e t, Fires 0x40 wantsOne f s sh a b e t → Produces (.route f) s sh t 1 a.valid a.last (fun d => d = a.data)) ∧
  ControlOperation .select 0x41 (fun sh a b o0 o1 =>
    let l := keyAt sh.cfg b.data 0
    let to0 : Prop := b.valid = true ∧ if bit sh.cfg.mode 2 then l ≠ 0 else l % 4 = 0 ∨ l % 4 = 2
    let to1 : Prop := b.valid = true ∧ bit sh.cfg.mode 2 = false ∧ (l % 4 = 1 ∨ l % 4 = 2)
    (to0 → o0 = (a.data, a.valid, a.last)) ∧ (¬ to0 → o0 = (List.replicate 64 0, false, a.last)) ∧
    (to1 → o1 = (a.data, a.valid, a.last)) ∧ (¬ to1 → o1 = (List.replicate 64 0, false, a.last))) ∧
  ControlOperation .filter 0x42 (fun sh a b o0 o1 => o1 = o0 ∧
    if a.valid && b.valid then ∃ d, o0 = (d, true, a.last) ∧ d.length = 64 ∧
      tokenKeys sh.cfg d = packedKeys sh.cfg (((List.range (keyCount sh.cfg)).filter (fun i => decide (lane b.data i ≠ 0))).map (keyAt sh.cfg a.data))
    else o0 = (List.replicate 64 0, false, a.last)) ∧
  (∀ f s sh a b e t, Fires 0x43 wantsOne f s sh a b e t → a.data.length = 64 →
    Produces (.compact f) s sh t 2 a.valid a.last (fun d => d.length = 64 ∧
      (a.valid = true → tokenKeys sh.cfg d = packedKeys sh.cfg ((tokenKeys sh.cfg a.data).filter (fun k => decide (k ≠ nullOf sh.cfg)))))) ∧
  (∀ f s sh a b e t, Fires 0x44 wantsOne f s sh a b e t → a.data.length = 64 →
    let n := if a.valid then ((tokenKeys sh.cfg a.data).filter (fun k => decide (k ≠ nullOf sh.cfg))).length else 0
    if bit sh.cfg.mode 1 then
      ∃ r, exec (.count f) s = .next (finishFiring sh r s) ∧ r.tile = t ∧ r.latency = 2 ∧ r.conds = [] ∧ r.out1 = r.out0 ∧
        if a.last then r.bank.running = 0 ∧ ∃ d, r.out0 = some (d, true, true) ∧ d.length = 64 ∧
          leNat d = (sh.bank.running + n) % 2 ^ keyWidth sh.cfg
        else r.out0 = none ∧ r.bank.running = sh.bank.running + n
    else Produces (.count f) s sh t 2 a.valid a.last (fun d => d.length = 64 ∧ leNat d = n))

/-- MERGE, UNION and INTERSECT of two sorted key streams: a firing produces one of the A + B output tokens, valid, the last of them marked LAST, 10 cycles later; its keys are
merged in order, with repeated keys, or those not in both streams, replaced by null. While its keys are still to come the token owes them, and after A + B tokens a firing produces
nothing. Rests on R104, chapter 3 Table 6. -/
def Obligations.SetOperations : Prop :=
  SetFiring .merge 0x45 ∧ SetFiring .union 0x46 ∧ SetFiring .intersect 0x47 ∧
  MergeSteps .merge (fun _ _ _ _ => True) ∧
  MergeSteps .union (fun _ _ before k => before ≠ some k) ∧
  MergeSteps .intersect (fun a b before k => before ≠ some k ∧ k ∈ a ∧ k ∈ b)

end

/-! ## Pad accesses -/

section

namespace Sys2Proof.Certificates

open Sys2Proof.Machine

/-- An access of an address unit in a mode happens at `s` and takes these tokens. -/
def Accesses (mode : Nat) (w : Shot → Want × Want × Want) (f : Firing) (s : State) (sh : Shot) (a b c : Token) (t : Tile) : Prop :=
  unitKind f.unit = .address ∧ sh.pattern.mode = mode ∧ Fires 0x60 w f s sh a b c t

/-- The line an access names: BASE_LINE + i0 × STEP0 + i1 × STEP1, access i = i1 × COUNT0 + i0 (chapter 3 Table 9). -/
def accessLine (sh : Shot) : Int :=
  (sh.pattern.baseLine : Int) + ((sh.stream.access % Nat.max 1 sh.pattern.count0 : Nat) : Int) * sh.pattern.step0
    + ((sh.stream.access / Nat.max 1 sh.pattern.count0 : Nat) : Int) * sh.pattern.step1

/-- First element of a STRIDED access: 32 × (BASE_LINE + i1 × STEP1) + 32 × i0 × STEP0 (R140). -/
def stridedStart (sh : Shot) : Int :=
  32 * ((sh.pattern.baseLine : Int) + ((sh.stream.access / Nat.max 1 sh.pattern.count0 : Nat) : Int) * sh.pattern.step1)
    + 32 * ((sh.stream.access % Nat.max 1 sh.pattern.count0 : Nat) : Int) * sh.pattern.step0

/-- Index lane `i` of an index token; a bubble, like 0xFFFF, names nothing (R141). -/
def indexLane (b : Token) (i : Nat) : Option Nat := if b.valid = false ∨ lane b.data i = 0xFFFF then none else some (lane b.data i)

/-- The cell of the data region, counted from its first, that lane `i` of an access names in each mode (R139, R140, R141). -/
def namedCell (mode : Nat) (sh : Shot) (b : Token) (i : Nat) : Option Int :=
  match mode with
  | 1 | 2 => some (32 * accessLine sh + i)
  | 3 | 4 => some ((accessLine sh / 32 * 32 + i) * 32 + accessLine sh % 32)
  | 5 | 6 => some (stridedStart sh + i * sh.pattern.step0)
  | 7 | 8 => (indexLane b 0).map (fun (o : Nat) => 32 * (accessLine sh + (o : Int)) + (i : Int))
  | _ => (indexLane b i).map (fun (o : Nat) => 32 * (sh.pattern.baseLine : Int) + (o : Int))

/-- The pad cell a lane reaches: none outside the task's data region (R130, R132, R141). -/
def reachedCell (mode : Nat) (sh : Shot) (b : Token) (i : Nat) : Option Nat :=
  match namedCell mode sh b i with
  | none => none
  | some c => if 0 ≤ c ∧ c < ((32 * (sh.task.dataTrays * 32) : Nat) : Int) then some (32 * sh.run.base + c.toNat) else none

/-- Pad cycles P of an access: 1, or 2^BUDGET for STRIDED, GATHER and SCATTER (R483, chapter 3 Table 9). -/
def padCycles (mode : Nat) (sh : Shot) : Nat := if mode ∈ [5, 6, 9, 10] then 2 ^ sh.pattern.budget else 1

/-- The cells an access reaches need more bank cycles than its budget: the largest number of distinct cells in one bank, the bank of a cell
being (line + column) mod 32 (R108, R135, R136). -/
def needsMore (mode : Nat) (sh : Shot) (b : Token) : Prop :=
  mode ∈ [5, 6, 9, 10] ∧ 2 ^ sh.pattern.budget < bankCycles ((List.range 32).filterMap (reachedCell mode sh b))

/-- A lane names a cell outside the data region through an index (R141). -/
def strays (mode : Nat) (sh : Shot) (b : Token) : Prop :=
  mode ∈ [7, 8, 9, 10] ∧ ∃ i < 32, namedCell mode sh b i ≠ none ∧ reachedCell mode sh b i = none

/-- The conditions of an access: INDEX_RANGE, BANK_BUDGET and, for a failed parity check, PAD_PARITY (R108, R141, R143). -/
def AccessConditions (mode : Nat) (sh : Shot) (b : Token) (upset : Bool) (conds : List (Cond × Nat)) : Prop :=
  ((Cond.indexRange ∈ conds.map (·.1)) ↔ strays mode sh b) ∧ ((Cond.bankBudget ∈ conds.map (·.1)) ↔ needsMore mode sh b) ∧
    ((Cond.padParity ∈ conds.map (·.1)) ↔ upset = true) ∧ ∀ c ∈ conds.map (·.1), c ∈ [Cond.indexRange, .bankBudget, .padParity]

/-- The state a read access acts on: a failed parity check draws an open value for the data first (R143; notes/assumptions/81.md). -/
def drawn (upset : Bool) (s : State) : State := if upset then { s with freeCtr := s.freeCtr + 4 } else s

/-- A read access: lane i of the token is the cell lane i reaches, zero where it reaches none; the token is valid when some lane made an
access, and carries LAST on the final access of its stream; it is produced in cycle f + 2 + P; the data of a read that fails its parity check
are open (R141, R143, R476, R483). -/
def PadRead (c : Firing → Bool → Instr) (mode : Nat) (w : Shot → Want × Want × Want) : Prop :=
  ∀ f upset s sh a b e t, Accesses mode w f s sh a b e t → b.data.length = 64 →
    ∃ r d valid, exec (c f upset) s = .next (finishFiring sh r (drawn upset s)) ∧ r.tile = t ∧ r.latency = 2 + padCycles mode sh ∧
      r.out0 = some (d, valid, sh.stream.access + 1 == sh.pattern.accesses) ∧ r.out1 = r.out0 ∧ d.length = 64 ∧
      (valid = true ↔ ∃ i < 32, reachedCell mode sh b i ≠ none) ∧
      (upset = false ∨ valid = false → ∀ i < 32, lane d i = match reachedCell mode sh b i with | some x => cellNum t.pad x | none => 0) ∧
      AccessConditions mode sh b upset r.conds

/-- A write access: every lane that reaches a cell writes it, the higher of two lanes on one cell standing; no other byte of the pad
changes; a bubble writes nothing (R94, R109, R139 to R141, R483). -/
def PadWrite (c : Firing → Instr) (mode : Nat) (w : Shot → Want × Want × Want) : Prop :=
  ∀ f s sh a b e t, CanonicalMemory s → Accesses mode w f s sh a b e t → a.data.length = 64 → b.data.length = 64 →
    ∃ r, exec (c f) s = .next (finishFiring sh r s) ∧ r.out0 = none ∧ r.out1 = none ∧
      if a.valid then
        (∀ i < 32, ∀ x, reachedCell mode sh b i = some x → (∀ j < 32, i < j → reachedCell mode sh b j ≠ some x) →
          cellNum r.tile.pad x = lane a.data i) ∧
        (∀ y, (∀ i < 32, reachedCell mode sh b i ≠ some (y / 2)) → r.tile.pad.read y = t.pad.read y) ∧
        r.tile = { t with pad := r.tile.pad, weave := { t.weave with
          writesUntil := Nat.max t.weave.writesUntil (sh.cycle + 2 + padCycles mode sh) } } ∧
        AccessConditions mode sh b false r.conds
      else r.tile = t ∧ AccessConditions mode sh b false r.conds

end Sys2Proof.Certificates

open Sys2Proof Sys2Proof.Machine Sys2Proof.Certificates

/-- ROW, COLUMN, STRIDED and INDEXED_ROW reads and GATHER: lane i of the token is the pad cell that the mode's address gives it, zero where that is outside the
data region; valid if some lane made an access; LAST on the final access; produced in cycle f + 2 + P; the data of a read that fails its parity check are open; INDEX_RANGE, BANK_BUDGET and PAD_PARITY exactly in
their cases. Rests on chapter 3 Table 7, R108, R136, R139 to R141, R143, R476, R483.
Model's choices it rests on: notes/assumptions/81.md. -/
def Obligations.PadReads : Prop :=
  PadRead .rowRead 1 wantsNone ∧ PadRead .columnRead 3 wantsNone ∧ PadRead .stridedRead 5 wantsNone ∧
  PadRead .indexedRowRead 7 wantsIndex ∧ PadRead .gather 9 wantsIndex

/-- ROW, COLUMN, STRIDED and INDEXED_ROW writes and SCATTER: every lane that reaches a cell writes it, the higher lane standing; no other byte of the pad changes; a bubble
writes nothing; the conditions come exactly in their cases. Rests on chapter 3 Table 7, R94, R108, R109, R139 to R141, R483. -/
def Obligations.PadWrites : Prop :=
  PadWrite .rowWrite 2 wantsData ∧ PadWrite .columnWrite 4 wantsData ∧ PadWrite .stridedWrite 6 wantsData ∧
  PadWrite .indexedRowWrite 8 wantsBoth ∧ PadWrite .scatter 10 wantsBoth

end

/-! ## PROBE -/

section

namespace Sys2Proof.Certificates

open Sys2Proof.Machine

/-- Key width in bytes, null key and largest s of a PROBE table (R142). -/
def tableBytes (wide : Bool) : Nat := if wide then 4 else 2

/-- Slot key and slot value of a table that starts at pad byte `at_` with a one-line header (R142). -/
def slotKey (pad : Memory) (wide : Bool) (at_ i : Nat) : Nat := pad.readLe (at_ + 64 + 2 * tableBytes wide * i) (tableBytes wide)

def slotValue (pad : Memory) (wide : Bool) (at_ i : Nat) : Nat :=
  pad.readLe (at_ + 64 + 2 * tableBytes wide * i + tableBytes wide) (tableBytes wide)

/-- The lookup of R142 from probe number `p` on, with `n` probes left. -/
def lookup (pad : Memory) (wide : Bool) (at_ sz key : Nat) : Nat → Nat → Nat
  | 0, _ => 2 ^ (8 * tableBytes wide) - 1
  | n + 1, p =>
    let h := if wide then key * 2654435761 % 2 ^ 32 / 2 ^ (32 - sz) else key * 40503 % 2 ^ 16 / 2 ^ (16 - sz)
    let slot := (h + p) % 2 ^ sz
    if slotKey pad wide at_ slot = key then slotValue pad wide at_ slot
    else if slotKey pad wide at_ slot = 2 ^ (8 * tableBytes wide) - 1 then 2 ^ (8 * tableBytes wide) - 1
    else lookup pad wide at_ sz key n (p + 1)

/-- The result of a key: null for null, otherwise what the lookup finds within MAX_PROBES (R109, R142). -/
def probed (pad : Memory) (wide : Bool) (at_ sz maxProbes key : Nat) : Nat :=
  if key = 2 ^ (8 * tableBytes wide) - 1 then key else lookup pad wide at_ sz key (maxProbes + 1) 0

/-- The header of the table a PROBE access reads: s and the key width, held since the stream's first access that reads (R142). -/
def tableHead (sh : Shot) (t : Tile) : Nat × Bool :=
  match sh.stream.probeHead with
  | some h => (h.1, decide (h.2 ≠ 0))
  | none => (cellNum t.pad (32 * (sh.run.base + sh.pattern.baseLine)), decide (cellNum t.pad (32 * (sh.run.base + sh.pattern.baseLine) + 1) ≠ 0))

/-- The table has a size it may have and lies within the data region (R142). -/
def TableFits (sh : Shot) (sz : Nat) (wide : Bool) : Prop :=
  4 ≤ sz ∧ sz ≤ (if wide then 14 else 15) ∧ sh.pattern.baseLine + (1 + (if wide then 4 else 2) * 2 ^ sz / 32) ≤ sh.task.dataTrays * 32

/-- Key `i` of `w` bytes each of a token's data. -/
def wideKey (w : Nat) (d : List Byte) (i : Nat) : Nat := leNat d / 2 ^ (8 * w * i) % 2 ^ (8 * w)

end Sys2Proof.Certificates

open Sys2Proof Sys2Proof.Machine Sys2Proof.Certificates

/-- PROBE (R142, R109, R143, R476, R483): lane by lane the value the lookup finds; a bubble for a bubble, which reads nothing, the header
included; INDEX_RANGE and a bubble for a table that is no table of the region; PAD_PARITY and open data for a failed parity check; the pad is
not written.
Model's choices it rests on: notes/assumptions/81.md. -/
def Obligations.ProbeLookups : Prop :=
  ∀ f upset s sh a b e t, Accesses 11 wantsIndex f s sh a b e t → b.data.length = 64 →
    let h := tableHead sh t
    ∃ r d valid, exec (.probe f upset) s = .next (finishFiring sh r (drawn upset s)) ∧ r.tile = t ∧ r.latency = 2 + 2 ^ sh.pattern.budget ∧
      r.out0 = some (d, valid, sh.stream.access + 1 == sh.pattern.accesses) ∧ r.out1 = r.out0 ∧ d.length = 64 ∧
      (valid = true ↔ b.valid = true ∧ TableFits sh h.1 h.2) ∧
      (valid = true → upset = false → ∀ i < 64 / tableBytes h.2, wideKey (tableBytes h.2) d i =
        probed t.pad h.2 (64 * (sh.run.base + sh.pattern.baseLine)) h.1 sh.pattern.maxProbes (wideKey (tableBytes h.2) b.data i)) ∧
      (valid = false → d = List.replicate 64 0) ∧
      (if sh.streamA then r.bank.streamA else r.bank.streamB).probeHead.isSome = (sh.stream.probeHead.isSome || b.valid) ∧
      ((Cond.indexRange ∈ r.conds.map (·.1)) ↔ b.valid = true ∧ ¬ TableFits sh h.1 h.2) ∧
      ((Cond.padParity ∈ r.conds.map (·.1)) ↔ b.valid = true ∧ upset = true)

end

/-! ## Stream accesses -/

section

namespace Sys2Proof.Certificates

open Sys2Proof.Machine

/-- The state a stream of an address unit keeps. -/
def streamOf (sh : Shot) (k : Bank) : StreamBank := if sh.streamA then k.streamA else k.streamB

/-- Non-null keys of `w` bytes of a token's data, in lane order. -/
def liveOf (w : Nat) (d : List Byte) : List Nat := ((List.range (64 / w)).map (wideKey w d)).filter (fun k => decide (k ≠ 2 ^ (8 * w) - 1))

/-- The staging lines of a message's tokens, up to the last valid one (R119). -/
def sentLines (toks : List (Nat × Bool)) : List Nat := ((toks.reverse.dropWhile (fun k => !k.2)).reverse).map (·.1)

/-- Number of an access within its message of MSG_TOKENS + 1 tokens (R118, R119). -/
def messageToken (sh : Shot) : Nat := sh.stream.access % (sh.pattern.msgTokens + 1)

/-- The message at `off` is the first of the take order that no take has begun (R148). -/
def FirstInTakeOrder (r : Ring) (off : Nat) : Prop :=
  ∃ l1 l2, r.order = l1 ++ off :: l2 ∧ (∀ o ∈ l1, o ∈ r.chosenAt) ∧ off ∉ r.chosenAt

/-- One APPEND access (R482). -/
def AppendAccess : Prop :=
  ∀ f s sh a b e t, CanonicalMemory s → Accesses 12 wantsData f s sh a b e t → a.data.length = 64 →
    let w := if sh.pattern.key32 then 4 else 2
    let ks := liveOf w a.data
    let off := sh.stream.offset
    let start := 64 * (sh.run.base + sh.pattern.baseLine) + 2 * off
    ∃ r, exec (.append f) s = .next (finishFiring sh r s) ∧ r.out0 = none ∧ r.out1 = none ∧
      (a.valid = false → r.tile = t ∧ r.conds = [] ∧ (streamOf sh r.bank).offset = off) ∧
      (a.valid = true → 32 * sh.pattern.baseLine + off + w / 2 * ks.length ≤ 32 * (sh.task.dataTrays * 32) →
        r.conds = [] ∧ (streamOf sh r.bank).offset = off + w / 2 * ks.length ∧
        (∀ i < ks.length, r.tile.pad.readLe (start + w * i) w = ks.getD i 0) ∧
        ∀ y, y < start ∨ start + w * ks.length ≤ y → r.tile.pad.read y = t.pad.read y) ∧
      (a.valid = true → ks ≠ [] → 32 * (sh.task.dataTrays * 32) < 32 * sh.pattern.baseLine + off + w / 2 * ks.length →
        Cond.indexRange ∈ r.conds.map (·.1) ∧
        ∀ y, y < start ∨ 64 * (sh.run.base + sh.task.dataTrays * 32) ≤ y → r.tile.pad.read y = t.pad.read y)

/-- One SEND access: a valid token is written to its staging line, a bubble leaves the line; at the last of its tokens the message is ready to go
with the lines of its tokens up to the last valid one (R119, R152). -/
def SendAccess : Prop :=
  ∀ f s sh a b e t, CanonicalMemory s → Accesses 13 wantsSend f s sh a b e t → a.data.length = 64 →
    let st := sh.stream
    let first := messageToken sh = 0
    let last := messageToken sh = sh.pattern.msgTokens
    let dyn := if sh.pattern.destDyn ∧ b.valid = true then lane b.data 0 else 0
    let dest := if first then (sh.pattern.destTask + dyn) % 2 ^ 24 else st.sendDest
    let toks := (if first then [] else st.sendLines) ++ [(((sh.run.base : Int) + accessLine sh).toNat, a.valid)]
    ∃ r, exec (.send f) s = .next (finishFiring sh r s) ∧ r.out0 = none ∧ r.out1 = none ∧ r.conds = [] ∧
      (a.valid = false → r.tile.pad = t.pad ∧ r.tile.weave = t.weave) ∧
      (a.valid = true → r.tile.weave = { t.weave with writesUntil := Nat.max t.weave.writesUntil (sh.cycle + 3) } ∧
        (∀ i < 32, ∀ x, reachedCell 1 sh b i = some x → cellNum r.tile.pad x = lane a.data i) ∧
        ∀ y, (∀ i < 32, reachedCell 1 sh b i ≠ some (y / 2)) → r.tile.pad.read y = t.pad.read y) ∧
      r.tile.rings = t.rings ∧ (streamOf sh r.bank).sendDest = dest ∧
      (¬ last → (streamOf sh r.bank).sendLines = toks ∧ r.tile.current = t.current) ∧
      (last → (streamOf sh r.bank).sendLines = [] ∧
        r.tile.current = t.current.map (fun run => { run with messages := run.messages ++
          [{ destTask := dest, queue := sh.pattern.queue,
             seq := (run.messages.filter (fun m => m.destTask == dest && m.queue == sh.pattern.queue)).length,
             lines := sentLines toks }] }))

/-- One TAKE access: the tokens of the first message of the take order that no take has begun; after a failed parity check their data are open
(R118, R143, R148). -/
def TakeAccess : Prop :=
  ∀ f upset s sh a b e t, Accesses 14 wantsNone f s sh a b e t →
    let r0 := t.ring sh.pattern.queue
    let k := messageToken sh
    let limit := 64 * (sh.pattern.msgTokens + 1)
    ∃ r d valid, exec (.take f upset) s = .next (finishFiring sh r (drawn upset s)) ∧ r.latency = 3 ∧ r.tile.pad = t.pad ∧
      r.out0 = some (d, valid, sh.stream.access + 1 == sh.pattern.accesses) ∧ r.out1 = r.out0 ∧ d.length = 64 ∧
      (∀ off, (if k = 0 then FirstInTakeOrder r0 off else sh.stream.takeAt = some off) →
        let n := Nat.min 64 (Nat.min (ringHeader t.pad r0 off).len limit - 64 * k)
        (valid = true ↔ 0 < n) ∧
        (upset = false → d.take n = t.pad.readBytes (16 * (r0.base + off) + 16 + 64 * k) n ∧ d.drop n = List.replicate (64 - n) 0) ∧
        ((Cond.msgOversize ∈ r.conds.map (·.1)) ↔ k = 0 ∧ limit < (ringHeader t.pad r0 off).len) ∧
        (k = sh.pattern.msgTokens → sh.pattern.queue < t.rings.length →
          (r.tile.ring sh.pattern.queue).msgs = r0.msgs - 1 ∧ (r.tile.ring sh.pattern.queue).taken = r0.taken + 1)) ∧
      ((Cond.padParity ∈ r.conds.map (·.1)) ↔ upset = true)

/-- A token that stands for an output of a set operation whose keys are still to come takes them once they are merged, two cycles over the
pull link after the pull of cycle `c` at the earliest; every other token stays (R90 Table 2, R104). -/
def OwedAreFilled : Prop :=
  ∀ u f c outs (x : InFlight),
    (∀ w d, x.owed = some w → w.unit = u → w.fold = f → outs[w.number]? = some d →
      fillOwed u f c outs x = { x with avail := Nat.max x.avail (c + 2 + w.latency), token := { x.token with data := d }, owed := none }) ∧
    ((∀ w d, x.owed = some w → w.unit = u → w.fold = f → outs[w.number]? ≠ some d) → fillOwed u f c outs x = x)

/-- One PULL access: four tokens of each stream first, then the stream with fewer unconsumed keys, stream A among equals (R104; the model's
choice among equals, which no output shows). The keys go to the bank of the paired steering unit, which merges the outputs they allow, and the
tokens that stand for those outputs get them. A key below its predecessor raises STREAM_ORDER (R106); after a failed parity check the keys are
open (R143). -/
def PullAccess : Prop :=
  ∀ f upset s sh a b e t, Accesses 15 wantsNone f s sh a b e t →
    let k := look {} (sh.u + 7, sh.f) t.banks
    let nA := sh.cfg.patA.accesses
    let nB := sh.cfg.patB.accesses
    let fromA : Bool := decide (k.pulledA < Nat.min 4 nA) || (!decide (k.pulledB < Nat.min 4 nB) && decide (k.pulledA < nA) &&
      (decide (nB ≤ k.pulledB) || decide (k.keysA.length ≤ k.keysB.length)))
    let p := if fromA then sh.cfg.patA else sh.cfg.patB
    let i := if fromA then k.pulledA else k.pulledB
    let line : Int := (p.baseLine : Int) + ((i % Nat.max 1 p.count0 : Nat) : Int) * p.step0 + ((i / Nat.max 1 p.count0 : Nat) : Int) * p.step1
    let su := sh.set.record (sh.u + 7) sh.f
    let w := if bit su.mode 0 then 4 else 2
    0 ≤ line → line < sh.task.dataTrays * 32 →
    let keys := (List.range (64 / w)).map (wideKey w (t.pad.readBytes (64 * (sh.run.base + line.toNat)) 64))
    let k' := fillOuts su sh.cfg 8 (if fromA then { k with keysA := k.keysA ++ keys, pulledA := k.pulledA + 1, lastA := keys.getLast? }
      else { k with keysB := k.keysB ++ keys, pulledB := k.pulledB + 1, lastB := keys.getLast? })
    ∃ r, exec (.pull f upset) s = .next (finishFiring sh r (drawn upset s)) ∧ r.out0 = none ∧ r.out1 = none ∧ r.bank = sh.bank ∧
      r.tile = { t with banks := r.tile.banks, channels := r.tile.channels } ∧
      (∀ q, q ≠ (sh.u + 7, sh.f) → look {} q r.tile.banks = look {} q t.banks) ∧
      (upset = false → look {} (sh.u + 7, sh.f) r.tile.banks = fillOwn k' ∧
        r.tile.channels = t.channels.map (fun q => (q.1, q.2.map (fillOwed (sh.u + 7) sh.f sh.cycle k'.outs))) ∧
        ((Cond.streamOrder ∈ r.conds.map (·.1)) ↔ ¬ ((if fromA then k.lastA else k.lastB).toList ++ keys).Pairwise (· ≤ ·))) ∧
      ((Cond.padParity ∈ r.conds.map (·.1)) ↔ upset = true)

end Sys2Proof.Certificates

open Sys2Proof Sys2Proof.Machine Sys2Proof.Certificates

/-- APPEND writes the keys of a token that are not null behind those before, and reports INDEX_RANGE past the region. SEND writes each valid token to its staging line and makes the
message ready to go at the last of its tokens. TAKE answers the next tokens of the first message in the take order that no take has begun, passes it at its last token, and reports
MSG_OVERSIZE. PULL takes a token of keys of one stream to its steering unit, which merges what it can; the tokens that owe those outputs get them two cycles over the pull link; a key
below the one before is STREAM_ORDER. Data of a read that fails its parity check are open. Rests on R90, R104, R106, R118, R119, R143, R148, R482.
Model's choices it rests on: notes/assumptions/32.md, notes/assumptions/81.md. -/
def Obligations.StreamAccesses : Prop := AppendAccess ∧ SendAccess ∧ TakeAccess ∧ PullAccess ∧ OwedAreFilled

end

/-! ## Conversions and matrix streams -/

section

namespace Sys2Proof.Certificates

open Sys2Proof.Machine

/-- Elements of a format in a 64-byte token: 32 of 16 bits, 64 of 8 or 6 bits, 128 of FP4 (R480). -/
def perTokenOf (f : Nat) : Nat := 512 / (fmtOf f).bits

/-- A code in lane `l` of a CVT firing: rounded once into the tensor's own FORMAT, keyed as every weave rounding (R102, R167, R170). -/
def convertedTo (sh : Shot) (l : Nat) (x : Exact) : Nat :=
  (roundSr sh.numeric.format true
    (counterHash sh.seed sh.cfg.tensor 0
      ((sh.cfg.elemBase + sh.run.task * sh.cfg.taskStride + sh.bank.fired * sh.cfg.elemStride + l) % 2 ^ 64) sh.step) x).1

/-- CVT takes a scale token on B: its source is tray-scaled or MX, or its target is tray-scaled (R170). -/
def scaledConversion (sh : Shot) : Bool := isTray (bits sh.cfg.mode 0 5) || isMx (bits sh.cfg.mode 0 5) || isTray sh.numeric.format

/-- The exact value that lane `l` of part `j` of a source token converts: the element's value, by its source scale, by the target's scale
(R160, R161, R170). -/
def converted (sh : Shot) (a b : Token) (j l : Nat) : Exact :=
  let sf := bits sh.cfg.mode 0 5
  let x := decode sf ((codesOf sf a.data).getD (32 * j + l) 0)
  let x := if isTray sf then x.scale (-(scaleExp (lane b.data 0))) else if isMx sf then mxScale (b.data.getD j 0).toNat x else x
  if isTray sh.numeric.format then x.scale (scaleExp (lane b.data 16)) else x

/-- The first full shadow panel, and later each SWAP_EVERY-th stream firing after the first activation, activates the shadow panel (R100). -/
def activates (sh : Shot) : Prop :=
  sh.cfg.panelTokens ≠ 0 ∧ sh.cfg.panelTokens ≤ sh.bank.shadow.length ∧
    match sh.bank.sinceSwap with
    | none => True
    | some n => sh.cfg.swapEvery ≠ 0 ∧ n % sh.cfg.swapEvery = 0

/-- The firing takes a panel token from input B: IN_B has a source, the shadow panel is not full after any activation, and with SWAP_EVERY 0
none after the first activation (R100). -/
def loads (sh : Shot) : Prop :=
  sh.cfg.inB ≠ 0 ∧ (activates sh ∧ 0 < sh.cfg.panelTokens ∨ ¬ activates sh ∧ sh.bank.shadow.length < sh.cfg.panelTokens) ∧
    ¬ (sh.cfg.swapEvery = 0 ∧ (sh.bank.sinceSwap ≠ none ∨ activates sh))

/-- Position of the firing in its chain, and whether it ends it: n mod CHAIN_LEN (R96, R97). -/
def chainPlace (sh : Shot) : Nat := sh.bank.fired % Nat.max 1 sh.cfg.chainLen

def chainEnds (sh : Shot) : Prop := chainPlace sh + 1 = Nat.max 1 sh.cfg.chainLen

/-- The side token of the chain: taken at its first firing, none when IN_C is 0 or it is a bubble (R99). -/
def sideToken (sh : Shot) (c : Token) : Option Token :=
  if chainPlace sh = 0 then (if sh.cfg.inC = 0 ∨ c.valid = false then none else some c)
  else match sh.bank.side with
    | some k => if k.valid then some k else none
    | none => none

/-- Dot products of one firing: 4 for each vector of 32 elements (R96, chapter 3 Table 4). -/
def chainCount (sh : Shot) : Nat := 4 * (perTokenOf (bits sh.cfg.mode 0 5) / 32)

/-- What the chains hold before the firing: at a chain's start no term, or the side token's accumulator values for MSTREAM_ACC (R97, R99). -/
def chainsBefore (acc : Bool) (sh : Shot) (c : Token) : List (Option Exact) :=
  if chainPlace sh = 0 then
    match acc, sideToken sh c with
    | true, some k => (List.range (chainCount sh)).map (fun i => some (decode (outFmt sh.numeric) (lane k.data i)))
    | _, _ => List.replicate (chainCount sh) none
  else sh.bank.chain

/-- What a stream token adds to chain 4v + r: the exact dot product of its vector v with row r of the active panel's chunk, the
MX block scales applied (R96 to R99, R161, R169). -/
def chainTerm (sh : Shot) (panel : List Token) (a c : Token) (v r : Nat) : Option Exact :=
  let f := bits sh.cfg.mode 0 5
  let n := perTokenOf f / 32
  let xs := (((codesOf f a.data).map (decode f)).drop (32 * v)).take 32
  let xs := if isMx f then
      match sideToken sh c with
      | some k => xs.map (mxScale (k.data.getD (32 + chainPlace sh * n + v) 127).toNat)
      | none => xs
    else xs
  dot xs (panelRow (panelValues f sh.cfg.panelTokens panel) (chainPlace sh) r)

/-- The power of two that the tray scales of stream and panel put on the exact value of a chain before its rounding (R99, R160). -/
def trayScale (sh : Shot) (c : Token) : Int :=
  if isTray (bits sh.cfg.mode 0 5) then
    match sideToken sh c with
    | some d => -(scaleExp ((lanes16 d.data).getD 16 0x3E00) + scaleExp ((lanes16 d.data).getD 17 0x3E00))
    | none => 0
  else 0

/-- A chain with a further term. -/
def withTerm (c t : Option Exact) : Option Exact :=
  match t with
  | none => c
  | some x => match c with
    | none => some x
    | some y => some (y.add x)

/-- A stream firing (R96 to R100, R169, R476): the panels, the chains, and at a chain's end the rounding, the packing and the token. -/
def StreamFiring (acc : Bool) (i : Firing → Instr) (op : Nat) : Prop :=
  ∀ f s sh a b c t, Fires op wantsMatrix f s sh a b c t → a.data.length = 64 →
    (c.data.length = 64) → (chainPlace sh ≠ 0 → sh.bank.chain.length = chainCount sh) →
    ∃ r, exec (i f) s = .next (finishFiring sh r s) ∧ r.tile = t ∧ r.latency = 12 ∧ r.conds = [] ∧ r.out1 = r.out0 ∧
      (activates sh → r.bank.active = sh.bank.shadow) ∧ (¬ activates sh → r.bank.active = sh.bank.active) ∧
      (loads sh → r.bank.shadow.getLast? = some b) ∧ (¬ loads sh → ¬ activates sh → r.bank.shadow = sh.bank.shadow) ∧
      ∃ chains : List (Option Exact), chains.length = chainCount sh ∧
        (∀ v k, v < perTokenOf (bits sh.cfg.mode 0 5) / 32 → k < 4 →
          chains[4 * v + k]? = if a.valid then
              (chainsBefore acc sh c)[4 * v + k]?.map (fun x => withTerm x (chainTerm sh r.bank.active a c v k))
            else (chainsBefore acc sh c)[4 * v + k]?) ∧
        (¬ chainEnds sh → r.out0 = none ∧ r.bank.chain = chains ∧ r.bank.packed = sh.bank.packed) ∧
        (chainEnds sh → ∃ vals : List Nat, vals.length = chainCount sh ∧
          (∀ q < chainCount sh, vals.getD q 0 = (roundSr (outFmt sh.numeric) true (counterHash sh.seed sh.cfg.tensor 0
            ((sh.cfg.elemBase + sh.run.task * sh.cfg.taskStride + sh.bank.produced * sh.cfg.elemStride + (sh.bank.packed.length + q)) % 2 ^ 64)
            sh.step) (((chains.getD q none).getD (.fin false 0 0)).scale (trayScale sh c))).1) ∧
          (sh.bank.packed.length + chainCount sh < 32 →
            r.out0 = none ∧ r.bank.packed = sh.bank.packed ++ vals.map (BitVec.ofNat 16) ∧ r.bank.produced = sh.bank.produced) ∧
          (32 ≤ sh.bank.packed.length + chainCount sh → r.bank.packed = [] ∧ r.bank.produced = sh.bank.produced + 1 ∧
            ∃ d valid, r.out0 = some (d, valid, a.last) ∧ d = bytes16 (sh.bank.packed.map (·.toNat) ++ vals)))

end Sys2Proof.Certificates

open Sys2Proof Sys2Proof.Machine Sys2Proof.Certificates

/-- CVT (R101, R170, R480) of a source and a target that are not RAW: 32 elements a firing, the earlier ones in the lower bytes; a token when
it is full, or at the last part of a source token marked LAST, with the bytes not filled zero; a bubble among its operands makes it a bubble.
Model's choices it rests on: notes/assumptions/41.md. -/
def Obligations.Conversions : Prop :=
  ∀ f s sh a b e t, Fires 0x33 wantsCvt f s sh a b e t → a.data.length = 64 → (fmtOf (bits sh.cfg.mode 0 5)).kind ≠ .raw →
    sh.numeric.format ∈ List.range 11 → sh.numeric.format ≠ 0 →
    let parts := perTokenOf (bits sh.cfg.mode 0 5) / 32
    let j := sh.bank.fired % parts
    let valid := a.valid && (b.valid || !scaledConversion sh)
    let codes := (List.range 32).map (fun l => if valid then convertedTo sh l (converted sh a b j l) else 0)
    let part := sh.bank.cvtPart ++ codes
    let ok := (sh.bank.cvtPart.isEmpty || sh.bank.cvtValid) && valid
    ∃ r, exec (.cvt f) s = .next (finishFiring sh r s) ∧ r.tile = t ∧ r.latency = 3 ∧ r.conds = [] ∧ r.out1 = r.out0 ∧
      if perTokenOf sh.numeric.format ≤ part.length ∨ a.last = true ∧ j + 1 = parts then
        r.bank.cvtPart = [] ∧ r.bank.cvtValid = false ∧
        r.out0 = some (if ok then (bytesOf sh.numeric.format part ++ List.replicate 64 0).take 64 else List.replicate 64 0, ok, a.last)
      else r.out0 = none ∧ r.bank.cvtPart = part ∧ r.bank.cvtValid = ok

/-- MSTREAM and MSTREAM_ACC: the shadow panel is activated and loaded as PANEL_TOKENS and SWAP_EVERY say; each chain takes the exact dot product of its vector with its row
of the active panel, a bubble counting as zeros; at a chain's end its exact value, scaled by the tray scales, is rounded once with the key of its place and packed; 32 of them make a token, 12 cycles later. Rests on R96 to R100, R160, R161, R169, R476.
Model's choices it rests on: notes/assumptions/73.md. -/
def Obligations.MatrixStreams : Prop := StreamFiring false .mstream 0x10 ∧ StreamFiring true .mstreamAcc 0x11

end

/-! ## Firings, their frame, and numbers -/

section

namespace Sys2Proof.Certificates

open Sys2Proof.Machine

/-- Every command of the weave that names a firing. -/
def weaveCommands (f : Firing) (upset : Bool) : List Instr :=
  [.mstream f, .mstreamAcc f, .fma f, .mul f, .add f, .sub f, .accum f, .min f, .max f, .cmp f, .iadd f, .isub f, .and f, .or f, .xor f,
   .shift f, .exp2 f, .log2 f, .rcp f, .rsqrt f, .rng f, .cvt f, .reduce f, .route f, .select f, .filter f, .compact f, .count f, .merge f,
   .union f, .intersect f, .rowRead f upset, .rowWrite f, .columnRead f upset, .columnWrite f, .stridedRead f upset, .stridedWrite f,
   .indexedRowRead f upset, .indexedRowWrite f, .gather f upset, .scatter f, .probe f upset, .append f, .send f, .take f upset, .pull f upset]

/-- What a weave command may change: the tile it names, the reports on their way to the hub, and the attempt's numerics counts. -/
def OnlyTheTile (p : Nat) (s t : State) : Prop :=
  (∀ q, q ≠ p → t.tile q = s.tile q) ∧
  t = { s with tiles := t.tiles, job := t.job, att := { s.att with reports := t.att.reports } } ∧
  s.att.reports <+: t.att.reports ∧
  ∃ c : Job → List (Nat × TensorCounters), t.job = s.job.map (fun j => { j with attemptCounts := c j })

/-- The token a firing places on a destination: BEAT is its production cycle modulo 16, FOLD its fold slot, EPOCH the configuration epoch
(R93, R95). -/
def placed (sh : Shot) (latency : Nat) (o : List Byte × Bool × Bool) : Token :=
  { data := o.1, beat := (sh.cycle + latency) % 16, fold := sh.f, epoch := sh.epoch, valid := o.2.1, last := o.2.2 }

/-- The queue a destination code leads to, and the channel's latency: that of a neighbour link or of the pull link, or of an express channel at
the unit that takes its next token (R89, R90; notes/assumptions/71.md). -/
def leadsTo (sh : Shot) (t : Tile) (code : Nat) : Option (Channel × Nat) :=
  match expressWire sh.u code with
  | some w => some (.express w (t.takerOf sh.set w), 2)
  | none => outChannel sh.u code

/-- Two queues of one channel: an express channel has one at each unit that takes from it. -/
def sameChannel (a b : Channel) : Prop := a = b ∨ ∃ w u v, a = .express w u ∧ b = .express w v

/-- The channel of a queue carries a token that arrives in this cycle (R90, R91). -/
def carries (ch : Channel) (avail : Nat) (chs : List (Channel × List InFlight)) : Prop :=
  ∃ q ∈ chs, sameChannel q.1 ch ∧ ∃ x ∈ q.2, x.avail = avail

/-- A list of queues with one entry for each queue, its tokens in order of arrival, no two in one cycle (R90). -/
def InOrder (chs : List (Channel × List InFlight)) : Prop :=
  (chs.map (·.1)).Nodup ∧ ∀ q ∈ chs, q.2.Pairwise (fun x y => x.avail < y.avail)

/-- Where an output of a firing goes. `code` is its destination code, `o` what the firing places on it, and the other output goes elsewhere.
Alone in its channel in its cycle the token stands in the queue, to be consumed from its arrival on; with another token there neither is
delivered; code 9 leads to the unit's own state bank (R90 to R93, R95, R104). -/
def OutputGoes (sh : Shot) (r : Fired) (t : Tile) (code : Nat) (o : List Byte × Bool × Bool) : Prop :=
  (∀ ch lat, leadsTo sh r.tile code = some (ch, lat) →
    let av := sh.cycle + r.latency + lat
    (¬ carries ch av r.tile.channels → ∃ x ∈ look [] ch t.channels, x.avail = av ∧ x.token = placed sh r.latency o ∧ x.spoilt = false ∧
      x.owed = r.owed.map (fun n => { unit := sh.u, fold := sh.f, number := n, latency := lat })) ∧
    (carries ch av r.tile.channels → InOrder r.tile.channels → ∀ ch', sameChannel ch' ch →
      look [] ch' t.channels = (look [] ch' r.tile.channels).map (fun x => if x.avail = av then { x with spoilt := true } else x))) ∧
  (code = 9 → (look {} (sh.u, sh.f) t.banks).own = some (placed sh r.latency o) ∧ (look {} (sh.u, sh.f) t.banks).ownOwed = r.owed)

/-- The rows of matrix, vector and steering units that take tokens, with their operation codes and the inputs they take. -/
def tokenRows : List ((Firing → Instr) × Nat × (Shot → Want × Want × Want)) :=
  [(.mstream, 0x10, wantsMatrix), (.mstreamAcc, 0x11, wantsMatrix), (.fma, 0x20, wantsArith true), (.mul, 0x21, wantsArith false),
   (.add, 0x22, wantsArith false), (.sub, 0x23, wantsArith false), (.accum, 0x24, wantsArith false), (.min, 0x25, wantsArith false),
   (.max, 0x26, wantsArith false), (.cmp, 0x27, wantsArith false), (.iadd, 0x28, wantsInt), (.isub, 0x29, wantsInt), (.and, 0x2A, wantsInt),
   (.or, 0x2B, wantsInt), (.xor, 0x2C, wantsInt), (.shift, 0x2D, wantsInt), (.exp2, 0x2E, wantsOne), (.log2, 0x2F, wantsOne),
   (.rcp, 0x30, wantsOne), (.rsqrt, 0x31, wantsOne), (.cvt, 0x33, wantsCvt), (.reduce, 0x34, wantsOne), (.route, 0x40, wantsOne),
   (.select, 0x41, wantsControl), (.filter, 0x42, wantsControl), (.compact, 0x43, wantsOne), (.count, 0x44, wantsOne)]

end Sys2Proof.Certificates

open Sys2Proof Sys2Proof.Machine Sys2Proof.Certificates

/-- A firing that completes (R90 to R93, R95, R108, R113, R125, R181): the other tiles stay, its record has made one firing more, an access has
passed its slot and keeps its stream busy for its cycles, each output token goes where its destination leads, its conditions travel to the
hub, and its saturations and NaNs are counted for its tensor.
Model's choices it rests on: notes/assumptions/71.md, notes/assumptions/73.md. -/
def Obligations.FiringCompletes : Prop :=
  ∀ (sh : Shot) (r : Fired) (s : State), let t := finishFiring sh r s
    (∀ q, q ≠ sh.p → t.tile q = s.tile q) ∧
    t.tile sh.p = { r.tile with banks := (t.tile sh.p).banks, weave := (t.tile sh.p).weave, channels := (t.tile sh.p).channels } ∧
    (look {} (sh.u, sh.f) (t.tile sh.p).banks).fired = sh.bank.fired + 1 ∧
    (sh.cfg.op = 0x60 →
      (streamOf sh (look {} (sh.u, sh.f) (t.tile sh.p).banks)).access = (streamOf sh r.bank).access ∧
      (streamOf sh (look {} (sh.u, sh.f) (t.tile sh.p).banks)).passed = sh.ordinal + 1 ∧
      (streamOf sh (look {} (sh.u, sh.f) (t.tile sh.p).banks)).busyUntil =
        sh.sched + if sh.pattern.mode ∈ [5, 6, 9, 10, 11] then 2 ^ sh.pattern.budget else 1) ∧
    (t.tile sh.p).weave.holding = 0 ∧ (t.tile sh.p).weave.cycle = Nat.max r.tile.weave.cycle (sh.sched + 1) ∧
    (∀ o, r.out0 = some o → (r.out1 = none ∨ sh.cfg.out1 ≠ sh.cfg.out0) → OutputGoes sh r (t.tile sh.p) sh.cfg.out0 o) ∧
    (∀ o, r.out1 = some o → (r.out0 = none ∨ sh.cfg.out0 ≠ sh.cfg.out1) → OutputGoes sh r (t.tile sh.p) sh.cfg.out1 o) ∧
    t = { s with tiles := t.tiles, job := t.job, att := { s.att with
      reports := s.att.reports ++ r.conds.map (fun c => taskRaise c.1 sh.p sh.run.task c.2 s) } } ∧
    ∀ j, s.job = some j → ∃ c, t.job = some { j with attemptCounts := c } ∧
      (look {} sh.cfg.tensor c).sat = (look {} sh.cfg.tensor j.attemptCounts).sat + r.sat ∧
      (look {} sh.cfg.tensor c).nan = (look {} sh.cfg.tensor j.attemptCounts).nan + r.nan ∧
      ∀ k, k ≠ sh.cfg.tensor → look {} k c = look {} k j.attemptCounts

/-- Frame of every weave command: nothing but its tile, the reports and the attempt's counts, and an open value drawn by a read whose parity
check fails. Rests on R88, R92, R143, R181. -/
def Obligations.WeaveFrame : Prop :=
  ∀ f upset s t, ∀ i ∈ weaveCommands f upset, exec i s = .next t →
    ∃ n, (upset = false → n = 0) ∧ OnlyTheTile f.tile { s with freeCtr := s.freeCtr + n } t

/-- Without an input that is due the weave holds: nothing fires and no token is consumed, and the cycle counter runs on (R116). A token of an
older configuration is dropped and noted, and the weave holds for the cycle (R122). A firing whose turn has not come, or that another unit of
its cycle holds for want of an input, does not take place. Rests on R112, R116. -/
def Obligations.HoldAndStaleToken : Prop :=
  (∀ row ∈ tokenRows, ∀ f s, f.wf = true → shot? f s = none → exec (row.1 f) s = .next s) ∧
  ∀ row ∈ tokenRows, ∀ f s sh, f.wf = true → shot? f s = some sh → sh.cfg.op = row.2.1 →
    (∀ t', fetch sh sh.cfg.inA (row.2.2 sh).1 (s.tile sh.p) = .absent t' → ∃ t, exec (row.1 f) s = .next t ∧
      t.tile sh.p = { s.tile sh.p with weave := { t'.weave with held := t'.weave.held + 1, holding := t'.weave.holding + 1 } } ∧
      OnlyTheTile sh.p s t ∧ t.att.reports = s.att.reports) ∧
    (∀ t', fetch sh sh.cfg.inA (row.2.2 sh).1 (s.tile sh.p) = .stale t' → ∃ t, exec (row.1 f) s = .next t ∧
      t.tile sh.p = { t' with weave := { t'.weave with held := t'.weave.held + 1, holding := t'.weave.holding + 1 } } ∧
      OnlyTheTile sh.p s t ∧ ∃ x, t.att.reports = s.att.reports ++ [x] ∧ x.cond = .staleToken ∧ x.src = .tile sh.p) ∧
    (∀ a t1 t', fetch sh sh.cfg.inA (row.2.2 sh).1 (s.tile sh.p) = .got a t1 → fetch sh sh.cfg.inB (row.2.2 sh).2.1 t1 = .absent t' →
      ∃ t, exec (row.1 f) s = .next t ∧
      t.tile sh.p = { s.tile sh.p with weave := { (s.tile sh.p).weave with held := (s.tile sh.p).weave.held + 1, holding := (s.tile sh.p).weave.holding + 1 } } ∧
      OnlyTheTile sh.p s t ∧ t.att.reports = s.att.reports) ∧
    (∀ a b t1 t2 t', fetch sh sh.cfg.inA (row.2.2 sh).1 (s.tile sh.p) = .got a t1 → fetch sh sh.cfg.inB (row.2.2 sh).2.1 t1 = .got b t2 →
      fetch sh sh.cfg.inC (row.2.2 sh).2.2 t2 = .absent t' → ∃ t, exec (row.1 f) s = .next t ∧
      t.tile sh.p = { s.tile sh.p with weave := { (s.tile sh.p).weave with held := (s.tile sh.p).weave.held + 1, holding := (s.tile sh.p).weave.holding + 1 } } ∧
      OnlyTheTile sh.p s t ∧ t.att.reports = s.att.reports)

/-- A value a format holds is stored as its own code, whatever the random bits (R167: where x = a the result is a). Codes of the formats 1 to
16; of MXINT8, which stays symmetric, not −128 (R159); no NaN and no infinity. -/
def Obligations.HeldValuesAreExact : Prop :=
  ∀ f u code neg m e sat, 1 ≤ f → f ≤ 16 →
    code < 2 ^ ((fmtOf f).ebits + (fmtOf f).mbits + (if (fmtOf f).signed then 1 else 0)) → (f = 16 → code ≠ 128) →
    decode f code = .fin neg m e → (roundSr f sat u (.fin neg m e)).1 = code

/-- Special values (R157): a NaN operand makes every result NaN, so do zero times infinity and infinities of opposite sign in a sum; the
sign of a product is the xor of the signs; a sum that is exactly zero is +0 unless both terms are −0. -/
def Obligations.SpecialValues : Prop :=
  (∀ x, Exact.nan.mul x = .nan ∧ x.mul .nan = .nan ∧ Exact.nan.add x = .nan ∧ x.add .nan = .nan) ∧
  (∀ a n e, (Exact.inf a).mul (.fin n 0 e) = .nan ∧ (Exact.fin n 0 e).mul (.inf a) = .nan) ∧
  (∀ a b, (Exact.inf a).mul (.inf b) = .inf (a != b) ∧ ((Exact.inf a).add (.inf b) = if a = b then .inf a else .nan)) ∧
  (∀ n1 m1 e1 n2 m2 e2, ∃ m e, (Exact.fin n1 m1 e1).mul (.fin n2 m2 e2) = .fin (n1 != n2) m e) ∧
  (∀ n1 m1 e1 n2 m2 e2 n e, (Exact.fin n1 m1 e1).add (.fin n2 m2 e2) = .fin n 0 e → (n = true ↔ n1 = true ∧ n2 = true ∧ m1 = 0 ∧ m2 = 0)) ∧
  (exp2 (.inf true) = .fin false 0 0 ∧ exp2 (.inf false) = .inf false ∧ exp2 .nan = .nan) ∧
  (∀ n e, log2 (.fin n 0 e) = .inf true ∧ rcp (.fin n 0 e) = .inf n ∧ rsqrt (.fin n 0 e) = .inf n) ∧
  (∀ m e, m ≠ 0 → log2 (.fin true m e) = .nan ∧ rsqrt (.fin true m e) = .nan) ∧ log2 (.inf true) = .nan ∧ rsqrt (.inf true) = .nan ∧
  ∀ n, rcp (.inf n) = .fin n 0 0

end

/-! ## The step, the invariant and the recorder -/

section

namespace Sys2Proof.Certificates

open Sys2Proof.Machine

/-- The record that a raising makes at `s` if it is stored (R443, R445). -/
def newRecord (r : Raise) (s : State) : EventRec :=
  { seq := s.evt.headSeq + 1, tick := s.eventTick, cycle := BitVec.ofNat 32 s.eventCycle,
    raised := { r with logical := s.logicalField r.src } }

end Sys2Proof.Certificates

open Sys2Proof Sys2Proof.Machine Sys2Proof.Certificates

/-- A step takes the command at the front of the queue: it is `exec` of that command on the state with the queue's rest. With no command waiting, one nominal cycle of
0.5 ns passes and nothing else changes, which is the model's own choice.
Model's choices it rests on: notes/assumptions/6.md. -/
def Obligations.StepTakesTheFront : Prop :=
  (∀ s c q, s.pending = c :: q → step s = exec c { s with pending := q }) ∧
  ∀ s, s.pending = [] → step s = .next { s with time := { s.time with now := s.time.now + 1 } }

/-- The values the spec gives for reset: the status page and the ring registers (chapter 10 Tables 3 and 17), the recorder (chapter 14
Table 3), the policy defaults (R218, R334), the scale record (chapter 5 Table 8), the clock regions (chapter 12 Table 2), FREQ_MHZ. Rests on R393.
Model's choices it rests on: notes/assumptions/1.md. -/
def Obligations.ResetValues : Prop :=
  let s := State.reset
  s.dev.state = .off ∧ s.pending = [] ∧ s.mem.bytes = [] ∧ s.tiles = [] ∧
  s.host.page.state = 1 ∧ s.host.page.pace = 10000 ∧ s.host.page.powerCapW = 3000 ∧ s.host.page.eventHead = 0 ∧
  s.host.crBase = 0 ∧ s.host.crEntries = 0 ∧ s.host.crHead = 0 ∧ s.host.crTail = 0 ∧ s.host.coalUs = 0 ∧ s.host.coalCount = 1 ∧
  (∀ mb, s.mailbox mb = {}) ∧
  s.evt.headSeq = 0 ∧ s.evt.persistSeq = 0 ∧ s.evt.dropped = [0, 0, 0, 0, 0] ∧ s.evt.traceHead = 0 ∧ s.evt.sticky = 0 ∧
  (∀ g, s.region g = {}) ∧ ({} : Region).speed = 10000 ∧ ({} : Region).trim = 32 ∧ s.clk.mhz = 0 ∧
  ({} : ScaleRec).scale = 0x3E00 ∧ ({} : ScaleRec).hist = List.replicate 16 (-128) ∧
  s.pol = { migratePct := 5, sliceHeadroom := 1024, versionReserve := 65536, promoteMin := 16, decayTicks := 64, admitGuard := 2,
            affinitySlack := 5, stealScope := 3, slowPct := 90, slowTicks := 10000, rotateMin := 10, ignoreHints := 0, slipLimit := 8,
            requireSigned := 0, powerCapW := 3000, jobReserve := 65536, jobBackAll := false } ∧
  s.att.slip = 0 ∧ s.time.tick = 0 ∧ s.time.locked = false

/-- The invariant holds right after reset. -/
def Obligations.SoundAtReset : Prop := Sound State.reset

/-- Every step keeps the invariant: byte memories stay canonical, the stores of records stay bounded, no record's number is 0 or above
HEAD_SEQ, HEAD_SEQ stays within the block that SEQ_LIMIT ends, and the five DROPPED counters stay five.
Model's choices it rests on: notes/assumptions/11.md. -/
def Obligations.StepKeepsSound : Prop := ∀ s t, Sound s → step s = .next t → Sound t

/-- What no step takes back: the serial number in the fuses, MIN_SVN, what was sent to the host, the vectors raised, the free values used;
and a step takes the front of the queue and leaves the rest.
Model's choices it rests on: notes/assumptions/5.md, notes/assumptions/8.md, notes/assumptions/55.md. -/
def Obligations.StepTakesNothingBack : Prop :=
  ∀ s t, Sound s → step s = .next t →
    t.nor.serial = s.nor.serial ∧ s.nor.minSvn ≤ t.nor.minSvn ∧ s.host.sent <+: t.host.sent ∧ s.host.msix <+: t.host.msix ∧
    s.freeCtr ≤ t.freeCtr ∧ t.pending = s.pending.tail

/-- Every command that is well formed and names units the part has answers a next state: it is neither refused nor a fault, in any state.
Model's choices it rests on: notes/assumptions/46.md. -/
def Obligations.CommandsAnswer : Prop :=
  ∀ i s, i.wf = true → s.hasUnits i = true → ∃ t, exec i s = .next t

/-- Recording a condition writes its record while a slot is free, with the next number, sets its COND bit and the bits of its source, raises
vector 19 for a severe one and vector 18 when the sticky map changed, counts it for the attempt in progress, and changes nothing else. A
raising of class NOTE does nothing more. -/
def Obligations.RaisingIsRecorded : Prop :=
  ∀ s r, s.evt.ring.length < 65536 →
    let t := record r s
    t.evt.ring = s.evt.ring ++ [newRecord r s] ∧ t.evt.headSeq = s.evt.headSeq + 1 ∧ t.evt.dropped = s.evt.dropped ∧
    (∀ b < 32768, t.evt.sticky.getLsbD b = (s.evt.sticky.getLsbD b || r.stickyBits.contains b)) ∧
    t.att.raised = (if s.inAttempt then s.att.raised ++ [(newRecord r s).raised] else s.att.raised) ∧
    (r.sev.severe = true → (s.host.busMaster && s.host.dState == 0) = true → 19 ∈ t.host.msix) ∧
    ((∃ b ∈ r.stickyBits, s.evt.sticky.getLsbD b = false) → (s.host.busMaster && s.host.dState == 0) = true → 18 ∈ t.host.msix) ∧
    OnlyRecorded s t ∧ (r.cls = .note → raise r s = t)

/-- A new record takes a free slot; in a full ring it overwrites the record with the lowest SEQ among those as severe or less; where every
stored record is more severe it is dropped, takes no number, and the DROPPED counter of its severity counts up. FATAL records are overwritten
only by FATAL records. Code 0 is the most severe. Rests on R443. -/
def Obligations.FullRingKeepsTheSevere : Prop :=
  ∀ s r, let t := writeRecord r s
    let n := s.evt.headSeq + 1
    let e : EventRec := { seq := n, tick := s.eventTick, cycle := BitVec.ofNat 32 s.eventCycle, raised := r }
    (s.evt.ring.length < 65536 → t.evt.ring = s.evt.ring ++ [e] ∧ t.evt.headSeq = n ∧ t.evt.dropped = s.evt.dropped) ∧
    (65536 ≤ s.evt.ring.length →
      (∀ v ∈ s.evt.ring, Severity.code r.sev ≤ Severity.code v.raised.sev →
        (∀ x ∈ s.evt.ring, Severity.code r.sev ≤ Severity.code x.raised.sev → v.seq ≤ x.seq) →
        t.evt.headSeq = n ∧ t.evt.dropped = s.evt.dropped ∧ t.evt.ring.length = s.evt.ring.length ∧
        ∀ (j : Nat) (x : EventRec), s.evt.ring[j]? = some x → t.evt.ring[j]? = some (if x.seq = v.seq then e else x)) ∧
      ((∀ x ∈ s.evt.ring, Severity.code x.raised.sev < Severity.code r.sev) →
        t.evt.ring = s.evt.ring ∧ t.evt.headSeq = s.evt.headSeq ∧
        t.evt.dropped = s.evt.dropped.set (Severity.code r.sev) (Nat.min 0xFFFFFFFF (s.evt.dropped.getD (Severity.code r.sev) 0 + 1)) ∧
        t = { s with evt := { s.evt with dropped := t.evt.dropped } })) ∧
    (∀ (j : Nat) (x : EventRec), s.evt.ring[j]? = some x → x.raised.sev = .fatal → r.sev ≠ .fatal →
      (∀ y ∈ s.evt.ring, y.seq = x.seq → y.raised.sev = .fatal) → t.evt.ring[j]? = some x)

end

/-! ## Tasks and fills -/

section

namespace Sys2Proof.Certificates

open Sys2Proof.Machine

/-- Only the tile `p` is another, beside the access counters of the directory and the read requests waiting at the slices. -/
def OnlyTileAndCounters (p : Nat) (s t : State) : Prop :=
  (∀ q, q ≠ p → t.tile q = s.tile q) ∧
  t = { s with tiles := t.tiles, mem := { s.mem with dir := t.mem.dir, sliceQueues := t.mem.sliceQueues } }

/-- The same, but for a change of the tile's board entry: then every thief with no request under way may ask again (R211). The region's measured
speed is `speed`, within its bounds (R210). -/
def BeginsOn (p speed : Nat) (s t : State) : Prop :=
  (∀ q, q ≠ p → t.tile q = if (t.tile p).board = (s.tile p).board then s.tile q
    else { s.tile q with steal := (s.tile q).steal.boardChanged }) ∧
  t = { measureSpeed p speed s with
    tiles := t.tiles, mem := { s.mem with dir := t.mem.dir, sliceQueues := t.mem.sliceQueues } }

/-- The lines of an entry in the order of their issue by logical tile `g` (R230). -/
def IssueOrder (g : Nat) (e : Entry) : List Nat :=
  if e.kind = 0 then (List.range e.lines).map (fun k => (g + k) % Nat.max 1 e.lines) else List.range e.lines

/-- The run `r` has issued the first entry of its fill list: every line of it is on its way. -/
def FirstEntryIssued (s : State) (p : Nat) (r : TaskRun) : Prop :=
  ∀ e, (s.image.fills (s.task r.task))[0]? = some e → e.kind ≠ 2 →
    r.nextEntry = 1 ∧ r.fills = (IssueOrder ((s.logical? p).getD 0) e).map (fun k => (0, k))

/-- A new run of task `k`, whose region lies at the low or the high end of the free area (R132). -/
def NewRun (s : State) (p k : Nat) (high ahead : Bool) (r : TaskRun) : Prop :=
  r.task = k ∧ r.phase = .filling ∧ r.ahead = ahead ∧ r.high = high ∧
  r.base = (if high then 32 * (s.image.freeTrays - (s.task k).dataTrays) else 0) ∧ FirstEntryIssued s p r

/-- A filled line lands: the pad line of the data region holds `data`; with a tray's format the tray's scale cell holds its scale; no other
byte of the pad changes (R35, R174). -/
def Lands (s : State) (p : Nat) (r : TaskRun) (e : Entry) (line loaf j : Nat) (data : List Byte) (u : Tile) : Prop :=
  let dst := r.base + e.padLine + line
  let tray := isTray (s.numericOf e.tensor).format
  let cell := 64 * (r.base + scaleArea (s.task r.task).dataTrays + (e.padLine + line) / 32 / 32) + 2 * ((e.padLine + line) / 32 % 32)
  (∀ a, ¬ (64 * dst ≤ a ∧ a < 64 * dst + 64) → ¬ (tray = true ∧ cell ≤ a ∧ a < cell + 2) → u.pad.read a = (s.tile p).pad.read a) ∧
  (∀ i < 64, ¬ (tray = true ∧ cell ≤ 64 * dst + i ∧ 64 * dst + i < cell + 2) → u.pad.read (64 * dst + i) = data.getD i 0) ∧
  (tray = true → u.pad.readBytes cell 2 = leBytes 2 (s.scaleOf loaf (j / 32)).scale.toNat)

/-- Line `fl` is on its way to the task that runs on tile `p`, in the attempt, and no further entry begins when it lands: other lines are on their
way or no entry is left. -/
def OnItsWay (s : State) (p : Nat) (r : TaskRun) (fl : FillLine) : Prop :=
  (s.tile p).current = some r ∧ fl ∈ r.fills ∧ r.ahead = false ∧ (∀ x, (s.tile p).runAhead = some x → x.task ≠ r.task) ∧
  (r.fills.erase fl ≠ [] ∨ (s.image.fills (s.task r.task)).length ≤ r.nextEntry)

/-- The request of such a line of a slice frame, and the slice it goes to (R185, R228). -/
def RequestOf (s : State) (p : Nat) (r : TaskRun) (fl : FillLine) (f j : Nat) : Nat × SliceReq :=
  (sliceOf f j, { tile := p, task := r.task, fill := fl, frame := f, j := j, port := inboundPort p (s.physical (sliceOf f j)) f j })

/-- The run's line has landed, and the loaf is noted with the serial of the attempt it was read in (R63). -/
def LandsIn (s : State) (p : Nat) (r : TaskRun) (fl : FillLine) (loaf j : Nat) (data : List Byte) (t : State) : Prop :=
  Lands s p r ((s.image.fills (s.task r.task)).getD fl.1 {}) fl.2 loaf j data (t.tile p) ∧
  (t.tile p).current = some { r with fills := r.fills.erase fl, sources := r.sources ++ [(loaf, fl, s.att.serial)] }

end Sys2Proof.Certificates

open Sys2Proof Sys2Proof.Machine Sys2Proof.Certificates

/-- TASK_BEGIN in an attempt whose failure has not been broadcast, on a tile that is not fenced: the head of the deque is popped. An idle
tile gives it a region at the end the region before it did not take, and starts its fills, or takes over the fills run ahead for it; beside a
running task it starts the fills behind it, at the other end, when both regions fit, and waits otherwise. Rests on R18, R75, R132, R133, R208, R210, R211, R230. -/
def Obligations.TaskBegins : Prop :=
  ∀ s p speed k q, p < 1152 → (s.tile p).deque = k :: q → s.inAttempt = true → s.att.broadcast = false → (s.tile p).fenced = false →
    ((s.tile p).current = none → (s.tile p).runAhead = none → Completes (.taskBegin ⟨p, speed⟩) s (fun t => BeginsOn p speed s t ∧
      (t.tile p).deque = q ∧ (t.tile p).high = !(s.tile p).high ∧ (t.tile p).runAhead = none ∧
      ∃ r, (t.tile p).current = some r ∧ NewRun s p k (s.tile p).high false r)) ∧
    (∀ r, (s.tile p).current = none → (s.tile p).runAhead = some r → r.task = k → r.undeclared = none → r.withdrawn = [] →
      Completes (.taskBegin ⟨p, speed⟩) s (fun t => BeginsOn p speed s t ∧ (t.tile p).deque = q ∧ (t.tile p).high = (s.tile p).high ∧
        (t.tile p).runAhead = none ∧ ∃ r', (t.tile p).current = some r' ∧
          r'.task = k ∧ r'.ahead = false ∧ r'.high = r.high ∧ r'.base = r.base ∧ r'.sources = r.sources)) ∧
    (∀ c, (s.tile p).current = some c → (s.tile p).runAhead = none →
      (s.fitTogether c.task k = true → Completes (.taskBegin ⟨p, speed⟩) s (fun t => BeginsOn p speed s t ∧
        (t.tile p).deque = q ∧ (t.tile p).current = some c ∧ (t.tile p).high = c.high ∧
        ∃ r, (t.tile p).runAhead = some r ∧ NewRun s p k (!c.high) false r)) ∧
      (s.fitTogether c.task k = false → exec (.taskBegin ⟨p, speed⟩) s = .next (measureSpeed p speed s)))

/-- FILL_LINE_RETURN of a line that is on its way, read without an error: the line of the declared loaf, in the frame the tile's translation
gives, is written to its pad line, with the scale of its tray; nothing else in the pad changes. A slice serves it when its request is the first
of its inbound port's queue; every other read of that line waiting there that the same array read serves lands too. Of a loaf the job does not
declare the line is zeros, and the first such loaf of a task is reported as FILL_UNDECLARED. A line whose slice fails its parity does not land:
SLICE_PARITY is reported of the tile above the slice; the committed version takes its backing copy, or without one UNBACKED_LOSS is reported. Rests on R35, R38, R57, R78, R174, R191, R228, R232.
Model's choices it rests on: notes/assumptions/14.md, notes/assumptions/78.md, notes/assumptions/81.md, notes/assumptions/83.md. -/
def Obligations.FilledLinesLand : Prop :=
  ∀ s p entry line r, p < 1152 → OnItsWay s p r (entry, line) → CanonicalMemory s →
    let e := (s.image.fills (s.task r.task)).getD entry {}
    let x := e.target (s.tile p).pad r.base line
    let loaf := e.loaf + x / 2048
    let f := s.readFrame p loaf
    let q := RequestOf s p r (entry, line) f (x % 2048)
    let b := servedWith (look [] q.1 s.mem.sliceQueues) q.2
    (∀ d, s.declared loaf = some d → 14336 ≤ f → Completes (.fillLineReturn p false entry line .clean) s (fun t =>
      OnlyTileAndCounters p { s with mem := { s.mem with hbmArbs := t.mem.hbmArbs } } t ∧
      LandsIn s p r (entry, line) loaf (x % 2048) (s.frameLine f (x % 2048)) t)) ∧
    (∀ d, s.declared loaf = some d → f < 14336 → b = [q.2] → Completes (.fillLineReturn p false entry line .clean) s (fun t =>
      OnlyTileAndCounters p s t ∧ LandsIn s p r (entry, line) loaf (x % 2048) (s.frameLine f (x % 2048)) t)) ∧
    (∀ d, s.declared loaf = some d → f < 14336 → b ≠ [] → (b.map (·.tile)).Nodup → Completes (.fillLineReturn p false entry line .clean) s (fun t =>
      ∀ y ∈ b, ∀ r', r'.task = y.task → OnItsWay s y.tile r' y.fill →
        LandsIn s y.tile r' y.fill loaf (x % 2048) (s.frameLine f (x % 2048)) t)) ∧
    (∀ d, s.declared loaf = some d → f < 14336 → b = [] → ∀ o, exec (.fillLineReturn p false entry line o) s = .next s) ∧
    (s.declared loaf = none → r.undeclared = none → ∀ o, Completes (.fillLineReturn p false entry line o) s (fun t =>
      Lands s p r e line loaf (x % 2048) (List.replicate 64 0) (t.tile p) ∧
      ∃ c : Raise, t.att.reports = s.att.reports ++ [c] ∧ c.cond = .fillUndeclared ∧ c.src = .tile p)) ∧
    (∀ d, s.declared loaf = some d → f < 14336 → f = s.committedFrame loaf → b = [q.2] →
      Completes (.fillLineReturn p false entry line .parity) s (fun t =>
        t.tile p = s.tile p ∧ (∃ c l, t.att.reports = s.att.reports ++ c :: l ∧ c.cond = .sliceParity ∧
          c.src = .tile (s.physical (sliceOf f (x % 2048))) ∧
          l.map (·.cond) = if (look {} f s.mem.slices).back = noFrame then [.unbackedLoss] else []) ∧
        ((look {} f s.mem.slices).back ≠ noFrame → t.mem.bytes = copyFrame (look {} f s.mem.slices).back f s.mem.bytes)))

/-- FILL_LIST_COMPLETE once every entry has been issued and every line has returned: the task's fills are complete, and the tile reports the
queues whose take count is not met. RUN_AHEAD_FILL_ISSUE outside the commit window, on an idle tile with an empty deque: the first task
provisionally admitted to it gets its region and its first entry is issued. FILL_LIST_COMPLETE and RUN_AHEAD_FILL_ISSUE change nothing else
but access counters and the requests waiting at the slices. Rests on R18, R46, R60 to R62, R132, R154, R230.
Model's choices it rests on: notes/assumptions/14.md, notes/assumptions/83.md. -/
def Obligations.FillListsEnd : Prop :=
  (∀ s p r, p < 1152 → (s.tile p).current = some r → r.phase = .filling → r.fills = [] → r.withdrawn = [] →
    (s.image.fills (s.task r.task)).length ≤ r.nextEntry →
    exec (.fillListComplete p) s = .next (s.setTile p { s.tile p with
      current := some { r with phase := .filled }
      blockedOn := (List.range 16).filter (fun q => bit (s.task r.task).queueMask q &&
        decide (((s.tile p).ring q).msgs < takeCount (s.setOf r.task) q)) })) ∧
  (∀ s p k, p < 1152 → s.nextFor p = some k → s.inAttempt = true → s.att.phase ≠ .commit → (s.tile p).deque = [] → s.aheadAllowed k = true →
    (s.tile p).current = none → (s.tile p).runAhead = none → Completes (.runAheadFillIssue p) s (fun t => OnlyTileAndCounters p s t ∧
      (t.tile p).current = none ∧ (t.tile p).high = !(s.tile p).high ∧
      ∃ r, (t.tile p).runAhead = some r ∧ NewRun s p k (s.tile p).high true r))

namespace Sys2Proof.Certificates

/-- The tile holds a copy of set `k`. -/
def HoldsSet (t : Tile) (k : Nat) : Prop := t.slot0 = some k ∨ t.slot1 = some k

/-- Set `k` is copied into the slot that does not hold the resident set's copy, where no copy stands: its fold images into pad lines 3,072 or
3,584 on, its header into the slot's set register (R121, R131, R133). -/
def Copied (s : State) (t : Tile) (k : Nat) (u : Tile) : Prop :=
  (HoldsSet t k → u = t) ∧
  (¬ HoldsSet t k → (u = { t with slot0 := some k, setReg0 := s.setHeader k, pad := t.pad.writeBytes (64 * 3072) (s.setBytes k) } ∧
      (t.slot0 = none ∨ t.slot0 ≠ t.resident)) ∨
    (u = { t with slot1 := some k, setReg1 := s.setHeader k, pad := t.pad.writeBytes (64 * 3584) (s.setBytes k) } ∧ t.slot0 ≠ none ∧ t.slot0 = t.resident))

end Sys2Proof.Certificates

/-- CONFIG_LOAD between tasks, with no upset: the set of the tile's task is copied into the slot that does not hold the resident set's copy,
becomes resident, and the configuration epoch advances by one modulo 4. A copy that must be read from the slice tier and meets a parity error
there changes no tile and is reported as SLICE_PARITY. RUN_AHEAD_CONFIG_LOAD copies the set of the first task of the next slot, and on a tile
idle for the rest of the slot activates it. WEAVE_START: with the fills complete, every message there, the set resident and the run phase open,
the weave fires, its counters and every state bank cleared; each ring's take order is that of the messages present, by source task and number. Rests on R54, R55, R60, R114, R117, R121 to R123, R131, R133, R148, R232.
Model's choices it rests on: notes/assumptions/84.md. -/
def Obligations.ConfigurationAndStart : Prop :=
  (∀ s p r, p < 1152 → (s.tile p).current = some r → (s.tile p).weaveIdle = true → (s.tile p).resident ≠ some (s.task r.task).configSet →
    Completes (.configLoad p {} false) s (fun t => (∀ q, q ≠ p → t.tile q = s.tile q) ∧ t = { s with tiles := t.tiles } ∧
      ∃ u, Copied s (s.tile p) (s.task r.task).configSet u ∧
        t.tile p = { u with resident := some (s.task r.task).configSet, configBad := false, epoch := (s.tile p).epoch + 1 }) ∧
    (¬ HoldsSet (s.tile p) (s.task r.task).configSet → (s.task r.task).configSet ∈ s.mem.configs → ∀ b,
      Completes (.configLoad p { read := .parity } b) s (fun t => t.tiles = s.tiles ∧
        ∃ c : Raise, t.att.reports = s.att.reports ++ [c] ∧ c.cond = .sliceParity ∧ c.src = .tile p))) ∧
  (∀ s p k, p < 1152 → s.nextFor p = some k → s.inAttempt = true → s.att.phase ≠ .commit →
    let c := (s.task k).configSet
    (¬ HoldsSet (s.tile p) c → Completes (.runAheadConfigLoad { tile := p }) s (fun t =>
      (∀ q, q ≠ p → t.tile q = s.tile q) ∧ t = { s with tiles := t.tiles } ∧ Copied s (s.tile p) c (t.tile p))) ∧
    (HoldsSet (s.tile p) c → (s.tile p).current = none → (s.tile p).deque = [] →
      channelsEmpty (s.tile p) = true → (s.tile p).resident ≠ some c →
      exec (.runAheadConfigLoad { tile := p }) s = .next (s.setTile p { s.tile p with
        resident := some c, configBad := false, epoch := (s.tile p).epoch + 1 }))) ∧
  (∀ s p r, p < 1152 → (s.tile p).current = some r → r.phase = .filled → s.inAttempt = true → s.att.phase = .run → s.att.broadcast = false →
    (s.tile p).fenced = false → (s.tile p).resident = some (s.task r.task).configSet → (s.tile p).configBad = false →
    unmetQueues s (s.tile p) r.task = [] →
    exec (.weaveStart p false) s = .next (s.setTile p { s.tile p with
      current := some { r with phase := .firing }, banks := [], weave := {}, blockedOn := []
      rings := (s.tile p).rings.map (fun g => { g with order := (takeOrder (s.tile p).pad g).map (·.off) }) })) ∧
  (∀ pad g, (takeOrder pad g).Perm ((ringAll pad g).filter (fun m => !m.skip)) ∧
    (takeOrder pad g).Pairwise (fun a b => a.src < b.src ∨ (a.src = b.src ∧ a.seq ≤ b.seq)))

end

/-! ## The end of a task, messages and stealing -/

section

namespace Sys2Proof.Certificates

open Sys2Proof.Machine

/-- Only the tile `p` is another, beside reports that leave for the hub, `l` in this order. -/
def OnlyTileAndReports (p : Nat) (l : List Raise) (s t : State) : Prop :=
  (∀ q, q ≠ p → t.tile q = s.tile q) ∧ t = { s with tiles := t.tiles, att := { s.att with reports := s.att.reports ++ l } }

/-- The weave is abandoned: the task ends without its drain, its region is released and the tokens in the channels are lost. -/
def abandoned (t : Tile) : Tile := { t with current := none, channels := [], blockedSend := none }

/-- The condition `c` is in the form a task's sequencer reports it: the tile as its source, the task and step, the attempt, the local tick
and a value (R444). -/
def TaskReport (s : State) (c : Cond) (p task value : Nat) (x : Raise) : Prop :=
  x.cond = c ∧ x.cls = Cond.cls c ∧ x.sev = Cond.sev c ∧ x.src = .tile p ∧ x.w0 = BitVec.ofNat 64 (task % 2 ^ 24 + s.step * 2 ^ 24) ∧
  x.w1 = BitVec.ofNat 64 s.att.serial ∧ x.w3 = BitVec.ofNat 64 value

/-- Free 16-byte units of a ring (R146): all of them less those from RD to WR. -/
def freeUnits (r : Ring) : Nat := r.units - r.used

/-- The message that tile `a` sends to tile `b` now: the head of the list of its current task, which has come to sending. -/
def Sends (s : State) (a b : Nat) (r : TaskRun) (m : Message) (rest : List Message) : Prop :=
  (s.tile a).current = some r ∧ r.phase = .sending ∧ r.messages = m :: rest ∧ s.tileOf r.task m.destTask = some b ∧ (s.tile a).fenced = false

/-- The pad writes of the weave are over, or will be within DRAIN_BOUND cycles of the end of the schedule (R120, R483). -/
def WritesInTime (s : State) (t : Tile) (r : TaskRun) : Prop :=
  t.weave.writesUntil ≤ t.weave.cycle + t.weave.held + (s.task r.task).drainBound

/-- The ring of tile `b` that the message goes to is the one whose turn it is among those with requests, and its arbiter decides for `a` among the
senders `req` that request it (R149, R150, R360). -/
def Served (s : State) (again : Option Nat) (a b : Nat) (m : Message) (req : List Nat) : Prop :=
  s.requests again b = some (m.queue, req) ∧
  ((((s.tile b).ring m.queue).arb).arbitrate (fun _ => 1) (fun _ => false) req).1 = some a

/-- A sender that requested and lost: its loss is counted, and it tries again after its back-off (R150). -/
def lost (b q : Nat) (t : Tile) : Tile :=
  { t with current := t.current.map (fun c => { c with losses := c.losses + 1, retryAt := some (b, q) }) }

/-- What a change of one tile's board entry leaves of another tile: the same, or with its count of requests and the tiles it has tried cleared,
where it has no request under way (R211). -/
def BoardOnly (p : Nat) (s t : State) : Prop :=
  ∀ q, q ≠ p → t.tile q = if (t.tile p).board = (s.tile p).board then s.tile q else { s.tile q with steal := (s.tile q).steal.boardChanged }

/-- One decision of the shared arbiter among requesters none of which is masked or backs off (R360): one that asserts priority wins; otherwise of
those with credit left, or with none left of all of nonzero weight, the first at or after the pointer, which moves past it; one of weight 0
only where there is no other. The losses of the winner end, each loser's count rises. -/
def ArbiterRule : Prop :=
  ∀ (weight : Nat → Nat) (priority : Nat → Bool) (req : List Nat) (a : Arbiter), req ≠ [] → req.Nodup →
    let d := a.arbitrate weight priority req
    let credit := fun (a : Arbiter) r => weight r - look 0 r a.spent
    let first := fun (w : Nat) (l : List Nat) => w ∈ l ∧ ((a.pointer ≤ w ∧ ∀ r ∈ l, a.pointer ≤ r → w ≤ r) ∨ (∀ r ∈ l, r < a.pointer ∧ w ≤ r))
    ∃ w, d.1 = some w ∧ w ∈ req ∧ d.2.holder = some w ∧ look 0 w d.2.losses = 0 ∧
      (∀ r ∈ req, r ≠ w → look 0 r d.2.losses = look 0 r a.losses + 1) ∧
      ((∃ r ∈ req, priority r = true) → priority w = true ∧ d.2.pointer = a.pointer ∧ d.2.spent = a.spent) ∧
      ((∀ r ∈ req, priority r = false) → d.2.pointer = w + 1 ∧
        ((∃ r ∈ req, 0 < credit a r) → first w (req.filter (fun r => decide (0 < credit a r))) ∧ credit d.2 w = credit a w - 1 ∧
          ∀ r, r ≠ w → credit d.2 r = credit a r) ∧
        ((∀ r ∈ req, credit a r = 0) → (∃ r ∈ req, weight r ≠ 0) → first w (req.filter (fun r => decide (weight r ≠ 0))) ∧
          credit d.2 w = weight w - 1 ∧ ∀ r, r ≠ w → credit d.2 r = weight r) ∧
        ((∀ r ∈ req, weight r = 0) → first w req ∧ d.2.spent = a.spent))

end Sys2Proof.Certificates

open Sys2Proof Sys2Proof.Machine Sys2Proof.Certificates

/-- How the task on a tile ends. A hold of 64 cycles, a measured count that differs from WEAVE_CYCLES, or held cycles found at the end of the
drain abandon the weave and report SCHED_DEVIATION with the measured cycles; a weave drain past DRAIN_BOUND, of tokens or of pad writes, does not
end but reports DRAIN_TIMEOUT and fences the tile; after the failure broadcast the weave ends without its drain. Otherwise the drain runs, and with it written and every message
delivered the task has finished, and the task behind it becomes the current one and reports the queues it waits on. Rests on R18, R47, R56, R75, R116, R120, R127, R133, R154, R201.
Model's choices it rests on: notes/assumptions/15.md. -/
def Obligations.TasksEnd : Prop :=
  ∀ s p r, p < 1152 → (s.tile p).current = some r →
    (r.phase = .firing → 64 ≤ (s.tile p).weave.holding → Completes (.weaveHoldLimit p) s (fun t => t.tile p = abandoned (s.tile p) ∧
      ∃ x, TaskReport s .schedDeviation p r.task ((s.tile p).weave.cycle + (s.tile p).weave.held) x ∧ OnlyTileAndReports p [x] s t)) ∧
    (∀ n, r.phase = .firing → n ≠ (s.task r.task).weaveCycles → Completes (.schedDeviation p n) s (fun t => t.tile p = abandoned (s.tile p) ∧
      ∃ x, TaskReport s .schedDeviation p r.task n x ∧ OnlyTileAndReports p [x] s t)) ∧
    (s.weaveEnded (s.tile p) r = true → channelsEmpty (s.tile p) = true → WritesInTime s (s.tile p) r →
      ((s.tile p).weave.held ≠ 0 → ∀ u m, Completes (.weaveDrainEnd p u m) s (fun t => t.tile p = abandoned (s.tile p) ∧
        ∃ x, TaskReport s .schedDeviation p r.task ((s.task r.task).weaveCycles + (s.tile p).weave.held) x ∧ OnlyTileAndReports p [x] s t)) ∧
      ((s.tile p).weave.held = 0 → s.att.broadcast = true → ∀ u m, Completes (.weaveDrainEnd p u m) s (fun t =>
        t.tile p = abandoned (s.tile p) ∧ OnlyTileAndReports p [] s t))) ∧
    (s.weaveEnded (s.tile p) r = true → (channelsEmpty (s.tile p) = false ∨ ¬ WritesInTime s (s.tile p) r) →
      (∀ u m, exec (.weaveDrainEnd p u m) s = .next s) ∧ Completes (.drainTimeout p) s (fun t =>
      t.tile p = { s.tile p with fenced := true } ∧
      ∃ x, TaskReport s .drainTimeout p r.task (s.task r.task).drainBound x ∧ OnlyTileAndReports p [x] s t)) ∧
    ((r.phase = .draining ∨ (r.phase = .sending ∧ r.messages = [])) → Completes (.drainComplete p) s (fun t =>
      t.att.finished = s.att.finished ++ [r.task] ∧ (t.tile p).done = (s.tile p).done ++ [r.task] ∧
      (∀ n, (s.tile p).runAhead = some n → n.ahead = false → (t.tile p).current = some n ∧ (t.tile p).runAhead = none ∧
        (t.tile p).blockedOn = if n.phase = .filled then unmetQueues s (s.tile p) n.task else []) ∧
      ((s.tile p).runAhead = none → (t.tile p).current = none ∧ (t.tile p).runAhead = none) ∧
      (∀ n, (s.tile p).runAhead = some n → n.ahead = true → (t.tile p).current = none ∧ (t.tile p).runAhead = some n) ∧
      (∀ l j, s.logical? p = some l → s.job = some j → (s.task r.task).affinity ≠ 0 →
        t.job = some { j with homes := put (s.task r.task).affinity l j.homes }) ∧
      ((s.task r.task).affinity = 0 → t.job = s.job) ∧ (∀ q, q ≠ p → t.tile q = s.tile q) ∧
      t = { s with tiles := t.tiles, job := t.job, att := { s.att with finished := t.att.finished } }))

/-- WEAVE_DRAIN_END of a task whose drain list is one contiguous plain entry within a loaf whose pending version has been opened: each pad
line is stored in the pending version, and no other byte of external memory changes; the task is then draining, or sending where it has
messages. Rests on R34, R35, R39, R56, R64.
Model's choices it rests on: notes/assumptions/82.md. -/
def Obligations.DrainsWriteThePendingVersion : Prop :=
  ∀ s p r e f d, p < 1152 → (s.tile p).current = some r → s.weaveEnded (s.tile p) r = true → channelsEmpty (s.tile p) = true →
    WritesInTime s (s.tile p) r → (s.tile p).weave.held = 0 → s.att.broadcast = false → s.image.drains (s.task r.task) = [e] → e.kind = 0 → e.line + e.count ≤ 2048 →
    isTray (s.numericOf e.tensor).format = false → isMx (s.numericOf e.tensor).format = false → s.declared e.loaf = some d → d.hostIn = false →
    s.proxyOf e.loaf = none → s.pendingFrame e.loaf = some f → 14336 ≤ f → (∀ k, look? (e.loaf, k) s.mem.writers = none) →
    (∀ k, look? (e.loaf, k) s.mem.byteWriters = none) → CanonicalMemory s →
    Completes (.weaveDrainEnd p none []) s (fun t =>
      t.tile p = { s.tile p with
        channels := [], current := some { r with phase := if r.messages.isEmpty then .draining else .sending } } ∧
      t.pendingFrame e.loaf = some f ∧
      (∀ k < e.count, t.readPending e.loaf (e.line + k) = lineAt (s.tile p).pad (r.base + e.padLine + k)) ∧
      (∀ a, ¬ (131072 * f + 64 * e.line ≤ a ∧ a < 131072 * f + 64 * (e.line + e.count)) → t.mem.bytes.read a = s.mem.bytes.read a) ∧
      (∀ q, q ≠ p → t.tile q = s.tile q) ∧ t.att = s.att ∧ t.job = s.job ∧ t.evt = s.evt)

/-- ERROR_REPORT delivers the oldest report of a tile: the hub records it, and one of class REPLAY or JOB before the margin marks the attempt
failed and withdraws the provisional admission (SCALE_EXHAUSTED apart); a second SCHED_DEVIATION or STEER_SKEW of a tile within 1,000 fabric
ticks retires it under REPEAT_FAULT. FAILURE_BROADCAST then empties the deques, stops tasks whose weave does not fire, and makes the
admission of the failed attempt the one to come. Rests on R72, R75, R128, R133, R179, R233, R356.
Model's choices it rests on: notes/assumptions/9.md. -/
def Obligations.ReportsReachTheHub : Prop :=
  (∀ s x l p, s.att.reports = x :: l → s.inAttempt = true → s.att.phase ≠ .margin → (x.cls = .replay ∨ x.cls = .job) → x.src = .tile p →
    x.cond ∉ [.scaleExhausted, .steerSkew, .schedDeviation, .padParity, .sliceParity, .drainTimeout] → s.evt.ring.length < 65535 →
    Completes (.errorReport none) s (fun t => t.att.reports = l ∧ t.att.failed = true ∧ t.att.provisional = [] ∧
      newRecord x s ∈ t.evt.ring ∧ (newRecord x s).raised ∈ t.att.raised ∧ t.tiles = s.tiles ∧ t.mem = s.mem)) ∧
  (∀ s x l p n, s.att.reports = x :: l → s.inAttempt = true → x.cond = .schedDeviation ∨ x.cond = .steerSkew → x.cls = .replay → x.src = .tile p →
    look? (p, x.cond) s.tests.struck = some n → s.time.tick ≤ n + 1000 → s.tests.reset = none → (∀ y ∈ s.tests.retiring, y.1 ≠ p) →
    Completes (.errorReport none) s (fun t => t.att.reports = l ∧ t.tests.retiring = s.tests.retiring ++ [(p, .repeatFault)])) ∧
  (∀ s, s.inAttempt = true → s.att.failed = true → s.att.broadcast = false →
    exec .failureBroadcast s = .next { s with
      att := { s.att with broadcast := true, provisional := s.att.admitted }
      tiles := s.tiles.map (fun x => (x.1, { x.2 with
        deque := [], board := {}, steal := {}, runAhead := none
        current := x.2.current.filter (fun r => decide (r.phase = .firing ∨ r.phase = .draining ∨ r.phase = .sending)) })) })

/-- RUN_PHASE_OPEN ends the commit window. MARGIN_OPEN samples the wait-for reports: the phase is the margin, the cycles found are kept, and
each one found in the slot before as well raises QUEUE_CYCLE. Rests on R54, R154, R368. -/
def Obligations.PhasesOfTheSlot : Prop :=
  (∀ s, s.inAttempt = true → s.att.phase = .commit → exec .runPhaseOpen s = .next { s with att := { s.att with phase := .run } }) ∧
  (∀ s, s.inAttempt = true → s.att.phase = .run →
    let ps := s.tiles.map (·.1)
    let cs := (ps.map (fun p => cyclesThrough ((ps.map (waitEdges s)).flatten) p ps.length p [])).flatten
    Completes .marginOpen s (fun t => t.att.phase = .margin ∧ t.att.cycles = cs.map cycleName ∧ t.tiles = s.tiles ∧ t.mem = s.mem ∧
      (∀ c ∈ cs, cycleName c ∈ s.att.cycles → t.evt.sticky.getLsbD (Cond.code .queueCycle) = true) ∧
      ((∀ c ∈ cs, cycleName c ∉ s.att.cycles) → t.evt = s.evt)))

/-- MESSAGE_RING_WRITE to a tile, and RING_SEND_RETRY of a sender that backs off: of the inbound messages the queue policy takes a queue, and the
ring's arbiter one of the senders that request it. Where the ring has room for that message's header and payload it lands: the skip record, the
payload as its staging lines hold it now and the header are in the pad, WR passes it and MSGS counts it, and the sender's list loses it; where
the ring has no room it is refused: SEND_BLOCKED is set, REFUSED counts, no byte of the pad changes and the sender waits with its loss counted.
Each other requester loses. RING_ARB_HOLD_CUTOFF reports ARB_HOLD_CUTOFF of the receiving tile, ends the grant and writes nothing (R119, R143 to
R150, R152, R360).
Model's choices it rests on: notes/assumptions/31.md, notes/assumptions/72.md, notes/assumptions/81.md. -/
def Obligations.MessagesLandOrWait : Prop :=
  ArbiterRule ∧
  ∀ s a b r m rest, a < 1152 → b < 1152 → a ≠ b → Sends s a b r m rest → m.queue < (s.tile b).rings.length →
    let payload := (m.lines.map (lineAt (s.tile a).pad)).flatten
    let need := 1 + ceilDiv payload.length 16
    let g := (s.tile b).ring m.queue
    (∀ i again c, c < 1152 → (∃ r' m' rest', Sends s c b r' m' rest') →
      (i = .messageRingWrite c b false ∧ again = none) ∨ (i = .ringSendRetry { sender := c } ∧ again = some c ∧ (s.tile c).backsOff = true) →
      ∀ req, req.Nodup → Served s again a b m req →
      (∀ off, g.place need = some off → Completes i s (fun t =>
        (t.tile b).pad = putMessage g off m payload r.task (s.task r.task).gang (s.tile b).pad ∧
        ((t.tile b).ring m.queue).msgs = g.msgs + 1 ∧ ((t.tile b).ring m.queue).wr = (if off + need = g.units then 0 else off + need) ∧
        (t.tile b).lastQueue = m.queue ∧ (t.tile a).blockedSend = none ∧
        (t.tile a).current = some { r with messages := rest, losses := 0, retryAt := none } ∧
        (∀ q, q ≠ a → q ≠ b → t.tile q = if q ∈ req ∧ (s.tile q).blockedSend = none then lost b m.queue (s.tile q) else s.tile q) ∧
        t = { s with tiles := t.tiles })) ∧
      (g.place need = none → Completes i s (fun t =>
        (t.tile b).pad = (s.tile b).pad ∧ ((t.tile b).ring m.queue).sendBlocked = true ∧
        ((t.tile b).ring m.queue).refused = Nat.min 65535 (g.refused + 1) ∧ ((t.tile b).ring m.queue).msgs = g.msgs ∧
        (t.tile a).blockedSend = some (b, m.queue) ∧ (t.tile a).current = some { r with losses := r.losses + 1, retryAt := none } ∧
        (∀ q, q ≠ a → q ≠ b → t.tile q = if q ∈ req ∧ (s.tile q).blockedSend = none then lost b m.queue (s.tile q) else s.tile q) ∧
        t = { s with tiles := t.tiles }))) ∧
    Completes (.ringArbHoldCutoff a b) s (fun t =>
      ∃ x, TaskReport s .arbHoldCutoff b r.task m.queue x ∧ ((t.tile b).ring m.queue) = { g with arb := { g.arb with holder := none } } ∧
        (t.tile b).pad = (s.tile b).pad ∧ (∀ q, q ≠ b → t.tile q = s.tile q) ∧
        t = { s with tiles := t.tiles, att := { s.att with reports := s.att.reports ++ [x] } })

/-- Stealing. TILE_IDLE: an idle tile with candidates names one as its victim, at most 8 times in an idle period, and sends its region's speed with
the request. STEAL_REQ: a tail that may be stolen moves: the victim's deque loses it, the grant carries it, and the admission names the thief's
logical tile and its predicted end; otherwise the victim is tried and the thief unchanged. STEAL_GRANT puts the descriptor at the tail of the
thief's deque. STEAL_REFUSAL clears the victim, and the thief asks its next candidate. A change of a board entry lets every tile without a request
under way ask again. Rests on R209 to R212.
Model's choices it rests on: notes/assumptions/45.md. -/
def Obligations.TasksAreStolen : Prop :=
  (∀ s0 p speed v, p < 1152 → let s := measureSpeed p speed s0
    let e : BoardEntry := { endAt := if (s.tile p).deque.isEmpty then 0 else s.ownEnd p, eligible := tailEligible s (s.tile p), depth := (s.tile p).deque.length }
    s.stealing = true → (s.tile p).idleNow = true → (s.tile p).fenced = false → (s.logical? p).isSome = true →
    (s.tile p).steal.victim = none → e = (s.tile p).board → (s.tile p).steal.sent < 8 → s.stealCandidate p = some v →
    Completes (.tileIdle ⟨p, speed⟩) s0 (fun t => (t.tile p).steal.victim = some v ∧ (t.tile p).steal.sent = (s.tile p).steal.sent + 1 ∧
      (t.tile p).steal.speed = Nat.max 5000 (Nat.min 10000 speed) ∧
      (∀ q, q ≠ p → t.tile q = s.tile q) ∧ t = { s with tiles := t.tiles })) ∧
  (∀ s0 a b speed d k, a < 1152 → b < 1152 → a ≠ b → let s := measureSpeed b speed s0
    (s.tile a).steal.victim = some b → (s.tile a).steal.granted = none → b ∉ (s.tile a).steal.tried → (s.tile b).deque = d ++ [k] →
    (mayGrant s a b k = true → Completes (.stealReq a ⟨b, speed⟩) s0 (fun t => (t.tile b).deque = d ∧ (t.tile a).steal.granted = some k ∧
      (t.tile a).deque = (s.tile a).deque ∧
      (∀ x ∈ s.att.admitted, x.task = k →
        ({ x with tile := (s.logical? a).getD 0, endAt := s.thiefEnd a k, stolen := true } : Admitted) ∈ t.att.admitted) ∧
      (∀ x ∈ s.att.admitted, x.task ≠ k → x ∈ t.att.admitted) ∧
      (∀ q, q ≠ a → q ≠ b → t.tile q = { s.tile q with steal := (t.tile q).steal }) ∧
      t = { s with tiles := t.tiles, att := { s.att with admitted := t.att.admitted } })) ∧
    (mayGrant s a b k = false → exec (.stealReq a ⟨b, speed⟩) s0 = .next (s.setTile a { s.tile a with
      steal := { (s.tile a).steal with tried := (s.tile a).steal.tried ++ [b] } }))) ∧
  (∀ s a k, a < 1152 → (s.tile a).steal.granted = some k → Completes (.stealGrant a) s (fun t =>
    (t.tile a).deque = (s.tile a).deque ++ [k] ∧ (t.tile a).steal = {} ∧ (t.tile a).current = (s.tile a).current ∧
    BoardOnly a s t ∧ t = { s with tiles := t.tiles })) ∧
  (∀ s a b, a < 1152 → (s.tile a).steal.victim = some b → (s.tile a).steal.granted = none → b ∈ (s.tile a).steal.tried →
    s.stealing = true → (s.tile a).idleNow = true → (s.tile a).steal.sent < 8 →
    (∀ v, s.stealCandidate a = some v → Completes (.stealRefusal a) s (fun t =>
      (t.tile a).steal = { (s.tile a).steal with
        victim := some v, sent := (s.tile a).steal.sent + 1, at_ := s.eventCycle, speed := (s.region (tileRegion a)).speedNow } ∧
      (∀ q, q ≠ a → t.tile q = s.tile q) ∧ t = { s with tiles := t.tiles })) ∧
    (s.stealCandidate a = none → Completes (.stealRefusal a) s (fun t =>
      (t.tile a).steal = { (s.tile a).steal with victim := none } ∧ (∀ q, q ≠ a → t.tile q = s.tile q) ∧ t = { s with tiles := t.tiles })))

end

/-! ## Verdict, boundary and memory -/

section

namespace Sys2Proof.Certificates

open Sys2Proof.Machine

/-- Fabric time in units of a tick period of `us` µs, of 62.5 ps each (R290). -/
def tickUnits (us : Nat) : Nat := us * 16000

/-- The state at which the boundary judges: the slot is closed and fabric time has moved to the boundary. -/
def atBoundary (m : SlotMeasure) (s : State) : State :=
  { closeSlot m s with time := advanceTime (closeSlot m s).fab.plan.isSome (closeSlot m s).time }

end Sys2Proof.Certificates

open Sys2Proof Sys2Proof.Machine Sys2Proof.Certificates

/-- The verdict on an attempt decides every version in one step: no byte of memory and no directory entry changes, and in the attempt after
it a loaf that had a pending version or a migration reads from that frame if the attempt committed, and from its old committed frame if it
did not; a loaf with no second frame, or with one of an older attempt still in the ledger of 16, reads as before. Rests on R65, R73, R189.
Model's choices it rests on: notes/assumptions/76.md. -/
def Obligations.VersionsFollowTheVerdict : Prop :=
  ∀ s ok saving l, let t := judgeVersions ok saving s
    let u : State := { t with att := { t.att with serial := t.att.serial + 1 } }
    u.mem.bytes = s.mem.bytes ∧ u.mem.dir = s.mem.dir ∧ u.mem.slices = s.mem.slices ∧
    (s.entryCurrent (s.entry l) = true → u.committedFrame l = if ok then (s.entry l).frameP else (s.entry l).frameC) ∧
    ((s.entry l).frameP = noFrame → u.committedFrame l = s.committedFrame l) ∧
    (s.entryCurrent (s.entry l) = false → (s.entry l).ptag.toNat ≠ (s.att.serial + 1) % 16 →
      (∃ x ∈ s.att.ledger.take 15, x.1 % 16 = (s.entry l).ptag.toNat) → u.committedFrame l = s.committedFrame l) ∧
    u.pendingFrame l = if (s.entry l).frameP ≠ noFrame ∧ (s.entry l).ptag.toNat = (s.att.serial + 1) % 16 ∧ (s.entry l).pkind = false
      then some (s.entry l).frameP else none

/-- TICK_BOUNDARY. Fabric time moves to the next multiple of the tick period, or by one period without a plan, and the tick index with it. Of
a running job's attempt whose tasks have all finished, with no message left in a ring, the most severe condition decides: CONTAIN, then JOB,
then REPLAY (a third failure in a row is contained), and else it commits. A discarded attempt runs again with the same tasks, one failure
and one slip more; a committed one, the last of its tick, moves the local tick on. Where no command of the scan restarts the device, the
boundary leaves one trace entry of the attempt and the verdict, and TRACE_HEAD names the boundary. Rests on R52, R72, R73, R77, R82, R84, R290, R456.
Model's choices it rests on: notes/assumptions/6.md, notes/assumptions/66.md, notes/assumptions/76.md. -/
def Obligations.BoundariesJudge : Prop :=
  (∀ t : FabricTime, 0 < t.periodUs →
    let p := advanceTime true t
    let n := advanceTime false t
    p.fabric = (t.fabric / tickUnits t.periodUs + 1) * tickUnits t.periodUs ∧ p.tick * tickUnits t.periodUs = p.fabric ∧
    t.fabric < p.fabric ∧ p.fabric ≤ t.fabric + tickUnits t.periodUs ∧
    n.fabric = t.fabric + tickUnits t.periodUs ∧ n.tick = t.tick + 1 ∧
    p.periodUs = t.nextPeriodUs ∧ n.periodUs = t.nextPeriodUs ∧ t.now ≤ p.now ∧ t.now ≤ n.now ∧ p.boundaryAt = p.now ∧ n.boundaryAt = n.now) ∧
  (∀ s m, s.ticking = true →
    let c := atBoundary m s
    let r := judge c
    (scanBoundary (openRings (boundaryActions s.time.periodUs m r.2))).ticking = true →
    Completes (.tickBoundary m) s (fun t => t.evt.traceHead = t.time.tick ∧ t.att.lost = none ∧
      ∃ e, t.evt.trace.getLast? = some e ∧ e.fabricTick = t.time.tick ∧ e.verdict = Verdict.code r.1 ∧ e.freqMhz = t.clk.mhz ∧
        (e.attempt, e.localTick) = (match c.att.lost, c.job with
          | some x, _ => x
          | none, some j => (c.att.serial, j.localTick)
          | none, none => (0, 0)))) ∧
  (∀ s, s.job.isSome = true → s.att.running = true → residue s.tiles = none → s.unfinishedTasks = [] →
    let some_ := fun c => ∃ r ∈ s.att.raised, r.cls = c
    (some_ .contain → judge s = (.contain, containVerdict s)) ∧
    (¬ some_ .contain → some_ .job → judge s = (.job, applyVerdict .job s)) ∧
    (¬ some_ .contain → ¬ some_ .job → some_ .replay → 2 ≤ s.att.failures → judge s = (.contain, containVerdict s)) ∧
    (¬ some_ .contain → ¬ some_ .job → some_ .replay → s.att.failures < 2 → s.att.split = false →
      judge s = (.discard, applyVerdict .discard s)) ∧
    (¬ some_ .contain → ¬ some_ .job → ¬ some_ .replay → judge s = (.commit, applyVerdict .commit s))) ∧
  (∀ s, s.att.split = false → s.att.cur = false → s.att.admitted ≠ [] →
    let t := discardAttempt s
    t.att.parts = [s.att.admitted.map (·.task)] ++ s.att.parts ∧ t.att.failures = s.att.failures + 1 ∧ t.att.slip = s.att.slip + 1 ∧
    t.mem.bytes = s.mem.bytes ∧ t.mem.outbound = [] ∧ t.mem.journal = s.mem.journal ∧
    (∀ j, s.job = some j → t.job = some { j with attemptCounts := [] })) ∧
  (∀ s j, s.job = some j → s.att.cur = false →
    let t := completeTick s
    t.att.failures = 0 ∧ t.att.slip = s.att.slip ∧ ∃ k, t.job = some k ∧ k.localTick = j.localTick + 1)

/-- The sweep normalises the entry it reads: the loaf reads from the same frame as before, and its second frame is freed; an uncorrectable
error of the entry is raised as DIR_ECC_UE and a corrected one as DIR_ECC_CE. ACCESS_DECAY halves every counter once DECAY_TICKS slots have
passed. PATROL_LINE takes its grant at the front end and counts the line; the second corrected error of a row of a pseudo-channel or subchannel
within a day, at another address, marks the row for repair; an HBM4 line that the check takes for another is written back so, a corrected
error; an uncorrectable error of a free frame raises MEM_UE_IDLE, marks its row and withholds the frame. A DDR5 write that fails every retry is
such an error; a cut-off grant of a front end is raised as ARB_HOLD_CUTOFF and ends. Rests on R189, R190, R192, R197, R235 to R237, R239 to R243, R360.
Model's choices it rests on: notes/assumptions/13.md, notes/assumptions/82.md. -/
def Obligations.MemoryUpkeep : Prop :=
  (∀ s l, l < 33554432 → s.computing = true →
    Completes (.directorySweep l .clean) s (fun t => t.committedFrame l = s.committedFrame l ∧
      (s.entryCurrent (s.entry l) = false → (t.entry l).frameP = noFrame ∧ ((s.entry l).frameP ≠ noFrame → (t.entry l).frameC = s.committedFrame l)) ∧
      (∀ k, k ≠ l → t.entry k = s.entry k) ∧ t.mem.bytes = s.mem.bytes ∧ t = { s with mem := t.mem }) ∧
    exec (.directorySweep l .dirUncorrectable) s = .next (raise (loafRaise .dirEccUe l s) s) ∧
    Completes (.directorySweep l .dirCorrected) s (fun t => t.evt.sticky.getLsbD (Cond.code .dirEccCe) = true)) ∧
  (∀ s, s.computing = true → s.pol.decayTicks ≤ s.mem.decaySlots → Completes .accessDecay s (fun t =>
    t.mem.decaySlots = 0 ∧ (∀ l, t.entry l = { s.entry l with access := (s.entry l).access / 2 }) ∧ t.mem.bytes = s.mem.bytes ∧
    t = { s with mem := t.mem })) ∧
  (∀ s f j row, s.externalFrame f = true → j < 2048 → s.dev.state ≠ .off → s.dev.state ≠ .halted →
    let u := s.lineUnit f j
    let x : RowRef := { unit := u, sub := if 0x800000 ≤ f then (j + (f - 0x800000)) % 2 else (j + (f - 0x4000)) % 64, row := row }
    exec (.patrolLine f j .clean) s = .next (countMem u (fun c => { c with patrolled := (c.patrolled + 1) % s.patrolLines u })
      { s with mem := hbmGrant f j hbmPatrol [] s.mem }) ∧
    (∀ e ∈ s.mem.rowErrors, e.at_ = x → e.addr ≠ 131072 * f + 64 * j → s.time.now < e.time + 86400 * 2000000000 →
      Completes (.patrolLine f j (.corrected row)) s (fun t => x ∈ t.mem.markedRows ∧
        t.evt.sticky.getLsbD (Cond.code (if 0x800000 ≤ f then .ddrCe else .hbmCe)) = true ∧ t.mem.bytes = s.mem.bytes)) ∧
    (∀ data, data.length = 64 → f < 0x800000 → s.mem.used.contains f = true → CanonicalMemory s →
      Completes (.patrolLine f j (.miscorrected row data)) s (fun t => t.frameLine f j = data ∧
        t.evt.sticky.getLsbD (Cond.code .hbmCe) = true)) ∧
    (s.frameHeld f = false → s.lostAgain u = false →
      Completes (.patrolLine f j (.uncorrectable row)) s (fun t => f ∈ t.mem.withheld ∧ x ∈ t.mem.markedRows ∧ u ∈ t.mem.ueNow ∧
        t.evt.sticky.getLsbD (Cond.code .memUeIdle) = true ∧ t.mem.bytes = s.mem.bytes)) ∧
    (0x800000 ≤ f → exec (.ddrWriteCrcError f j 3) s = .next (frameUncorrectable f j (Config.freeValue s.freeCtr).toNat s.fresh.2) ∧
      exec (.ddrWriteCrcError f j 2) s = .next s)) ∧
  (∀ s k pc, k < 16 → pc < 64 → s.computing = true → Completes (.hbmArbHoldCutoff k pc) s (fun t =>
    t.evt.sticky.getLsbD (Cond.code .arbHoldCutoff) = true ∧ t.mem = { s.mem with hbmArbCut := s.mem.hbmArbCut + 1, hbmArbs := t.mem.hbmArbs } ∧
    (look {} (k, pc) t.mem.hbmArbs).holder = none ∧ (∀ y, y ≠ (k, pc) → look {} y t.mem.hbmArbs = look {} y s.mem.hbmArbs) ∧ t.tiles = s.tiles))

end

/-! ## Records, dumps, refusals and status -/

section

namespace Sys2Proof.Certificates

open Sys2Proof.Machine

/-- The mailbox stands ready for a scan: the host has given it to a Fenum that scans, and no command of it is in progress (R323, R324). -/
def Given (mb c : Nat) (s : State) : Prop :=
  mb < 16 ∧ s.scanning = true ∧ (s.mailbox mb).cmd.toNat = c ∧ (s.mailbox mb).owner = true ∧ (s.mailbox mb).wait = none

/-- The state in which the scan has taken the command: TICK_TAKEN names the tick (R322). -/
def taken (mb : Nat) (s : State) : State := s.onMailbox mb (fun x => { x with tickTaken := s.takenTick })

/-- The command `c` stands in the mailbox and no refusal of R325 applies before its own checks. -/
def Accepted (mb c : Nat) (s : State) : Prop := Given mb c s ∧ refusal mb (s.mailbox mb) (taken mb s) = none

/-- The command in the mailbox is answered: OWNER back to the host, STATUS, DETAIL and TICK_DONE written, SEQ and CMD as they were, and no
other mailbox changed (R323). -/
def Answered (mb status detail : Nat) (s t : State) : Prop :=
  let m := t.mailbox mb
  m.owner = false ∧ m.wait = none ∧ m.status = BitVec.ofNat 16 status ∧ m.detail = BitVec.ofNat 32 detail ∧
  m.cmd = (s.mailbox mb).cmd ∧ m.seq = (s.mailbox mb).seq ∧ ∀ k, k ≠ mb → t.mailbox k = s.mailbox k

/-- The command is answered OK with a response, at most 4,032 bytes, in the payload area (R322, R323). -/
def Responds (mb : Nat) (bytes : List Byte) (s t : State) : Prop :=
  Answered mb 0 0 s t ∧ (t.mailbox mb).respLen = BitVec.ofNat 16 bytes.length ∧ (t.mailbox mb).payload.readBytes 0 bytes.length = bytes

/-- The command stays in progress and waits for something (R326). -/
def Awaits (mb : Nat) (w : Wait) (s t : State) : Prop :=
  (t.mailbox mb).owner = true ∧ (t.mailbox mb).wait = some w ∧ (t.mailbox mb).cmd = (s.mailbox mb).cmd ∧ ∀ k, k ≠ mb → t.mailbox k = s.mailbox k

/-- Nothing but the host link's state is another. -/
def OnlyHost (s t : State) : Prop := t = { s with host := t.host }

/-- Mailbox rows of the table whose command code names them alone, with that code (chapter 10 Table 7). -/
def mailboxRows (mb : Nat) (reads : List MemRead) : List (Instr × Nat) :=
  [(.identify mb, 0x01), (.getStatus mb, 0x02), (.setPolicy mb, 0x10), (.loadImage mb, 0x20), (.openJob mb, 0x21), (.declareLoaves mb, 0x22),
   (.hostFill mb, 0x23), (.hostDrain { mb := mb, reads := reads }, 0x24), (.startJob mb, 0x30), (.pauseJob mb, 0x31), (.resumeJob mb, 0x32), (.stopJob mb, 0x33),
   (.fabricPlan mb, 0x40), (.fabricCommit mb, 0x41), (.windowOpen mb, 0x42), (.crumbCheck mb, 0x50), (.requalify mb, 0x51),
   (.readEvents mb, 0x60), (.clearSticky mb, 0x62), (.getDump mb, 0x63), (.resetCompute mb, 0x70), (.shutdown mb, 0x71), (.fwStage mb, 0x80)]

/-- Records of a store from a number on, in ascending SEQ, at most `n` (R450). -/
def recordsFrom (store : List EventRec) (first n : Nat) : List EventRec :=
  ((store.filter (fun e => decide (first ≤ e.seq))).mergeSort (fun a b => decide (a.seq ≤ b.seq))).take n

end Sys2Proof.Certificates

open Sys2Proof Sys2Proof.Machine Sys2Proof.Certificates

/-- What the host reads and clears of the recorder. READ_EVENTS answers HEAD_SEQ, the count and the records from a number on in ascending SEQ. CLEAR_EVENTS
gives a nonce, the only one that counts from then on; with that nonce and a good signature the records of the range leave both stores,
EVENTS_CLEARED follows and is persisted at once, and the nonce is spent; a bad signature is answered AUTH_FAIL. CLEAR_STICKY clears the bits
of its mask and sets that of STICKY_CLEARED. EVENT_PERSIST begins a copy of the records above PERSIST_SEQ up to HEAD_SEQ, and its end puts them and the
sticky map into the NOR flash. Rests on R348, R358, R359, R450 to R452.
Model's choices it rests on: notes/assumptions/5.md, notes/assumptions/50.md. -/
def Obligations.EventStores : Prop :=
  (∀ s mb, Accepted mb 0x60 s → let m := s.mailbox mb
    m.arg 0 1 ≤ 1 → m.arg 1 1 = 0 → 1 ≤ m.arg 2 2 → m.arg 2 2 ≤ 62 → m.arg 4 4 = 0 →
    let store := if m.arg 0 1 = 0 then s.evt.ring else s.nor.events
    let l := recordsFrom store (m.arg 8 8) (m.arg 2 2)
    Completes (.readEvents mb) s (fun t => OnlyHost s t ∧
      Responds mb (leBytes 8 (headOf store) ++ leBytes 4 l.length ++ leBytes 52 0 ++ (l.map eventBytes).flatten) s t)) ∧
  (∀ s mb, Accepted mb 0x61 s → (s.mailbox mb).subop = 0 → Completes (.clearEventsNonce mb) s (fun t =>
    Responds mb (leBytes 16 (Config.freeValue s.freeCtr).toNat) s t ∧ t.sec.nonceClear = some (Config.freeValue s.freeCtr) ∧
    t = { s with host := t.host, sec := { s.sec with nonceClear := t.sec.nonceClear }, freeCtr := s.freeCtr + 1 })) ∧
  (∀ s mb k, Accepted mb 0x61 s → let m := s.mailbox mb
    m.subop = 1 → m.arg 4 8 ≤ m.arg 12 8 → m.arg 12 8 ≤ s.eventHead → keyFor s.nor.clearKeys (m.arg 36 8) = some k →
    s.sec.nonceClear = some (BitVec.ofNat 128 (leNat (m.argBytes 20 16))) →
    let signed := leBytes 16 s.nor.serial.toNat ++ m.argBytes 20 16 ++ m.argBytes 4 16
    let good := Config.ecdsaVerify k (Config.sha384 signed) (sigOf (m.argBytes 44 96))
    (good = true → s.evt.copying = none → Completes (.clearEventsClear mb) s (fun t =>
      Answered mb 0 0 s t ∧ t.sec.nonceClear = none ∧
      (∀ e ∈ t.evt.ring, (e.seq < m.arg 4 8 ∨ m.arg 12 8 < e.seq) ∨ e.seq = s.evt.headSeq + 1) ∧
      (∀ e ∈ t.nor.events, (e.seq < m.arg 4 8 ∨ m.arg 12 8 < e.seq) ∨ e.seq = s.evt.headSeq + 1) ∧
      t.evt.sticky.getLsbD (Cond.code .eventsCleared) = true ∧ t.nor.sticky = t.evt.sticky)) ∧
    (good = false → Completes (.clearEventsClear mb) s (fun t => Answered mb 5 0 s t ∧ t.evt = s.evt ∧ t.nor = s.nor))) ∧
  (∀ s mb, Accepted mb 0x62 s → let m := s.mailbox mb
    1 ≤ m.arg 4 4 → m.arg 4 4 ≤ 4024 → m.arg 0 4 + m.arg 4 4 ≤ 4096 →
    let mask : BitVec 32768 := BitVec.ofNat 32768 (m.arg 8 (m.arg 4 4) * 2 ^ (8 * m.arg 0 4))
    Completes (.clearSticky mb) s (fun t =>
      (∀ b < 32768, t.evt.sticky.getLsbD b = ((s.evt.sticky.getLsbD b && !mask.getLsbD b) || b == Cond.code .stickyCleared)) ∧
      Responds mb (leBytes 4 (countBits 32768 (s.evt.sticky &&& mask).toNat)) s t)) ∧
  (∀ s, s.scanning = true → s.evt.copying = none → exec (.eventPersist false) s = .next { s with
    evt := { s.evt with copying := some s.evt.headSeq, copyDue := false } }) ∧
  (∀ s hi, s.evt.copying = some hi → s.evt.clear = none → s.nor.events.length + (s.unpersisted hi).length ≤ 524288 →
    Completes .eventPersistComplete s (fun t => t.nor.events = s.nor.events ++ s.unpersisted hi ∧ t.nor.sticky = s.evt.sticky ∧
      t.evt = { s.evt with copying := none, persistSeq := Nat.max s.evt.persistSeq hi } ∧
      t = { s with evt := t.evt, nor := { s.nor with events := t.nor.events, eventsHead := t.nor.eventsHead, sticky := t.nor.sticky } }))

/-- GET_DUMP without a list maps the dump it selects into the window and answers its length, cause and tick, or 24 zero bytes where there is
none; with a list it waits for its DMA, and the bytes of the dump, as they stood, go to the host's segments in list order. A captured dump is
copied to the NOR flash, once at a time, unless the one there is of FATAL evidence and it is not; when the copy ends it stands there. Rests on R332, R349, R453, R454.
Model's choices it rests on: notes/assumptions/12.md, notes/assumptions/51.md. -/
def Obligations.DumpsReachTheHost : Prop :=
  (∀ s mb, Accepted mb 0x63 s → let m := s.mailbox mb
    m.arg 0 4 ≤ 1 → m.arg 4 8 % 4096 = 0 → m.arg 20 8 % 16 = 0 →
    (s.dumpOf (m.arg 0 4) = none → Completes (.getDump mb) s (fun t => OnlyHost s t ∧ t.host.dumpMap = none ∧
      Responds mb (leBytes 24 0) s t)) ∧
    (∀ slot d, s.dumpOf (m.arg 0 4) = some (slot, d) →
      (m.arg 20 8 = 0 → Completes (.getDump mb) s (fun t => OnlyHost s t ∧ t.host.dumpMap = some (m.arg 0 4, slot, m.arg 4 8) ∧ t.host.dumpView = some d ∧
        Responds mb (leBytes 8 d.bytes ++ leBytes 4 d.cause ++ leBytes 4 0 ++ leBytes 8 d.snapTick) s t)) ∧
      (m.arg 20 8 ≠ 0 → Completes (.getDump mb) s (fun t => OnlyHost s t ∧ t.host.dumpMap = none ∧
        Awaits mb (.dma (leBytes 8 d.bytes ++ leBytes 4 d.cause ++ leBytes 4 0 ++ leBytes 8 d.snapTick ++
          (List.range (m.arg 12 8)).map (fun i => dumpByteAt d (m.arg 4 8 + i)))) s t)))) ∧
  (∀ s mb list h data, mb < 16 → h.length = 24 → s.dmaOf mb 0x63 = some (h ++ data) →
    (listFault (some data.length) list 0 0 = none → Completes (.getDumpDmaComplete mb list) s (fun t =>
      Responds mb h s t ∧ s.host.sent ++ scatter list data <+: t.host.sent ∧ OnlyHost s t)) ∧
    (∀ i, listFault (some data.length) list 0 0 = some i → Completes (.getDumpDmaComplete mb list) s (fun t =>
      Answered mb 2 i s t ∧ s.host.sent ++ scatter (list.take i) data <+: t.host.sent ∧ OnlyHost s t))) ∧
  (∀ s slot d, s.evt.dumpDue = some slot → s.hubDump slot = some d → s.evt.persisting = none → s.scanning = true →
    (d.fatal = true ∨ (s.tests.reset = none ∧ s.dev.restarting = false)) →
    ((d.fatal = true ∨ ∀ x, s.nor.dump = some x → x.fatal = false) →
      exec .dumpPersist s = .next { s with evt := { s.evt with dumpDue := none, persisting := some slot } }) ∧
    (d.fatal = false → (∃ x, s.nor.dump = some x ∧ x.fatal = true) →
      exec .dumpPersist s = .next { s with evt := { s.evt with dumpDue := none, persisting := none } })) ∧
  (∀ s slot, s.evt.persisting = some slot → exec .dumpPersistComplete s = .next { s with
    nor := { s.nor with dump := if slot = 0 then s.evt.dump0 else s.evt.dump1 }, evt := { s.evt with persisting := none } })

/-- Refusals in the order of R325. A command outside Table 7 is answered NOT_SUPPORTED. A row of Table 7 in MB00, save STOP_JOB, RESET_COMPUTE and SHUTDOWN,
is answered BAD_ARG; one its state does not take BAD_STATE, or BUSY where a reset ends in a state that takes it; a job command, under a test instruction of the
scan port that fences compute, FENCED; one that changes state while a change is in
progress, or that moves bulk data while another does, BUSY; one whose LEN does not fit BAD_ARG with DETAIL all ones. A refused command
changes nothing but its mailbox and the host link. MB00_SCAN and SLOW_MAILBOX_SCAN take and answer likewise. Rests on R324, R325, R328 to R331, R353.
Model's choices it rests on: notes/assumptions/7.md, notes/assumptions/23.md, notes/assumptions/33.md, notes/assumptions/54.md. -/
def Obligations.RefusalsInOrder : Prop :=
  (∀ s mb c, Given mb c s → c ∉ knownCommands → Completes (.unknownCommand mb) s (fun t => Answered mb 6 0 s t ∧ OnlyHost s t)) ∧
  (∀ s mb reads, ∀ row ∈ mailboxRows mb reads, Given mb row.2 s → let m := s.mailbox mb
    let no := fun st d => Completes row.1 s (fun t => Answered mb st d s t ∧ OnlyHost s t)
    (mb = 0 → row.2 ∉ [0x33, 0x70, 0x71] → no 2 0) ∧
    (mb ≠ 0 → row.2 ∉ [0x33, 0x70, 0x71] →
      (allowedIn m s.dev.state s = false →
        (s.dev.resetBusy = false → no 3 0) ∧ (s.dev.resetBusy = true → allowedIn m s.endState s = true → no 1 0)) ∧
      (allowedIn m s.dev.state s = true → s.dev.tap.isSome = true → jobCommand row.2 = true ∨ row.2 = 0x21 → no 9 0) ∧
      (allowedIn m s.dev.state s = true → (s.dev.tap = none ∨ (jobCommand row.2 = false ∧ row.2 ≠ 0x21)) →
        (changesState m = true → s.changing = true → no 1 0) ∧
        (changesState m = false ∨ s.changing = false →
          (bulkCommand m = true → s.bulkBusy = true → no 1 0) ∧
          (bulkCommand m = false ∨ s.bulkBusy = false → row.2 ≠ 0x40 → lenFits m = false → no 2 0xFFFFFFFF)))) ∧
    (∀ r, refusal mb m (taken mb s) = some r → no r.1 r.2)) ∧
  (∀ s c, Given 0 c s → s.ticking = true → c ∉ knownCommands → Completes .mb00Scan s (fun t => Answered 0 6 0 s t ∧ OnlyHost s t)) ∧
  (∀ s mb c, Given mb c s → c ∉ knownCommands → (s.dev.state = .starting ∨ s.dev.state = .halted) →
    (∀ k, k ≠ mb → (s.mailbox k).owner = false) → Completes .slowMailboxScan s (fun t => Answered mb 6 0 s t ∧ OnlyHost s t)) ∧
  (∀ s mb st i, mb < 16 → s.dev.fenumRunning = true → (∃ out, (s.mailbox mb).wait = some (.dma out)) → (s.mailbox mb).cmd.toNat = 0x63 →
    (i, st) ∈ [(Instr.dmaCompletionTimeout mb, 8), (.dmaWaitTimeout mb, 8), (.dmaCompletionError (.command mb), 7)] →
    Completes i s (fun t => Answered mb st 0 s t ∧ OnlyHost s t))

/-- IDENTIFY answers the part's identity (Table 8). GET_STATUS answers a section: SECTION, COUNT, NEXT_INDEX and its data; section 0 is the sticky map.
SET_POLICY sets every item of a list of known keys with values in range, and answers every key with its value; a list with a bad item sets none and is answered
BAD_ARG with that item's index. Rests on R218, R329, R333, R334, R358.
Model's choices it rests on: notes/assumptions/5.md, notes/assumptions/37.md, notes/assumptions/38.md. -/
def Obligations.IdentityStatusPolicy : Prop :=
  (∀ s mb, Accepted mb 0x01 s → s.sec.deviceId = true → Completes (.identify mb) s (fun t => OnlyHost s t ∧
    Responds mb (leBytes 16 s.nor.serial.toNat ++ leBytes 2 4 ++ leBytes 2 0x0400 ++ leBytes 1 s.nor.reserveShip ++ leBytes 1 s.verified ++
      leBytes 1 s.nor.ddrChannels ++ leBytes 1 0 ++ leBytes 2 s.nor.dimmGib ++ leBytes 2 s.lifecycleValue ++ leBytes 4 0 ++
      leBytes 8 s.runningFw.version.toNat ++ leBytes 8 (s.otherFw.getD {}).version.toNat ++
      hashBytes (Config.sha384 (Config.deviceKey s.nor.serial)) ++ leBytes 16 0) s t)) ∧
  (∀ s mb, Accepted mb 0x02 s → let m := s.mailbox mb
    m.arg 2 2 = 0 →
    (m.arg 0 2 = 0 → m.arg 4 4 < 4096 →
      let n := Nat.min 4016 (4096 - m.arg 4 4)
      Completes (.getStatus mb) s (fun t => t = { s with host := t.host, freeCtr := t.freeCtr } ∧
        Responds mb (leBytes 4 0 ++ leBytes 4 n ++ leBytes 4 (if m.arg 4 4 + n < 4096 then m.arg 4 4 + n else 0xFFFFFFFF) ++ leBytes 4 0 ++
          leBytes n (s.evt.sticky.toNat / 2 ^ (8 * m.arg 4 4))) s t)) ∧
    (7 < m.arg 0 2 → Completes (.getStatus mb) s (fun t => Answered mb 2 0 s t ∧ OnlyHost s t))) ∧
  (∀ s mb, Accepted mb 0x10 s → let items := policyItems (s.mailbox mb)
    ((∀ x ∈ items, itemFits x = true) → Completes (.setPolicy mb) s (fun t =>
      t.pol = items.foldl (fun p x => p.set x.1 x.2) s.pol ∧
      Responds mb (policyKeys.map (fun k => leBytes 4 k.1 ++ leBytes 4 (t.pol.get k.1))).flatten s t ∧
      (s.job = none → t = { s with host := t.host, pol := t.pol }))) ∧
    (∀ i, (∀ j < i, ∀ x, items[j]? = some x → itemFits x = true) → (∃ x, items[i]? = some x ∧ itemFits x = false) →
      Completes (.setPolicy mb) s (fun t => Answered mb 2 i s t ∧ OnlyHost s t)))

end

/-! ## Images, jobs and host data -/

section

namespace Sys2Proof.Certificates

open Sys2Proof.Machine

/-- The mailboxes after some commands were answered: those that `which` selects as `Answered` says, the others unchanged. -/
def MailboxesAnswered (which : Nat → Prop) (status detail : Nat) (s t : State) : Prop :=
  ∀ k < 16,
    (which k → (t.mailbox k).owner = false ∧ (t.mailbox k).wait = none ∧ (t.mailbox k).status = BitVec.ofNat 16 status ∧
      (t.mailbox k).detail = BitVec.ofNat 32 detail ∧ (t.mailbox k).cmd = (s.mailbox k).cmd ∧ (t.mailbox k).seq = (s.mailbox k).seq) ∧
    (¬ which k → t.mailbox k = s.mailbox k)

/-- The ACCESS counters of the loaves are one higher, at most 255, and no other field of an entry and no byte of a frame is another (R197). -/
def LoavesTouched (loaves : List Nat) (s t : State) : Prop :=
  (∀ k ∈ loaves, t.entry k = { s.entry k with access := Nat.min 255 ((s.entry k).access + 1) }) ∧ (∀ k, k ∉ loaves → t.entry k = s.entry k)

/-- The lines that a host fill of a mailbox puts into the journal from a line of a loaf on, in order (R50, R68, R69). -/
def hostLines (mb loaf serial : Nat) : Nat → List (List Byte) → List JournalEntry
  | _, [] => []
  | line, d :: l => { serial := serial, op := .put loaf line d { rank := 4, key1 := mb, key2 := 0 } } :: hostLines mb loaf serial (line + 1) l

end Sys2Proof.Certificates

open Sys2Proof Sys2Proof.Machine Sys2Proof.Certificates

/-- LOAD_IMAGE begins a DMA; when it ends the image is checked and loaded, or refused and none is loaded: an image above 4 GiB is NO_SPACE, one of another
magic, version or generation NOT_SUPPORTED. OPEN_JOB on a loaded image without faults whose loaves fit opens the job in READY, with no task done; a collective image
without a plan is BAD_STATE, a faulty one BAD_ARG, one that does not fit NO_SPACE. DECLARE_LOAVES lays its records over the declarations, all or
none, the total of KEEP_IN_SLICE loaves taken when all are laid. Rests on R23 to R25, R40, R41, R187, R203, R335.
Model's choices it rests on: notes/assumptions/35.md, notes/assumptions/40.md, notes/assumptions/74.md, notes/assumptions/75.md. -/
def Obligations.ImagesAndJobs : Prop :=
  (∀ s mb, Accepted mb 0x20 s → let list := (s.mailbox mb).arg 0 8
    (list % 16 = 0 → Completes (.loadImage mb) s (fun t => OnlyHost s t ∧ Awaits mb (.dma []) s t)) ∧
    (list % 16 ≠ 0 → Completes (.loadImage mb) s (fun t => OnlyHost s t ∧ Answered mb 2 0 s t))) ∧
  (∀ s mb list data out, mb < 16 → s.dmaOf mb 0x20 = some out →
    let raw := dmaData (listBytes list) data
    let ends := fun im raw st d => Completes (.loadImageDmaComplete mb list data) s (fun t => Answered mb st d s t ∧
      t.dev = { s.dev with imageLoaded := im, imageRaw := raw } ∧ t = { s with host := t.host, dev := t.dev })
    (∀ i, listFault none list 0 0 = some i → ends none [] 2 i) ∧
    (listFault none list 0 0 = none →
      (4294967296 < raw.length → ends none [] 4 0) ∧
      (raw.length ≤ 4294967296 → (rawLe raw 0 4 ≠ 0x4947544C ∨ rawLe raw 4 2 ≠ 0x0400 ∨ rawLe raw 6 2 ≠ 4) → ends none [] 6 0) ∧
      (∀ st d, loadImageCheck raw (decide (s.pol.requireSigned = 1)) s.nor.imageKeys = .inl (st, d) → ends none [] st d) ∧
      (∀ im, loadImageCheck raw (decide (s.pol.requireSigned = 1)) s.nor.imageKeys = .inr im → ends (some im) raw 0 0))) ∧
  (∀ s mb im, Accepted mb 0x21 s → s.dev.imageLoaded = some im →
    let refused := fun st d => Completes (.openJob mb) s (fun t => Answered mb st d s t ∧ OnlyHost s t)
    let faults := imageFaults s.dev.imageRaw im s.fab.plan (openRanges s.fab.proxies)
    (im.collPresent = true → s.fab.plan = none → refused 3 0) ∧
    (im.collPresent = false ∨ s.fab.plan ≠ none →
      (faults ≠ [] → refused 2 (itemDetail faults)) ∧
      (faults = [] → capacityOk im im.decls s.pol.versionReserve s.nor = false → refused 4 0) ∧
      (faults = [] → capacityOk im im.decls s.pol.versionReserve s.nor = true → Completes (.openJob mb) s (fun t => Answered mb 0 0 s t ∧
        t.dev.state = .ready ∧ t.job = some { seed := BitVec.ofNat 64 ((s.mailbox mb).arg 0 8), image := im.opened, decls := im.decls } ∧ t.att.rates = s.nor.startRates ∧
        t.coll = [] ∧ t.fab.peers = [] ∧ t.att.slip = 0 ∧ (s.fab.plan = none → t.time.nextPeriodUs = im.tickUs) ∧
        t.mem.dir = s.mem.dir ∧ t.mem.bytes = s.mem.bytes)))) ∧
  (∀ s mb j, Accepted mb 0x22 s → s.job = some j → let m := s.mailbox mb
    m.arg 4 12 = 0 →
    let laid := declareAll j.image.tensorCount ((List.range (m.arg 0 4)).map (fun i => m.arg (16 + 16 * i) 16)) j.decls
    (∀ i, laid = .inl i → Completes (.declareLoaves mb) s (fun t => Answered mb 2 i s t ∧ OnlyHost s t)) ∧
    (∀ ds, laid = .inr ds →
      (capacityOk j.image ds s.pol.jobReserve s.nor = false → Completes (.declareLoaves mb) s (fun t => Answered mb 4 0 s t ∧ OnlyHost s t)) ∧
      (capacityOk j.image ds s.pol.jobReserve s.nor = true → Completes (.declareLoaves mb) s (fun t => Answered mb 0 0 s t ∧
        t.job = some { j with decls := ds })))) ∧
  (∀ tensors r ds, let d := parseDecl r
    declBroken d = false → bits r 56 8 = 0 → bits r 96 32 = 0 → d.tensor < tensors →
    ((∀ e ∈ ds, declsMeet d e = false) → declareOne tensors r ds = some (ds ++ [d])) ∧
    (∀ e, ds.find? (fun e => declsMeet d e) = some e → e.first ≠ d.first → declareOne tensors r ds = none)) ∧
  (∀ tensors rs ds,
    (∀ i, declareEach tensors rs 0 ds = .inl i → declareAll tensors rs ds = .inl i) ∧
    (∀ ds', declareEach tensors rs 0 ds = .inr ds' →
      (keptLoaves ds' ≤ 14336 → declareAll tensors rs ds = .inr ds') ∧ (14336 < keptLoaves ds' → ∃ i, declareAll tensors rs ds = .inl i)))

/-- HOST_FILL, HOST_DRAIN and CHECKPOINT check their arguments and begin their DMA; a drain or save takes the committed contents as they
then stand, each HBM4 line by a grant of its front end; a drain or fill raises ACCESS of the loaves of its range. Arguments pass only for
1 to 2^33 lines of declared loaves below 2^25, all HOST_IN for a fill. When a fill's DMA ends its lines enter the journal and the pending versions, and it waits for the commit.
A drain or save whose last byte is at the host is answered OK. A restore whose stream fits sets the job's counters, exhausted trays and place and waits for a commit; another is BAD_ARG. Rests on R49, R50, R69, R87, R197, R237, R336, R338 to R341.
Model's choices it rests on: notes/assumptions/25.md, notes/assumptions/39.md, notes/assumptions/82.md. -/
def Obligations.HostLoavesAndCheckpoints : Prop :=
  (∀ s m flag, hostArgs m flag s = none → let first := m.arg 0 4
    let lines := m.arg 8 8
    m.arg 4 4 ≤ 2047 ∧ 1 ≤ lines ∧ lines ≤ 2 ^ 33 ∧ first + (m.arg 4 4 + lines - 1) / 2048 < 33554432 ∧ m.arg 16 8 % 16 = 0 ∧
    ∀ l, first ≤ l → l ≤ first + (m.arg 4 4 + lines - 1) / 2048 → ∃ j d, s.job = some j ∧ d ∈ j.decls ∧ d.first ≤ l ∧ l < d.first + d.count ∧ flag d = true) ∧
  (∀ s mb, let m := s.mailbox mb
    (Accepted mb 0x23 s →
      (∀ d, hostArgs m (·.hostIn) s = some d → Completes (.hostFill mb) s (fun t => OnlyHost s t ∧ Answered mb 2 d s t)) ∧
      (hostArgs m (·.hostIn) s = none → Completes (.hostFill mb) s (fun t => OnlyHost s t ∧ Awaits mb (.dma []) s t))) ∧
    (Accepted mb 0x24 s →
      (∀ d reads, hostArgs m (·.hostOut) s = some d → Completes (.hostDrain { mb := mb, reads := reads }) s (fun t => OnlyHost s t ∧ Answered mb 2 d s t)) ∧
      (∀ reads, hostArgs m (·.hostOut) s = none → (∀ r ∈ reads, r.outcome = .clean) → Completes (.hostDrain { mb := mb, reads := reads }) s (fun t =>
        Awaits mb (.dma (s.readLines (m.arg 0 4) (m.arg 4 4) (m.arg 8 8))) s t ∧ LoavesTouched m.rangeLoaves s t ∧
        t = { s with host := t.host, mem := { s.mem with dir := t.mem.dir, hbmArbs := t.mem.hbmArbs } })))) ∧
  (∀ s mb list data out f, let m := s.mailbox mb
    let n := 64 * m.arg 8 8
    let loaf := m.arg 0 4
    mb < 16 → s.dmaOf mb 0x23 = some out →
    (∀ i, listFault (some n) list 0 0 = some i → Completes (.hostFillDmaComplete mb list data) s (fun t => Answered mb 2 i s t ∧ OnlyHost s t)) ∧
    (listFault (some n) list 0 0 = none → m.owner = true → m.arg 4 4 + m.arg 8 8 ≤ 2048 → s.pendingFrame loaf = some f → 14336 ≤ f →
      (∀ k, look? (loaf, k) s.mem.writers = none ∧ look? (loaf, k) s.mem.byteWriters = none ∧ ∀ x, look? (loaf, k) s.mem.filled = some x → x ≤ mb) → (∀ k ∈ m.rangeLoaves, (s.declared k).isSome = true) →
      CanonicalMemory s →
      Completes (.hostFillDmaComplete mb list data) s (fun t => Awaits mb .publish s t ∧ t.pendingFrame loaf = some f ∧ LoavesTouched m.rangeLoaves s t ∧
        t.mem.journal = s.mem.journal ++ hostLines mb loaf s.att.serial (m.arg 4 4) (cutLines (dmaData n data)) ∧
        (∀ k < m.arg 8 8, t.readPending loaf (m.arg 4 4 + k) = ((dmaData n data).drop (64 * k)).take 64) ∧
        (∀ a, ¬ (131072 * f + 64 * m.arg 4 4 ≤ a ∧ a < 131072 * f + 64 * (m.arg 4 4 + m.arg 8 8)) → t.mem.bytes.read a = s.mem.bytes.read a)))) ∧
  (∀ s mb list out, mb < 16 → s.dmaOf mb 0x24 = some out →
    (listFault (some out.length) list 0 0 = none → Completes (.hostDrainComplete mb list) s (fun t => Answered mb 0 0 s t ∧
      s.host.sent ++ scatter list out <+: t.host.sent ∧ OnlyHost s t)) ∧
    (∀ i, listFault (some out.length) list 0 0 = some i → Completes (.hostDrainComplete mb list) s (fun t => Answered mb 2 i s t ∧ OnlyHost s t))) ∧
  (∀ s mb j, Accepted mb 0x34 s → s.job = some j → let m := s.mailbox mb
    (∀ d, checkpointArgs m j = some d → m.mode ≠ 1 → ∀ reads, Completes (.checkpointSave { mb := mb, reads := reads }) s (fun t => OnlyHost s t ∧ Answered mb 2 d s t)) ∧
    (∀ d, checkpointArgs m j = some d → m.mode = 1 → Completes (.checkpointRestore mb) s (fun t => OnlyHost s t ∧ Answered mb 2 d s t)) ∧
    (checkpointArgs m j = none → m.mode = 0 → ∀ reads, (∀ r ∈ reads, r.outcome = .clean) → Completes (.checkpointSave { mb := mb, reads := reads }) s (fun t =>
      Awaits mb (.dma (checkpointStream j s)) s t ∧ t = { s with host := t.host, mem := { s.mem with hbmArbs := t.mem.hbmArbs } })) ∧
    (checkpointArgs m j = none → m.mode = 1 → Completes (.checkpointRestore mb) s (fun t => OnlyHost s t ∧ Awaits mb (.dma []) s t))) ∧
  (∀ s mb list data out j, let m := s.mailbox mb
    let b := dmaData (m.arg 8 8) data
    let c := Instr.checkpointTransferComplete mb list data
    mb < 16 → s.dmaOf mb 0x34 = some out → s.job = some j → listFault (some (m.arg 8 8)) list 0 0 = none →
    (m.mode = 0 → Completes c s (fun t => Answered mb 0 0 s t ∧ s.host.sent ++ scatter list out <+: t.host.sent ∧ t.mem.kept = [] ∧
      t = { s with host := t.host, mem := t.mem })) ∧
    (m.mode ≠ 0 → streamRefused j b = true → Completes c s (fun t => Answered mb 2 0 s t ∧ OnlyHost s t)) ∧
    (m.mode ≠ 0 → m.owner = true → streamRefused j b = false → Completes c s (fun t => Awaits mb .publish s t ∧ ∃ j', t.job = some j' ∧
      j'.restoredAt = some (rawLe b 0x48 4, rawLe b 0x4C 4, bitList j.image.taskCount (rawLe b 256 (ceilDiv j.image.taskCount 8))) ∧
      j' = { j with counters := j'.counters, exhausted := j'.exhausted, restoredAt := j'.restoredAt } ∧
      j'.exhausted.length = rawLe b 0x58 4)))

/-- START_JOB and RESUME_JOB make the job wait for its first slot, answered later; START_JOB with FROM_RESTORED needs a published restore. PAUSE_JOB discards the provisional admission and
its run-ahead; PAUSE_ENTER_READY then enters READY at a boundary with no collective outstanding and answers it. STOP_JOB and RESET_COMPUTE fence and wipe: TRANSIT with RESET_BUSY,
no job, no image, a new key for each stack and each channel that carries modules, commands of the job answered FENCED. COMPUTE_RESET_COMPLETE with nothing failed ends in STANDBY, which forwards, answers those commands OK, clears windows
and advances the reset generation. Rests on R7 to R9, R21, R53, R86, R245, R328, R330, R337, R361, R362.
Model's choices it rests on: notes/assumptions/22.md, notes/assumptions/88.md. -/
def Obligations.JobControl : Prop :=
  (∀ s mb j, Accepted mb 0x30 s → s.job = some j → let m := s.mailbox mb
    (j.startAt.isSome = true → Completes (.startJob mb) s (fun t => Answered mb 1 0 s t ∧ OnlyHost s t)) ∧
    (j.startAt = none →
      (m.arg 4 4 = 0 ∨ (m.arg 4 4 = 1 ∧ m.arg 0 4 = 0 ∧ j.restoredAt.isSome = true ∧ j.restored = true) → Completes (.startJob mb) s (fun t =>
        Awaits mb .slot s t ∧ t = { s with host := t.host, job := some { j with startAt := some (mb, m.arg 8 8) } })) ∧
      (m.arg 4 4 = 1 → m.arg 0 4 = 0 → j.restored = false → Completes (.startJob mb) s (fun t => Answered mb 3 0 s t ∧ OnlyHost s t)))) ∧
  (∀ s mb j, Accepted mb 0x32 s → s.job = some j → let m := s.mailbox mb
    (j.startAt.isSome = true → Completes (.resumeJob mb) s (fun t => Answered mb 1 0 s t ∧ OnlyHost s t)) ∧
    (j.startAt = none → Completes (.resumeJob mb) s (fun t => Awaits mb .slot s t ∧
      t = { s with host := t.host, job := some { j with startAt := some (mb, m.arg 0 8) } }))) ∧
  (∀ s mb j, Accepted mb 0x31 s → s.job = some j → Completes (.pauseJob mb) s (fun t => Awaits mb .state s t ∧ t.att.provisional = [] ∧
    (∀ p r, (t.tile p).runAhead = some r → r.ahead = false) ∧ (∀ p r, (s.tile p).runAhead = some r → r.ahead = false → t.tile p = s.tile p) ∧
    t = { s with host := t.host, job := some { j with pausing := some mb }, att := { s.att with provisional := [] }, tiles := t.tiles })) ∧
  (∀ s mb j, s.job = some j → j.pausing = some mb → s.dev.state = .running → s.att.phase = .commit →
    (j.collIssued.all (fun c => j.collDone.contains c) = true → (s.mailbox mb).wait = some .state → Completes .pauseEnterReady s (fun t =>
      Answered mb 0 0 s t ∧ t.dev.state = .ready ∧ t.att.running = false ∧ t.job = some { j with pausing := none, paused := true })) ∧
    (j.collIssued.all (fun c => j.collDone.contains c) = false → exec .pauseEnterReady s = .next s)) ∧
  (∀ s mb c i, Accepted mb c s → (i, c) ∈ [(Instr.stopJob mb, 0x33), (.resetCompute mb, 0x70)] → s.tests.requalify = none →
    (s.tests.reset.isSome = true → Completes i s (fun t => OnlyHost s t ∧ Awaits mb .state s t)) ∧
    (s.tests.reset = none → Completes i s (fun t =>
      t.dev.state = .transit ∧ t.dev.fenced = true ∧ t.dev.resetBusy = true ∧ t.job = none ∧ t.dev.imageLoaded = none ∧ t.tiles = [] ∧
      t.mem.bytes = [] ∧ t.mem.dir = [] ∧ t.mem.journal = [] ∧ t.coll = [] ∧ t.sec.memKeyGen = s.sec.memKeyGen + 1 ∧ t.sec.memKeys = (List.range 16 ++ s.nor.channels.map (16 + ·)).map (·, s.sec.memKeyGen + 1) ∧ t.att.running = false ∧
      t.tests.retiring = [] ∧ t.tests.crumb = none ∧ t.tests.reset = some { mailbox := some mb, contains := 0, fatal := false, retire := s.tests.retiring ++ (match s.tests.crumb with | some c => c.retired.map (·, Cond.crumbMismatch) | none => []) } ∧
      (t.mailbox mb).owner = true ∧ (t.mailbox mb).wait = some .state ∧
      ∀ k < 16, k ≠ mb →
        ((s.mailbox k).wait.isSome = true → jobCommand (s.mailbox k).cmd.toNat = true →
          (t.mailbox k).owner = false ∧ (t.mailbox k).wait = none ∧ (t.mailbox k).status = 9 ∧ (t.mailbox k).detail = 0) ∧
        ((s.mailbox k).wait = none ∨ jobCommand (s.mailbox k).cmd.toNat = false → t.mailbox k = s.mailbox k)))) ∧
  (∀ s run, s.tests.reset = some run → run.retire = [] → s.dev.restarting = false → s.tests.moves = [] → s.tests.requalify = none →
    s.dev.fatalTransit = false → (∀ p ∈ s.defectTiles, s.logical? p = none) → Completes (.computeResetComplete [] []) s (fun t =>
      t.dev.state = .standby ∧ t.dev.fenced = s.dev.tap.isSome ∧ t.dev.forwarding = true ∧ t.dev.transmitters = s.dev.tap.isNone ∧ t.dev.resetBusy = false ∧ t.tests.reset = none ∧ t.fab.resetGen = (s.fab.resetGen + 1) % 16 ∧
      t.fab.windows = [] ∧ t.fab.proxies = [] ∧ t.fab.peers = [] ∧
      t.clk.mhz = (if s.clk.mhz = 0 then Nat.min 2000 s.clk.thermalCeil else s.clk.mhz) ∧
      MailboxesAnswered (fun k => (s.mailbox k).wait = some .state ∧ ((s.mailbox k).cmd = 0x33 ∨ (s.mailbox k).cmd = 0x70)) 0 0 s t ∧
      (∀ p, (s.port p).state = .up → t.port p = s.port p)))

end

/-! ## Fabric plans, windows, tests and firmware -/

section

open Sys2Proof Sys2Proof.Machine Sys2Proof.Certificates

/-- FABRIC_PLAN begins a DMA; a plan that breaks a rule is BAD_ARG, one that would move an open job's place BAD_STATE, any other stands in the shadow and no committed plan changes;
a device without a plan adopts its anchor. FABRIC_COMMIT needs a shadow and time lock, one commit at a time and T_S at least two ticks on: it waits for the drain and swap of T_S and
releases the held ports that no defect holds. WINDOW_OPEN advances a local window's generation and answers it; WINDOW_CLOSE waits for the commit, or for a proxy's replies. Rests on R264, R275, R283, R294, R343 to R347.
Model's choices it rests on: notes/assumptions/34.md, notes/assumptions/36.md. -/
def Obligations.FabricAndWindowCommands : Prop :=
  (∀ s mb, Accepted mb 0x40 s → let m := s.mailbox mb
    (m.arg 0 8 % 16 = 0 → 256 ≤ m.arg 8 4 → m.arg 8 4 ≤ 1573120 → m.arg 12 4 = 0 →
      Completes (.fabricPlan mb) s (fun t => OnlyHost s t ∧ Awaits mb (.dma []) s t)) ∧
    (m.arg 0 8 % 16 = 0 → m.arg 8 4 < 256 ∨ 1573120 < m.arg 8 4 → Completes (.fabricPlan mb) s (fun t => OnlyHost s t ∧ Answered mb 2 8 s t))) ∧
  (∀ s mb list data out, mb < 16 → s.dmaOf mb 0x40 = some out →
    let n := (s.mailbox mb).arg 8 4
    let raw := (dmaData (align64 n) data).take n
    let pl := parsePlan raw
    let fits := planShapeFits raw && planRangesFit pl && planFitsHere pl s
    let moves := s.job.isSome && !(match s.fab.plan with | some old => samePlace old pl | none => true)
    let c := Instr.fabricPlanDmaComplete mb list data
    listFault (some (align64 n)) list 0 0 = none →
    (fits = false → Completes c s (fun t => Answered mb 2 0 s t ∧ OnlyHost s t)) ∧
    (fits = true → moves = true → Completes c s (fun t => Answered mb 3 0 s t ∧ OnlyHost s t)) ∧
    (fits = true → moves = false → s.fab.swap = none → Completes c s (fun t => Answered mb 0 0 s t ∧ t.fab.shadow = some pl ∧
      t.fab.plan = s.fab.plan ∧ t.job = s.job ∧ (s.fab.plan = none → t.time.anchor = pl.anchor) ∧ (s.fab.plan ≠ none → t.time = s.time)))) ∧
  (∀ s mb, Accepted mb 0x41 s → let t0 := (s.mailbox mb).arg 0 8
    let no := fun st => Completes (.fabricCommit mb) s (fun t => Answered mb st 0 s t ∧ OnlyHost s t)
    (s.fab.shadow = none → no 3) ∧
    (∀ pl, s.fab.shadow = some pl →
      (s.time.locked = false ∨ (s.job.isSome = true ∧ s.fab.plan = none) → no 3) ∧
      (s.time.locked = true → s.job = none ∨ s.fab.plan ≠ none →
        (s.committing = true → no 1) ∧
        (s.committing = false → t0 < s.time.tick + 2 → no 2) ∧
        (s.committing = false → s.time.tick + 2 ≤ t0 → s.fab.swap = none → Completes (.fabricCommit mb) s (fun t => Awaits mb .swap s t ∧
          t.fab.swap = some { stopAt := t0, swapAt := t0 + (s.fab.plan.getD pl).drainTicks, plan := true, planAt := t0, mailbox := some mb } ∧
          t.fab.plan = s.fab.plan ∧ t.fab.shadow = s.fab.shadow ∧
          ∀ p < 24, t.port p = if (s.port p).state = .held ∧ p ∉ s.defectPorts then { (s.port p).cleared with state := .training } else s.port p))))) ∧
  (∀ s mb, Accepted mb 0x42 s → let r := (s.mailbox mb).arg 0 24
    let n := bits r 0 12
    let old := look {} n (if bit r 12 then s.fab.proxies else s.fab.windows)
    let c := Instr.windowOpen mb
    (old.valid = true → Completes c s (fun t => Answered mb 3 0 s t ∧ OnlyHost s t)) ∧
    (∀ d, old.valid = false → old.closedAt = none → s.proxyBusy n = false → windowArgs r s = some d →
      Completes c s (fun t => Answered mb 2 d s t ∧ OnlyHost s t)) ∧
    (old.valid = false → bit r 12 = false → (∀ x, old.closedAt = some x → x + 256 < s.time.tick) → windowArgs r s = none →
      Completes c s (fun t => Responds mb (leBytes 4 (old.gen + 1).toNat) s t ∧
        look {} n t.fab.windows = { parseWindow r with gen := old.gen + 1, window := 0 } ∧ (∀ k, k ≠ n → look {} k t.fab.windows = look {} k s.fab.windows) ∧
        t = { s with host := t.host, fab := { s.fab with windows := t.fab.windows } })) ∧
    (old.valid = false → bit r 12 = true → s.proxyBusy n = false → windowArgs r s = none →
      Completes c s (fun t => Responds mb (leBytes 4 (parseWindow r).gen.toNat) s t ∧
        look {} n t.fab.proxies = parseWindow r ∧ (∀ k, k ≠ n → look {} k t.fab.proxies = look {} k s.fab.proxies) ∧
        t = { s with host := t.host, fab := { s.fab with proxies := t.fab.proxies } }))) ∧
  (∀ s mb, Accepted mb 0x43 s → let r := (s.mailbox mb).arg 0 4
    let n := bits r 0 12
    bits r 13 19 = 0 →
    (bit r 12 = false → (look {} n s.fab.windows).valid = true → Completes (.windowCloseLocal mb) s (fun t => Awaits mb .publish s t ∧
      look {} n t.fab.windows = { look {} n s.fab.windows with valid := false, closedAt := some s.time.tick } ∧
      t = { s with host := t.host, fab := { s.fab with windows := t.fab.windows } })) ∧
    (bit r 12 = true → (look {} n s.fab.proxies).valid = true → Completes (.windowCloseProxy mb) s (fun t =>
      (s.proxyBusy n = true → Awaits mb (.replies n) s t) ∧ (s.proxyBusy n = false → Answered mb 0 0 s t) ∧
      (look {} n t.fab.proxies).valid = false ∧ t = { s with host := t.host, fab := { s.fab with proxies := t.fab.proxies } })) ∧
    ((bit r 12 = false → (look {} n s.fab.windows).valid = false → Completes (.windowCloseLocal mb) s (fun t => Answered mb 2 0 s t ∧ OnlyHost s t)) ∧
     (bit r 12 = true → (look {} n s.fab.proxies).valid = false → Completes (.windowCloseProxy mb) s (fun t => Answered mb 2 0 s t ∧ OnlyHost s t))))

/-- The signature of a program takes every word it drains, in order, through the LINK map, from 0. CRUMB_CHECK holds admission; at a boundary without a collective window its sweep begins under a fresh seed. Equal signatures count a program of each tested tile of the pair; when two differ
and a verified reserve of a third die agrees with one, the other is named CRUMB_MISMATCH. The last program of the sweep answers it. A pair of reserves of two dies counts likewise; 120,000 programs verify a tile under
test, and a tile whose third contradicts it fails. REQUALIFY begins with a compute reset; its tests pass one after another, and the last ends in STANDBY, the fence lifted. Rests on R330, R350, R372 to R377, R404.
Model's choices it rests on: notes/assumptions/5.md, notes/assumptions/47.md. -/
def Obligations.CrumbAndRequalify : Prop :=
  (crumbSignature [] = 0 ∧ ∀ l w, crumbSignature (l ++ [w]) = BitVec.ofNat 64 (mix (crumbSignature l ^^^ w).toNat)) ∧
  (∀ s mb, Accepted mb 0x50 s → let m := s.mailbox mb
    (m.arg 1 3 = 0 → Completes (.crumbCheck mb) s (fun t => Awaits mb .test s t ∧
      t.tests.crumb = some { mailbox := some mb, dies := m.arg 0 1 } ∧ t.att.provisional = [] ∧
      t = { s with host := t.host, tests := t.tests, att := { s.att with provisional := [] }, tiles := t.tiles })) ∧
    (m.arg 1 3 ≠ 0 → Completes (.crumbCheck mb) s (fun t => Answered mb 2 1 s t ∧ OnlyHost s t))) ∧
  (∀ s c, s.tests.crumb = some c → c.begun = false → s.computing = true → s.clk.mhz ≠ 0 →
    (s.windowStands = false → Completes .crumbCheckBegin s (fun t => (∃ n, t.tests.crumb = some { c with begun := true, seed := (Config.freeValue s.freeCtr).setWidth 64, pairs := n }) ∧
      t.freeCtr = s.freeCtr + 1 ∧ t = { s with tests := { s.tests with crumb := t.tests.crumb }, freeCtr := t.freeCtr })) ∧
    (s.windowStands = true → exec .crumbCheckBegin s = .next s)) ∧
  (∀ s c a b sig, s.tests.crumb = some c → c.begun = true → s.clk.mhz ≠ 0 → s.ticking = true → a < 1152 → b < 1152 → a ∈ s.crumbTiles c →
    a ∉ c.retired → s.crumbPair a b = true →
    let counted := if b ∈ s.crumbTiles c ∧ s.crumbPair b a = true then [a, b] else [a]
    let progs := counted.foldl (fun l p => put p (look 0 p l + 1) l) c.programs
    let c1 := { c with programs := progs }
    (∀ l, (∀ x ∈ l, x.1 < 1152) → s.crumbDone c1 = false → Completes (.crumbProgramComplete a b sig sig l) s (fun t => t.tests.crumb = some c1 ∧
      t = { s with tests := { s.tests with crumb := t.tests.crumb } })) ∧
    (∀ l mb, (∀ x ∈ l, x.1 < 1152) → s.crumbDone c1 = true → s.tests.requalify = none → c.mailbox = some mb → Completes (.crumbProgramComplete a b sig sig l) s (fun t =>
      Responds mb (leBytes 4 c.pairs ++ leBytes 4 c.mismatches ++ leBytes 4 c.retired.length ++
        ((c.retired.take 64).map (fun p => leBytes 2 (tileLocation p))).flatten) s t ∧
      t.tests = { s.tests with crumb := none, retiring := s.tests.retiring ++ c.retired.map (·, Cond.crumbMismatch) })) ∧
    (∀ sigB d, crumbSignature sig ≠ crumbSignature sigB → d < 1152 → (look? d s.tests.reserves).map (·.state) = some .verified → tileDie d ≠ tileDie a → tileDie d ≠ tileDie b →
      a ≠ b → a ≠ d → b ≠ d → (∃ q ∈ s.crumbTiles c, q ≠ a ∧ q ≠ b ∧ q ∉ c.retired ∧ look 0 q c.programs < 120000) →
      Completes (.crumbProgramComplete a b sig sigB [(d, sigB)]) s (fun t => ∃ c2, t.tests.crumb = some c2 ∧ c2.mismatches = c.mismatches + 1 ∧
        c2.retired = c.retired ++ [a] ∧ t.evt.sticky.getLsbD (Cond.code .crumbMismatch) = true))) ∧
  (∀ s a b x y, s.clk.mhz ≠ 0 → s.ticking = true → a < 1152 → b < 1152 → s.inReserve a = true → s.inReserve b = true → tileDie a ≠ tileDie b →
    let more := fun (r : Reserve) => if r.programs + 1 < 120000 then { r with programs := r.programs + 1 }
      else { r with programs := 0, state := if r.state = .underTest then .verified else r.state }
    (crumbSignature x = crumbSignature y → Completes (.reserveProgramComplete a b x y none) s (fun t =>
      look {} a t.tests.reserves = more (look {} a s.tests.reserves) ∧ look {} b t.tests.reserves = more (look {} b s.tests.reserves) ∧
      (∀ k, k ≠ a → k ≠ b → look {} k t.tests.reserves = look {} k s.tests.reserves) ∧ t = { s with tests := { s.tests with reserves := t.tests.reserves } })) ∧
    (∀ d, crumbSignature x ≠ crumbSignature y → d < 1152 → s.inReserve d = true → tileDie d ≠ tileDie a → tileDie d ≠ tileDie b →
      Completes (.reserveProgramComplete a b x y (some (d, x))) s (fun t => (look {} b t.tests.reserves).state = .failed ∧
        t.evt.sticky.getLsbD (Cond.code .reserveTestFail) = true ∧ look {} a t.tests.reserves = more (look {} a s.tests.reserves)))) ∧
  (∀ s mb, Accepted mb 0x51 s →
    (s.clk.tripped = true ∨ s.dev.resetBusy = true → Completes (.requalify mb) s (fun t => Answered mb 1 0 s t ∧ OnlyHost s t)) ∧
    (s.clk.tripped = false → s.dev.resetBusy = false → Completes (.requalify mb) s (fun t =>
      (t.mailbox mb).owner = true ∧ (t.mailbox mb).wait = some .test ∧ t.dev.state = .transit ∧ t.dev.fenced = true ∧ t.dev.resetBusy = true ∧
      t.tests.requalify = some (mb, 1, decide (s.dev.state = .transit)) ∧ t.tests.reset.isSome = true ∧ t.job = none ∧ t.tiles = [] ∧ t.mem.bytes = []))) ∧
  (∀ s mb t0, (∀ n, s.tests.requalify = some (mb, n, t0) → n ∈ [3, 4, 5] → Completes (.requalifyTestComplete {}) s (fun t =>
      t.tests.requalify = some (mb, n + 1, t0) ∧ (n ≠ 3 → t = { s with tests := { s.tests with requalify := t.tests.requalify } }))) ∧
    (s.tests.requalify = some (mb, 6, t0) → Completes (.requalifyTestComplete {}) s (fun t => Answered mb 0 0 s t ∧ t.dev.state = .standby ∧
      t.dev.fenced = false ∧ t.dev.fatalTransit = false ∧ t.tests.requalify = none ∧
      t.health = { s.health with corrected := [], discards := [], retirements := [], linkErrors := [] })) ∧
    (∀ d, s.tests.requalify = some (mb, 3, t0) → d < 8 → Completes (.requalifyTestComplete { baseDies := [d] }) s (fun t => Answered mb 7 3 s t ∧
      t.tests.requalify = none ∧ t.evt.sticky.getLsbD (Cond.code .testFail) = true)))

/-- FW_STAGE begins a DMA; a package that verifies stands in the inactive slot and its VERSION is answered, another leaves the slot empty with AUTH_FAIL; a list of which
nothing moves leaves the slot as it was. FW_ACTIVATE makes
a staged slot active on trial; AT_BOOT answers at once, otherwise Fenum restarts. A core pair that hangs or disagrees restarts Fenum too: compute is fenced and wiped,
TRANSIT with RESET_BUSY, a compute reset pending. FIRMWARE_RUNNING then answers every device-owned mailbox FENCED with DETAIL 1, and the FW_ACTIVATE OK or FAILED; the Alias key advances. Rests on R328, R351, R364, R426, R427, R431.
Model's choices it rests on: notes/assumptions/48.md, notes/assumptions/49.md, notes/assumptions/52.md, notes/assumptions/77.md. -/
def Obligations.FirmwareAndRestarts : Prop :=
  (∀ s mb, Accepted mb 0x80 s → let m := s.mailbox mb
    (m.arg 0 8 ≤ 134217728 → m.arg 8 8 % 16 = 0 → Completes (.fwStage mb) s (fun t => OnlyHost s t ∧ Awaits mb (.dma []) s t)) ∧
    (134217728 < m.arg 0 8 → Completes (.fwStage mb) s (fun t => OnlyHost s t ∧ Answered mb 2 0 s t)) ∧
    (m.arg 0 8 ≤ 134217728 → m.arg 8 8 % 16 ≠ 0 → Completes (.fwStage mb) s (fun t => OnlyHost s t ∧ Answered mb 2 8 s t))) ∧
  (∀ s mb list data out, mb < 16 → s.dmaOf mb 0x80 = some out →
    let n := (s.mailbox mb).arg 0 8
    let p := parsePackage ((dmaData (align64 n) data).take n)
    let c := Instr.fwStageDmaComplete mb list data
    let slot := fun (q : Option FwPackage) (t : State) => t.otherFw = q ∧ t.nor = (if s.dev.runB then { s.nor with slotA := q } else { s.nor with slotB := q }) ∧
      t = { s with host := t.host, nor := t.nor }
    (∀ i, listFault (some (align64 n)) list 0 0 = some i → Completes c s (fun t => Answered mb 2 i s t ∧ (i ≠ 0 → slot none t) ∧ (i = 0 → OnlyHost s t))) ∧
    (listFault (some (align64 n)) list 0 0 = none →
      (s.nor.verifies p = true → Completes c s (fun t => Responds mb (leBytes 8 p.version.toNat) s t ∧ slot (some p) t)) ∧
      (s.nor.verifies p = false → Completes c s (fun t => Answered mb 5 0 s t ∧ slot none t)))) ∧
  (∀ s mb, Accepted mb 0x81 s → let m := s.mailbox mb
    (m.arg 0 4 = 1 → s.otherFw.isSome = true → Completes (.fwActivateAtBoot mb) s (fun t => Responds mb (leBytes 8 s.runningFw.version.toNat) s t ∧
      t = { s with host := t.host, nor := { s.nor with activeB := !s.dev.runB, trial := true, trialCount := 0 } })) ∧
    (m.arg 0 4 = 1 → s.otherFw = none → Completes (.fwActivateAtBoot mb) s (fun t => Answered mb 7 0 s t ∧ OnlyHost s t)) ∧
    (m.arg 0 4 = 0 → s.dev.resetBusy = true → Completes (.fwActivate mb) s (fun t => Answered mb 1 0 s t ∧ OnlyHost s t)) ∧
    (m.arg 0 4 = 0 → s.dev.resetBusy = false → s.otherFw.isSome = true → s.ticking = true → Completes (.fwActivate mb) s (fun t =>
      Awaits mb .state s t ∧ t.dev.restarting = true ∧ t.dev.activating = some mb ∧ t.dev.state = .transit ∧ t.dev.resetBusy = true ∧
      t.nor.activeB = (!s.dev.runB) ∧ t.nor.trial = true ∧ t.nor.trialCount = 0))) ∧
  (∀ s c i, (i, c) ∈ [(Instr.fenumWatchdog, Cond.fenumWatchdog), (.fenumLockstep, .fenumLockstep)] → s.scanning = true →
    (s.ticking = true → Completes i s (fun t => t.dev.restarting = true ∧ t.dev.state = .transit ∧ t.dev.resetBusy = true ∧
      (s.tests.reset = none → t.dev.fenced = true) ∧ t.tests.shutdown = none ∧ t.tests.requalify = none ∧ t.tiles = [] ∧ t.mem.bytes = [] ∧
      (s.dev.fatalTransit = false → s.tests.reset = none → s.dev.fenumFail = false → (lastHour s.time.now s.dev.restarts).length < 2 →
        t.job = none ∧ t.tests.reset.isSome = true ∧ t.dev.fatalTransit = false) ∧
      (2 ≤ (lastHour s.time.now s.dev.restarts).length → t.dev.fenumFail = true ∧ t.tests.reset = none ∧ t.clk.mhz = 0) ∧
      t.evt.sticky.getLsbD (Cond.code c) = true ∧ ∀ k, t.mailbox k = s.mailbox k)) ∧
    (s.ticking = false → Completes i s (fun t => t.dev.restarting = true ∧ t.dev.state = s.dev.state ∧ t.evt.sticky.getLsbD (Cond.code c) = true))) ∧
  (∀ s ok, s.dev.restarting = true → s.fab.floodQueue = [] → s.fab.routeStale = false →
    (s.dev.activating = none ∨ ok = true) → Completes (.firmwareRunning ok) s (fun t => t.dev.restarting = false ∧ t.dev.activating = none ∧
      t.sec.aliasGen = (if s.sec.alias_ then s.sec.aliasGen + 1 else s.sec.aliasGen) ∧
      t.dev.runB = (if s.dev.activating.isSome then !s.dev.runB else s.dev.runB) ∧
      (∀ k < 16, s.dev.activating ≠ some k → (s.mailbox k).owner = true → (t.mailbox k).owner = false ∧ (t.mailbox k).wait = none ∧
        (t.mailbox k).status = 9 ∧ (t.mailbox k).detail = 1) ∧
      (∀ k < 16, s.dev.activating = some k → (s.mailbox k).owner = true → (t.mailbox k).owner = false ∧ (t.mailbox k).status = 0) ∧
      (∀ k < 16, (s.mailbox k).owner = false → t.mailbox k = s.mailbox k))) ∧
  (∀ s k, s.dev.restarting = true → s.fab.floodQueue = [] → s.fab.routeStale = false → k < 16 → s.dev.activating = some k → (s.mailbox k).owner = true →
    Completes (.firmwareRunning false) s (fun t => (t.mailbox k).owner = false ∧ (t.mailbox k).status = 7 ∧ t.dev.runB = s.dev.runB ∧
      t.nor.activeB = s.dev.runB ∧ t.nor.trial = false ∧ t.evt.sticky.getLsbD (Cond.code .bootSlotFallback) = true))

end

/-! ## Shutdown and power -/

section

namespace Sys2Proof.Certificates

open Sys2Proof.Machine

/-- The retirement, crumb check, REQUALIFY or reset that could still hold a tile to retire: none is in progress (R330, R362, R373). -/
def NothingDue (s : State) : Prop :=
  s.tests.retiring = [] ∧ s.tests.reset = none ∧ s.tests.crumb = none ∧ s.tests.requalify = none

/-- The device is in HALTED: compute fenced and wiped, no job, oscillators stopped, the transmitters dark, nothing forwarded, every port down
and no test or reset in progress (R361, R367, R392). -/
def Halted (t : State) : Prop :=
  t.dev.state = .halted ∧ t.dev.fenced = true ∧ t.dev.transmitters = false ∧ t.dev.forwarding = false ∧ t.dev.resetBusy = false ∧
  t.job = none ∧ t.tiles = [] ∧ t.mem.bytes = [] ∧ t.clk.mhz = 0 ∧ (∀ x ∈ t.fab.ports, x.2.state = .down) ∧
  t.tests.reset = none ∧ t.tests.shutdown = none ∧ t.tests.requalify = none

end Sys2Proof.Certificates

open Sys2Proof Sys2Proof.Machine Sys2Proof.Certificates

/-- SHUTDOWN, taken in any state that Table 7 gives it, fences and wipes compute, drops the job and the memory keys and reports TRANSIT with RESET_BUSY; a second one waits for
the same end. Each phase of the test ends into the next; phase 4 takes every marked or softly repaired row, and each that its march
finds, into hard repair and then turns the transmitters off; a failing sensor or port
is named, enters the defect map and makes the test's result 1, a failing stack 2 with MEM_LOST. Phase 7 writes the record with its result and MAC, raises MIN_SVN after a test that passed, answers the
SHUTDOWN and enters HALTED. The fast shutdown of PWR_OK, and of SYNC_IN where the board configuration says so, records FAST_SHUTDOWN with its cause, persists ring and sticky map
and enters HALTED; a second cause within it is added to the record. VAUX3_ON starts at step 1: identity, then the slot that the boot ROM takes. VIN12_READY runs the starter and Fenum. Rests on R361, R408 to R413, R420 to R424, R427 to R430, R465, R466.
Model's choices it rests on: notes/assumptions/1.md, notes/assumptions/3.md, notes/assumptions/5.md, notes/assumptions/19.md, notes/assumptions/57.md, notes/assumptions/80.md. -/
def Obligations.ShutdownAndPower : Prop :=
  (∀ s mb, Accepted mb 0x71 s →
    (s.tests.shutdown.isSome = true → Completes (.shutdown mb) s (fun t => OnlyHost s t ∧ Awaits mb .state s t)) ∧
    (s.tests.shutdown = none → Completes (.shutdown mb) s (fun t =>
      t.tests.shutdown = some (mb, 1) ∧ t.dev.state = .transit ∧ t.dev.resetBusy = true ∧ t.sec.memKeys = [])) ∧
    (s.tests.shutdown = none → NothingDue s → Completes (.shutdown mb) s (fun t =>
      (t.mailbox mb).owner = true ∧ (t.mailbox mb).wait = some .state ∧ t.dev.fenced = true ∧ t.job = none ∧ t.tiles = [] ∧ t.mem.bytes = [] ∧
      ∀ k, k ≠ mb → (s.mailbox k).wait.isSome = true → (s.mailbox k).cmd.toNat ∈ [0x33, 0x70, 0x31] → k < 16 →
        (t.mailbox k).owner = false ∧ (t.mailbox k).status = 9))) ∧
  (∀ s mb n more, s.tests.shutdown = some (mb, n) → n < 7 → more.all rowExists = true →
    (n ≠ 4 → exec (.shutdownPhaseComplete {} more) s = .next { s with tests := { s.tests with shutdown := some (mb, n + 1) } }) ∧
    (n = 4 → Completes (.shutdownPhaseComplete {} more) s (fun t => t.tests.shutdown = some (mb, 5) ∧ t.mem.markedRows = [] ∧ t.mem.softRepairs = [] ∧
      t.tests.hardRepairs = s.tests.hardRepairs + (s.mem.markedRows ++ s.mem.softRepairs ++ more).eraseDups.length ∧ t.mem.withheld = [] ∧
      t.dev.transmitters = false ∧ t.dev.forwarding = false ∧ ∀ x ∈ t.fab.ports, x.2.state = .held ∨ x.2.state = .down)) ∧
    (∀ q, n ≠ 4 → q < 24 → Completes (.shutdownPhaseComplete { ports := [q] } more) s (fun t => t.tests.shutdown = some (mb, n + 1) ∧
      t.tests.newDefects = s.tests.newDefects + 1 ∧ (t.port q).state = .held ∧ t.evt.sticky.getLsbD (Cond.code .testFail) = true ∧
      (s.nor.defects.length < 65536 → t.nor.defects = s.nor.defects ++
        [{ kind := 2, origin := 2, code := Cond.code .testFail, location := q, serial := s.nor.bootSerial % 2 ^ 28 }]))) ∧
    (∀ k, n ≠ 4 → k < 16 → Completes (.shutdownPhaseComplete { hbm := [k] } more) s (fun t => t.tests.shutdown = some (mb, n + 1) ∧
      t.tests.testFailed = true ∧ t.evt.sticky.getLsbD (Cond.code .testFail) = true ∧ t.evt.sticky.getLsbD (Cond.code .memLost) = true ∧
      (look {} k t.mem.counts).lost = true))) ∧
  (∀ s mb, s.tests.shutdown = some (mb, 7) → Completes .shutdownTestComplete s (fun t => Halted t ∧
    (∃ r, t.nor.record = some r ∧ r.result = (if s.tests.testFailed = true then 2 else if s.tests.newDefects = 0 then 0 else 1) ∧
      r.bootSerial = s.nor.bootSerial ∧ r.fwVersion = s.runningFw.version ∧ r.mapHash = mapHash s.nor.defects ∧ r.newDefects = s.tests.newDefects ∧
      r.repairs = s.tests.hardRepairs ∧ r.mac = Config.recordMac (recordBytes r)) ∧
    t.nor.minSvn = (if s.tests.testFailed = false ∧ s.nor.minSvn < s.runningFw.svn then s.runningFw.svn else s.nor.minSvn) ∧
    (∀ k < 16, (s.mailbox k).wait.isSome = true → (s.mailbox k).cmd = 0x71 → (t.mailbox k).owner = false ∧ (t.mailbox k).status = 0) ∧
    t.evt.sticky.getLsbD (Cond.code .shutdownDone) = true ∧ t.nor.sticky = t.evt.sticky)) ∧
  (∀ s cause i, (i, cause) ∈ [(Instr.pwrOkLow, (2 : BitVec 2)), (.syncInLow, 1)] → s.dev.vaux3 = true → (i = .syncInLow → s.nor.syncInFast = true) →
    ((s.dev.state = .starting ∨ s.ticking = true) → Completes i s (fun t => Halted t ∧ t.dev.fastCause = cause ∧
      t.evt.sticky.getLsbD (Cond.code .fastShutdown) = true ∧ t.nor.sticky = t.evt.sticky)) ∧
    (s.dev.state = .halted → s.dev.fastCause ≠ 0 → s.time.now < s.dev.fastAt + 100000000 → Completes i s (fun t => t.dev.state = .halted ∧
      t.dev.fastCause = s.dev.fastCause ||| cause ∧
      ∀ e ∈ t.evt.ring, e.raised.cond = .fastShutdown → e.seq = s.evt.headSeq → e.raised.w0 = BitVec.ofNat 64 (s.dev.fastCause ||| cause).toNat))) ∧
  (∀ s, s.dev.vaux3 = false ∨ s.nor.syncInFast = false → exec .syncInLow s = .next { s with dev := { s.dev with syncIn := false } }) ∧
  (∀ s, exec .powerRemoved s = .next { State.reset with
    nor := s.nor, host := { sent := s.host.sent, msix := s.host.msix, unsupported := s.host.unsupported },
    fab := { sent := s.fab.sent, floods := s.fab.floods }, freeCtr := s.freeCtr, pending := s.pending }) ∧
  (∀ s uds sel, s.dev.state = .off →
    (s.nor.lifecycle ≠ .retired → s.nor.trial = false → uds = true → s.nor.bootable s.nor.activeSlot = true → Completes (.vaux3On uds sel) s (fun t =>
      t.dev.state = .starting ∧ t.dev.startStep = 3 ∧ t.dev.addrSel = sel ∧ t.sec.deviceId = true ∧ t.evt.sticky = s.nor.sticky ∧
      t.evt.headSeq = s.nor.seqLimit ∧ t.nor.activeB = s.nor.activeB)) ∧
    (s.nor.bootable s.nor.activeSlot = false → s.nor.bootable s.nor.otherSlot = true → Completes (.vaux3On uds sel) s (fun t => t.dev.startStep = 3 ∧
      t.nor.activeB = (!s.nor.activeB) ∧ t.evt.sticky.getLsbD (Cond.code .bootSlotFallback) = true)) ∧
    (s.nor.bootable s.nor.activeSlot = false → s.nor.bootable s.nor.otherSlot = false → Completes (.vaux3On uds sel) s (fun t => t.dev.noFirmware = true ∧
      t.dev.startStep = 2 ∧ t.side.recStatus = 1)) ∧
    (uds = false → Completes (.vaux3On uds sel) s (fun t => t.sec.deviceId = false ∧ t.evt.sticky.getLsbD (Cond.code .identityFail) = true))) ∧
  (∀ s, s.dev.state = .starting → s.dev.startStep = 3 →
    (exec .vin12AbsentTimeout s = .next { s with dev := { s.dev with vin12Absent := true } }) ∧
    (∀ p, s.nor.activeSlot = some p → s.nor.verifies p = true → Completes (.vin12Ready []) s (fun t => t.dev.fenumRunning = true ∧ t.dev.startStep = 10 ∧
      t.dev.runB = s.nor.activeB ∧ t.nor.bootSerial = s.nor.bootSerial + 1 ∧ t.clk.mhz = Nat.min 2000 s.clk.thermalCeil ∧ t.dev.transmitters = true ∧
      ∀ p < 24, (t.port p).state = .training ∨ (t.port p).state = .held))) ∧
  (∀ s, (s.ticking = false → exec .vddqDdrFault s = .next { s with dev := { s.dev with vddqOk := false } }) ∧
    (s.ticking = true → Completes .vddqDdrFault s (fun t => t.dev.vddqOk = false ∧ t.evt.sticky.getLsbD (Cond.code .memLost) = true ∧
      ∀ c ∈ s.nor.channels, (look {} (16 + c) t.mem.counts).lost = true)))

end

/-! ## Starts and resets -/

section

namespace Sys2Proof.Certificates

open Sys2Proof.Machine

/-- The six conditions of R414 hold of a shutdown record, for the memory identity read at this start. -/
def RecordValid (r : ShutdownRecord) (memId : BitVec 384) (s : State) : Prop :=
  s.sec.recordKey = true ∧ r.mac = Config.recordMac (recordBytes r) ∧ r.result ≤ 1 ∧ r.bootSerial + 1 = s.nor.bootSerial ∧
  s.nor.defectsOk = true ∧ r.mapHash = mapHash s.nor.defects ∧ r.memIdHash = memId ∧
  s.side.timeSet = true ∧ r.testTime ≠ 0 ∧ r.testTime ≤ s.side.timeUtc.toNat ∧ s.side.timeUtc.toNat - r.testTime ≤ 2591999

/-- What a device reset leaves of a state: everything in the compute domain, the host link and the ports is lost; the NOR flash, the hub ring,
the sticky map, the trace and the sideband are kept; the start waits (R8, R319, R363 Table 7). -/
def DeviceReset (s t : State) : Prop :=
  t.dev.state = .starting ∧ t.dev.deviceReset = true ∧ t.dev.startStep = 0 ∧ t.dev.fenumRunning = false ∧ t.job = none ∧ t.tiles = [] ∧ t.mem.bytes = [] ∧
  t.mem.dir = [] ∧ t.coll = [] ∧ t.host.mailboxes = [] ∧ t.fab.ports = [] ∧ t.fab.plan = none ∧ t.pol = {} ∧ t.tests = {} ∧ t.nor = s.nor ∧ t.side = s.side ∧
  t.evt.ring = s.evt.ring ∧ t.evt.sticky = s.evt.sticky ∧ t.evt.headSeq = s.evt.headSeq ∧ t.evt.dump0 = s.evt.dump0 ∧ t.evt.dump1 = s.evt.dump1 ∧
  t.evt.trace = s.evt.trace

end Sys2Proof.Certificates

open Sys2Proof Sys2Proof.Machine Sys2Proof.Certificates

/-- START_TESTS makes the start warm exactly where the shutdown record is valid, and cold otherwise. START_COMPLETE applies the maps and enters STANDBY with fabric time at zero and
a 32 µs period, every tile outside the tile map a reserve; a failing stack, a retired part, a UDS that does not match or lost DDR5 ends the start in HALTED. PERST_N and a hot reset bring a
device reset, within a fast shutdown only at the release; the start then begins again from step 1. EXTEST and its like fence and wipe compute and turn the transmitters off, the device's state as
it was, and leaving them brings a device reset. SYNC_IN edges discipline the anchor that the plan gives them; TIME_UTC counts seconds; the recovery transfer takes a length and its bytes and verifies the package in
slot A. Rests on R8, R294, R319, R361, R363, R408, R414 to R418, R429, R436, R465, R469, R471, R472.
Model's choices it rests on: notes/assumptions/1.md, notes/assumptions/22.md, notes/assumptions/27.md, notes/assumptions/28.md, notes/assumptions/53.md, notes/assumptions/54.md, notes/assumptions/55.md, notes/assumptions/88.md. -/
def Obligations.StartsAndResets : Prop :=
  (∀ s id, s.dev.state = .starting → s.dev.startStep = 10 →
    ((∃ r, s.nor.record = some r ∧ RecordValid r id s) → Completes (.startTests id) s (fun t => t.dev.warm = true ∧ t.dev.startStep = 11 ∧ t.dev.memIdHash = id ∧
      t.nor.defects = s.nor.defects ∧ t.evt.sticky.getLsbD (Cond.code .startWarm) = true)) ∧
    ((∀ r, s.nor.record = some r → ¬ RecordValid r id s) → Completes (.startTests id) s (fun t => t.dev.warm = false ∧ t.dev.startStep = 11 ∧
      t.nor.defects = (if s.nor.defectsOk = true then s.nor.defects else []) ∧ t.nor.defectsOk = true ∧ t.evt.sticky.getLsbD (Cond.code .startCold) = true))) ∧
  (∀ s, s.dev.state = .starting → s.dev.startStep = 11 → s.nor.defects = [] → s.tests.retiring = [] →
    (s.dev.udsOk = true → s.nor.lifecycle ≠ .retired → s.dev.vddqOk = true → Completes (.startComplete {}) s (fun t =>
      t.dev.state = .standby ∧ t.dev.fenced = false ∧ t.dev.forwarding = true ∧ t.dev.resetBusy = false ∧ t.tiles = [] ∧ t.mem.bytes = [] ∧
      t.time.fabric = 0 ∧ t.time.tick = 0 ∧ t.time.periodUs = 32 ∧ t.time.running = true ∧ t.tests.tileMap = s.nor.tileMap ∧ t.nor.tileMap = s.nor.tileMap ∧ t.nor.trial = false ∧
      ∀ p < 1152, p ∉ s.nor.tileMap → (look? p t.tests.reserves).map (·.state) =
        some (if s.dev.warm = true ∧ (∀ r, s.nor.record = some r → p ∉ r.reserveMap) then .underTest else .verified))) ∧
    ((s.nor.lifecycle = .retired ∨ s.dev.udsOk = false ∨ s.dev.vddqOk = false) → Completes (.startComplete {}) s (fun t => Halted t ∧
      t.evt.sticky.getLsbD (Cond.code .startHalt) = true)) ∧
    (∀ k < 16, Completes (.startComplete { hbm := [k] }) s (fun t => Halted t ∧ t.evt.sticky.getLsbD (Cond.code .startHalt) = true ∧
      t.evt.sticky.getLsbD (Cond.code .memLost) = true ∧ (look {} k t.mem.counts).lost = true))) ∧
  (∀ s, let held := { s with dev := { s.dev with perstN := false } }
    (s.dev.state = .off → exec .perstNAssert s = .next held ∧ exec .hotReset s = .next s) ∧
    (s.dev.state ≠ .off → s.dev.fastCause ≠ 0 → s.time.now < s.dev.fastAt + 100000000 →
      exec .perstNAssert s = .next { held with dev := { held.dev with resetAfter := true } } ∧ exec .hotReset s = .next { s with dev := { s.dev with resetAfter := true } }) ∧
    (s.dev.state ≠ .off → s.dev.fastCause = 0 ∨ s.dev.fastAt + 100000000 ≤ s.time.now →
      Completes .perstNAssert s (fun t => DeviceReset s t ∧ t.dev.perstN = false) ∧ Completes .hotReset s (fun t => DeviceReset s t ∧ t.dev.perstN = s.dev.perstN)) ∧
    (s.dev.resetAfter = false → (s.dev.state ≠ .starting ∨ s.dev.deviceReset = false ∨ s.dev.startStep ≠ 0) →
      exec .perstNRelease s = .next { s with dev := { s.dev with perstN := true } }) ∧
    (s.dev.resetAfter = true ∨ (s.dev.state = .starting ∧ s.dev.deviceReset = true ∧ s.dev.startStep = 0) →
      s.dev.udsOk = true → s.nor.lifecycle ≠ .retired → s.nor.trial = false → s.nor.bootable s.nor.activeSlot = true →
      Completes .perstNRelease s (fun t => t.dev.state = .starting ∧ t.dev.startStep = 3 ∧ t.dev.perstN = true ∧ t.sec.deviceId = true ∧ t.evt.ring = s.evt.ring))) ∧
  (∀ s w, (s.dev.state = .off → exec (.tapEnterExtest w) s = .next { s with dev := { s.dev with tap := some w } }) ∧
    (s.dev.state ≠ .off → Completes (.tapEnterExtest w) s (fun t => t.dev.state = s.dev.state ∧ t.dev.tap = some w ∧ t.dev.fenced = true ∧
      t.dev.transmitters = false ∧ t.dev.forwarding = s.ticking ∧ t.job = s.job ∧ t.tiles = [] ∧ t.mem.bytes = [] ∧ t.sec.memKeyGen = s.sec.memKeyGen + 1 ∧
      ∀ x ∈ t.fab.ports, x.2.state = .held ∨ x.2.state = .down)) ∧
    (s.dev.tap = none → exec .tapLeaveExtest s = .next s) ∧
    (s.dev.tap = some w → s.dev.state ≠ .off → s.dev.perstN = false → Completes .tapLeaveExtest s (fun t => DeviceReset s t ∧ t.dev.tap = none)) ∧
    (s.dev.tap = some w → s.dev.state ≠ .off → s.dev.perstN = true → s.dev.udsOk = true → s.nor.lifecycle ≠ .retired → s.nor.trial = false →
      s.nor.bootable s.nor.activeSlot = true → Completes .tapLeaveExtest s (fun t => t.dev.state = .starting ∧ t.dev.tap = none ∧ t.dev.startStep = 3 ∧ t.job = none ∧
        t.tiles = [] ∧ t.host.mailboxes = []))) ∧
  (∀ s stamp, (∀ pl, s.timePlan = some pl → pl.anchorSrc = true → pl.address = pl.anchor → s.nor.syncInFast = false → s.ticking = true →
      Completes (.syncInEdge stamp) s (fun t => t.dev.syncIn = true ∧ t.time.syncStamp = some stamp ∧ (s.job.isSome = true → t.time.offsetPs = toSecond stamp) ∧
        (s.job = none → s.time.locked = false → t.time.locked = true))) ∧
    (s.timePlan = none ∨ s.nor.syncInFast = true ∨ s.ticking = false → exec (.syncInEdge stamp) s = .next { s with dev := { s.dev with syncIn := true } })) ∧
  (∀ s v, (s.dev.vaux3 = true → exec (.timeUtcWrite v) s = .next { s with side := { s.side with timeUtc := v, timeSet := true } }) ∧
    (s.dev.vaux3 = true → s.side.timeSet = true → exec .timeUtcTick s = .next { s with side := { s.side with timeUtc := s.side.timeUtc + 1 } })) ∧
  (∀ s, (∀ v : Word32, s.side.recStatus = 1 ∨ s.side.recStatus = 4 → v.toNat ≤ 134217728 → v ≠ 0 → exec (.recLengthWrite v) s = .next { s with
      side := { s.side with recLength := v.toNat, recBytes := 0, recData := [], recStatus := 2 } }) ∧
    (∀ v, s.side.recStatus = 2 → s.side.recBytes = s.side.recData.length → s.side.recBytes < s.side.recLength → Completes (.recDataWrite v) s (fun t =>
      t.side.recData = (s.side.recData ++ leBytes 4 v.toNat).take s.side.recLength ∧ t.side.recBytes = Nat.min (s.side.recBytes + 4) s.side.recLength ∧
      t.side.recStatus = (if s.side.recBytes + 4 < s.side.recLength then 2 else 3) ∧ t = { s with side := t.side })) ∧
    (s.side.recStatus = 3 → s.nor.verifies (parsePackage s.side.recData) = false → exec .recVerifyDone s = .next { s with
      nor := { s.nor with slotA := some (parsePackage s.side.recData) }, side := { s.side with recStatus := 4 } }) ∧
    (s.side.recStatus = 3 → s.nor.verifies (parsePackage s.side.recData) = true → s.dev.state = .starting → s.dev.udsOk = true → s.nor.lifecycle ≠ .retired → s.nor.trial = false →
      s.nor.activeB = false → Completes .recVerifyDone s (fun t => t.nor.slotA = some (parsePackage s.side.recData) ∧ t.side.recStatus = 5 ∧ t.dev.startStep = 3 ∧
        t.dev.noFirmware = false)))

end

/-! ## Life cycle -/

section

open Sys2Proof Sys2Proof.Machine Sys2Proof.Certificates

/-- LIFECYCLE gives one nonce; a signed request must carry it, this device's serial number and a signature by a permitted signer, and the nonce is then spent; any other is answered AUTH_FAIL
with SIGNATURE_REFUSED. A transition that Table 9 has wipes compute, the hub's evidence and every user region, enters the new state with what its operand installs and ends in a
device reset, LIFECYCLE_CHANGE the first record of the new log; one that the table lacks is BAD_ARG. INSTALL_KEY, by the owner in DEPLOYED, installs or revokes a key or the next board
configuration and wipes nothing. DEBUG_UNLOCK, level 1 by the owner in DEPLOYED, level 2 by Serrazor in BLANK and RETURNED, wipes alike, and its start runs with the debug bit set. The DOE mailbox
answers SPDM and IDE_KM requests in the order of the standards, measurement blocks 1 to 7 among them. Rests on R348, R361, R425, R430 to R434, R437 to R441.
Model's choices it rests on: notes/assumptions/5.md, notes/assumptions/29.md, notes/assumptions/58.md. -/
def Obligations.LifecycleAndDoe : Prop :=
  (∀ s mb, Accepted mb 0x82 s → let m := s.mailbox mb
    let b := readBody m
    let refused := fun t => Answered mb 5 0 s t ∧ t.evt.sticky.getLsbD (Cond.code .signatureRefused) = true ∧ t.dev = s.dev ∧ t.nor = { s.nor with seqLimit := t.nor.seqLimit } ∧
      t.sec.nonceLife = (if s.sec.nonceLife = some b.nonce then none else s.sec.nonceLife)
    let wiped := fun t => t.dev.state = .starting ∧ t.job = none ∧ t.tiles = [] ∧ t.mem.bytes = [] ∧ t.host.mailboxes = [] ∧ t.nor.events = [] ∧
      t.nor.dump = none ∧ t.nor.imageKeys = [] ∧ t.nor.clearKeys = []
    let firstRecord := fun (c : Cond) (w : Nat) (t : State) => ∃ e rest, t.evt.ring = e :: rest ∧ e.seq = 1 ∧ e.raised.cond = c ∧ e.raised.w0 = BitVec.ofNat 64 w
    (m.subop = 0 → Completes (.lifecycleGetNonce mb) s (fun t => Responds mb (leBytes 16 (Config.freeValue s.freeCtr).toNat) s t ∧
      t.sec.nonceLife = some (Config.freeValue s.freeCtr) ∧ t = { s with host := t.host, sec := { s.sec with nonceLife := t.sec.nonceLife }, freeCtr := s.freeCtr + 1 })) ∧
    (∀ new, m.subop = 1 → bodyFits m = true → lifeOf b.target = some new → transitionOperand new b.operand = true → bodyReserved m false = none →
      (transitionAllowed s.nor.lifecycle new = false → Completes (.lifecycleTransition mb) s (fun t => Answered mb 2 36 s t ∧ OnlyHost s t)) ∧
      (transitionAllowed s.nor.lifecycle new = true → (new = .deployed → (parseBoard (b.operand.drop 97)).isSome = true) →
        let signer := s.nor.serrazorKey b.signer || (ownerMaySign s.nor.lifecycle new && s.nor.isOwner b.signer)
        (authentic b signer s = false → Completes (.lifecycleTransition mb) s refused) ∧
        (authentic b signer s = true → Completes (.lifecycleTransition mb) s (fun t => wiped t ∧ firstRecord .lifecycleChange (LifeCycle.code new) t ∧
          t.nor.lifecycle = new ∧ (new = .provisioned → t.nor.certificate = b.operand) ∧ (new = .deployed → t.nor.ownerKey = some (b.operand.take 97)) ∧
          (s.nor.lifecycle = .deployed → t.nor.ownerKey = none))))) ∧
    (∀ kind slot rev, m.subop = 2 → bodyFits m = true → b.target = kind → b.index = slot → bit b.flags 0 = rev → keyOperand kind rev b.operand = true → bodyReserved m true = none →
      s.nor.lifecycle = .deployed → kind ∈ [1, 2, 3] → slot < keySlots kind → (kind = 3 → rev = false → (parseBoard b.operand).isSome = true) →
      (authentic b (s.nor.isOwner b.signer) s = false → Completes (.lifecycleInstallKey mb) s refused) ∧
      (authentic b (s.nor.isOwner b.signer) s = true → Completes (.lifecycleInstallKey mb) s (fun t => Answered mb 0 0 s t ∧ t.sec.nonceLife = none ∧
        t.evt.sticky.getLsbD (Cond.code .keyChange) = true ∧ t.dev = s.dev ∧ t.nor.lifecycle = .deployed ∧
        (kind = 1 → look? slot t.nor.imageKeys = (if rev = true then none else some b.operand) ∧ t.nor.clearKeys = s.nor.clearKeys) ∧
        (kind = 2 → look? slot t.nor.clearKeys = (if rev = true then none else some b.operand) ∧ t.nor.imageKeys = s.nor.imageKeys) ∧
        (kind = 3 → t.nor.nextBoard = (if rev = true then none else parseBoard b.operand))))) ∧
    (∀ level, m.subop = 3 → bodyFits m = true → b.operand = [] → b.target = level → bodyReserved m false = none → unlockAllowed level s.nor.lifecycle = true →
      let ok := authentic b (if level = 1 then s.nor.isOwner b.signer else s.nor.serrazorKey b.signer) s
      (ok = false → Completes (.lifecycleDebugUnlock mb) s refused) ∧
      (ok = true → Completes (.lifecycleDebugUnlock mb) s (fun t => wiped t ∧ firstRecord .debugUnlocked level t ∧ t.nor.lifecycle = s.nor.lifecycle ∧
        t.sec.debugOwner = (level == 1) ∧ t.sec.debugFull = (level == 2))))) ∧
  (∀ s, s.scanning = true → s.host.linkUp = true →
    let ready := s.sec.spdmAlgs = true ∧ s.sec.alias_ = true ∧ s.nor.lifecycle ≠ .blank ∧ s.nor.lifecycle ≠ .retired
    let answers := fun r kind v (x : Secrets) => exec (.doeRequest r) s = .next { s with sec := { x with doeAnswers := s.sec.doeAnswers ++ [(kind, v)] } }
    answers .getVersion 1 0x13 { s.sec with spdmVersion := true, spdmCaps := false, spdmAlgs := false, spdmHandshake := false, spdmSession := false } ∧
    (s.sec.spdmVersion = true → Completes (.doeRequest .getCapabilities) s (fun t => t.sec.spdmCaps = true ∧ t.sec.doeAnswers.length = s.sec.doeAnswers.length + 1)) ∧
    (s.sec.spdmCaps = true → Completes (.doeRequest .negotiateAlgorithms) s (fun t => t.sec.spdmAlgs = true ∧ t.sec.doeAnswers.length = s.sec.doeAnswers.length + 1)) ∧
    (s.sec.spdmVersion = false → answers .getCapabilities 0 0 s.sec) ∧ (s.sec.spdmCaps = false → answers .negotiateAlgorithms 0 0 s.sec) ∧
    (ready → answers .getDigests 4 (chainDigest s) s.sec ∧ answers (.getCertificate 0) 5 (chainDigest s) s.sec ∧
      (∀ n i v, measurement s i = some v → answers (.getMeasurements i n) 7 v s.sec) ∧ (∀ n, answers (.getMeasurements 0 n) 7 7 s.sec) ∧
      (∀ n, Completes (.doeRequest (.challenge n)) s (fun t => t.sec.doeAnswers.length = s.sec.doeAnswers.length + 1)) ∧
      (∀ p, Completes (.doeRequest (.keyExchange p)) s (fun t => t.sec.spdmHandshake = true ∧ t.sec.spdmSession = false))) ∧
    (¬ ready → answers .getDigests 0 0 s.sec ∧ ∀ n i, answers (.getMeasurements i n) 0 0 s.sec) ∧
    (s.sec.spdmHandshake = true → answers .finish 9 0 { s.sec with spdmHandshake := false, spdmSession := true }) ∧
    (s.sec.spdmSession = true → (∀ n k, s.sec.ideKeys = [] → answers (.ideKeyProgram n k) 11 0 { s.sec with ideKeys := [n] }) ∧
      (∀ n, n ∈ s.sec.ideKeys → answers (.ideKeyStart n) 12 0 { s.sec with ideOn := [n] }) ∧
      (∀ n, n ∈ s.sec.ideOn → answers (.ideKeyStop n) 13 0 { s.sec with ideOn := [], ideKeys := [] }) ∧
      answers .endSession 10 0 { s.sec with spdmHandshake := false, spdmSession := false }) ∧
    (s.sec.spdmSession = false → ∀ n k, answers (.ideKeyProgram n k) 0 0 s.sec))

end

/-! ## The host link -/

section

open Sys2Proof Sys2Proof.Machine Sys2Proof.Certificates

/-- The host's writes reach a mailbox that it owns, dword by dword, OWNER last in an 8-byte write, and nothing of a mailbox that the device owns; a misaligned write is an
unsupported request. A write of CR_ENTRIES enables the ring at index 0 in phase 1 when the size is one that the ring may have and disables it otherwise. A command with COMPLETION is answered with a 32-byte record in the slot of
CR_TAIL, which advances and turns the phase when it wraps; without room OVERFLOW is set; a record write that fails sets RING_ERROR, and with the ring off the mailbox's own vector is raised. The coalescing timer raises vector 16. Writes and vectors held back leave in order once Bus Master
Enable is set and the function is in D0. Below x16 or below 128 GT/s the link is reduced. In STARTING and HALTED the status page is rewritten. Rests on R317, R318, R320 to R323, R352, R411.
Model's choices it rests on: notes/assumptions/59.md, notes/assumptions/60.md. -/
def Obligations.HostLinkAndRing : Prop :=
  (∀ s mb off v, s.host.linkUp = true → mb < 16 → off < 0x1000 → off % 4 = 0 →
    let w := fun width (v : Word64) => Instr.registerWrite (.bar0 (0x1000 + 0x1000 * mb + off)) width v
    let m := s.mailbox mb
    let writes := fun (i : Instr) (m' : Mailbox) => Completes i s (fun t => t.mailbox mb = m' ∧ (∀ k, k ≠ mb → t.mailbox k = s.mailbox k) ∧
      t = { s with host := { s.host with mailboxes := t.host.mailboxes } })
    (m.owner = true → exec (w 4 v) s = .next s) ∧
    (m.owner = false →
      (off = 0 → writes (w 4 v) { m with owner := v.getLsbD 0 }) ∧
      (off = 4 → writes (w 4 v) { m with seq := v.setWidth 16, cmd := (v >>> 16).setWidth 16 }) ∧
      (off = 8 → writes (w 4 v) { m with completion := v.getLsbD 0, interrupt := v.getLsbD 1, len := (v >>> 16).setWidth 16 }) ∧
      (12 ≤ off → off < 64 → writes (w 4 v) m) ∧
      (64 ≤ off → writes (w 4 v) { m with payload := m.payload.writeBytes (off - 64) (leBytes 4 (v.toNat % 2 ^ 32)) }) ∧
      (off = 0 → writes (w 8 v) { m with seq := (v >>> 32).setWidth 16, cmd := (v >>> 48).setWidth 16, owner := v.getLsbD 0 }))) ∧
  (∀ s off v, s.host.linkUp = true → off % 4 ≠ 0 ∨ 0x4000000 ≤ off →
    exec (.registerWrite (.bar0 off) 4 v) s = .next { s with host := { s.host with unsupported := s.host.unsupported + 1 } }) ∧
  (∀ s tgt width v, s.host.linkUp = false → exec (.registerWrite tgt width v) s = .next s) ∧
  (∀ s v, s.host.linkUp = true → Completes (.registerWrite .busMaster 4 v) s (fun t => t.host.busMaster = decide (v ≠ 0) ∧
    (v ≠ 0 → s.host.dState = 0 → t.host.sent = s.host.sent ++ s.host.writesHeld ∧ t.host.writesHeld = [] ∧ t.host.msix = s.host.msix ++ s.host.msixHeld ∧ t.host.msixHeld = []) ∧
    (v = 0 ∨ s.host.dState ≠ 0 → t = { s with host := { s.host with busMaster := decide (v ≠ 0) } }))) ∧
  (∀ s v, s.host.linkUp = true → Completes (.registerWrite .powerState 4 v) s (fun t =>
    (v = 0 → t.host.dState = 0 ∧ (s.host.busMaster = true → t.host.sent = s.host.sent ++ s.host.writesHeld)) ∧ (v = 3 → t = { s with host := { s.host with dState := 3 } }))) ∧
  (∀ s v, s.host.linkUp = true → exec (.crEntriesWrite v) s = .next { s with host := { s.host with
    crEntries := if v.toNat ∈ [64, 128, 256, 512, 1024, 2048, 4096, 8192, 16384, 32768, 65536] then v else 0,
    crTail := 0, crHead := 0, crPhase := true, coalescing := 0 } }) ∧
  (∀ s mb c, Given mb c s → c ∉ knownCommands → (s.mailbox mb).completion = true → (s.mailbox mb).interrupt = false → s.host.crEntries ≠ 0 → s.host.ringError = false →
    s.host.busMaster = true → s.host.dState = 0 →
    let n := (s.host.crTail.toNat + s.host.crEntries.toNat - s.host.crHead.toNat) % s.host.crEntries.toNat
    (n + 1 < s.host.crEntries.toNat → Completes (.unknownCommand mb) s (fun t =>
      t.host.sent = s.host.sent ++ [{ addr := s.host.crBase + BitVec.ofNat 64 (32 * s.host.crTail.toNat), bytes := completionRecord mb s.host.crPhase (t.mailbox mb) }] ∧
      t.host.crTail = BitVec.ofNat 32 ((s.host.crTail.toNat + 1) % s.host.crEntries.toNat) ∧
      t.host.crPhase = (if (s.host.crTail.toNat + 1) % s.host.crEntries.toNat = 0 then !s.host.crPhase else s.host.crPhase) ∧ t.host.overflow = s.host.overflow)) ∧
    (s.host.crEntries.toNat ≤ n + 1 → Completes (.unknownCommand mb) s (fun t => t.host.sent = s.host.sent ∧ t.host.overflow = true))) ∧
  (∀ s mb c, Given mb c s → c ∉ knownCommands → (s.mailbox mb).completion = true → s.host.crEntries = 0 ∨ s.host.ringError = true →
    s.host.busMaster = true → s.host.dState = 0 → Completes (.unknownCommand mb) s (fun t => t.host.sent = s.host.sent ∧ t.host.msix = s.host.msix ++ [mb])) ∧
  (∀ s, exec (.dmaCompletionError .record) s = .next { s with host := { s.host with ringError := s.host.ringError || decide (s.host.crEntries ≠ 0) } }) ∧
  (∀ s, (s.host.coalescing = 0 → exec .completionCoalesceTimer s = .next s) ∧
    (s.host.coalescing ≠ 0 → Completes .completionCoalesceTimer s (fun t => t.host.coalescing = 0 ∧
      (s.host.busMaster = true ∧ s.host.dState = 0 → t.host.msix = s.host.msix ++ [16]) ∧ (s.host.busMaster = false ∨ s.host.dState ≠ 0 → 16 ∈ t.host.msixHeld)))) ∧
  (∀ s width gts, s.dev.fenumRunning = true → s.dev.perstN = true →
    (16 ≤ width → 128 ≤ gts → exec (.hostLinkTrained width gts) s = .next { s with host := { s.host with linkUp := true, linkWidth := width, linkGts := gts, reduced := false } }) ∧
    (width < 16 ∨ gts < 128 → Completes (.hostLinkTrained width gts) s (fun t => t.host.linkUp = true ∧ t.host.reduced = true ∧ t.host.linkWidth = width ∧
      t.host.linkGts = gts ∧ t.evt.sticky.getLsbD (Cond.code .hostLinkReduced) = true))) ∧
  (∀ s, s.dev.state = .starting ∨ s.dev.state = .halted → s.scanning = true → Completes .statusPageSlowRefresh s (fun t =>
    t = { s with host := { s.host with page := t.host.page } } ∧ t.host.page.refresh = s.host.page.refresh + 2 ∧ t.host.page.state = BitVec.ofNat 4 (DevState.code s.dev.state) ∧
    t.host.page.resetBusy = s.dev.resetBusy ∧ t.host.page.jobOpen = s.job.isSome ∧ t.host.page.timeLocked = s.time.locked ∧ t.host.page.linkReduced = s.host.reduced ∧
    t.host.page.freqMhz = BitVec.ofNat 16 s.clk.mhz ∧ t.host.page.fabricTick = BitVec.ofNat 64 s.time.tick ∧ t.host.page.powerW = BitVec.ofNat 16 s.clk.powerW ∧
    t.host.page.powerCapW = BitVec.ofNat 16 s.pol.powerCapW ∧ t.host.page.health = BitVec.ofNat 16 s.health.score ∧ t.host.page.eventHead = BitVec.ofNat 64 s.eventHead))

end

/-! ## Clocks and sensors -/

section

open Sys2Proof Sys2Proof.Machine

namespace Sys2Proof.Certificates

/-- Twice the distance of a tile sensor's value from the median of its region's working sensors (R402). -/
def outOfLine (s : State) (p : Nat) (v : Int) : Int :=
  2 * v - median2 ((workingSensors s.clk.excluded (tileRegion p)).filterMap (fun q => look? (.tile q) (put (.tile p) v s.clk.readings)))

/-- The band of a health score (R379). -/
def bandFor (score : Nat) : Nat := if 800 ≤ score then 0 else if 500 ≤ score then 1 else 2

end Sys2Proof.Certificates

open Sys2Proof Sys2Proof.Machine Sys2Proof.Certificates

/-- A droop trip stretches and counts a period of its region. At each limiter interval the level moves by one with the mean power and the stretched periods are counted; the first rise of a slot is recorded.
A reading is taken over;
the refresh rate of a stack doubles while its temperature is above 85 °C; a tile sensor in order moves its region's thermal stretch and the throttle mark; a tile sensor that reads out of range, or out of line with its region for one second, is excluded; another
sensor that reads out of range fails, and one that reaches its trip threshold trips. The comparator of a die stops the die and trips; on the fabric path the device halts. Every second the health score is formed
again and a change of its band is recorded. Rests on R234, R378, R379, R385, R387, R400 to R404, R468.
Model's choices it rests on: notes/assumptions/17.md. -/
def Obligations.ClocksAndSensors : Prop :=
  (∀ s g, g < 72 → (s.clk.mhz = 0 → exec (.droopTrip g) s = .next s) ∧
    (s.clk.mhz ≠ 0 → exec (.droopTrip g) s = .next (s.onRegion g (fun r => { r with strDroop := Nat.min 0xFFFFFFFF (r.strDroop + 1), slotDroop := r.slotDroop + 1 })))) ∧
  (∀ s w, (s.clk.mhz = 0 ∨ s.ticking = false → exec (.limiterInterval w) s = .next s) ∧
    (s.clk.mhz ≠ 0 → s.ticking = true →
      let level := s.clk.limiterLevel
      let up := s.pol.powerCapW * 105 < w * 100 ∧ level < 3
      Completes (.limiterInterval w) s (fun t =>
        t.clk.limiterLevel = (if up then level + 1 else if w * 100 < s.pol.powerCapW * 95 then level - 1 else level) ∧
        t.clk.limiterActed = (s.clk.limiterActed || decide (level ≠ 0) || decide (t.clk.limiterLevel ≠ 0)) ∧
        t.clk.limiterRaised = (s.clk.limiterRaised || decide up) ∧
        (∀ g < 72, t.region g = (s.region g).addLimit (stretched s.clk.mhz level (s.region g).thermStretch).2) ∧
        (up → s.clk.limiterRaised = false → t.evt.sticky.getLsbD (Cond.code .powerLimit) = true) ∧
        (¬ up ∨ s.clk.limiterRaised = true → t = { s with clk := t.clk })))) ∧
  (∀ s rs, s.dev.state ≠ .off → (∀ x ∈ rs, sensorExists x.1 = true) → Completes (.sensorRead rs) s (fun t =>
    ∀ k < 16, k ∈ t.mem.fastRefresh ↔ ∃ v, look? (Sensor.hbm k) t.clk.readings = some v ∧ 85 < v)) ∧
  (∀ s p v, p < 1152 → s.dev.state ≠ .off → p ∉ s.clk.excluded → 0 ≤ v → v ≤ 150 → -30 ≤ outOfLine s p v → outOfLine s p v ≤ 30 →
    let rs := put (.tile p) v s.clk.readings
    (∀ g < 72, ∀ w, regionSensor s.clk.excluded rs g = some w → w < 110) →
    Completes (.sensorRead [(.tile p, v)]) s (fun t => t = { s with clk := t.clk, mem := { s.mem with fastRefresh := t.mem.fastRefresh } } ∧ t.clk.readings = rs ∧ t.clk.excluded = s.clk.excluded ∧ look? p t.clk.suspect = none ∧
      (∀ g < 72, ∀ w, regionSensor s.clk.excluded rs g = some w → (t.region g).thermStretch = (decide (100 ≤ w) || ((s.region g).thermStretch && decide (98 ≤ w))) ∧
        (95 ≤ w → t.clk.throttleSeen = true) ∧ (90 < w → t.clk.coolNow = false) ∧ w ≤ t.clk.hottest))) ∧
  (∀ s p v, p < 1152 → s.dev.state ≠ .off → p ∉ s.clk.excluded →
    (v < 0 ∨ 150 < v) ∨ (0 ≤ v ∧ v ≤ 150 ∧ (outOfLine s p v < -30 ∨ 30 < outOfLine s p v) ∧ ∃ since, look? p s.clk.suspect = some since ∧ since + 2000000000 ≤ s.time.now) →
    Completes (.sensorRead [(.tile p, v)]) s (fun t => t.clk.readings = put (.tile p) v s.clk.readings ∧ p ∈ t.clk.excluded ∧ t.evt.sticky.getLsbD (Cond.code .sensorFail) = true)) ∧
  (∀ s x v, x ∈ (List.range 16).map Sensor.hbm ++ (List.range 8).map Sensor.base ++ (List.range 4).map Sensor.portDie ++ [Sensor.hub] → s.dev.state ≠ .off →
    let before := look? x s.clk.readings
    let trip := match x with | .hbm _ => (105 : Int) | _ => 110
    ((v < 0 ∨ 150 < v) → (∀ o, before = some o → 0 ≤ o ∧ o ≤ 150) →
      Completes (.sensorRead [(x, v)]) s (fun t => t.clk.readings = put x v s.clk.readings ∧ t.evt.sticky.getLsbD (Cond.code .sensorFail) = true)) ∧
    (trip ≤ v → v ≤ 150 → (∀ o, before = some o → o < trip) →
      Completes (.sensorRead [(x, v)]) s (fun t => t.clk.readings = put x v s.clk.readings ∧ t.evt.sticky.getLsbD (Cond.code .thermTrip) = true))) ∧
  (∀ s d, d < 13 → s.dev.state ≠ .off → Completes (.thermalComparatorTrip d) s (fun t =>
    t.dev.thermHw = true ∧ d ∈ t.clk.stoppedDies ∧ t.evt.sticky.getLsbD (Cond.code .thermTrip) = true ∧
    (8 ≤ d → s.dev.state = .standby ∨ s.dev.state = .ready ∨ s.dev.state = .running → Halted t))) ∧
  (∀ s, (s.dev.fenumRunning = false → exec .healthScoreUpdate s = .next s) ∧
    (s.dev.fenumRunning = true →
      let score := 1000 - (healthTerms s).sum
      Completes .healthScoreUpdate s (fun t => t.health.score = score ∧ t.health.band = bandFor score ∧ t.time.uptimeS = s.time.uptimeS + 1 ∧ t.clk.hottest = 0 ∧
        (bandFor score ≠ s.health.band → t.evt.sticky.getLsbD (Cond.code .healthBand) = true) ∧
        (bandFor score = s.health.band → t = { s with health := t.health, clk := t.clk, time := t.time }))))

end

/-! ## Reserve tiles -/

section

open Sys2Proof Sys2Proof.Machine

namespace Sys2Proof.Certificates

/-- The logical tiles of a region that no move has taken yet (R214). -/
def regionLogical (s : State) (g : Nat) : List Nat :=
  (List.range 1024).filter (fun l => decide (tileRegion (s.physical l) = g) && !s.tests.moves.any (fun m => m.logical == l))

/-- The verified reserves outside a region. -/
def reservesOutside (s : State) (g : Nat) : List (Nat × Reserve) :=
  s.tests.reserves.filter (fun r => decide (r.2.state = .verified) && decide (tileRegion r.1 ≠ g))

end Sys2Proof.Certificates

open Sys2Proof Sys2Proof.Machine Sys2Proof.Certificates

/-- A region slow for SLOW_TICKS slots is recorded, and each of its active tiles is exchanged for a verified reserve outside the region when at least 8 verified reserves stay; otherwise no move begins. A parked tile
is verified again after SLOW_TICKS slots at 95 % speed. A rotation due is begun at the next boundary. A move whose copy has ended takes effect at the next boundary. At a boundary each tile marked is retired: an
active one moves to a reserve, of another region when there is one, verified before parked before under test; without one RESERVE_EXHAUSTED is raised. The exchange that ends a move writes the tile map and leaves the
tile that left failed, under test or parked. Rests on R85, R214 to R217, R369 to R371, R416.
Model's choices it rests on: notes/assumptions/18.md. -/
def Obligations.ReserveMoves : Prop :=
  (∀ s g, g < 72 → (s.computing = false ∨ (s.region g).slowSlots < s.pol.slowTicks → exec (.regionSlow g) s = .next s) ∧
    (s.computing = true → s.pol.slowTicks ≤ (s.region g).slowSlots → (s.tests.reserves.map (·.1)).Nodup →
      let ls := regionLogical s g
      Completes (.regionSlow g) s (fun t => (t.region g).slowSlots = 0 ∧ t.evt.sticky.getLsbD (Cond.code .regionSlow) = true ∧ t.tests.tileMap = s.tests.tileMap ∧
        (ls.length ≤ (reservesOutside s g).length ∧ ls.length + 8 ≤ s.verified → ∃ new, t.tests.moves = s.tests.moves ++ new ∧ new.map (·.logical) = ls ∧
          ∀ m ∈ new, m.kind = .exchange ∧ m.source = s.physical m.logical ∧ m.copied = false ∧ m.target ∈ (reservesOutside s g).map (·.1) ∧ look? m.target t.tests.reserves = none) ∧
        (¬ (ls.length ≤ (reservesOutside s g).length ∧ ls.length + 8 ≤ s.verified) → t.tests = s.tests)))) ∧
  (∀ s p, p < 1152 →
    (∀ r, look? p s.tests.reserves = some r → r.state = .parked → s.pol.slowTicks ≤ (s.region (tileRegion p)).fastSlots →
      exec (.parkedTileVerified p) s = .next { s with tests := { s.tests with reserves := put p { r with state := .verified } s.tests.reserves } }) ∧
    (look? p s.tests.reserves = none → exec (.parkedTileVerified p) s = .next s) ∧
    (∀ r, look? p s.tests.reserves = some r → r.state ≠ .parked ∨ (s.region (tileRegion p)).fastSlots < s.pol.slowTicks → exec (.parkedTileVerified p) s = .next s)) ∧
  (∀ s, exec .rotation s = .next (if s.computing = true ∧ s.pol.rotateMin ≠ 0 then { s with tests := { s.tests with rotate := true } } else s)) ∧
  (∀ s l, l < 1024 → exec (.tileExchange l) s = .next { s with
    tests := { s.tests with moves := s.tests.moves.map (fun m => if m.logical = l then { m with copied := true } else m) } }) ∧
  (∀ s p l q c, s.logical? p = some l → s.tests.moves.all (fun m => m.source != p) = true → s.tests.retiring = [(p, c)] →
    chooseReserve s p = some q →
    let t := retireAll s
    (∃ m, t.tests.moves = s.tests.moves ++ [m] ∧ m.logical = l ∧ m.source = p ∧ m.target = q ∧ m.kind = .retirement) ∧ look? q t.tests.reserves = none ∧
    t.tests.tileMap = s.tests.tileMap ∧ (s.nor.defects.length < 65536 → ∃ d, t.nor.defects = s.nor.defects ++ [d] ∧ d.location = tileLocation p ∧ d.code = Cond.code c ∧ d.kind = 1)) ∧
  (∀ s p q, chooseReserve s p = some q → ∃ r, (q, r) ∈ s.tests.reserves ∧ r.state ≠ .failed ∧
    ((∃ x ∈ s.tests.reserves, x.2.state ≠ .failed ∧ tileRegion x.1 ≠ tileRegion p) → tileRegion q ≠ tileRegion p) ∧
    (∀ x ∈ s.tests.reserves, x.2.state = .verified → tileRegion x.1 ≠ tileRegion p → r.state = .verified)) ∧
  (∀ s m, m ∈ s.tests.moves → m.logical < s.tests.tileMap.length → m.source ≠ m.target →
    let t := exchange m s
    t.tests.tileMap.getD m.logical 0 = m.target ∧ t.nor.tileMap = t.tests.tileMap ∧ t.tests.moves = s.tests.moves.erase m ∧ t.tile m.target = {} ∧
    look? m.source t.tests.reserves = some { state := (match m.kind with | .retirement => .failed | .rotation => .underTest | .exchange => .parked), since := s.time.now } ∧
    (∀ l, l ≠ m.logical → t.tests.tileMap.getD l 0 = s.tests.tileMap.getD l 0) ∧ (∀ p, p ≠ m.source → p ≠ m.target → t.tile p = s.tile p))

end

/-! ## Ports and links -/

section

open Sys2Proof Sys2Proof.Machine

namespace Sys2Proof.Certificates

/-- Only the port named changes among the ports. -/
def OnlyPort (p : Nat) (s t : State) : Prop := ∀ q, q ≠ p → t.port q = s.port q

/-- The link state of a port that is not up (R255, R363). -/
def LinkCleared (x : Port) : Prop :=
  x.nonce = 0 ∧ x.peerHello = none ∧ x.peerChain = none ∧ x.rxSeq = 0 ∧ x.txSeq = 0 ∧ x.replay = [] ∧ x.creditsOwed = [] ∧ x.peerBudget = none ∧
    x.rxSeqVc = [] ∧ x.txSeqVc = [] ∧ x.rxParts = [] ∧ x.tx = [] ∧ x.outstanding = []

/-- A wavelength of the laser feed as chapter 8 Table 2 asks (R249). -/
def FeedOk (f : Feed) : Prop :=
  1500 ≤ f.power ∧ f.power ≤ 2000 ∧ -25 ≤ f.offGrid ∧ f.offGrid ≤ 25 ∧ f.noise ≤ -145 ∧ f.slowAxis = true ∧ 20 ≤ f.extinction

/-- The lanes that lock to transmit: those that lock and have their wavelength (R249, R252). -/
def LitLanes (tr : Training) (tx : BitVec 9) : Prop :=
  ∀ k < 9, tx.getLsbD k = true ↔ tr.txLock.getLsbD k = true ∧ FeedOk (tr.feed.getD k {})

/-- The port goes down: recorded, trained again, and held at the third time within 3,600 s (R255). -/
def GoesDown (p : Nat) (s t : State) : Prop :=
  let times := lastHour s.time.now (s.port p).downTimes ++ [s.time.now]
  OnlyPort p s t ∧ LinkCleared (t.port p) ∧ (t.port p).downs = (s.port p).downs + 1 ∧ (t.port p).downTimes = times ∧
    (t.port p).state = (if 3 ≤ times.length then .held else .training) ∧ t.evt.sticky.getLsbD (Cond.code .portDown) = true ∧
    (3 ≤ times.length → t.evt.sticky.getLsbD (Cond.code .portFlap) = true) ∧
    ∀ pl b, s.usablePort p = true → s.fab.plan = some pl → pl.bundleOf p = some b → (pl.address, s.fab.eventNo + 1) ∉ s.fab.seenFloods →
      ∃ e, e.device = pl.address ∧ e.dim = b / 2 ∧ e.plus = (b % 2 == 0) ∧ e.up = false ∧ e.tick = s.time.tick ∧ e.event = s.fab.eventNo + 1 ∧
        ∀ q, q < 24 → s.usablePort q = true → q ≠ p → (q, e) ∈ t.fab.floods

/-- The neighbour's answer is valid for a challenge (R263). -/
def HelloValid (nonce : BitVec 128) (h : Hello) (chain : BitVec 384) : Prop :=
  h.peerNonce = nonce ∧ Config.chainVerify chain h.keyHash = true ∧ Config.helloVerify chain (helloBytes h) h.signature = true

end Sys2Proof.Certificates

open Sys2Proof.Certificates

/-- A training attempt brings the port up when both directions locked at least eight lanes and the HELLO exchange has succeeded; a lane whose wavelength the laser feed lacks does not lock; at its HELLO phase the port sends its challenge; an
eight-lane direction is recorded as spared; the third attempt that fails leaves the port down and recorded, and a down port starts again every 60 s. An up port that loses a data lane or hears no flit for 10 µs goes down. The first HELLO
round is answered, with this device's certificate chain; an answer with its chain is checked, and an invalid one holds the port. A COORD packet that does not match takes the port out of its bundle. Rests on R249, R252 to R255, R263, R266, R268.
Model's choices it rests on: notes/assumptions/5.md, notes/assumptions/20.md, notes/assumptions/29.md, notes/assumptions/87.md. -/
def Obligations.PortsTrainAndFail : Prop :=
  (∀ s p tr tx, p < 24 → LitLanes tr tx →
    let x := s.port p
    let lanes := 8 ≤ popcount9 tx ∧ 8 ≤ popcount9 tr.rxLock
    let good := lanes ∧ tr.hello = true ∧ x.peerHello ≠ none ∧ x.peerChain ≠ none
    (x.state ≠ .training ∨ s.dev.transmitters = false → exec (.portTrainingAttempt p tr) s = .next s) ∧
    (x.state = .training → s.dev.transmitters = true → tr.atHello = true →
      (lanes → x.nonce = 0 → Completes (.portTrainingAttempt p tr) s (fun t => OnlyPort p s t ∧ (t.port p).state = .training ∧ ∃ k, t.fab.sent = s.fab.sent ++ [(p, k)] ∧ k.typ = 0x30)) ∧
      (¬ lanes ∨ x.nonce ≠ 0 → Completes (.portTrainingAttempt p tr) s (fun t => t = { s with fab := { s.fab with feeds := t.fab.feeds } }))) ∧
    (x.state = .training → s.dev.transmitters = true → tr.atHello = false → good → Completes (.portTrainingAttempt p tr) s (fun t =>
      OnlyPort p s t ∧ (t.port p).state = .up ∧ (t.port p).attempts = 0 ∧ (t.port p).txLock = tx ∧ (t.port p).rxLock = tr.rxLock ∧
      (popcount9 tx = 8 ∨ popcount9 tr.rxLock = 8 → t.evt.sticky.getLsbD (Cond.code .laneSpared) = true) ∧
      (∀ pl b, s.fab.plan = some pl → pl.bundleOf p = some b → (x.coordOk = false ∨ x.coordFailed = true) → t.fab.sent = s.fab.sent ++ [(p, coordPacket pl b)]))) ∧
    (x.state = .training → s.dev.transmitters = true → tr.atHello = false → ¬ good → Completes (.portTrainingAttempt p tr) s (fun t =>
      OnlyPort p s t ∧ (t.port p).attempts = x.attempts + 1 ∧ (t.port p).state = (if 3 ≤ x.attempts + 1 then .down else .training) ∧ LinkCleared (t.port p) ∧
      (3 ≤ x.attempts + 1 → x.untrainedRecorded = false → t.evt.sticky.getLsbD (Cond.code .portUntrained) = true)))) ∧
  (∀ s p, p < 24 → ((s.port p).state = .down → s.dev.transmitters = true → Completes (.portRetryTimer p) s (fun t =>
      OnlyPort p s t ∧ (t.port p).state = .training ∧ (t.port p).attempts = 0 ∧ LinkCleared (t.port p))) ∧
    ((s.port p).state ≠ .down ∨ s.dev.transmitters = false → exec (.portRetryTimer p) s = .next s)) ∧
  (∀ s p lane, p < 24 → lane < 9 →
    let data := fun (m : BitVec 9) => ((List.range 9).filter (fun i => m.getLsbD i)).take 8
    let hit := lane ∈ data (s.port p).txLock ∨ lane ∈ data (s.port p).rxLock
    ((s.port p).state = .up → hit → Completes (.portLossOfLock p lane) s (GoesDown p s)) ∧
    ((s.port p).state ≠ .up ∨ ¬ hit → exec (.portLossOfLock p lane) s = .next s)) ∧
  (∀ s p, p < 24 → ((s.port p).state = .up → Completes (.portIdleTimeout p) s (GoesDown p s)) ∧
    ((s.port p).state ≠ .up → exec (.portIdleTimeout p) s = .next s)) ∧
  (∀ s p h, p < 24 → (s.port p).state = .training → s.dev.transmitters = true →
    (h.peerNonce = 0 → Completes (.hello p h) s (fun t => OnlyPort p s t ∧ (t.port p).state = .training ∧ ((s.port p).nonce ≠ 0 → (t.port p).nonce = (s.port p).nonce) ∧
      ∃ hs c, t.fab.sent = s.fab.sent ++ hs ++ [(p, c)] ∧ hs.length = (if (s.port p).nonce = 0 then 2 else 1) ∧ (∀ x ∈ hs, x.1 = p ∧ x.2.typ = 0x30) ∧
        c.typ = 0x31 ∧ c.payload = hashBytes (chainDigest s))) ∧
    (h.peerNonce ≠ 0 → (s.port p).peerChain = none → exec (.hello p h) s = .next (s.onPort p (fun x => { x with peerHello := some h }))) ∧
    (∀ chain, h.peerNonce ≠ 0 → (s.port p).peerChain = some chain →
      (HelloValid (s.port p).nonce h chain → Completes (.hello p h) s (fun t => OnlyPort p s t ∧ t.port p = { s.port p with peerHello := some h, long := (s.port p).long && decide (h.generation ≠ 3) })) ∧
      (¬ HelloValid (s.port p).nonce h chain → Completes (.hello p h) s (fun t => OnlyPort p s t ∧ (t.port p).state = .held ∧ LinkCleared (t.port p) ∧ t.evt.sticky.getLsbD (Cond.code .portAuthFail) = true)))) ∧
  (∀ s p chain, p < 24 → (s.port p).state = .training → s.dev.transmitters = true →
    ((s.port p).peerHello = none → exec (.helloCert p chain) s = .next (s.onPort p (fun x => { x with peerChain := some chain }))) ∧
    (∀ h, (s.port p).peerHello = some h →
      (HelloValid (s.port p).nonce h chain → Completes (.helloCert p chain) s (fun t => OnlyPort p s t ∧ t.port p = { s.port p with peerChain := some chain, long := (s.port p).long && decide (h.generation ≠ 3) })) ∧
      (¬ HelloValid (s.port p).nonce h chain → Completes (.helloCert p chain) s (fun t => OnlyPort p s t ∧ (t.port p).state = .held ∧ LinkCleared (t.port p) ∧ t.evt.sticky.getLsbD (Cond.code .portAuthFail) = true)))) ∧
  (∀ s p pl b addr dim plus, p < 24 → (s.port p).state = .up → s.fab.plan = some pl → pl.bundleOf p = some b →
    let i := b / 2
    let n := pl.coord addr.toNat i
    let own := pl.coord pl.address i
    let ok := dim = i ∧ (n = (own + 1) % pl.sizeOf i ∨ n = (own + pl.sizeOf i - 1) % pl.sizeOf i) ∧ pl.setCoord addr.toNat i 0 = pl.setCoord pl.address i 0 ∧ plus = (b % 2 == 1)
    (ok → Completes (.coord p addr dim plus) s (fun t => OnlyPort p s t ∧ t.port p = { s.port p with coordOk := true })) ∧
    (¬ ok → (s.port p).coordFailed = false → Completes (.coord p addr dim plus) s (fun t => OnlyPort p s t ∧ t.port p = { s.port p with coordFailed := true } ∧
      t.usablePort p = false ∧ t.evt.sticky.getLsbD (Cond.code .coordMismatch) = true)))

/-- A flit is good when its CRC is right and no codeword has more than 15 symbols in error. On a SHORT port a good flit in sequence is taken, its credit owed and its packet handed on at its end, a failed one leaves the sequence and has a NAK
owed, one out of sequence is discarded, and an idle flit only acknowledges; FACK frees the flits before it, a NAK has the rest sent again from the replay buffer, and the same flit failing 16 resends takes the port down. On a LONG port a
failed flit is dropped, and more than seven in 10 ms take the port down; the next flit of its VC shows the gap, which discards the packet and is counted, and nothing is sent again. A link-control flit carries the credits owed; its two
exchanges give the delay and the offset, with the port's ASYM taken off; a neighbour without a path is no parent; the port with the smallest budget becomes the parent, with its hop's budget added, and the anchor has none. That an idle flit
takes no number, and that a gap counts one packet, are the model's choices. Rests on R255 to R260, R291 to R295.
Model's choices it rests on: notes/assumptions/67.md, notes/assumptions/68.md, notes/assumptions/87.md. -/
def Obligations.FlitsAndTime : Prop :=
  (∀ s p a, p < 24 →
    let x := s.port p
    let f := a.flit
    let vc := f.vc.toNat
    let good := (∀ e ∈ a.symbolErrors, e ≤ 15) ∧ a.crc = crc32 (flitBody f)
    let taken := f.vc = 13 ∨ f.fseq = x.rxSeq
    (x.state ≠ .up → exec (.flitReceive p a) s = .next s) ∧
    (x.state = .up → x.long = false →
      (¬ good → exec (.flitReceive p a) s = .next (s.onPort p (fun x => { x with nakOwed := true }))) ∧
      (good → ¬ taken → exec (.flitReceive p a) s = .next s) ∧
      (good → taken → f.nak = false → Completes (.flitReceive p a) s (fun t => OnlyPort p s t ∧ (t.port p).state = .up ∧ (t.port p).resends = x.resends ∧
        (t.port p).rxSeq = (if f.vc = 13 then x.rxSeq else x.rxSeq + 1) ∧
        (f.vc ≠ 12 → (t.port p).txSeq = x.txSeq ∧
          (∀ pre g rest, x.replay = pre ++ g :: rest → (∀ h ∈ pre, h.fseq ≠ f.fack) → g.fseq = f.fack → (t.port p).replay = g :: rest) ∧
          ((∀ h ∈ x.replay, h.fseq ≠ f.fack) → (t.port p).replay = (if f.fack = x.txSeq then [] else x.replay))) ∧
        (f.vc = 12 → x.tx = [] → ∀ c n, f.credits = [(c, n)] → look 0 c (t.port p).outstanding = look 0 c x.outstanding - n) ∧
        (vc < 12 → f.sop = true → f.eop = true → (t.port p).arrived = x.arrived ++ (if f.abort then [] else [parsePacket vc ((f.data ++ List.replicate 248 0).take 248)])) ∧
        (∀ v, v < 12 → look 0 v (t.port p).creditsOwed = look 0 v x.creditsOwed + (if v = vc then 1 else 0)))) ∧
      (good → taken → f.nak = true → ∀ g rest, x.replay = g :: rest → g.fseq = f.fack →
        (x.sameResends < 16 → Completes (.flitReceive p a) s (fun t => OnlyPort p s t ∧ (t.port p).state = .up ∧
          (f.vc ≠ 12 → (t.port p).replay = x.replay ∧ (t.port p).wire = x.wire ++ x.replay) ∧
          (t.port p).resends = x.resends + x.replay.length ∧ (t.port p).sameResends = x.sameResends + 1 ∧
          t.health.linkErrors.length = s.health.linkErrors.length + x.replay.length)) ∧
        (16 ≤ x.sameResends → Completes (.flitReceive p a) s (fun t => OnlyPort p s t ∧ (t.port p).state ≠ .up ∧ (t.port p).downs = x.downs + 1 ∧
          t.evt.sticky.getLsbD (Cond.code .portDown) = true)))) ∧
    (x.state = .up → x.long = true →
      let times := x.dropTimes.filter (fun t => decide (s.time.now < t + 20000000)) ++ [s.time.now]
      (¬ good → times.length ≤ 7 → exec (.flitReceive p a) s = .next (s.onPort p (fun x => { x with dropTimes := times }))) ∧
      (¬ good → 7 < times.length → Completes (.flitReceive p a) s (fun t => OnlyPort p s t ∧ (t.port p).state ≠ .up ∧ (t.port p).downs = x.downs + 1 ∧ t.evt.sticky.getLsbD (Cond.code .portDown) = true)) ∧
      (good → f.vc = 13 → exec (.flitReceive p a) s = .next s) ∧
      (good → f.vc ≠ 13 → Completes (.flitReceive p a) s (fun t => OnlyPort p s t ∧ (t.port p).state = .up ∧ (t.port p).dropTimes = x.dropTimes ∧
        look 0 vc (t.port p).rxSeqVc = f.fseq + 1 ∧
        (∀ v, v < 12 → look 0 v (t.port p).creditsOwed = look 0 v x.creditsOwed + (if v = vc then (f.fseq - look 0 vc x.rxSeqVc).toNat + 1 else 0)) ∧
        (f.fseq = look 0 vc x.rxSeqVc → (t.port p).linkDrops = x.linkDrops ∧
          (vc < 12 → vc ∉ x.discardVc → f.sop = true → f.eop = true → f.abort = false → (t.port p).arrived = x.arrived ++ [parsePacket vc ((f.data ++ List.replicate 248 0).take 248)])) ∧
        (f.fseq ≠ look 0 vc x.rxSeqVc → vc < 12 → (t.port p).linkDrops = x.linkDrops + 1 ∧ t.evt.sticky.getLsbD (Cond.code .linkDrop) = true ∧
          t.health.linkErrors.length = s.health.linkErrors.length + 1 ∧ (f.sop = false → (t.port p).arrived = x.arrived)))))) ∧
  (∀ s p request answer budget depth, p < 24 → ((s.port p).state ≠ .up → exec (.linkControlFlit p request answer budget depth) s = .next s) ∧
    ((s.port p).state = .up →
      let offset := (request.received - request.sent + (answer.sent - answer.received) - s.asymPs p) / 2
      Completes (.linkControlFlit p request answer budget depth) s (fun t => OnlyPort p s t ∧
      (∃ g, (t.port p).wire = (s.port p).wire ++ [g] ∧ g.vc = 12 ∧ g.credits = (s.port p).creditsOwed) ∧
      t.port p = { (s.port p).emit { vc := 12, credits := (s.port p).creditsOwed } with
        creditsOwed := [], delay := (answer.received - request.sent - (answer.sent - request.received)) / 2, timeOffset := offset, peerBudget := budget.map (fun b => (b, depth)) } ∧
      (s.timePlan = none → t.time = s.time) ∧
      (∀ pl, s.timePlan = some pl → pl.address = pl.anchor → t.time.parent = none ∧ t.time.depth = 0 ∧ t.time.locked = true ∧ t.time.holdover = false) ∧
      (∀ pl, s.timePlan = some pl → pl.address ≠ pl.anchor → budget = none → t.time.parent ≠ some p) ∧
      (∀ pl b, s.timePlan = some pl → pl.address ≠ pl.anchor → budget = some b → (s.fab.plan ≠ none → (s.port p).coordOk = true ∧ (s.port p).coordFailed = false) →
        (∀ q, q ≠ p → q < 24 → (s.port q).state = .up → ∀ c, (s.port q).peerBudget = some c → b < c.1) →
        t.time.parent = some p ∧ t.time.budgetPs = b + (if (s.port p).long then 2500 else 400) ∧ t.time.depth = depth + 1 ∧ t.time.holdover = false ∧
        (s.job = none → s.time.locked = false → t.time.locked = true ∧ t.time.offsetPs = 0 ∧ t.time.fabric = ((s.time.fabric : Int) + offset * 16 / 1000).toNat) ∧
        (s.job.isSome = true → t.time.offsetPs = offset ∧ t.time.fabric = s.time.fabric) ∧
        (1000 * pl.timeBudget < b + (if (s.port p).long then 2500 else 400) → s.time.budgetRecorded = false → t.evt.sticky.getLsbD (Cond.code .timeBudget) = true)))))

end

/-! ## Routing -/

section

open Sys2Proof Sys2Proof.Machine

namespace Sys2Proof.Certificates

/-- A packet leaves a device through a bundle, in a phase and with a detour dimension, on the port its flow takes; it is dropped while the bundle is not usable
(R256, R266, R269, R270, R273). -/
def Leaves (s : State) (p : Nat) (k : Packet) (pl : Plan) (i : Nat) (plus phase : Bool) (ddim : Nat) (t : State) : Prop :=
  let b := 2 * i + (if plus then 0 else 1)
  (s.bundleUsable pl b = false → t = { s with fab := { s.fab with linkDropped := s.fab.linkDropped + 1 } }) ∧
  (∀ q, s.bundleUsable pl b = true → s.portFor b k = some q →
    let cls : BitVec 2 := if k.cls = 1 ∧ (∀ c ∈ (s.port q).circuits, c.number ≠ k.flow.toNat) then 2 else k.cls
    let line := (decide ((pl.bundleOf p).map (· / 2) = some i) && k.dateline) || pl.crosses i (pl.coord pl.address i) plus
    t.fab.sent = s.fab.sent ++ [(q, { k with phase := phase, ddim := BitVec.ofNat 3 ddim, dateline := line, cls := cls })] ∧ OnlyPort q s t)

/-- The order in which the dimensions of a packet are corrected (R269, R272). -/
def correction (pl : Plan) (k : Packet) : List Nat :=
  if k.phase then
    let i := (k.ddim.toNat + pl.dims - 1) % pl.dims
    i :: ((List.range pl.dims).filter (fun d => d ≠ i && d ≠ k.ddim.toNat) ++ [k.ddim.toNat])
  else List.range pl.dims

end Sys2Proof.Certificates

open Sys2Proof.Certificates

/-- A packet of a known type, in a class its type travels in and of at most 2,048 bytes, that comes in on a port of a bundle corrects its first differing dimension in the shorter direction, or does what the first matching exception entry
says: the other direction, a detour through the next dimension, or a drop that is counted and recorded; it leaves on the port its flow takes. A new flood is kept, emitted again on the other usable ports, and schedules a swap FLOOD_TICKS
after its tick; a late one is recorded and enters the next swap. At the stop tick injection stops, at the swap tick the shadow tables become active and a committed plan is answered, and afterwards injection resumes. A grant cut off ends
its packet with a flit that carries ABORT. That a packet that is ill formed counts as a reserved one is the model's choice. Rests on R261, R262, R266, R269 to R274, R283 to R285, R307, R345, R360, R365.
Model's choices it rests on: notes/assumptions/20.md, notes/assumptions/87.md. -/
def Obligations.RoutingAndFloods : Prop :=
  (∀ s p k, p < 24 → s.forwards = true → (s.port p).state = .up →
    let typ := k.typ.toNat
    let known := typ ∈ [0x01, 0x02, 0x03, 0x04, 0x08, 0x20, 0x21] ∨ (0x10 ≤ typ ∧ typ ≤ 0x1F)
    let cls := if typ = 0x20 ∨ typ = 0x21 then k.cls = 0 else if 0x10 ≤ typ then k.cls = 1 ∨ k.cls = 2 else k.cls = 2
    let taken := known ∧ ¬ (0x13 ≤ typ ∧ typ ≤ 0x1F ∧ s.address = some k.dest.toNat) ∧ k.payload.length ≤ 2048 ∧ cls
    (¬ taken → exec (.transitPacket p k) s = .next { s with fab := { s.fab with rsvDrops := s.fab.rsvDrops + 1 } }) ∧
    (taken → (s.fab.plan = none ∨ ∃ pl, s.fab.plan = some pl ∧ pl.bundleOf p = none) →
      exec (.transitPacket p k) s = .next { s with fab := { s.fab with linkDropped := s.fab.linkDropped + 1 } }) ∧
    (taken → ∀ pl, s.fab.plan = some pl → pl.bundleOf p ≠ none →
      let differs := fun i => pl.coord k.dest.toNat i ≠ pl.coord pl.address i
      ((∀ i ∈ correction pl k, ¬ differs i) → exec (.transitPacket p k) s = .next s) ∧
      (∀ i pre post, correction pl k = pre ++ i :: post → (∀ j ∈ pre, ¬ differs j) → differs i →
        let goal := pl.coord k.dest.toNat i
        let n := pl.sizeOf i
        let plus := decide ((goal + n - pl.coord pl.address i) % n ≤ n / 2)
        let inRange := fun (e : Exc) => if e.lo ≤ e.hi then e.lo ≤ goal ∧ goal ≤ e.hi else e.lo ≤ goal ∨ goal ≤ e.hi
        let fits := fun (e : Exc) => e.valid = true ∧ e.dim = i ∧ (if k.phase then e.p1 else e.p0) = true ∧ inRange e
        let table := pl.exceptions ++ s.fab.computed
        let first := fun (e : Exc) => ∃ a b, table = a ++ e :: b ∧ (∀ x ∈ a, ¬ fits x) ∧ fits e
        ((∀ e ∈ table, ¬ fits e) → Completes (.transitPacket p k) s (Leaves s p k pl i plus k.phase k.ddim.toNat)) ∧
        (∀ e, first e →
          (e.action = 0 → Completes (.transitPacket p k) s (Leaves s p k pl i plus k.phase k.ddim.toNat)) ∧
          (e.action = 1 → Completes (.transitPacket p k) s (Leaves s p k pl i (!plus) k.phase k.ddim.toNat)) ∧
          (e.action = 2 → k.phase = false → Completes (.transitPacket p k) s (Leaves s p k pl ((i + 1) % pl.dims) (!e.detourMinus) true ((i + 1) % pl.dims))) ∧
          ((e.action = 2 ∧ k.phase = true) ∨ 3 ≤ e.action → Completes (.transitPacket p k) s (fun t =>
            t.fab = { s.fab with routeDrops := s.fab.routeDrops + 1 } ∧ t.evt.sticky.getLsbD (Cond.code .routeDrop) = true)))))) ∧
  (∀ s p e c up, p < 24 → (c, up) ∈ [(Instr.portDownFlood p e, false), (.portUpFlood p e, true)] → s.forwards = true → (s.port p).state = .up →
    let x : Flood := { e with up := up }
    ((e.device, e.event) ∈ s.fab.seenFloods → exec c s = .next s) ∧
    ((e.device, e.event) ∉ s.fab.seenFloods → Completes c s (fun t =>
      (∀ q, q < 24 → s.usablePort q = true → q ≠ p → (q, x) ∈ t.fab.floods) ∧ (e.device, e.event) ∈ t.fab.seenFloods ∧
      (s.dev.restarting = true → s.fab.floodQueue.length < 64 → t.fab.floodQueue = s.fab.floodQueue ++ [(p, x)]) ∧
      (s.dev.restarting = true → 64 ≤ s.fab.floodQueue.length → t.fab.routeStale = true) ∧
      (s.dev.restarting = false → e.noRoute = false → ∀ pl, s.fab.plan = some pl → pl.heal = true →
        (e.tick + pl.floodTicks ≤ s.time.tick → t.fab.events = s.fab.events ++ [(s.time.tick + 1, x)] ∧ t.evt.sticky.getLsbD (Cond.code .floodLate) = true) ∧
        (s.time.tick < e.tick + pl.floodTicks → s.fab.swap = none →
          t.fab.swap = some { stopAt := e.tick + pl.floodTicks, swapAt := e.tick + pl.floodTicks + Nat.max 1 (ceilDiv pl.drainUs pl.tickUs) } ∧
          t.fab.events = s.fab.events ++ [(e.tick + pl.floodTicks, x)] ∧ t.fab.downLinks = s.fab.downLinks ∧
          (s.fab.events = [] → ∀ l, l ∈ t.downNow ↔ (l ∈ s.fab.downLinks ∧ l ≠ (e.device, e.dim, e.plus)) ∨ (up = false ∧ l = (e.device, e.dim, e.plus)))))))) ∧
  (∀ s, ((∀ w, s.fab.swap = some w → s.time.tick < w.stopAt ∨ s.ticking = false ∨ (w.stopped = true ∧ (w.plan = false ∨ w.formed = true ∨ s.time.tick < w.planAt))) → exec .injectionStop s = .next s) ∧
    (∀ w, s.fab.swap = some w → w.stopped = false → w.stopAt ≤ s.time.tick → s.ticking = true → Completes .injectionStop s (fun t =>
      let forming := w.plan && !w.formed && decide (w.planAt ≤ s.time.tick) && s.fab.shadow.isSome && !s.dev.restarting
      t.fab.stopped = true ∧ t.fab.swap = some { w with stopped := true, formed := w.formed || forming } ∧ t.fab.stopTicks = (w.stopAt :: s.fab.stopTicks).take 16 ∧ t.fab.plan = s.fab.plan ∧
      (forming = false → t.fab.computedShadow = s.fab.computedShadow) ∧
      (∀ pl, forming = true → s.fab.shadow = some pl → pl.heal = false → t.fab.computedShadow = []) ∧
      (∀ pl, s.fab.plan = some pl → t.coll = s.coll.map (fun c => c.stop s.time.tick (pl.floodTicks + Nat.max 1 (ceilDiv pl.drainUs pl.tickUs))))))) ∧
  (∀ s w, s.fab.swap = some w → w.stopped = true → w.swapAt ≤ s.time.tick → s.ticking = true → Completes .fabricTableSwap s (fun t =>
    (w.plan = false ∨ w.formed = true → t.fab.computed = s.fab.computedShadow) ∧
    (w.plan = false → t.fab.swap = s.fab.nextSwap ∧ t.fab.nextSwap = none ∧ t.fab.events = s.fab.events.filter (fun x => decide (w.stopAt < x.1)) ∧ t.fab.downLinks = s.fab.downAt w.stopAt ∧
      t.fab.plan = s.fab.plan ∧ t.fab.shadow = s.fab.shadow ∧ t.time = s.time) ∧
    (∀ pl, w.plan = true → s.fab.shadow = some pl → t.fab.plan = some pl ∧ t.fab.shadow = none ∧ t.time.periodUs = pl.tickUs ∧ t.time.tick = s.time.fabric / (pl.tickUs * 16000)) ∧
    (∀ mb, w.mailbox = some mb → (s.mailbox mb).wait = some .swap → Answered mb 0 0 s t))) ∧
  (∀ s, (s.fab.stopped = false → exec .injectionResume s = .next s) ∧
    (s.fab.stopped = true → (∀ w, s.fab.swap = some w → w.stopped = false) → s.ticking = true → s.coll = [] → exec .injectionResume s = .next (each (forward none) s.fab.waiting { s with
      fab := { s.fab with stopped := false, waiting := [], peers := s.fab.peers.map (fun x => { x with unreplied := x.unreplied.map (fun u => { u with sentAt := u.sentAt + (s.time.tick - s.fab.stopTicks.headD s.time.tick) }) }) } }))) ∧
  (∀ s p k, p < 24 → s.forwards = true → Completes (.fabricArbHoldCutoff p k) s (fun t =>
    OnlyPort p s t ∧ t.fab = { s.fab with ports := t.fab.ports, linkDropped := s.fab.linkDropped + 1 } ∧ t.evt.sticky.getLsbD (Cond.code .arbHoldCutoff) = true ∧
    (∃ cut more, (t.port p).wire = (s.port p).wire ++ cut :: more ∧ cut.vc.toNat = packetVc k % 16 ∧ cut.eop = true ∧ cut.abort = true))) ∧
  (∀ s p k, p < 24 → (s.port p).state = .up → s.address = some k.dest.toNat → k.cls = 0 → exec (.fenceNotice p k) s = .next { s with
    fab := { s.fab with fenceNotices := if k.src.toNat ∈ s.fab.fenceNotices then s.fab.fenceNotices else s.fab.fenceNotices ++ [k.src.toNat] } })

end

/-! ## Remote operations -/

section

open Sys2Proof Sys2Proof.Machine

namespace Sys2Proof.Certificates

/-- The reply to a request: RGEN and E2E_SEQ are echoed (R261, R282). -/
def answerTo (p : Packet) (status : Nat) (data : List Byte) : Packet :=
  { dest := p.src, src := p.dest, typ := 8, cls := 2, rgen := p.rgen, window := p.window, wgen := p.wgen, offset := p.offset,
    status := BitVec.ofNat 4 status, e2eSeq := p.e2eSeq, payload := data }

/-- The four requests: command, TYPE and number of the operation (R261 Table 8). -/
def requests (o : WindowOp) : List (Instr × Nat × Nat) := [(.windowPut o, 1, 0), (.windowGet o, 2, 1), (.windowAdd o, 3, 2), (.windowCas o, 4, 3)]

/-- The window line an operation names. -/
def lineNamed (op : Nat) (p : Packet) : Nat := if op = 3 then p.offset.toNat / 8 else p.offset.toNat

/-- An operation is taken in its turn: the next number is expected, and what REPLY_ACK has passed is forgotten (R280). -/
def inTurn (p : Packet) (x : Peer) : Peer :=
  let old := fun (n : Nat) => p.chunk.toNat = 0xFFFFFFFF ∨ p.chunk.toNat < n
  { x with expected := (x.expected + 1) % 2 ^ 32, casResults := x.casResults.filter (fun e => decide (old e.1)), refusals := x.refusals.filter (fun e => decide (old e.1)) }

end Sys2Proof.Certificates

open Sys2Proof.Certificates

/-- A request to a device that is fenced or in reset is answered with FENCED, without an open job with CLOSED, of a new peer with the table full with FULL; a Trigrim's is not answered while fenced. An operation in its turn that the window
refuses is answered with the code; a GET is answered with the committed line; a PUT, an ADD and a CAS enter the journal with the reply they owe, and a PUT its line's pending version; where the read of an operation leads to a reset, nothing
is applied. One with a higher number is dropped, and of one with a lower number the reply is sent again. At the sender a reply releases its operation and counts; E2E_TIMEOUT ticks after an operation was sent without a reply everything
without a reply is sent again in order, and after E2E_RETRIES the peer has timed out. Rests on R67 to R69, R237, R241, R276 to R282, R288.
Model's choices it rests on: notes/assumptions/36.md, notes/assumptions/39.md, notes/assumptions/81.md. -/
def Obligations.RemoteOperations : Prop :=
  (∀ s o i ty op, (i, ty, op) ∈ requests o →
    let p := o.packet
    (p.typ.toNat ≠ ty ∨ s.forwards = false ∨ s.address ≠ some p.dest.toNat → exec i s = .next s) ∧
    (p.typ.toNat = ty → s.forwards = true → s.address = some p.dest.toNat →
      (s.shut = true → s.trigrim p.src.toNat = false → exec i s = .next (inject (answerTo p 4 []) s)) ∧
      (s.shut = true → s.trigrim p.src.toNat = true → exec i s = .next s) ∧
      (s.shut = false → s.job = none → exec i s = .next (inject (answerTo p 1 []) s)) ∧
      (s.shut = false → s.job ≠ none → s.peer p.src.toNat = none → 65536 ≤ s.fab.peers.length → exec i s = .next (inject (answerTo p 5 []) s)) ∧
      (∀ x, s.shut = false → s.job ≠ none → s.peer p.src.toNat = some x →
        let y := inTurn p x
        let line := lineNamed op p
        (p.e2eSeq.toNat = x.expected →
          let refused := fun (n : Nat) => exec i s = .next (inject (answerTo p n []) (s.setPeer { y with refusals := put p.e2eSeq.toNat n y.refusals }))
          (look? p.window.toNat s.fab.windows = none → refused 1) ∧
          (∀ w, look? p.window.toNat s.fab.windows = some w →
            (w.valid = false ∨ w.gen ≠ p.wgen → refused 1) ∧
            (w.valid = true → w.gen = p.wgen → w.ops.getLsbD op = false ∨ (w.peerAll = false ∧ w.peer ≠ p.src.toNat) → refused 2) ∧
            (w.valid = true → w.gen = p.wgen → w.ops.getLsbD op = true → w.peerAll = true ∨ w.peer = p.src.toNat →
              (2048 * w.count ≤ line → refused 3) ∧
              (line < 2048 * w.count →
                let l := w.first + line / 2048
                let z := touch l (s.setPeer y)
                let u := opRead op p o.read z
                let data := (p.payload ++ List.replicate 64 0).take 64
                let journalled := fun (j : JournalOp) => exec i s = .next (applyJournal j { u with mem := { u.mem with
                  journal := u.mem.journal ++ [{ serial := u.att.serial, op := j, answer := some (answerTo p 0 []) }] } })
                (o.read = .clean → u = (if op = 1 then { z with mem := hbmGrant (s.committedFrame l) (line % 2048) 6 [] z.mem } else z) ∧ u.job ≠ none ∧ u.readLine w.first line = s.readLine w.first line) ∧
                (u.job = none → s.addAllowed p.src.toNat l = true ∨ op ≠ 2 → exec i s = .next u) ∧
                (u.job ≠ none → op = 0 → journalled (.put w.first line data { rank := 3, key1 := p.src.toNat, key2 := p.e2eSeq.toNat })) ∧
                (op = 0 → ∀ f, s.pendingFrame l = some f → 14336 ≤ f → look? (l, line % 2048) s.mem.writers = none → (∀ k, look? (l, k) s.mem.byteWriters = none) →
                  Completes i s (fun t => t.mem.bytes = s.mem.bytes.writeBytes (131072 * f + 64 * (line % 2048)) data ∧ t.fab.sent = s.fab.sent)) ∧
                (u.job ≠ none → op = 1 → exec i s = .next (inject { answerTo p 0 [] with payload := u.readLine w.first line } u)) ∧
                (u.job ≠ none → op = 2 → s.addAllowed p.src.toNat l = true → journalled (.add w.first line data)) ∧
                (op = 2 → s.addAllowed p.src.toNat l = false → refused 2) ∧
                (u.job ≠ none → op = 3 → journalled (.cas w.first line (p.offset.toNat % 8) (BitVec.ofNat 64 (leNat (data.take 8))) (BitVec.ofNat 64 (leNat ((data.drop 8).take 8))) p.src.toNat p.e2eSeq.toNat)))))) ∧
        (x.expected < p.e2eSeq.toNat → p.e2eSeq.toNat < x.expected + 2 ^ 31 → exec i s = .next (s.setPeer { y with expected := x.expected })) ∧
        (p.e2eSeq.toNat < x.expected → x.expected < p.e2eSeq.toNat + 2 ^ 31 → s.mem.journal = [] →
          (∀ n, look? p.e2eSeq.toNat y.refusals = some n → exec i s = .next (inject (answerTo p n []) (s.setPeer { y with expected := x.expected }))) ∧
          (look? p.e2eSeq.toNat y.refusals = none → op = 0 ∨ op = 2 → exec i s = .next (inject (answerTo p 0 []) (s.setPeer { y with expected := x.expected }))) ∧
          (look? p.e2eSeq.toNat y.refusals = none → op = 3 → ∀ v, look? p.e2eSeq.toNat y.casResults = some v →
            exec i s = .next (inject (answerTo p 0 (leBytes 8 v.toNat)) (s.setPeer { y with expected := x.expected }))))))) ∧
  (∀ s p x u, p.typ = 8 → s.forwards = true → s.shut = false → s.address = some p.dest.toNat → p.rgen.toNat = s.fab.resetGen % 16 → s.peer p.src.toNat = some x →
    x.unreplied.find? (fun u => u.seq == p.e2eSeq.toNat) = some u → x.waiting = [] → s.coll = [] → u.packet.typ = 1 ∨ u.packet.typ = 3 →
    let proxy := fun (s t : State) (f : Window → Window) => ∀ w, look? u.proxy s.fab.proxies = some w → look? u.proxy t.fab.proxies = some (f w)
    (p.status = 0 → Completes (.reply p) s (fun t => t.peer p.src.toNat = some { x with unreplied := x.unreplied.filter (fun v => v.seq ≠ p.e2eSeq.toNat), retries := 0 } ∧
      proxy s t (fun w => { w with acked := Nat.min 0xFFFFFFFF (w.acked + 1) }) ∧ t.mem = s.mem ∧ t.fab.sent = s.fab.sent)) ∧
    (p.status ≠ 0 → Completes (.reply p) s (fun t => t.peer p.src.toNat = some { x with unreplied := x.unreplied.filter (fun v => v.seq ≠ p.e2eSeq.toNat), retries := 0 } ∧
      proxy s t (fun w => { w with refused := Nat.min 0xFFFFFFFF (w.refused + 1) }) ∧
      t.evt.sticky.getLsbD (Cond.code (if p.status = 2 ∨ p.status = 3 ∨ p.status = 5 then .windowDenied else .windowClosed)) = true))) ∧
  (∀ s a pl x, a < 2 ^ 24 → s.fab.plan = some pl → s.peer a = some x →
    (s.fab.stopped = true ∨ (∀ u ∈ x.unreplied, s.time.tick < u.sentAt + pl.e2eTimeout) → exec (.e2eTimeout a) s = .next s) ∧
    (∀ u ∈ x.unreplied, s.fab.stopped = false → u.sentAt + pl.e2eTimeout ≤ s.time.tick →
      (x.retries < pl.e2eRetries → exec (.e2eTimeout a) s = .next (each (fun (v : Unreplied) z => inject { v.packet with
          chunk := BitVec.ofNat 32 (((x.unreplied.map (·.seq)).foldl Nat.min v.packet.e2eSeq.toNat + 2 ^ 32 - 1) % 2 ^ 32), rgen := BitVec.ofNat 4 z.fab.resetGen } z)
        x.unreplied (s.setPeer { x with retries := x.retries + 1, unreplied := x.unreplied.map (fun v => { v with sentAt := s.time.tick }) }))) ∧
      (pl.e2eRetries ≤ x.retries → Completes (.e2eTimeout a) s (fun t => t.peer a = some { x with unreplied := [], waiting := [], retries := 0 } ∧
        t.evt.sticky.getLsbD (Cond.code .remoteTimeout) = true))))

end

/-! ## Collectives -/

section

open Sys2Proof Sys2Proof.Machine

namespace Sys2Proof.Certificates

/-- The payload of a CHUNK_ACK: this device's slip and pace, and the status (chapter 9 Table 7). -/
def ackBytes (s : State) (status : Nat) : List Byte :=
  leBytes 4 (Nat.min 0xFFFFFFFF s.att.slip) ++ leBytes 2 s.pace ++ leBytes 2 status ++ List.replicate 8 0

/-- The acknowledgement of a packet of a known entry, in the packet's own class. -/
def acknowledge (c : CollCtx) (p : Packet) (status : Nat) (s : State) : State :=
  inject { c.header 0x11 p.chunk.toNat p.src.toNat p.epoch.toNat s with window := p.window, cls := p.cls, flow := p.flow, payload := ackBytes s status } s

/-- A packet is for this device's collective engine, of the entry and in the step in progress (R307 to R309). -/
def InStepOf (s : State) (p : Packet) (ty : Nat) (c : CollCtx) : Prop :=
  p.typ.toNat = ty ∧ s.forwards = true ∧ s.address = some p.dest.toNat ∧ s.shut = false ∧ s.collCtx p.coll.toNat = some c ∧ p.window.toNat = s.step % 4096

/-- What is held of a chunk after a packet: a newer epoch discards what was held, and an older one is ignored (R308). -/
def holding (y : RecvChunk) (p : Packet) : RecvChunk :=
  let d := (p.epoch.toNat + 256 - y.epoch.toNat) % 256
  if d = 0 then { y with held := put p.offset.toNat p.payload y.held }
  else if d < 128 then { y with epoch := p.epoch, held := [(p.offset.toNat, p.payload)] }
  else y

/-- Every packet of a chunk of some bytes is held, and these are its bytes in order. -/
def Whole (y : RecvChunk) (bytes : Nat) (data : List Byte) : Prop :=
  let parts := (List.range (Nat.max 1 (ceilDiv bytes 2048))).map (fun i => look? (32 * i) y.held)
  parts.all Option.isSome = true ∧ data = (parts.map (fun b => b.getD [])).flatten

/-- The sum of a unit's own value with the contribution received in a stage (R304). -/
def unitSum (c : CollCtx) (r : CollRun) (x : Xfer) (u : Nat) : List Exact :=
  let shape := c.unitShape x.combine x.source
  let own := match look? u r.partials with
    | some b => unitValues c.e.rFmt 128 b
    | none => unitValues c.srcFmt (c.unitShape true true).1 (look [] u r.source)
  addValues own (unitValues (if x.source then c.srcFmt else c.e.rFmt) shape.1 (look [] u (c.recvUnits r r.stage x)))

/-- The key of the rounding of a stage's results (R157, R165, R304). -/
def stageKey (c : CollCtx) (stage : Nat) (s : State) : QuantKey :=
  let seed := match s.job with | some j => j.seed.toNat | none => 0
  let tensor := match declOf c.ds c.e.dstLoaf with | some d => d.tensor | none => 0
  { seed := seed, tensor := tensor, draw := 3 + stage, step := s.step }

end Sys2Proof.Certificates

open Sys2Proof.Certificates

/-- A collective packet is answered with FENCED while fenced, with CLOSED for an entry that is unknown, with AHEAD for a later step and OK for an earlier one, in its own class; one of a reserved type is dropped and counted. A chunk is received
by epoch, staged and acknowledged when it is whole, a count is kept and acknowledged, and a barrier's message lets its round end. An acknowledgement keeps what the peer tells of itself and releases its chunk, an entry that has finished and
is acknowledged is complete, and another status loses the peer; an unacknowledged chunk is sent again at the next epoch, and after 16 times the peer is lost. An entry begins with its source read and staged and its first stage sent; where a
read leads to a reset, nothing begins. A stage whose inputs are complete is combined and rounded, and the next begins; a window that closes names the slow peers. Rests on R241, R288, R301 to R314.
Model's choices it rests on: notes/assumptions/21.md, notes/assumptions/39.md, notes/assumptions/79.md. -/
def Obligations.CollectivesRun : Prop :=
  (∀ s p i ty, (i, ty) ∈ [(Instr.chunkData p, 0x10), (.chunkCount p, 0x12), (.barrier p, 0x20)] →
    let reserved := ty = 0x10 ∧ 0x13 ≤ p.typ.toNat ∧ p.typ.toNat ≤ 0x1F
    ((p.typ.toNat ≠ ty ∧ ¬ reserved) ∨ s.forwards = false ∨ s.address ≠ some p.dest.toNat → exec i s = .next s) ∧
    (reserved → s.forwards = true → s.address = some p.dest.toNat → exec i s = .next { s with fab := { s.fab with rsvDrops := s.fab.rsvDrops + 1 } }) ∧
    (p.typ.toNat = ty → s.forwards = true → s.address = some p.dest.toNat →
      let bare := fun (status : Nat) => inject { p with dest := p.src, src := p.dest, typ := 0x11, payload := ackBytes s status } s
      (s.shut = true → exec i s = .next (if s.trigrim p.src.toNat then s else bare 4)) ∧
      (s.shut = false → s.collCtx p.coll.toNat = none → exec i s = .next (bare 1)) ∧
      (∀ c, s.shut = false → s.collCtx p.coll.toNat = some c →
        let ahead := (p.window.toNat + 4096 - s.step % 4096) % 4096
        (0 < ahead → ahead < 2048 → exec i s = .next (acknowledge c p 6 s)) ∧ (2048 ≤ ahead → exec i s = .next (acknowledge c p 0 s))))) ∧
  (∀ s p c x size, InStepOf s p 0x10 c → c.e.op ≠ 7 →
    let r := (s.run c.coll).getD { coll := c.coll, step := s.step }
    let stage := p.chunk.toNat / 2 ^ 20
    let k := p.chunk.toNat % 2 ^ 20
    (c.rank p.src.toNat).bind (fun q => (c.recvs stage).find? (fun x => x.peer == q)) = some x → c.recvSize r x = some size → k < Nat.max 1 (c.chunks size.1) →
    let y := (r.chunk? p.chunk.toNat p.src.toNat).getD { chunk := p.chunk.toNat, peer := p.src.toNat, epoch := p.epoch }
    (y.complete = true → exec (.chunkData p) s = .next (acknowledge c p 0 s)) ∧
    (y.complete = false → (∀ d, ¬ Whole (holding y p) (c.chunkBytes size k) d) → exec (.chunkData p) s = .next (s.setRun { r with recv := putChunk (holding y p) r.recv })) ∧
    (∀ d, y.complete = false → Whole (holding y p) (c.chunkBytes size k) d →
      let z := acknowledge c p 0 (stageBytes c d (s.setRun { r with recv := putChunk { holding y p with complete := true, data := d, held := [] } r.recv }))
      exec (.chunkData p) s = .next (deliverAll c z) ∧ (r.begun = false → exec (.chunkData p) s = .next z))) ∧
  (∀ s p c q, InStepOf s p 0x12 c → c.e.op = 6 → c.rank p.src.toNat = some q →
    let r := (s.run c.coll).getD { coll := c.coll, step := s.step }
    (look? q r.recvCounts ≠ none → exec (.chunkCount p) s = .next (acknowledge c p 0 s)) ∧
    (look? q r.recvCounts = none → r.recv = [] → r.begun = false →
      exec (.chunkCount p) s = .next (acknowledge c p 0 (stageBytes c (p.payload.take 4) (s.setRun { r with recvCounts := put q (leNat (p.payload.take 4)) r.recvCounts }))))) ∧
  (∀ s p c r x, InStepOf s p 0x20 c → c.coll = p.coll.toNat → c.e.op = 7 → s.run c.coll = some r → r.begun = true → r.finished = false →
    r.sent.any (fun k => k.chunk / 2 ^ 20 == r.stage) = true → c.recvs r.stage = [x] → x.combine = false → c.rank p.src.toNat = some x.peer → c.addr x.peer = p.src.toNat →
    p.chunk.toNat = r.stage * 2 ^ 20 → p.offset = 0 → r.chunk? p.chunk.toNat p.src.toNat = none →
    (r.stage + 1 < c.e.stages → (∃ w ∈ c.recvs (r.stage + 1), r.chunk? ((r.stage + 1) * 2 ^ 20) (c.addr w.peer) = none) →
      Completes (.barrier p) s (fun t => ∃ r', t.run c.coll = some r' ∧ r'.stage = r.stage + 1 ∧ r'.finished = false ∧
        r'.sent = r.sent ++ (c.sends (r.stage + 1)).map (fun w => { chunk := (r.stage + 1) * 2 ^ 20, peer := c.addr w.peer }))) ∧
    (r.stage + 1 = c.e.stages → Completes (.barrier p) s (fun t => ∃ r', t.run c.coll = some r' ∧ r'.stage = r.stage + 1 ∧ r'.finished = true ∧
      r'.complete = (r.complete || r.sent.all (·.acked)) ∧ r'.sent = r.sent))) ∧
  (∀ s p, p.typ.toNat = 0x11 → s.forwards = true → s.shut = false → s.address = some p.dest.toNat →
    let chunk := p.chunk.toNat
    let peer := p.src.toNat
    let mine := fun (k : SentChunk) => k.chunk = chunk ∧ k.peer = peer ∧ k.acked = false
    let status := leNat ((p.payload.drop 6).take 1) % 16
    let z : State := { s with fab := { s.fab with peerPace := put peer (leNat (p.payload.take 4), leNat ((p.payload.drop 4).take 2)) s.fab.peerPace } }
    (s.run p.coll.toNat = none → exec (.chunkAck p) s = .next z) ∧
    (∀ r, s.run p.coll.toNat = some r →
      (p.window.toNat ≠ s.step % 4096 ∨ (∀ k ∈ r.sent, ¬ mine k) → exec (.chunkAck p) s = .next z) ∧
      (p.window.toNat = s.step % 4096 → (∃ k ∈ r.sent, mine k) →
        let sent := r.sent.map (fun k => if k.chunk = chunk ∧ k.peer = peer ∧ k.acked = false then { k with acked := true } else k)
        (status = 0 → r.finished = false ∨ r.complete = true ∨ sent.all (·.acked) = false → exec (.chunkAck p) s = .next (z.setRun { r with sent := sent })) ∧
        (status = 0 → r.finished = true → r.complete = false → sent.all (·.acked) = true → Completes (.chunkAck p) s (fun t =>
          t.run p.coll.toNat = some { r with sent := sent, complete := true } ∧ t.fab = z.fab ∧ ∀ j, s.job = some j → t.job = some { j with collDone := j.collDone ++ [p.coll.toNat] })) ∧
        (status = 6 → exec (.chunkAck p) s = .next (z.setRun { r with sent := r.sent.map (fun k => if k.chunk = chunk ∧ k.peer = peer ∧ k.acked = false then { k with reissues := 0 } else k) })) ∧
        (status ≠ 0 → status ≠ 6 → Completes (.chunkAck p) s (fun t => t.evt.sticky.getLsbD (Cond.code .collPeerLost) = true))))) ∧
  (∀ s c r k, c.coll < 65535 → s.collCtx c.coll = some c → s.run c.coll = some r → k ∈ r.sent → k.acked = false → (∀ j ∈ r.sent, j.chunk = k.chunk → j.peer = k.peer → j = k) →
    let pending := s.fab.stopped = true ∨ s.fab.swap ≠ none ∨ s.fab.nextSwap ≠ none ∨ s.fab.events ≠ [] ∨ s.fab.floodQueue ≠ []
    (pending → exec (.chunkTimeout c.coll k.chunk k.peer) s = .next s) ∧
    (¬ pending → k.reissues < 16 → Completes (.chunkTimeout c.coll k.chunk k.peer) s (fun t =>
      t.evt.sticky.getLsbD (Cond.code .chunkReissue) = true ∧ ∃ r', t.run c.coll = some r' ∧
        r'.sent = r.sent.map (fun j => if j = k then { k with epoch := k.epoch + 1, beforeStop := false, reissues := k.reissues + 1 } else j))) ∧
    (¬ pending → 16 ≤ k.reissues → Completes (.chunkTimeout c.coll k.chunk k.peer) s (fun t => t.evt.sticky.getLsbD (Cond.code .collPeerLost) = true))) ∧
  (∀ s c r, c.coll < 65535 → s.collCtx c.coll = some c → s.run c.coll = some r →
    (s.issued c.coll = false ∨ r.complete = true ∨ s.time.tick < r.closeTick → exec (.peerSlow c.coll) s = .next s) ∧
    (s.issued c.coll = true → r.complete = false → r.closeTick ≤ s.time.tick → Completes (.peerSlow c.coll) s (fun t =>
      t.run c.coll = some { r with closeTick := r.closeTick + Nat.max 1 c.e.k } ∧ t.evt.sticky.getLsbD (Cond.code .peerSlow) = true))) ∧
  (∀ s c r reads, c.coll < 65535 → s.collCtx c.coll = some c → s.run c.coll = some r →
    let i := Instr.collectiveStage0Start { coll := c.coll, reads := reads }
    let clean := ∀ m ∈ reads, m.outcome = .clean
    (r.begun = true ∨ s.issued c.coll = false → exec i s = .next s) ∧
    (r.begun = false → s.issued c.coll = true →
      let z := sourceReads c reads s
      (clean → z = s) ∧ (z.job = none → exec i s = .next z) ∧ (z.job ≠ none → exec i s = .next (startStages c r z))) ∧
    (r.begun = false → s.issued c.coll = true → clean → r.recv = [] → r.stage = 0 → 0 < c.e.stages → c.e.reduces = true →
      let source := c.copySource s
      let staged := r.staged + ceilDiv ((source.map (·.2)).flatten).length 64
      Completes i s (fun t => ∃ ks, t.run c.coll = some { r with begun := true, source := source, partials := [], staged := staged, sent := r.sent ++ ks } ∧
        ks = ((c.sends 0).map (fun x => ((c.sendData { r with begun := true, source := source, partials := [], staged := staged } 0 x).zipIdx).map (fun d => ({ chunk := d.2, peer := c.addr x.peer, data := d.1 } : SentChunk)))).flatten)) ∧
    (r.begun = false → s.issued c.coll = true → clean → r.recv = [] → r.stage = 0 → 0 < c.e.stages → c.e.op = 7 → c.recvs 0 ≠ [] →
      Completes i s (fun t => ∃ ks, t.run c.coll = some { r with begun := true, sent := r.sent ++ ks } ∧
        ks = (if s.marksClear r.barrierMarks then (c.sends 0).map (fun w => ({ chunk := 0, peer := c.addr w.peer } : SentChunk)) else [])))) ∧
  (∀ s c r x, c.coll < 65535 → s.collCtx c.coll = some c → s.run c.coll = some r →
    (c.ready r = false → exec (.collectiveStageComplete c.coll) s = .next s) ∧
    (c.ready r = true → c.e.op ≠ 6 → c.e.op ≠ 7 → c.recvs r.stage = [x] → x.combine = true → r.stage + 1 < c.reduceStages →
      Completes (.collectiveStageComplete c.coll) s (fun t => ∃ r', t.run c.coll = some r' ∧ r'.stage = r.stage + 1 ∧
        ∀ u, x.units.1 ≤ u → u < x.units.2 → look? u r'.partials = some (bytes16 ((roundAll (stageKey c r.stage s) c.e.rFmt true 0 (c.elementOf u s) (unitSum c r x u)).map (·.1))))))

end
end

