-- ==== Sys2Proof/Laws/Memory.lean ====
section
/-! SUPPORT. The byte memories: a write keeps the canonical form, a read finds what was written, and every memory operation keeps the
form. Keyed lists: what `look` finds after `put`. -/

namespace Sys2Proof.Machine

/-- The form of a memory that lists something: its first address is above the bound, its byte is not zero, and the rest lies above. -/
theorem Memory.wfAbove_cons {lo : Option Nat} {a : Nat} {v : Byte} {m : Memory} :
    Memory.wfAbove lo ((a, v) :: m) = true ↔ (∀ l, lo = some l → l < a) ∧ v ≠ 0 ∧ Memory.wfAbove (some a) m = true := by
  cases lo <;> simp [Memory.wfAbove, and_assoc]

/-- Lowering the bound keeps the canonical form. -/
theorem Memory.wfAbove_weaken {lo lo' : Option Nat} {m : Memory} (h : Memory.wfAbove lo m = true)
    (hle : ∀ l', lo' = some l' → ∃ l, lo = some l ∧ l' ≤ l) : Memory.wfAbove lo' m = true := by
  cases m with
  | nil => rfl
  | cons c m =>
    obtain ⟨a, v⟩ := c
    rw [Memory.wfAbove_cons] at h ⊢
    refine ⟨fun l' hl' => ?_, h.2⟩
    obtain ⟨l, rfl, hl⟩ := hle l' hl'
    have := h.1 l rfl
    omega

theorem Memory.wfAbove_none {lo : Option Nat} {m : Memory} (h : Memory.wfAbove lo m = true) : Memory.wf m = true :=
  Memory.wfAbove_weaken h (by simp)

/-- A write keeps the form above a bound that the address respects. -/
theorem Memory.write_wfAbove {m : Memory} (a : Nat) (v : Byte) : ∀ {lo : Option Nat}, Memory.wfAbove lo m = true →
    (∀ l, lo = some l → l < a) → Memory.wfAbove lo (m.write a v) = true := by
  induction m with
  | nil =>
    intro lo _ hlo
    simp only [Memory.write]
    split
    · rfl
    · rename_i hv
      exact Memory.wfAbove_cons.mpr ⟨hlo, hv, rfl⟩
  | cons c m ih =>
    intro lo h hlo
    obtain ⟨b, w⟩ := c
    obtain ⟨hb, hw, hm⟩ := Memory.wfAbove_cons.mp h
    simp only [Memory.write]
    split
    · rename_i hba
      subst hba
      split
      · exact Memory.wfAbove_weaken hm (fun l hl => ⟨b, rfl, Nat.le_of_lt (hb l hl)⟩)
      · rename_i hv
        exact Memory.wfAbove_cons.mpr ⟨hb, hv, hm⟩
    · rename_i hba
      split
      · rename_i hab
        split
        · exact h
        · rename_i hv
          refine Memory.wfAbove_cons.mpr ⟨hlo, hv, Memory.wfAbove_cons.mpr ⟨?_, hw, hm⟩⟩
          intro l hl
          simp only [Option.some.injEq] at hl
          omega
      · refine Memory.wfAbove_cons.mpr ⟨hb, hw, ih hm ?_⟩
        intro l hl
        simp only [Option.some.injEq] at hl
        omega

/-- Writing a byte keeps the canonical form. -/
theorem Memory.write_wf {m : Memory} (a : Nat) (v : Byte) (h : m.wf = true) : (m.write a v).wf = true :=
  Memory.write_wfAbove a v h (by simp)

/-- Writing bytes keeps the canonical form. -/
theorem Memory.writeBytes_wf (bs : List Byte) : ∀ {m : Memory} (a : Nat), m.wf = true → (m.writeBytes a bs).wf = true := by
  induction bs with
  | nil => intro m a h; exact h
  | cons v vs ih => intro m a h; exact ih (a + 1) (Memory.write_wf a v h)

/-- The empty memory is canonical. -/
theorem Memory.nil_wf : Memory.wf [] = true := rfl

/-- Entries may be taken out above a bound. -/
theorem Memory.filter_wfAbove (p : Nat × Byte → Bool) {m : Memory} : ∀ {lo : Option Nat}, Memory.wfAbove lo m = true →
    Memory.wfAbove lo (m.filter p) = true := by
  induction m with
  | nil => intro lo _; rfl
  | cons c m ih =>
    intro lo h
    obtain ⟨a, v⟩ := c
    obtain ⟨ha, hv, hm⟩ := Memory.wfAbove_cons.mp h
    rw [List.filter_cons]
    split
    · exact Memory.wfAbove_cons.mpr ⟨ha, hv, ih hm⟩
    · exact ih (Memory.wfAbove_weaken hm (fun l hl => ⟨a, rfl, Nat.le_of_lt (ha l hl)⟩))

/-- Clearing a range keeps the canonical form. -/
theorem Memory.clear_wf {m : Memory} (lo n : Nat) (h : m.wf = true) : (m.clear lo n).wf = true := Memory.filter_wfAbove _ h

/-- Below its bound a memory reads zero. -/
theorem Memory.read_below {m : Memory} {l a : Nat} (h : Memory.wfAbove (some l) m = true) (ha : a ≤ l) : m.read a = 0 := by
  cases m with
  | nil => rfl
  | cons d m =>
    obtain ⟨b, v⟩ := d
    have hb := (Memory.wfAbove_cons.mp h).1 l rfl
    have h1 : ¬ b = a := by omega
    have h2 : a < b := by omega
    simp [Memory.read, h1, h2]

/-- A read finds the byte last written at its address, and at every other address what stood there. -/
theorem Memory.read_write {m : Memory} (a : Nat) (v : Byte) : ∀ {lo : Option Nat}, Memory.wfAbove lo m = true → ∀ b,
    (m.write a v).read b = if b = a then v else m.read b := by
  induction m with
  | nil =>
    intro lo _ b
    simp only [Memory.write]
    split
    · rename_i hv; simp [Memory.read, hv]
    · simp only [Memory.read]
      by_cases h : b = a
      · simp [h]
      · simp [h, Ne.symm h]
  | cons c m ih =>
    intro lo h b
    obtain ⟨d, w⟩ := c
    obtain ⟨hd, hw, hm⟩ := Memory.wfAbove_cons.mp h
    simp only [Memory.write]
    split
    · rename_i hda
      subst hda
      split
      · rename_i hv
        by_cases hb : b = d
        · subst hb; simp [Memory.read_below hm (Nat.le_refl _), hv]
        · by_cases hlt : b < d
          · simp [hb, Memory.read, Ne.symm hb, hlt, Memory.read_below hm (Nat.le_of_lt hlt)]
          · simp [hb, Memory.read, Ne.symm hb, hlt]
      · by_cases hb : b = d
        · subst hb; simp [Memory.read]
        · simp [hb, Memory.read, Ne.symm hb]
    · rename_i hda
      split
      · rename_i had
        split
        · rename_i hv
          by_cases hb : b = a
          · subst hb; simp [Memory.read, hda, had, hv]
          · simp [hb]
        · by_cases hb : b = a
          · subst hb; simp [Memory.read]
          · by_cases hlt : b < a
            · have h1 : ¬ d = b := by omega
              have h2 : b < d := by omega
              simp [hb, Memory.read, Ne.symm hb, hlt, h1, h2]
            · simp [hb, Memory.read, Ne.symm hb, hlt]
      · rename_i had
        by_cases hb : d = b
        · subst hb; simp [Memory.read, hda]
        · by_cases hlt : b < d
          · have h1 : ¬ b = a := by omega
            simp [Memory.read, hb, hlt, h1]
          · simp [Memory.read, hb, hlt, ih hm b]

/-! ## Keyed lists -/

@[simp] theorem look_put_self {κ α : Type} [DecidableEq κ] (d v : α) (k : κ) (l : List (κ × α)) : look d k (put k v l) = v := by
  induction l with
  | nil => simp [put, look]
  | cons e l ih =>
    obtain ⟨k', v'⟩ := e
    by_cases h : k' = k
    · simp [put, look, h]
    · simp [put, look, h, ih]

theorem look_put_other {κ α : Type} [DecidableEq κ] (d v : α) {k j : κ} (h : j ≠ k) (l : List (κ × α)) :
    look d j (put k v l) = look d j l := by
  induction l with
  | nil => simp [put, look, h.symm]
  | cons e l ih =>
    obtain ⟨k', v'⟩ := e
    by_cases hk : k' = k
    · subst hk; simp [put, look, h.symm]
    · by_cases hj : k' = j
      · subst hj; simp [put, look, hk]
      · simp [put, look, hk, hj, ih]

@[simp] theorem look?_put_self {κ α : Type} [DecidableEq κ] (v : α) (k : κ) (l : List (κ × α)) : look? k (put k v l) = some v := by
  induction l with
  | nil => simp [put, look?]
  | cons e l ih =>
    obtain ⟨k', v'⟩ := e
    by_cases h : k' = k
    · simp [put, look?, h]
    · simp [put, look?, h, ih]

/-- What `put` stores is the new entry or an old one. -/
theorem mem_put {κ α : Type} [DecidableEq κ] {k : κ} {v : α} {l : List (κ × α)} {x : κ × α} (h : x ∈ put k v l) : x = (k, v) ∨ x ∈ l := by
  induction l with
  | nil => simpa [put] using h
  | cons e l ih =>
    obtain ⟨k', v'⟩ := e
    by_cases hk : k' = k
    · simp only [put, hk, ↓reduceIte, List.mem_cons] at h
      rcases h with h | h
      · exact .inl h
      · exact .inr (by simp [h])
    · simp only [put, hk, ↓reduceIte, List.mem_cons] at h
      rcases h with h | h
      · exact .inr (by simp [h])
      · rcases ih h with h | h
        · exact .inl h
        · exact .inr (by simp [h])

/-- What `look` finds is the default or stands in the list. -/
theorem look_mem {κ α : Type} [DecidableEq κ] (d : α) (k : κ) (l : List (κ × α)) : look d k l = d ∨ (k, look d k l) ∈ l := by
  induction l with
  | nil => exact .inl rfl
  | cons e l ih =>
    obtain ⟨k', v'⟩ := e
    by_cases h : k' = k
    · subst h; right; simp [look]
    · rcases ih with h' | h'
      · left; simpa [look, h] using h'
      · right; simp [look, h, h']

end Sys2Proof.Machine
end

