-- ==== Sys2Proof/Laws/Bytes.lean ====
section
/-! SUPPORT. Ranges of bytes written and read. -/

namespace Sys2Proof.Machine

@[simp] theorem Memory.readBytes_length (m : Memory) (n : Nat) : ∀ a, (m.readBytes a n).length = n := by
  induction n with
  | zero => intro a; rfl
  | succ n ih => intro a; simp [Memory.readBytes, ih]

/-- Bytes written one after another read as they were written, and no other byte changes. -/
theorem Memory.read_writeBytes : ∀ (bs : List Byte) {m : Memory} (_ : m.wf = true) (a b : Nat),
    (m.writeBytes a bs).read b = if a ≤ b ∧ b < a + bs.length then bs.getD (b - a) 0 else m.read b
  | [], m, h, a, b => by simp [Memory.writeBytes]
  | v :: vs, m, h, a, b => by
    rw [Memory.writeBytes, Memory.read_writeBytes vs (Memory.write_wf a v h), Memory.read_write a v h]
    by_cases e : b = a
    · subst e
      rw [if_neg (by omega), if_pos rfl, if_pos (by simp)]
      simp
    · rw [if_neg e]
      by_cases h2 : a + 1 ≤ b ∧ b < a + 1 + vs.length
      · rw [if_pos h2, if_pos (by simp; omega)]
        obtain ⟨k, rfl⟩ : ∃ k, b = a + 1 + k := ⟨b - (a + 1), by omega⟩
        rw [show a + 1 + k - (a + 1) = k by omega, show a + 1 + k - a = k + 1 by omega]
        simp
      · rw [if_neg h2, if_neg (by simp; omega)]

/-- Bytes read depend on nothing but the bytes of their range. -/
theorem Memory.readBytes_congr {m m' : Memory} (n : Nat) : ∀ a, (∀ y, a ≤ y → y < a + n → m.read y = m'.read y) → m.readBytes a n = m'.readBytes a n := by
  induction n with
  | zero => intro a _; rfl
  | succ n ih =>
    intro a h
    simp only [Memory.readBytes]
    rw [h a (by omega) (by omega), ih (a + 1) (fun y h1 h2 => h y (by omega) (by omega))]

/-- Bytes written read back. -/
theorem Memory.readBytes_writeBytes (bs : List Byte) {m : Memory} (h : m.wf = true) (a : Nat) : (m.writeBytes a bs).readBytes a bs.length = bs := by
  have : ∀ (k : Nat) (bs : List Byte) (a : Nat) (m' : Memory), bs.length = k → (∀ i < k, m'.read (a + i) = bs.getD i 0) → m'.readBytes a k = bs := by
    intro k
    induction k with
    | zero => intro bs a m' hl _; simp [List.length_eq_zero_iff.mp hl, Memory.readBytes]
    | succ k ih =>
      intro bs a m' hl hr
      cases bs with
      | nil => simp at hl
      | cons b bs =>
        simp only [Memory.readBytes]
        have h0 := hr 0 (by omega)
        simp at h0
        rw [h0, ih bs (a + 1) m' (by simpa using hl) (fun i hi => by have := hr (i + 1) (by omega); rw [show a + 1 + i = a + (i + 1) by omega, this]; simp)]
  apply this _ _ _ _ rfl
  intro i hi
  rw [Memory.read_writeBytes bs h, if_pos (by omega)]
  congr 1; omega

end Sys2Proof.Machine
end

