-- ==== Sys2Proof/Laws/State.lean ====
section
/-! SUPPORT. What each update of the state leaves: one lemma for each field and update. -/

namespace Sys2Proof.Machine

/-! ## The units an update names, and the others -/

@[simp] theorem tile_setTile (s : State) (p : Nat) (t : Tile) : (s.setTile p t).tile p = t := look_put_self ..

theorem tile_setTile_ne (s : State) {p q : Nat} (t : Tile) (h : q ≠ p) : (s.setTile p t).tile q = s.tile q := look_put_other _ _ h _

@[simp] theorem tile_onTile (s : State) (p : Nat) (f : Tile → Tile) : (s.onTile p f).tile p = f (s.tile p) := look_put_self ..

theorem tile_onTile_ne (s : State) {p q : Nat} (f : Tile → Tile) (h : q ≠ p) : (s.onTile p f).tile q = s.tile q := look_put_other _ _ h _

@[simp] theorem port_onPort (s : State) (p : Nat) (f : Port → Port) : (s.onPort p f).port p = f (s.port p) := look_put_self ..

theorem port_onPort_ne (s : State) {p q : Nat} (f : Port → Port) (h : q ≠ p) : (s.onPort p f).port q = s.port q := look_put_other _ _ h _

@[simp] theorem region_onRegion (s : State) (g : Nat) (f : Region → Region) : (s.onRegion g f).region g = f (s.region g) := look_put_self ..

theorem region_onRegion_ne (s : State) {g k : Nat} (f : Region → Region) (h : k ≠ g) : (s.onRegion g f).region k = s.region k := look_put_other _ _ h _

@[simp] theorem mailbox_onMailbox (s : State) (mb : Nat) (f : Mailbox → Mailbox) : (s.onMailbox mb f).mailbox mb = f (s.mailbox mb) := look_put_self ..

theorem mailbox_onMailbox_ne (s : State) {mb k : Nat} (f : Mailbox → Mailbox) (h : k ≠ mb) : (s.onMailbox mb f).mailbox k = s.mailbox k :=
  look_put_other _ _ h _

@[simp] theorem entry_setEntry (s : State) (l : Nat) (e : DirEntry) : (s.setEntry l e).entry l = e := look_put_self ..

@[simp] theorem fresh_value (s : State) : s.fresh.1 = Config.freeValue s.freeCtr := rfl

@[simp] theorem fresh_freeCtr (s : State) : s.fresh.2.freeCtr = s.freeCtr + 1 := rfl

@[simp] theorem report_reports (s : State) (r : Raise) : (report r s).att.reports = s.att.reports ++ [r] := rfl

/-! ## Fields an update leaves -/

@[simp] theorem setTile_dev (s : State) (p : Nat) (t : Tile) : (s.setTile p t).dev = s.dev := rfl
@[simp] theorem setTile_host (s : State) (p : Nat) (t : Tile) : (s.setTile p t).host = s.host := rfl
@[simp] theorem setTile_time (s : State) (p : Nat) (t : Tile) : (s.setTile p t).time = s.time := rfl
@[simp] theorem setTile_job (s : State) (p : Nat) (t : Tile) : (s.setTile p t).job = s.job := rfl
@[simp] theorem setTile_att (s : State) (p : Nat) (t : Tile) : (s.setTile p t).att = s.att := rfl
@[simp] theorem setTile_mem (s : State) (p : Nat) (t : Tile) : (s.setTile p t).mem = s.mem := rfl
@[simp] theorem setTile_fab (s : State) (p : Nat) (t : Tile) : (s.setTile p t).fab = s.fab := rfl
@[simp] theorem setTile_coll (s : State) (p : Nat) (t : Tile) : (s.setTile p t).coll = s.coll := rfl
@[simp] theorem setTile_clk (s : State) (p : Nat) (t : Tile) : (s.setTile p t).clk = s.clk := rfl
@[simp] theorem setTile_tests (s : State) (p : Nat) (t : Tile) : (s.setTile p t).tests = s.tests := rfl
@[simp] theorem setTile_evt (s : State) (p : Nat) (t : Tile) : (s.setTile p t).evt = s.evt := rfl
@[simp] theorem setTile_nor (s : State) (p : Nat) (t : Tile) : (s.setTile p t).nor = s.nor := rfl
@[simp] theorem setTile_sec (s : State) (p : Nat) (t : Tile) : (s.setTile p t).sec = s.sec := rfl
@[simp] theorem setTile_side (s : State) (p : Nat) (t : Tile) : (s.setTile p t).side = s.side := rfl
@[simp] theorem setTile_pol (s : State) (p : Nat) (t : Tile) : (s.setTile p t).pol = s.pol := rfl
@[simp] theorem setTile_health (s : State) (p : Nat) (t : Tile) : (s.setTile p t).health = s.health := rfl
@[simp] theorem setTile_freeCtr (s : State) (p : Nat) (t : Tile) : (s.setTile p t).freeCtr = s.freeCtr := rfl
@[simp] theorem setTile_pending (s : State) (p : Nat) (t : Tile) : (s.setTile p t).pending = s.pending := rfl

@[simp] theorem onTile_dev (s : State) (p : Nat) (f : Tile → Tile) : (s.onTile p f).dev = s.dev := rfl
@[simp] theorem onTile_host (s : State) (p : Nat) (f : Tile → Tile) : (s.onTile p f).host = s.host := rfl
@[simp] theorem onTile_time (s : State) (p : Nat) (f : Tile → Tile) : (s.onTile p f).time = s.time := rfl
@[simp] theorem onTile_job (s : State) (p : Nat) (f : Tile → Tile) : (s.onTile p f).job = s.job := rfl
@[simp] theorem onTile_att (s : State) (p : Nat) (f : Tile → Tile) : (s.onTile p f).att = s.att := rfl
@[simp] theorem onTile_mem (s : State) (p : Nat) (f : Tile → Tile) : (s.onTile p f).mem = s.mem := rfl
@[simp] theorem onTile_fab (s : State) (p : Nat) (f : Tile → Tile) : (s.onTile p f).fab = s.fab := rfl
@[simp] theorem onTile_coll (s : State) (p : Nat) (f : Tile → Tile) : (s.onTile p f).coll = s.coll := rfl
@[simp] theorem onTile_clk (s : State) (p : Nat) (f : Tile → Tile) : (s.onTile p f).clk = s.clk := rfl
@[simp] theorem onTile_tests (s : State) (p : Nat) (f : Tile → Tile) : (s.onTile p f).tests = s.tests := rfl
@[simp] theorem onTile_evt (s : State) (p : Nat) (f : Tile → Tile) : (s.onTile p f).evt = s.evt := rfl
@[simp] theorem onTile_nor (s : State) (p : Nat) (f : Tile → Tile) : (s.onTile p f).nor = s.nor := rfl
@[simp] theorem onTile_sec (s : State) (p : Nat) (f : Tile → Tile) : (s.onTile p f).sec = s.sec := rfl
@[simp] theorem onTile_side (s : State) (p : Nat) (f : Tile → Tile) : (s.onTile p f).side = s.side := rfl
@[simp] theorem onTile_pol (s : State) (p : Nat) (f : Tile → Tile) : (s.onTile p f).pol = s.pol := rfl
@[simp] theorem onTile_health (s : State) (p : Nat) (f : Tile → Tile) : (s.onTile p f).health = s.health := rfl
@[simp] theorem onTile_freeCtr (s : State) (p : Nat) (f : Tile → Tile) : (s.onTile p f).freeCtr = s.freeCtr := rfl
@[simp] theorem onTile_pending (s : State) (p : Nat) (f : Tile → Tile) : (s.onTile p f).pending = s.pending := rfl

@[simp] theorem onPort_dev (s : State) (p : Nat) (f : Port → Port) : (s.onPort p f).dev = s.dev := rfl
@[simp] theorem onPort_host (s : State) (p : Nat) (f : Port → Port) : (s.onPort p f).host = s.host := rfl
@[simp] theorem onPort_time (s : State) (p : Nat) (f : Port → Port) : (s.onPort p f).time = s.time := rfl
@[simp] theorem onPort_job (s : State) (p : Nat) (f : Port → Port) : (s.onPort p f).job = s.job := rfl
@[simp] theorem onPort_att (s : State) (p : Nat) (f : Port → Port) : (s.onPort p f).att = s.att := rfl
@[simp] theorem onPort_tiles (s : State) (p : Nat) (f : Port → Port) : (s.onPort p f).tiles = s.tiles := rfl
@[simp] theorem onPort_mem (s : State) (p : Nat) (f : Port → Port) : (s.onPort p f).mem = s.mem := rfl
@[simp] theorem onPort_coll (s : State) (p : Nat) (f : Port → Port) : (s.onPort p f).coll = s.coll := rfl
@[simp] theorem onPort_clk (s : State) (p : Nat) (f : Port → Port) : (s.onPort p f).clk = s.clk := rfl
@[simp] theorem onPort_tests (s : State) (p : Nat) (f : Port → Port) : (s.onPort p f).tests = s.tests := rfl
@[simp] theorem onPort_evt (s : State) (p : Nat) (f : Port → Port) : (s.onPort p f).evt = s.evt := rfl
@[simp] theorem onPort_nor (s : State) (p : Nat) (f : Port → Port) : (s.onPort p f).nor = s.nor := rfl
@[simp] theorem onPort_sec (s : State) (p : Nat) (f : Port → Port) : (s.onPort p f).sec = s.sec := rfl
@[simp] theorem onPort_side (s : State) (p : Nat) (f : Port → Port) : (s.onPort p f).side = s.side := rfl
@[simp] theorem onPort_pol (s : State) (p : Nat) (f : Port → Port) : (s.onPort p f).pol = s.pol := rfl
@[simp] theorem onPort_health (s : State) (p : Nat) (f : Port → Port) : (s.onPort p f).health = s.health := rfl
@[simp] theorem onPort_freeCtr (s : State) (p : Nat) (f : Port → Port) : (s.onPort p f).freeCtr = s.freeCtr := rfl
@[simp] theorem onPort_pending (s : State) (p : Nat) (f : Port → Port) : (s.onPort p f).pending = s.pending := rfl

@[simp] theorem onRegion_dev (s : State) (g : Nat) (f : Region → Region) : (s.onRegion g f).dev = s.dev := rfl
@[simp] theorem onRegion_host (s : State) (g : Nat) (f : Region → Region) : (s.onRegion g f).host = s.host := rfl
@[simp] theorem onRegion_time (s : State) (g : Nat) (f : Region → Region) : (s.onRegion g f).time = s.time := rfl
@[simp] theorem onRegion_job (s : State) (g : Nat) (f : Region → Region) : (s.onRegion g f).job = s.job := rfl
@[simp] theorem onRegion_att (s : State) (g : Nat) (f : Region → Region) : (s.onRegion g f).att = s.att := rfl
@[simp] theorem onRegion_tiles (s : State) (g : Nat) (f : Region → Region) : (s.onRegion g f).tiles = s.tiles := rfl
@[simp] theorem onRegion_mem (s : State) (g : Nat) (f : Region → Region) : (s.onRegion g f).mem = s.mem := rfl
@[simp] theorem onRegion_fab (s : State) (g : Nat) (f : Region → Region) : (s.onRegion g f).fab = s.fab := rfl
@[simp] theorem onRegion_coll (s : State) (g : Nat) (f : Region → Region) : (s.onRegion g f).coll = s.coll := rfl
@[simp] theorem onRegion_tests (s : State) (g : Nat) (f : Region → Region) : (s.onRegion g f).tests = s.tests := rfl
@[simp] theorem onRegion_evt (s : State) (g : Nat) (f : Region → Region) : (s.onRegion g f).evt = s.evt := rfl
@[simp] theorem onRegion_nor (s : State) (g : Nat) (f : Region → Region) : (s.onRegion g f).nor = s.nor := rfl
@[simp] theorem onRegion_sec (s : State) (g : Nat) (f : Region → Region) : (s.onRegion g f).sec = s.sec := rfl
@[simp] theorem onRegion_side (s : State) (g : Nat) (f : Region → Region) : (s.onRegion g f).side = s.side := rfl
@[simp] theorem onRegion_pol (s : State) (g : Nat) (f : Region → Region) : (s.onRegion g f).pol = s.pol := rfl
@[simp] theorem onRegion_health (s : State) (g : Nat) (f : Region → Region) : (s.onRegion g f).health = s.health := rfl
@[simp] theorem onRegion_freeCtr (s : State) (g : Nat) (f : Region → Region) : (s.onRegion g f).freeCtr = s.freeCtr := rfl
@[simp] theorem onRegion_pending (s : State) (g : Nat) (f : Region → Region) : (s.onRegion g f).pending = s.pending := rfl

@[simp] theorem onMailbox_dev (s : State) (mb : Nat) (f : Mailbox → Mailbox) : (s.onMailbox mb f).dev = s.dev := rfl
@[simp] theorem onMailbox_time (s : State) (mb : Nat) (f : Mailbox → Mailbox) : (s.onMailbox mb f).time = s.time := rfl
@[simp] theorem onMailbox_job (s : State) (mb : Nat) (f : Mailbox → Mailbox) : (s.onMailbox mb f).job = s.job := rfl
@[simp] theorem onMailbox_att (s : State) (mb : Nat) (f : Mailbox → Mailbox) : (s.onMailbox mb f).att = s.att := rfl
@[simp] theorem onMailbox_tiles (s : State) (mb : Nat) (f : Mailbox → Mailbox) : (s.onMailbox mb f).tiles = s.tiles := rfl
@[simp] theorem onMailbox_mem (s : State) (mb : Nat) (f : Mailbox → Mailbox) : (s.onMailbox mb f).mem = s.mem := rfl
@[simp] theorem onMailbox_fab (s : State) (mb : Nat) (f : Mailbox → Mailbox) : (s.onMailbox mb f).fab = s.fab := rfl
@[simp] theorem onMailbox_coll (s : State) (mb : Nat) (f : Mailbox → Mailbox) : (s.onMailbox mb f).coll = s.coll := rfl
@[simp] theorem onMailbox_clk (s : State) (mb : Nat) (f : Mailbox → Mailbox) : (s.onMailbox mb f).clk = s.clk := rfl
@[simp] theorem onMailbox_tests (s : State) (mb : Nat) (f : Mailbox → Mailbox) : (s.onMailbox mb f).tests = s.tests := rfl
@[simp] theorem onMailbox_evt (s : State) (mb : Nat) (f : Mailbox → Mailbox) : (s.onMailbox mb f).evt = s.evt := rfl
@[simp] theorem onMailbox_nor (s : State) (mb : Nat) (f : Mailbox → Mailbox) : (s.onMailbox mb f).nor = s.nor := rfl
@[simp] theorem onMailbox_sec (s : State) (mb : Nat) (f : Mailbox → Mailbox) : (s.onMailbox mb f).sec = s.sec := rfl
@[simp] theorem onMailbox_side (s : State) (mb : Nat) (f : Mailbox → Mailbox) : (s.onMailbox mb f).side = s.side := rfl
@[simp] theorem onMailbox_pol (s : State) (mb : Nat) (f : Mailbox → Mailbox) : (s.onMailbox mb f).pol = s.pol := rfl
@[simp] theorem onMailbox_health (s : State) (mb : Nat) (f : Mailbox → Mailbox) : (s.onMailbox mb f).health = s.health := rfl
@[simp] theorem onMailbox_freeCtr (s : State) (mb : Nat) (f : Mailbox → Mailbox) : (s.onMailbox mb f).freeCtr = s.freeCtr := rfl
@[simp] theorem onMailbox_pending (s : State) (mb : Nat) (f : Mailbox → Mailbox) : (s.onMailbox mb f).pending = s.pending := rfl

@[simp] theorem onJob_dev (s : State) (f : Job → Job) : (s.onJob f).dev = s.dev := rfl
@[simp] theorem onJob_host (s : State) (f : Job → Job) : (s.onJob f).host = s.host := rfl
@[simp] theorem onJob_time (s : State) (f : Job → Job) : (s.onJob f).time = s.time := rfl
@[simp] theorem onJob_att (s : State) (f : Job → Job) : (s.onJob f).att = s.att := rfl
@[simp] theorem onJob_tiles (s : State) (f : Job → Job) : (s.onJob f).tiles = s.tiles := rfl
@[simp] theorem onJob_mem (s : State) (f : Job → Job) : (s.onJob f).mem = s.mem := rfl
@[simp] theorem onJob_fab (s : State) (f : Job → Job) : (s.onJob f).fab = s.fab := rfl
@[simp] theorem onJob_coll (s : State) (f : Job → Job) : (s.onJob f).coll = s.coll := rfl
@[simp] theorem onJob_clk (s : State) (f : Job → Job) : (s.onJob f).clk = s.clk := rfl
@[simp] theorem onJob_tests (s : State) (f : Job → Job) : (s.onJob f).tests = s.tests := rfl
@[simp] theorem onJob_evt (s : State) (f : Job → Job) : (s.onJob f).evt = s.evt := rfl
@[simp] theorem onJob_nor (s : State) (f : Job → Job) : (s.onJob f).nor = s.nor := rfl
@[simp] theorem onJob_sec (s : State) (f : Job → Job) : (s.onJob f).sec = s.sec := rfl
@[simp] theorem onJob_side (s : State) (f : Job → Job) : (s.onJob f).side = s.side := rfl
@[simp] theorem onJob_pol (s : State) (f : Job → Job) : (s.onJob f).pol = s.pol := rfl
@[simp] theorem onJob_health (s : State) (f : Job → Job) : (s.onJob f).health = s.health := rfl
@[simp] theorem onJob_freeCtr (s : State) (f : Job → Job) : (s.onJob f).freeCtr = s.freeCtr := rfl
@[simp] theorem onJob_pending (s : State) (f : Job → Job) : (s.onJob f).pending = s.pending := rfl

@[simp] theorem setEntry_dev (s : State) (l : Nat) (e : DirEntry) : (s.setEntry l e).dev = s.dev := rfl
@[simp] theorem setEntry_host (s : State) (l : Nat) (e : DirEntry) : (s.setEntry l e).host = s.host := rfl
@[simp] theorem setEntry_time (s : State) (l : Nat) (e : DirEntry) : (s.setEntry l e).time = s.time := rfl
@[simp] theorem setEntry_job (s : State) (l : Nat) (e : DirEntry) : (s.setEntry l e).job = s.job := rfl
@[simp] theorem setEntry_att (s : State) (l : Nat) (e : DirEntry) : (s.setEntry l e).att = s.att := rfl
@[simp] theorem setEntry_tiles (s : State) (l : Nat) (e : DirEntry) : (s.setEntry l e).tiles = s.tiles := rfl
@[simp] theorem setEntry_fab (s : State) (l : Nat) (e : DirEntry) : (s.setEntry l e).fab = s.fab := rfl
@[simp] theorem setEntry_coll (s : State) (l : Nat) (e : DirEntry) : (s.setEntry l e).coll = s.coll := rfl
@[simp] theorem setEntry_clk (s : State) (l : Nat) (e : DirEntry) : (s.setEntry l e).clk = s.clk := rfl
@[simp] theorem setEntry_tests (s : State) (l : Nat) (e : DirEntry) : (s.setEntry l e).tests = s.tests := rfl
@[simp] theorem setEntry_evt (s : State) (l : Nat) (e : DirEntry) : (s.setEntry l e).evt = s.evt := rfl
@[simp] theorem setEntry_nor (s : State) (l : Nat) (e : DirEntry) : (s.setEntry l e).nor = s.nor := rfl
@[simp] theorem setEntry_sec (s : State) (l : Nat) (e : DirEntry) : (s.setEntry l e).sec = s.sec := rfl
@[simp] theorem setEntry_side (s : State) (l : Nat) (e : DirEntry) : (s.setEntry l e).side = s.side := rfl
@[simp] theorem setEntry_pol (s : State) (l : Nat) (e : DirEntry) : (s.setEntry l e).pol = s.pol := rfl
@[simp] theorem setEntry_health (s : State) (l : Nat) (e : DirEntry) : (s.setEntry l e).health = s.health := rfl
@[simp] theorem setEntry_freeCtr (s : State) (l : Nat) (e : DirEntry) : (s.setEntry l e).freeCtr = s.freeCtr := rfl
@[simp] theorem setEntry_pending (s : State) (l : Nat) (e : DirEntry) : (s.setEntry l e).pending = s.pending := rfl

@[simp] theorem report_dev (s : State) (r : Raise) : (report r s).dev = s.dev := rfl
@[simp] theorem report_host (s : State) (r : Raise) : (report r s).host = s.host := rfl
@[simp] theorem report_time (s : State) (r : Raise) : (report r s).time = s.time := rfl
@[simp] theorem report_job (s : State) (r : Raise) : (report r s).job = s.job := rfl
@[simp] theorem report_tiles (s : State) (r : Raise) : (report r s).tiles = s.tiles := rfl
@[simp] theorem report_mem (s : State) (r : Raise) : (report r s).mem = s.mem := rfl
@[simp] theorem report_fab (s : State) (r : Raise) : (report r s).fab = s.fab := rfl
@[simp] theorem report_coll (s : State) (r : Raise) : (report r s).coll = s.coll := rfl
@[simp] theorem report_clk (s : State) (r : Raise) : (report r s).clk = s.clk := rfl
@[simp] theorem report_tests (s : State) (r : Raise) : (report r s).tests = s.tests := rfl
@[simp] theorem report_evt (s : State) (r : Raise) : (report r s).evt = s.evt := rfl
@[simp] theorem report_nor (s : State) (r : Raise) : (report r s).nor = s.nor := rfl
@[simp] theorem report_sec (s : State) (r : Raise) : (report r s).sec = s.sec := rfl
@[simp] theorem report_side (s : State) (r : Raise) : (report r s).side = s.side := rfl
@[simp] theorem report_pol (s : State) (r : Raise) : (report r s).pol = s.pol := rfl
@[simp] theorem report_health (s : State) (r : Raise) : (report r s).health = s.health := rfl
@[simp] theorem report_freeCtr (s : State) (r : Raise) : (report r s).freeCtr = s.freeCtr := rfl
@[simp] theorem report_pending (s : State) (r : Raise) : (report r s).pending = s.pending := rfl

@[simp] theorem fresh_dev (s : State) : (s.fresh.2).dev = s.dev := rfl
@[simp] theorem fresh_host (s : State) : (s.fresh.2).host = s.host := rfl
@[simp] theorem fresh_time (s : State) : (s.fresh.2).time = s.time := rfl
@[simp] theorem fresh_job (s : State) : (s.fresh.2).job = s.job := rfl
@[simp] theorem fresh_att (s : State) : (s.fresh.2).att = s.att := rfl
@[simp] theorem fresh_tiles (s : State) : (s.fresh.2).tiles = s.tiles := rfl
@[simp] theorem fresh_mem (s : State) : (s.fresh.2).mem = s.mem := rfl
@[simp] theorem fresh_fab (s : State) : (s.fresh.2).fab = s.fab := rfl
@[simp] theorem fresh_coll (s : State) : (s.fresh.2).coll = s.coll := rfl
@[simp] theorem fresh_clk (s : State) : (s.fresh.2).clk = s.clk := rfl
@[simp] theorem fresh_tests (s : State) : (s.fresh.2).tests = s.tests := rfl
@[simp] theorem fresh_evt (s : State) : (s.fresh.2).evt = s.evt := rfl
@[simp] theorem fresh_nor (s : State) : (s.fresh.2).nor = s.nor := rfl
@[simp] theorem fresh_sec (s : State) : (s.fresh.2).sec = s.sec := rfl
@[simp] theorem fresh_side (s : State) : (s.fresh.2).side = s.side := rfl
@[simp] theorem fresh_pol (s : State) : (s.fresh.2).pol = s.pol := rfl
@[simp] theorem fresh_health (s : State) : (s.fresh.2).health = s.health := rfl
@[simp] theorem fresh_pending (s : State) : (s.fresh.2).pending = s.pending := rfl

end Sys2Proof.Machine
end

