-- ==== Sys2Proof/Laws/Fill.lean ====
section
/-! SUPPORT. What the operations of a fill do: counting accesses, issuing entries, starting a run. -/

namespace Sys2Proof.Machine

/-- Counting an access changes the directory and nothing else. -/
theorem touch_eq (l : Nat) (s : State) : touch l s = { s with mem := { s.mem with dir := (touch l s).mem.dir } } := rfl

theorem touchAll_eq (ls : List Nat) (s : State) : touchAll ls s = { s with mem := { s.mem with dir := (touchAll ls s).mem.dir } } := by
  unfold touchAll
  induction ls generalizing s with
  | nil => rfl
  | cons a l ih =>
    simp only [each]
    split
    · rw [ih]; rfl
    · exact ih s

theorem touchAll_tile (ls : List Nat) (s : State) (p : Nat) : (touchAll ls s).tile p = s.tile p := by rw [touchAll_eq]; rfl

/-- Issuing entries leaves a run's task, region and sources. -/
theorem issueFills_run (es : List Entry) (g n : Nat) (pad : Memory) (r : TaskRun) :
    let x := (issueFills es g n pad r).2.1
    x.task = r.task ∧ x.phase = r.phase ∧ x.base = r.base ∧ x.high = r.high ∧ x.ahead = r.ahead ∧ x.sources = r.sources ∧ x.withdrawn = r.withdrawn ∧ x.undeclared = r.undeclared := by
  induction n generalizing pad r with
  | zero => exact ⟨rfl, rfl, rfl, rfl, rfl, rfl, rfl, rfl⟩
  | succ n ih =>
    rw [issueFills]
    split
    · exact ⟨rfl, rfl, rfl, rfl, rfl, rfl, rfl, rfl⟩
    · split
      · exact ⟨rfl, rfl, rfl, rfl, rfl, rfl, rfl, rfl⟩
      · simp only
        split
        · exact ih _ _
        · exact ⟨rfl, rfl, rfl, rfl, rfl, rfl, rfl, rfl⟩

/-- With lines on their way, an entry withdrawn, or no entry left, nothing more is issued. -/
theorem issueFills_stop (es : List Entry) (g n : Nat) (pad : Memory) (r : TaskRun)
    (h : r.fills ≠ [] ∨ r.withdrawn ≠ [] ∨ es.length ≤ r.nextEntry) : issueFills es g n pad r = (pad, r, []) := by
  cases n with
  | zero => rfl
  | succ n =>
    rw [issueFills]
    split
    · rfl
    · rename_i e
      have : es[r.nextEntry]? = none := List.getElem?_eq_none (by
        rcases h with h | h | h
        · exact absurd (.inl h) e
        · exact absurd (.inr h) e
        · exact h)
      simp only [this]

/-- The next entry is issued whole, in the order of the tile's logical number, unless it is a zero entry. -/
theorem issueFills_first (es : List Entry) (g n : Nat) (pad : Memory) (r : TaskRun) (h : r.fills = []) (hw : r.withdrawn = []) (e : Entry)
    (he : es[r.nextEntry]? = some e) (hk : e.kind ≠ 2) : (issueFills es g (n + 1) pad r) =
    (pad, { r with nextEntry := r.nextEntry + 1, fills := (e.order g).map (fun k => (r.nextEntry, k)) }, e.touched pad r.base) := by
  rw [issueFills]
  simp only [h, hw, he, ne_eq, not_true_eq_false, or_self, if_false, if_neg hk]

/-- What a pump of a tile's run does. -/
theorem pump_spec (p : Nat) (second : Bool) (s : State) (r : TaskRun) (h : (s.tile p).runAt second = some r) :
    let x := issueFills (s.image.fills (s.task r.task)) ((s.logical? p).getD 0) ((s.image.fills (s.task r.task)).length + 1) (s.tile p).pad r
    pump p second s = touchAll x.2.2 (s.setTile p ((each s.translate (x.2.2.filter (fun l => (s.declared l).isSome))
      { s.tile p with pad := x.1 }).setRun second (some x.2.1))) := by
  unfold pump; simp only [h]

/-- A translation of a loaf changes the tile's translation cache and nothing else. -/
theorem translate_eq (s : State) (l : Nat) (t : Tile) : s.translate l t = { t with cache := (s.translate l t).cache } := by
  unfold State.translate; split <;> rfl

/-- The same of several loaves. -/
theorem translates_eq (s : State) (ls : List Nat) (t : Tile) : each s.translate ls t = { t with cache := (each s.translate ls t).cache } := by
  induction ls generalizing t with
  | nil => rfl
  | cons l ls ih =>
    simp only [each]
    rw [ih]
    exact congrArg (fun u : Tile => { u with cache := (each s.translate ls (s.translate l t)).cache }) (translate_eq s l t)

/-- A sweep of the slice queues changes them and nothing else. -/
theorem offerReads_eq (s : State) : offerReads s = { s with mem := { s.mem with sliceQueues := (offerReads s).mem.sliceQueues } } := rfl

end Sys2Proof.Machine
end

