-- ==== Sys2Proof/Laws/Kept.lean ====
section
/-! SUPPORT. What every operation keeps, in one predicate: the invariant of Safety and what no command takes back. The operations of
Ops keep it; the other files of Laws show it for every operation of the model. -/

namespace Sys2Proof.Machine

/-- The invariant and the relation of Safety over the fields they look at: those of an earlier state, then those of a state now. -/
structure KeptIn (f0 : BitVec 128) (v0 : Nat) (w0 : List HostWrite) (i0 : List Nat) (c0 : Nat) (q0 : List Instr)
    (ts : List (Nat × Tile)) (b : Memory) (ms : List (Nat × Mailbox)) (l a : List EventRec) (tr : List TraceEntry)
    (hd lim : Nat) (dr : List Nat) (f1 : BitVec 128) (v1 : Nat) (w1 : List HostWrite) (i1 : List Nat) (c1 : Nat) (q1 : List Instr) : Prop where
  pads : ∀ x ∈ ts, Memory.wf x.2.pad = true
  frames : Memory.wf b = true
  payloads : ∀ x ∈ ms, Memory.wf x.2.payload = true
  ring : l.length ≤ 65536
  area : a.length ≤ 524288
  trace : tr.length ≤ 262144
  ringSeq : ∀ e ∈ l, 1 ≤ e.seq ∧ e.seq ≤ hd
  areaSeq : ∀ e ∈ a, 1 ≤ e.seq ∧ e.seq ≤ lim
  head : hd ≤ lim
  dropped : dr.length = 5
  serial : f1 = f0
  minSvn : v0 ≤ v1
  sent : w0 <+: w1
  vectors : i0 <+: i1
  free : c0 ≤ c1
  queue : q1 = q0

/-- `s` is sound, and follows `o`. -/
def Kept (o s : State) : Prop :=
  KeptIn o.nor.serial o.nor.minSvn o.host.sent o.host.msix o.freeCtr o.pending s.tiles s.mem.bytes s.host.mailboxes s.evt.ring s.nor.events
    s.evt.trace s.evt.headSeq s.nor.seqLimit s.evt.dropped s.nor.serial s.nor.minSvn s.host.sent s.host.msix s.freeCtr s.pending

variable {o s : State}

theorem kept_iff : Kept o s ↔ Sound s ∧ Follows o s :=
  ⟨fun h => ⟨⟨⟨h.pads, h.frames, h.payloads⟩, ⟨h.ring, h.area, h.trace, h.ringSeq, h.areaSeq, h.head, h.dropped⟩⟩,
      ⟨h.serial, h.minSvn, h.sent, h.vectors, h.free, h.queue⟩⟩,
    fun ⟨⟨m, r⟩, f⟩ => ⟨m.pads, m.frames, m.payloads, r.ring, r.area, r.trace, r.ringSeq, r.areaSeq, r.head, r.dropped,
      f.serial, f.minSvn, f.sent, f.vectors, f.free, f.queue⟩⟩

/-- A sound state follows itself. -/
theorem Kept.self (h : Sound s) : Kept s s := kept_iff.mpr ⟨h, ⟨rfl, Nat.le_refl _, List.prefix_rfl, List.prefix_rfl, Nat.le_refl _, rfl⟩⟩

/-- A `let` whose value is kept. -/
theorem kept_cut {P Q : Prop} (h : P → Q) (p : P) : Q := h p

/-- A state written out by its fields. -/
theorem kept_cons {dev : Device} {host : HostLink} {time : FabricTime} {job : Option Job} {att : Attempt} {tiles : List (Nat × Tile)}
    {mem : Mem} {fab : Fabric} {coll : List CollRun} {clk : Clocks} {tests : Tests} {evt : Recorder} {nor : Nor} {sec : Secrets}
    {side : Sideband} {pol : Policy} {health : Health} {k : Nat} {q : List Instr} :
    Kept o ⟨dev, host, time, job, att, tiles, mem, fab, coll, clk, tests, evt, nor, sec, side, pol, health, k, q⟩ ↔
    KeptIn o.nor.serial o.nor.minSvn o.host.sent o.host.msix o.freeCtr o.pending tiles mem.bytes host.mailboxes evt.ring nor.events
      evt.trace evt.headSeq nor.seqLimit evt.dropped nor.serial nor.minSvn host.sent host.msix k q := Iff.rfl

/-- Fields that agree with those of a kept state. -/
theorem kept_mk {b : Memory} {ms : List (Nat × Mailbox)} {l a : List EventRec} {tr : List TraceEntry} {hd lim : Nat} {dr : List Nat}
    {f1 : BitVec 128} {v1 : Nat} {w1 : List HostWrite} {i1 : List Nat} (h : Kept o s) (h2 : Memory.wf b = true) (h3 : ms = s.host.mailboxes)
    (h4 : l = s.evt.ring) (h5 : tr = s.evt.trace) (h6 : hd = s.evt.headSeq) (h7 : dr = s.evt.dropped) (h8 : a = s.nor.events)
    (h9 : lim = s.nor.seqLimit) (h10 : f1 = s.nor.serial) (h11 : v1 = s.nor.minSvn) (h12 : w1 = s.host.sent) (h13 : i1 = s.host.msix) :
    KeptIn o.nor.serial o.nor.minSvn o.host.sent o.host.msix o.freeCtr o.pending s.tiles b ms l a tr hd lim dr f1 v1 w1 i1 s.freeCtr s.pending := by
  subst h3 h4 h5 h6 h7 h8 h9 h10 h11 h12 h13
  exact { h with frames := h2 }

theorem kept_ite {c : Prop} [Decidable c] {t t' : State} (h : Kept o t) (h' : Kept o t') : Kept o (if c then t else t') := by
  split
  · exact h
  · exact h'

theorem each_kept {α : Type} {f : α → State → State} (l : List α) (hf : ∀ a s, Kept o s → Kept o (f a s)) (h : Kept o s) :
    Kept o (each f l s) := by
  induction l generalizing s with
  | nil => exact h
  | cons a l ih => exact ih (hf a s h)

/-- The pad of a tile is canonical: an unlisted tile is empty. -/
theorem Kept.pad (h : Kept o s) (p : Nat) : Memory.wf (s.tile p).pad = true := by
  unfold State.tile
  rcases look_mem ({} : Tile) p s.tiles with h' | h'
  · rw [h']; rfl
  · exact h.pads _ h'

theorem Kept.payload (h : Kept o s) (mb : Nat) : Memory.wf (s.mailbox mb).payload = true := by
  unfold State.mailbox
  rcases look_mem ({} : Mailbox) mb s.host.mailboxes with h' | h'
  · rw [h']; rfl
  · exact h.payloads _ h'

theorem Kept.bytes (h : Kept o s) : Memory.wf s.mem.bytes = true := h.frames

theorem setTile_kept {p : Nat} {t : Tile} (h : Kept o s) (ht : Memory.wf t.pad = true) : Kept o (s.setTile p t) := by
  have hp : ∀ x ∈ put p t s.tiles, Memory.wf x.2.pad = true := by
    intro x hx
    rcases mem_put hx with rfl | hx
    · exact ht
    · exact h.pads x hx
  exact { h with pads := hp }

theorem onTile_kept {p : Nat} {f : Tile → Tile} (h : Kept o s) (hf : ∀ t : Tile, Memory.wf t.pad = true → Memory.wf (f t).pad = true) :
    Kept o (s.onTile p f) := setTile_kept h (hf _ (h.pad p))

theorem onMailbox_kept {mb : Nat} {f : Mailbox → Mailbox} (h : Kept o s)
    (hf : ∀ m : Mailbox, Memory.wf m.payload = true → Memory.wf (f m).payload = true) : Kept o (s.onMailbox mb f) := by
  have hp : ∀ x ∈ put mb (f (s.mailbox mb)) s.host.mailboxes, Memory.wf x.2.payload = true := by
    intro x hx
    rcases mem_put hx with rfl | hx
    · exact hf _ (h.payload mb)
    · exact h.payloads x hx
  exact { h with payloads := hp }

theorem mapTiles_kept {f : Nat × Tile → Nat × Tile} (h : Kept o s) (hf : ∀ x : Nat × Tile, (f x).2.pad = x.2.pad) :
    Kept o { s with tiles := s.tiles.map f } := by
  have hp : ∀ x ∈ s.tiles.map f, Memory.wf x.2.pad = true := by
    intro x hx
    obtain ⟨y, hy, rfl⟩ := List.mem_map.mp hx
    rw [hf]; exact h.pads y hy
  exact { h with pads := hp }

theorem setBytes_kept {m : Memory} (h : Kept o s) (hm : Memory.wf m = true) : Kept o { s with mem := { s.mem with bytes := m } } :=
  { h with frames := hm }

theorem onPort_kept {p : Nat} {f : Port → Port} (h : Kept o s) : Kept o (s.onPort p f) := h

theorem onRegion_kept {g : Nat} {f : Region → Region} (h : Kept o s) : Kept o (s.onRegion g f) := h

theorem onJob_kept {f : Job → Job} (h : Kept o s) : Kept o (s.onJob f) := h

theorem fresh_kept (h : Kept o s) : Kept o s.fresh.2 := { h with free := Nat.le_succ_of_le h.free }

theorem counter_kept {n : Nat} (h : Kept o s) : Kept o { s with freeCtr := s.freeCtr + n } :=
  { h with free := Nat.le_trans h.free (Nat.le_add_right _ _) }

theorem guardUnit_kept {ok : Bool} {t t' : State} (h : Kept o t) (e : guardUnit ok t = .next t') : Kept o t' := by
  unfold guardUnit at e
  split at e
  · cases e; exact h
  · cases e

theorem next_kept {t t' : State} (h : Kept o t) (e : (Host.Outcome.next t : Host.Outcome State Fault Refusal) = .next t') : Kept o t' := by
  cases e; exact h

/-! ## Interrupts, records, raisings -/

theorem irq_kept {v : Nat} (h : Kept o s) : Kept o (irq v s) := by
  unfold irq
  split
  · exact { h with vectors := h.vectors.trans (List.prefix_append _ _) }
  · exact h

/-- What a store of a record keeps: the length of the ring and the numbers in it. -/
theorem storeRecord_spec {size : Nat} {e : EventRec} {ring l : List EventRec} (h : storeRecord size e ring = some l) (hr : ring.length ≤ size) :
    l.length ≤ size ∧ ∀ x ∈ l, x = e ∨ x ∈ ring := by
  unfold storeRecord at h
  split at h
  · rename_i hlt
    cases h
    refine ⟨by simp; omega, fun x hx => ?_⟩
    rcases List.mem_append.mp hx with hx | hx
    · exact .inr hx
    · exact .inl (by simpa using hx)
  · split at h
    · cases h
    · cases h
      refine ⟨by simpa using hr, fun x hx => ?_⟩
      obtain ⟨y, hy, rfl⟩ := List.mem_map.mp hx
      split
      · exact .inl rfl
      · exact .inr hy

theorem setAt_length {α : Type} (v : α) (l : List α) : ∀ i, (setAt i v l).length = l.length := by
  induction l with
  | nil => intro i; simp [setAt]
  | cons a l ih =>
    intro i
    cases i with
    | zero => simp [setAt]
    | succ i => simp [setAt, ih]

theorem takeSeqBlock_spec (next : Nat) (n : Nor) : (takeSeqBlock next n).events = n.events ∧ (takeSeqBlock next n).serial = n.serial ∧
    (takeSeqBlock next n).minSvn = n.minSvn ∧ n.seqLimit ≤ (takeSeqBlock next n).seqLimit ∧
    (next ≤ n.seqLimit + 1048576 → next ≤ (takeSeqBlock next n).seqLimit) := by
  unfold takeSeqBlock
  split
  · rename_i h; exact ⟨rfl, rfl, rfl, Nat.le_refl _, fun _ => h⟩
  · exact ⟨rfl, rfl, rfl, Nat.le_add_right _ _, fun h => h⟩

theorem writeRecord_kept {r : Raise} (h : Kept o s) : Kept o (writeRecord r s) := by
  unfold writeRecord
  simp only
  split
  · exact { h with dropped := by simpa [setAt_length] using h.dropped }
  · rename_i ring hring
    obtain ⟨hl, hx⟩ := storeRecord_spec hring h.ring
    obtain ⟨e1, e2, e3, e4, e5⟩ := takeSeqBlock_spec (s.evt.headSeq + 1) s.nor
    have hh := h.head
    have e5 := e5 (by omega)
    refine { h with ring := hl, area := by rw [e1]; exact h.area, ringSeq := ?_, areaSeq := ?_, head := e5,
                    serial := e2.trans h.serial, minSvn := by rw [e3]; exact h.minSvn }
    · intro x hx'
      rcases hx x hx' with rfl | hx'
      · exact ⟨Nat.le_add_left _ _, Nat.le_refl _⟩
      · have := h.ringSeq x hx'
        exact ⟨this.1, Nat.le_succ_of_le this.2⟩
    · intro x hx'
      rw [e1] at hx'
      have := h.areaSeq x hx'
      exact ⟨this.1, Nat.le_trans this.2 e4⟩

theorem setSticky_kept {b : Nat} (h : Kept o s) : Kept o (setSticky b s) := by
  unfold setSticky
  split
  · exact h
  · exact irq_kept (s := { s with evt := { s.evt with sticky := s.evt.sticky ||| (1#32768 <<< b) } }) h

theorem Kept.trace' (h : Kept o s) : s.evt.trace.length ≤ 262144 := h.trace

/-- An update of the recorder that leaves the stored records, their numbers and the counters. -/
theorem evt_kept {e : Recorder} (h : Kept o s) (h1 : e.ring = s.evt.ring) (h2 : e.headSeq = s.evt.headSeq) (h3 : e.dropped = s.evt.dropped)
    (h4 : e.trace.length ≤ 262144) : Kept o { s with evt := e } :=
  { h with ring := h1 ▸ h.ring, ringSeq := by simpa only [h1, h2] using h.ringSeq, head := by simpa only [h2] using h.head,
           dropped := by simpa only [h3] using h.dropped, trace := h4 }

/-- An update of the mailboxes. -/
theorem mailboxes_kept {l : List (Nat × Mailbox)} (h : Kept o s) (hl : ∀ x ∈ l, Memory.wf x.2.payload = true) :
    Kept o { s with host := { s.host with mailboxes := l } } := { h with payloads := hl }

/-- An update of the host link that sends more to the host. -/
theorem sent_kept {g : HostLink} (h : Kept o s) (h1 : g.mailboxes = s.host.mailboxes) (h2 : s.host.sent <+: g.sent)
    (h3 : s.host.msix <+: g.msix) : Kept o { s with host := g } :=
  { h with payloads := by simpa only [h1] using h.payloads, sent := h.sent.trans h2, vectors := h.vectors.trans h3 }

/-- The records that the ring and the event area hold replaced by some of them. -/
theorem events_kept {e : Recorder} {n : Nor} (h : Kept o s) (h1 : e.ring.length ≤ 65536) (h2 : ∀ x ∈ e.ring, 1 ≤ x.seq ∧ x.seq ≤ e.headSeq)
    (h3 : e.trace.length ≤ 262144) (h4 : e.headSeq ≤ n.seqLimit) (h5 : e.dropped.length = 5) (h6 : n.events.length ≤ 524288)
    (h7 : ∀ x ∈ n.events, 1 ≤ x.seq ∧ x.seq ≤ n.seqLimit) (h8 : n.serial = s.nor.serial) (h9 : s.nor.minSvn ≤ n.minSvn) :
    Kept o { s with evt := e, nor := n } :=
  { h with ring := h1, ringSeq := h2, trace := h3, head := h4, dropped := h5, area := h6, areaSeq := h7, serial := h8.trans h.serial,
           minSvn := h.minSvn.trans h9 }

/-- The tiles replaced by tiles of canonical pads. -/
theorem tiles_kept {l : List (Nat × Tile)} (h : Kept o s) (hl : ∀ x ∈ l, Memory.wf x.2.pad = true) : Kept o { s with tiles := l } :=
  { h with pads := hl }

theorem Kept.pads' (h : Kept o s) : ∀ x ∈ s.tiles, Memory.wf x.2.pad = true := h.pads

theorem Kept.ring' (h : Kept o s) : s.evt.ring.length ≤ 65536 := h.ring

theorem Kept.ringSeq' (h : Kept o s) : ∀ e ∈ s.evt.ring, 1 ≤ e.seq ∧ e.seq ≤ s.evt.headSeq := h.ringSeq

theorem Kept.area' (h : Kept o s) : s.nor.events.length ≤ 524288 := h.area

theorem Kept.areaSeq' (h : Kept o s) : ∀ e ∈ s.nor.events, 1 ≤ e.seq ∧ e.seq ≤ s.nor.seqLimit := h.areaSeq

theorem Kept.head' (h : Kept o s) : s.evt.headSeq ≤ s.nor.seqLimit := h.head

theorem Kept.dropped' (h : Kept o s) : s.evt.dropped.length = 5 := h.dropped

theorem mem_del {κ α : Type} [DecidableEq κ] {k : κ} {l : List (κ × α)} {x : κ × α} (h : x ∈ del k l) : x ∈ l := (List.mem_filter.mp h).1

end Sys2Proof.Machine
end

