-- ==== Sys2Proof/Laws/KeptOps.lean ====
section
/-! SUPPORT. What the operations of Machine.Ops keep. -/

set_option linter.unusedTactic false
set_option linter.unreachableTactic false
set_option linter.unusedSimpArgs false

namespace Sys2Proof.Machine

variable {o s : State}

theorem setDev_kept {d : DevState} (h : Kept o s) : Kept o (setDev d s) := by
  unfold setDev
  repeat' first
    | with_reducible assumption
    | (intro x; first | (refine kept_cut (P := Kept o x) ?_ ?_; rotate_left; dsimp only [x]; rotate_left; intro hx; clear_value x) | skip)
    | lift_lets
    | (simp only [kept_cons]; with_reducible apply kept_mk <;> first | with_reducible assumption | rfl | exact Kept.bytes (by assumption) | skip)
    | with_reducible first
                     | apply kept_ite | apply irq_kept
    | split

theorem countHealth_kept {c : Cond} (h : Kept o s) : Kept o (countHealth c s) := by
  unfold countHealth
  repeat' first
    | with_reducible assumption
    | (intro x; first | (refine kept_cut (P := Kept o x) ?_ ?_; rotate_left; dsimp only [x]; rotate_left; intro hx; clear_value x) | skip)
    | lift_lets
    | (simp only [kept_cons]; with_reducible apply kept_mk <;> first | with_reducible assumption | rfl | exact Kept.bytes (by assumption) | skip)
    | with_reducible first
                     | apply kept_ite
    | split

theorem record_kept {r0 : Raise} (h : Kept o s) : Kept o (record r0 s) := by
  unfold record
  repeat' first
    | with_reducible assumption
    | (intro x; first | (refine kept_cut (P := Kept o x) ?_ ?_; rotate_left; dsimp only [x]; rotate_left; intro hx; clear_value x) | skip)
    | lift_lets
    | (simp only [kept_cons]; with_reducible apply kept_mk <;> first | with_reducible assumption | rfl | exact Kept.bytes (by assumption) | skip)
    | with_reducible first
                     | apply kept_ite | apply irq_kept | apply writeRecord_kept | apply setSticky_kept | apply countHealth_kept
    | (with_reducible apply each_kept; intro _ _ _; beta_reduce)
    | split

theorem countMem_kept {u : Source} {g : MemCounts → MemCounts} (h : Kept o s) : Kept o (countMem u g s) := by
  unfold countMem
  repeat' first
    | with_reducible assumption
    | (intro x; first | (refine kept_cut (P := Kept o x) ?_ ?_; rotate_left; dsimp only [x]; rotate_left; intro hx; clear_value x) | skip)
    | lift_lets
    | (simp only [kept_cons]; with_reducible apply kept_mk <;> first | with_reducible assumption | rfl | exact Kept.bytes (by assumption) | skip)
    | with_reducible first
                     | apply kept_ite
    | split

theorem repairRow_kept {r : RowRef} (h : Kept o s) : Kept o (repairRow r s) := by
  unfold repairRow
  repeat' first
    | with_reducible assumption
    | (intro x; first | (refine kept_cut (P := Kept o x) ?_ ?_; rotate_left; dsimp only [x]; rotate_left; intro hx; clear_value x) | skip)
    | lift_lets
    | (simp only [kept_cons]; with_reducible apply kept_mk <;> first | with_reducible assumption | rfl | exact Kept.bytes (by assumption) | skip)
    | with_reducible first
                     | apply kept_ite | apply record_kept | apply countMem_kept
    | split

theorem putDump_spec (slot : Nat) (d : Dump) (r : Recorder) : (r.putDump slot d).ring = r.ring ∧ (r.putDump slot d).headSeq = r.headSeq ∧
    (r.putDump slot d).dropped = r.dropped ∧ (r.putDump slot d).trace.length ≤ r.trace.length := by
  refine ⟨rfl, rfl, rfl, ?_⟩
  change (if d.extends_ then r.trace.drop _ else r.trace).length ≤ _
  split
  · rw [List.length_drop]; exact Nat.sub_le _ _
  · exact Nat.le_refl _

theorem dump_kept {slot : Nat} {d : Dump} (h : Kept o s) : Kept o { s with evt := s.evt.putDump slot d, freeCtr := s.freeCtr + 1 } := by
  obtain ⟨e1, e2, e3, e4⟩ := putDump_spec slot d s.evt
  exact fresh_kept (s := { s with evt := s.evt.putDump slot d }) (evt_kept h e1 e2 e3 (Nat.le_trans e4 h.trace'))

theorem captureDump_kept {cause : Cond} {fatal : Bool} (h : Kept o s) : Kept o (captureDump cause fatal s) := by
  unfold captureDump
  repeat' first
    | with_reducible assumption
    | (intro x; first | (refine kept_cut (P := Kept o x) ?_ ?_; rotate_left; dsimp only [x]; rotate_left; intro hx; clear_value x) | skip)
    | lift_lets
    | with_reducible apply dump_kept
    | (simp only [kept_cons]; with_reducible apply kept_mk <;> first | with_reducible assumption | rfl | exact Kept.bytes (by assumption) | skip)
    | with_reducible first
                     | apply kept_ite | apply record_kept
    | split

theorem wipe_kept (h : Kept o s) : Kept o (wipe s) := by
  unfold wipe
  simp only [kept_cons]
  exact kept_mk (s := { s with tiles := [], mem := { s.mem with bytes := [] } })
    (setBytes_kept (tiles_kept (l := []) h (by simp)) (m := []) rfl) rfl rfl rfl rfl rfl rfl rfl rfl rfl rfl rfl rfl

theorem abandonAttempt_kept (h : Kept o s) : Kept o (abandonAttempt s) := by
  unfold abandonAttempt
  repeat' first
    | with_reducible assumption
    | (intro x; first | (refine kept_cut (P := Kept o x) ?_ ?_; rotate_left; dsimp only [x]; rotate_left; intro hx; clear_value x) | skip)
    | lift_lets
    | (simp only [kept_cons]; with_reducible apply kept_mk <;> first | with_reducible assumption | rfl | exact Kept.bytes (by assumption) | skip)
    | with_reducible first
                     | apply kept_ite
    | split

theorem fenceCompute_kept (h : Kept o s) : Kept o (fenceCompute s) := by
  unfold fenceCompute
  repeat' first
    | with_reducible assumption
    | (intro x; first | (refine kept_cut (P := Kept o x) ?_ ?_; rotate_left; dsimp only [x]; rotate_left; intro hx; clear_value x) | skip)
    | lift_lets
    | (simp only [kept_cons]; with_reducible apply kept_mk <;> first | with_reducible assumption | rfl | exact Kept.bytes (by assumption) | skip)
    | with_reducible first
                     | apply kept_ite | apply abandonAttempt_kept
    | split

theorem fence_kept {dump : Option (Cond × Bool)} (h : Kept o s) : Kept o (fence dump s) := by
  unfold fence
  repeat' first
    | with_reducible assumption
    | (intro x; first | (refine kept_cut (P := Kept o x) ?_ ?_; rotate_left; dsimp only [x]; rotate_left; intro hx; clear_value x) | skip)
    | lift_lets
    | (simp only [kept_cons]; with_reducible apply kept_mk <;> first | with_reducible assumption | rfl | exact Kept.bytes (by assumption) | skip)
    | with_reducible first
                     | apply kept_ite | apply captureDump_kept | apply wipe_kept | apply fenceCompute_kept
    | split

theorem dropJob_kept (h : Kept o s) : Kept o (dropJob s) := by
  unfold dropJob
  repeat' first
    | with_reducible assumption
    | (intro x; first | (refine kept_cut (P := Kept o x) ?_ ?_; rotate_left; dsimp only [x]; rotate_left; intro hx; clear_value x) | skip)
    | lift_lets
    | (simp only [kept_cons]; with_reducible apply kept_mk <;> first | with_reducible assumption | rfl | exact Kept.bytes (by assumption) | skip)
    | with_reducible first
                     | apply kept_ite
    | split

theorem send_spec (w : HostWrite) (g : HostLink) : (g.send w).mailboxes = g.mailboxes ∧ g.sent <+: (g.send w).sent ∧ (g.send w).msix = g.msix := by
  unfold HostLink.send
  split
  · exact ⟨rfl, List.prefix_append _ _, rfl⟩
  · exact ⟨rfl, List.prefix_rfl, rfl⟩

theorem post_kept {mb : Nat} {m : Mailbox} (h : Kept o s) : Kept o { s with host := s.host.post mb m } := by
  obtain ⟨h1, h2, h3⟩ := send_spec { addr := s.host.crBase + BitVec.ofNat 64 (32 * s.host.crTail.toNat), bytes := completionRecord mb s.host.crPhase m } s.host
  exact sent_kept h h1 h2 (by rw [← h3]; exact List.prefix_rfl)

theorem postRecord_kept {mb : Nat} (h : Kept o s) : Kept o (postRecord mb s) := by
  unfold postRecord
  repeat' first
    | with_reducible assumption
    | (intro x; first | (refine kept_cut (P := Kept o x) ?_ ?_; rotate_left; dsimp only [x]; rotate_left; intro hx; clear_value x) | skip)
    | lift_lets
    | with_reducible apply post_kept
    | (simp only [kept_cons]; with_reducible apply kept_mk <;> first | with_reducible assumption | rfl | exact Kept.bytes (by assumption) | skip)
    | with_reducible first
                     | apply kept_ite | apply irq_kept
    | split

theorem notify_kept {mb : Nat} (h : Kept o s) : Kept o (notify mb s) := by
  unfold notify
  repeat' first
    | with_reducible assumption
    | (intro x; first | (refine kept_cut (P := Kept o x) ?_ ?_; rotate_left; dsimp only [x]; rotate_left; intro hx; clear_value x) | skip)
    | lift_lets
    | (simp only [kept_cons]; with_reducible apply kept_mk <;> first | with_reducible assumption | rfl | exact Kept.bytes (by assumption) | skip)
    | with_reducible first
                     | apply kept_ite | apply irq_kept | apply postRecord_kept
    | split

theorem answer_kept {mb status detail : Nat} (h : Kept o s) : Kept o (answer mb status detail s) := by
  exact notify_kept (onMailbox_kept h (fun _ hm => hm))

theorem respond_kept {mb : Nat} {bytes : List Byte} (h : Kept o s) : Kept o (respond mb bytes s) := by
  unfold respond
  exact notify_kept (onMailbox_kept (onMailbox_kept h (fun _ _ => Memory.writeBytes_wf _ _ Memory.nil_wf)) (fun _ hm => hm))

theorem answerLocal_kept {mb status : Nat} {tick : Nat} (h : Kept o s) : Kept o (answerLocal mb status tick s) := by
  exact notify_kept (onMailbox_kept h (fun _ hm => hm))

theorem fenceCommands_kept (h : Kept o s) : Kept o (fenceCommands s) := by
  unfold fenceCommands
  repeat' first
    | with_reducible assumption
    | (intro x; first | (refine kept_cut (P := Kept o x) ?_ ?_; rotate_left; dsimp only [x]; rotate_left; intro hx; clear_value x) | skip)
    | lift_lets
    | (simp only [kept_cons]; with_reducible apply kept_mk <;> first | with_reducible assumption | rfl | exact Kept.bytes (by assumption) | skip)
    | with_reducible first
                     | apply kept_ite | apply answer_kept
    | (with_reducible apply each_kept; intro _ _ _; beta_reduce)
    | split

theorem stopOscillators_kept (h : Kept o s) : Kept o (stopOscillators s) := by
  unfold stopOscillators
  repeat' first
    | with_reducible assumption
    | (intro x; first | (refine kept_cut (P := Kept o x) ?_ ?_; rotate_left; dsimp only [x]; rotate_left; intro hx; clear_value x) | skip)
    | lift_lets
    | (simp only [kept_cons]; with_reducible apply kept_mk <;> first | with_reducible assumption | rfl | exact Kept.bytes (by assumption) | skip)
    | with_reducible first
                     | apply kept_ite
    | split

theorem dropCrumb_kept (h : Kept o s) : Kept o (dropCrumb s) := by
  unfold dropCrumb
  repeat' first
    | with_reducible assumption
    | (intro x; first | (refine kept_cut (P := Kept o x) ?_ ?_; rotate_left; dsimp only [x]; rotate_left; intro hx; clear_value x) | skip)
    | lift_lets
    | (simp only [kept_cons]; with_reducible apply kept_mk <;> first | with_reducible assumption | rfl | exact Kept.bytes (by assumption) | skip)
    | with_reducible first
                     | apply kept_ite
    | split

theorem failRequalify_kept (h : Kept o s) : Kept o (failRequalify s) := by
  unfold failRequalify
  repeat' first
    | with_reducible assumption
    | (intro x; first | (refine kept_cut (P := Kept o x) ?_ ?_; rotate_left; dsimp only [x]; rotate_left; intro hx; clear_value x) | skip)
    | lift_lets
    | (simp only [kept_cons]; with_reducible apply kept_mk <;> first | with_reducible assumption | rfl | exact Kept.bytes (by assumption) | skip)
    | with_reducible first
                     | apply kept_ite | apply answer_kept | apply stopOscillators_kept | apply dropCrumb_kept
    | split

theorem failResets_kept {c : Cond} (h : Kept o s) : Kept o (failResets c s) := by
  unfold failResets
  repeat' first
    | with_reducible assumption
    | (intro x; first | (refine kept_cut (P := Kept o x) ?_ ?_; rotate_left; dsimp only [x]; rotate_left; intro hx; clear_value x) | skip)
    | lift_lets
    | (simp only [kept_cons]; with_reducible apply kept_mk <;> first | with_reducible assumption | rfl | exact Kept.bytes (by assumption) | skip)
    | with_reducible first
                     | apply kept_ite | apply answer_kept
    | (with_reducible apply each_kept; intro _ _ _; beta_reduce)
    | split

theorem haltCommands_kept (h : Kept o s) : Kept o (haltCommands s) := by
  unfold haltCommands
  repeat' first
    | with_reducible assumption
    | (intro x; first | (refine kept_cut (P := Kept o x) ?_ ?_; rotate_left; dsimp only [x]; rotate_left; intro hx; clear_value x) | skip)
    | lift_lets
    | (simp only [kept_cons]; with_reducible apply kept_mk <;> first | with_reducible assumption | rfl | exact Kept.bytes (by assumption) | skip)
    | with_reducible first
                     | apply kept_ite | apply answer_kept
    | (with_reducible apply each_kept; intro _ _ _; beta_reduce)
    | split

theorem startReset_kept {mailbox : Option Nat} (h : Kept o s) : Kept o (startReset mailbox s) := by
  unfold startReset
  repeat' first
    | with_reducible assumption
    | (intro x; first | (refine kept_cut (P := Kept o x) ?_ ?_; rotate_left; dsimp only [x]; rotate_left; intro hx; clear_value x) | skip)
    | lift_lets
    | (simp only [kept_cons]; with_reducible apply kept_mk <;> first | with_reducible assumption | rfl | exact Kept.bytes (by assumption) | skip)
    | with_reducible first
                     | apply kept_ite | apply setDev_kept | apply repairRow_kept | apply dropJob_kept | apply dropCrumb_kept
    | (with_reducible apply each_kept; intro _ _ _; beta_reduce)
    | split

theorem beginReset_kept {mailbox : Option Nat} {dump : Option Cond} (h : Kept o s) : Kept o (beginReset mailbox dump s) := by
  unfold beginReset
  repeat' first
    | with_reducible assumption
    | (intro x; first | (refine kept_cut (P := Kept o x) ?_ ?_; rotate_left; dsimp only [x]; rotate_left; intro hx; clear_value x) | skip)
    | lift_lets
    | (simp only [kept_cons]; with_reducible apply kept_mk <;> first | with_reducible assumption | rfl | exact Kept.bytes (by assumption) | skip)
    | with_reducible first
                     | apply kept_ite | apply fence_kept | apply fenceCommands_kept | apply startReset_kept
    | split

theorem fatalTransit_kept {c : Cond} (h : Kept o s) : Kept o (fatalTransit c s) := by
  unfold fatalTransit
  repeat' first
    | with_reducible assumption
    | (intro x; first | (refine kept_cut (P := Kept o x) ?_ ?_; rotate_left; dsimp only [x]; rotate_left; intro hx; clear_value x) | skip)
    | lift_lets
    | (simp only [kept_cons]; with_reducible apply kept_mk <;> first | with_reducible assumption | rfl | exact Kept.bytes (by assumption) | skip)
    | with_reducible first
                     | apply kept_ite | apply setDev_kept | apply fence_kept | apply dropJob_kept | apply fenceCommands_kept
                     | apply stopOscillators_kept | apply dropCrumb_kept
    | split

theorem enterHalted_kept {dump : Option (Cond × Bool)} (h : Kept o s) : Kept o (enterHalted dump s) := by
  unfold enterHalted
  repeat' first
    | with_reducible assumption
    | (intro x; first | (refine kept_cut (P := Kept o x) ?_ ?_; rotate_left; dsimp only [x]; rotate_left; intro hx; clear_value x) | skip)
    | lift_lets
    | (simp only [kept_cons]; with_reducible apply kept_mk <;> first | with_reducible assumption | rfl | exact Kept.bytes (by assumption) | skip)
    | with_reducible first
                     | apply kept_ite | apply setDev_kept | apply fence_kept | apply dropJob_kept | apply stopOscillators_kept
                     | apply haltCommands_kept
    | split

theorem containEffect_kept {r : Raise} (h : Kept o s) : Kept o (containEffect r s) := by
  unfold containEffect
  repeat' first
    | with_reducible assumption
    | (intro x; first | (refine kept_cut (P := Kept o x) ?_ ?_; rotate_left; dsimp only [x]; rotate_left; intro hx; clear_value x) | skip)
    | lift_lets
    | (simp only [kept_cons]; with_reducible apply kept_mk <;> first | with_reducible assumption | rfl | exact Kept.bytes (by assumption) | skip)
    | with_reducible first
                     | apply kept_ite | apply record_kept | apply wipe_kept | apply failRequalify_kept | apply failResets_kept
                     | apply beginReset_kept | apply fatalTransit_kept
    | split

theorem fatalEffect_kept {r : Raise} (h : Kept o s) : Kept o (fatalEffect r s) := by
  unfold fatalEffect
  repeat' first
    | with_reducible assumption
    | (intro x; first | (refine kept_cut (P := Kept o x) ?_ ?_; rotate_left; dsimp only [x]; rotate_left; intro hx; clear_value x) | skip)
    | lift_lets
    | (simp only [kept_cons]; with_reducible apply kept_mk <;> first | with_reducible assumption | rfl | exact Kept.bytes (by assumption) | skip)
    | with_reducible first
                     | apply kept_ite | apply failRequalify_kept | apply failResets_kept | apply fatalTransit_kept
                     | apply enterHalted_kept
    | split

theorem retireEffect_kept {r : Raise} (h : Kept o s) : Kept o (retireEffect r s) := by
  unfold retireEffect
  repeat' first
    | with_reducible assumption
    | (intro x; first | (refine kept_cut (P := Kept o x) ?_ ?_; rotate_left; dsimp only [x]; rotate_left; intro hx; clear_value x) | skip)
    | lift_lets
    | (simp only [kept_cons]; with_reducible apply kept_mk <;> first | with_reducible assumption | rfl | exact Kept.bytes (by assumption) | skip)
    | with_reducible first
                     | apply kept_ite
    | split

theorem noteReplay_kept {r : Raise} (h : Kept o s) : Kept o (noteReplay r s) := by
  unfold noteReplay
  repeat' first
    | with_reducible assumption
    | (intro x; first | (refine kept_cut (P := Kept o x) ?_ ?_; rotate_left; dsimp only [x]; rotate_left; intro hx; clear_value x) | skip)
    | lift_lets
    | (simp only [kept_cons]; with_reducible apply kept_mk <;> first | with_reducible assumption | rfl | exact Kept.bytes (by assumption) | skip)
    | with_reducible first
                     | apply kept_ite | apply record_kept
    | split

theorem markFailed_kept {r : Raise} (h : Kept o s) : Kept o (markFailed r s) := by
  unfold markFailed
  repeat' first
    | with_reducible assumption
    | (intro x; first | (refine kept_cut (P := Kept o x) ?_ ?_; rotate_left; dsimp only [x]; rotate_left; intro hx; clear_value x) | skip)
    | lift_lets
    | (simp only [kept_cons]; with_reducible apply kept_mk <;> first | with_reducible assumption | rfl | exact Kept.bytes (by assumption) | skip)
    | with_reducible first
                     | apply kept_ite | apply noteReplay_kept
    | split

theorem classEffect_kept {r : Raise} (h : Kept o s) : Kept o (classEffect r s) := by
  unfold classEffect
  repeat' first
    | with_reducible assumption
    | (intro x; first | (refine kept_cut (P := Kept o x) ?_ ?_; rotate_left; dsimp only [x]; rotate_left; intro hx; clear_value x) | skip)
    | lift_lets
    | (simp only [kept_cons]; with_reducible apply kept_mk <;> first | with_reducible assumption | rfl | exact Kept.bytes (by assumption) | skip)
    | with_reducible first
                     | apply kept_ite | apply containEffect_kept | apply fatalEffect_kept | apply retireEffect_kept
                     | apply markFailed_kept
    | split

theorem raise_kept {r : Raise} (h : Kept o s) : Kept o (raise r s) := by
  unfold raise
  repeat' first
    | with_reducible assumption
    | (intro x; first | (refine kept_cut (P := Kept o x) ?_ ?_; rotate_left; dsimp only [x]; rotate_left; intro hx; clear_value x) | skip)
    | lift_lets
    | (simp only [kept_cons]; with_reducible apply kept_mk <;> first | with_reducible assumption | rfl | exact Kept.bytes (by assumption) | skip)
    | with_reducible first
                     | apply kept_ite | apply record_kept | apply classEffect_kept
    | split

theorem report_kept {r : Raise} (h : Kept o s) : Kept o (report r s) := by
  unfold report
  repeat' first
    | with_reducible assumption
    | (intro x; first | (refine kept_cut (P := Kept o x) ?_ ?_; rotate_left; dsimp only [x]; rotate_left; intro hx; clear_value x) | skip)
    | lift_lets
    | (simp only [kept_cons]; with_reducible apply kept_mk <;> first | with_reducible assumption | rfl | exact Kept.bytes (by assumption) | skip)
    | with_reducible first
                     | apply kept_ite
    | split

theorem raiseStrike_kept {r : Raise} (h : Kept o s) : Kept o (raiseStrike r s) := by
  unfold raiseStrike
  repeat' first
    | with_reducible assumption
    | (intro x; first | (refine kept_cut (P := Kept o x) ?_ ?_; rotate_left; dsimp only [x]; rotate_left; intro hx; clear_value x) | skip)
    | lift_lets
    | (simp only [kept_cons]; with_reducible apply kept_mk <;> first | with_reducible assumption | rfl | exact Kept.bytes (by assumption) | skip)
    | with_reducible first
                     | apply kept_ite | apply raise_kept
    | split

theorem receiveReport_kept {r : Raise} (h : Kept o s) : Kept o (receiveReport r s) := by
  unfold receiveReport
  repeat' first
    | with_reducible assumption
    | (intro x; first | (refine kept_cut (P := Kept o x) ?_ ?_; rotate_left; dsimp only [x]; rotate_left; intro hx; clear_value x) | skip)
    | lift_lets
    | (simp only [kept_cons]; with_reducible apply kept_mk <;> first | with_reducible assumption | rfl | exact Kept.bytes (by assumption) | skip)
    | with_reducible first
                     | apply kept_ite | apply raiseStrike_kept
    | split

end Sys2Proof.Machine
end

