-- ==== Sys2Proof/Laws/KeptOperands.lean ====
section
/-! SUPPORT. What a firing of the weave keeps: its fetches and its outputs leave the pad alone, and what it acts on the pad decides. -/

namespace Sys2Proof.Machine

seal Kept

variable {o s : State}

/-- An action of a firing that gives a tile of canonical pad a tile of canonical pad. -/
def PadKept (act : Tile → Token → Token → Token → Fired) : Prop :=
  ∀ t a b c, Memory.wf t.pad = true → Memory.wf (act t a b c).tile.pad = true

/-- The tile that a fetch leaves. -/
def Fetched.tile : Fetched → Tile
  | .got _ t => t
  | .stale t => t
  | .absent t => t

theorem settle_pad (ch : Channel) (c : Nat) (t : Tile) : (settle ch c t).pad = t.pad := rfl

theorem fetch_pad (sh : Shot) (code : Nat) (w : Want) (t : Tile) : (fetch sh code w t).tile.pad = t.pad := by
  unfold fetch
  cases w <;> dsimp only <;> repeat' first | rfl | split

theorem emit_pad (cs : ConfigSet) (u f code prod : Nat) (w : Option Nat) (k : Token) (t : Tile) :
    (emit cs u f code prod w k t).pad = t.pad := by
  unfold emit
  repeat' first | rfl | split

theorem emitOut_pad (sh : Shot) (code lat : Nat) (w : Option Nat) (x : Option (List Byte × Bool × Bool)) (t : Tile) :
    (emitOut sh code lat w x t).pad = t.pad := by
  unfold emitOut
  split
  · rfl
  · exact emit_pad ..

theorem writeCells_wf (cells : List (Option Nat)) : ∀ (vs : List Nat) {m : Memory}, m.wf = true → (writeCells m cells vs).wf = true := by
  induction cells with
  | nil => intro vs m h; exact h
  | cons c cs ih =>
    intro vs m h
    cases vs with
    | nil => cases c <;> exact h
    | cons v vs =>
      cases c with
      | none => exact ih vs h
      | some c => exact ih vs (Memory.writeBytes_wf _ _ h)

theorem holdCycle_kept {p : Nat} {t : Tile} (h : Kept o s) (ht : Memory.wf t.pad = true) : Kept o (holdCycle p t s) := setTile_kept h ht

theorem addCounts_kept {tensor : Nat} {c : TensorCounters} (h : Kept o s) : Kept o (addCounts tensor c s) := by
  unfold addCounts
  split
  · exact h
  · exact onJob_kept h

theorem finishFiring_kept {sh : Shot} {r : Fired} (h : Kept o s) (hr : Memory.wf r.tile.pad = true) : Kept o (finishFiring sh r s) := by
  unfold finishFiring
  refine each_kept _ (fun _ _ h' => report_kept h') (addCounts_kept (setTile_kept h ?_))
  rw [emitOut_pad, emitOut_pad]
  exact hr

theorem fireWith_kept {sh : Shot} {w : Want × Want × Want} {act : Tile → Token → Token → Token → Fired} (h : Kept o s) (ha : PadKept act) :
    Kept o (fireWith sh w act s) := by
  have h0 := h.pad sh.p
  unfold fireWith
  extract_lets t stale
  have hs : ∀ t' : Tile, Memory.wf t'.pad = true → Kept o (stale t') := fun t' ht => report_kept (holdCycle_kept h ht)
  clear_value stale
  have e1 := fetch_pad sh sh.cfg.inA w.1 t
  cases f1 : fetch sh sh.cfg.inA w.1 t <;> rw [f1] at e1 <;> simp only [Fetched.tile] at e1 ⊢
  · rename_i a t1
    have e2 := fetch_pad sh sh.cfg.inB w.2.1 t1
    cases f2 : fetch sh sh.cfg.inB w.2.1 t1 <;> rw [f2] at e2 <;> simp only [Fetched.tile] at e2 ⊢
    · rename_i b t2
      have e3 := fetch_pad sh sh.cfg.inC w.2.2 t2
      cases f3 : fetch sh sh.cfg.inC w.2.2 t2 <;> rw [f3] at e3 <;> simp only [Fetched.tile] at e3 ⊢
      · exact finishFiring_kept h (ha _ _ _ _ (by rw [e3, e2, e1]; exact h0))
      · exact hs _ (by rw [e3, e2, e1]; exact h0)
      · exact holdCycle_kept h h0
    · exact hs _ (by rw [e2, e1]; exact h0)
    · exact holdCycle_kept h h0
  · exact hs _ (by rw [e1]; exact h0)
  · exact holdCycle_kept h h0

theorem fireUnit_kept {op : Nat} {wants : Shot → Want × Want × Want} {act : Shot → Tile → Token → Token → Token → Fired} {fi : Firing}
    {t : State} (h : Kept o s) (ha : ∀ sh, PadKept (act sh)) (e : fireUnit op wants act fi s = .next t) : Kept o t := by
  unfold fireUnit at e
  split at e
  · cases e
    split
    · exact h
    · split
      · exact fireWith_kept h (ha _)
      · exact h
  · cases e

theorem fireAccess_kept {mode : Nat} {wants : Shot → Want × Want × Want} {act : Shot → Tile → Token → Token → Token → Fired} {fi : Firing}
    {t : State} (h : Kept o s) (ha : ∀ sh, PadKept (act sh)) (e : fireAccess mode wants act fi s = .next t) : Kept o t := by
  unfold fireAccess at e
  split at e
  · cases e
    split
    · exact h
    · split
      · exact fireWith_kept h (ha _)
      · exact h
  · cases e

theorem fireRead_kept {mode : Nat} {wants : Shot → Want × Want × Want}
    {act : Option (List Byte) → Shot → Tile → Token → Token → Token → Fired} {upset : Bool} {fi : Firing} {t : State} (h : Kept o s)
    (ha : ∀ d sh, PadKept (act d sh)) (e : fireRead mode wants act upset fi s = .next t) : Kept o t := by
  unfold fireRead at e
  split at e
  · exact fireAccess_kept (counter_kept h) (ha _) e
  · exact fireAccess_kept h (ha _) e

/-! ## The actions -/

theorem laneResult_pad (sh : Shot) (t : Tile) (k : Bank) (lat : Nat) (valid last : Bool) (xs : List Exact) :
    (laneResult sh t k lat valid last xs).tile.pad = t.pad := by
  unfold laneResult; split <;> rfl

theorem arith_padKept {useC : Bool} {lat : Nat} {fn : Exact → Exact → Exact → Exact} {sh : Shot} : PadKept (arith useC lat fn sh) := by
  intro t a b c h; unfold arith; rw [laneResult_pad]; exact h

theorem unary_padKept {lat : Nat} {fn : Exact → Exact} {sh : Shot} : PadKept (unary lat fn sh) := by
  intro t a b c h; unfold unary; rw [laneResult_pad]; exact h

theorem accumFire_padKept {sh : Shot} : PadKept (accumFire sh) := by
  intro t a b c h; unfold accumFire; dsimp only; split <;> exact h

theorem cmpFire_padKept {sh : Shot} : PadKept (cmpFire sh) := by
  intro t a b c h; unfold cmpFire; dsimp only; split <;> exact h

theorem intFire_padKept {fn : Record → Nat → Nat → Nat → Nat} {sh : Shot} : PadKept (intFire fn sh) := by
  intro t a b c h; unfold intFire; dsimp only; split <;> exact h

theorem rngFire_padKept {sh : Shot} : PadKept (rngFire sh) := fun _ _ _ _ h => h

theorem cvtFire_padKept {sh : Shot} : PadKept (cvtFire sh) := by
  intro t a b c h; unfold cvtFire; extract_lets; repeat' first | exact h | split

theorem reduceFire_padKept {sh : Shot} : PadKept (reduceFire sh) := by
  intro t a b c h; unfold reduceFire; dsimp only; split <;> exact h

theorem matrixFire_padKept {acc : Bool} {sh : Shot} : PadKept (matrixFire acc sh) := by
  intro t a b c h; unfold matrixFire; extract_lets; repeat' first | exact h | split

theorem routeFire_padKept {sh : Shot} : PadKept (routeFire sh) := fun _ _ _ _ h => h

theorem controlFire_padKept {act : Shot → Token → Token → (List Byte × Bool × Bool) × (List Byte × Bool × Bool)} {sh : Shot} :
    PadKept (controlFire act sh) := by
  intro t a b c h; unfold controlFire; dsimp only; split <;> exact h

theorem compactFire_padKept {sh : Shot} : PadKept (compactFire sh) := fun _ _ _ _ h => h

theorem countFire_padKept {sh : Shot} : PadKept (countFire sh) := by
  intro t a b c h; unfold countFire; dsimp only; repeat' first | exact h | split

theorem readFire_padKept {d : Option (List Byte)} {sh : Shot} {cells : Tile → Token → Token → Token → List (Option Nat)} {n : Nat}
    {conds : Tile → Token → Token → Token → List (Cond × Nat)} :
    PadKept (fun t a b c => readFire d sh t (cells t a b c) n (conds t a b c)) := fun _ _ _ _ h => h

theorem writeFire_padKept {sh : Shot} {cells : Tile → Token → Token → Token → List (Option Nat)} {n : Nat}
    {conds : Tile → Token → Token → Token → List (Cond × Nat)} :
    PadKept (fun t a b c => writeFire sh t a (cells t a b c) n (conds t a b c)) := by
  intro t a b c h
  dsimp only [writeFire]
  split
  · exact writeCells_wf _ _ h
  · exact h

theorem setFire_padKept {sh : Shot} : PadKept (setFire sh) := by
  intro t a b c h; unfold setFire; dsimp only; split <;> exact h

theorem probeFire_padKept {upset : Bool} {d : Option (List Byte)} {sh : Shot} : PadKept (probeFire upset d sh) := by
  intro t a b c h; unfold probeFire; extract_lets; repeat' first | exact h | split

theorem appendKeys_wf (sh : Shot) (wide : Bool) (ks : List Nat) : ∀ (off : Nat) {m : Memory}, m.wf = true →
    (appendKeys sh wide ks off m).2.1.wf = true := by
  induction ks with
  | nil => intro off m h; exact h
  | cons k ks ih =>
    intro off m h
    unfold appendKeys
    extract_lets n c
    split
    · exact ih _ (Memory.writeBytes_wf _ _ h)
    · exact ih _ h

theorem appendFire_padKept {sh : Shot} : PadKept (appendFire sh) := by
  intro t a b c h
  unfold appendFire
  extract_lets wide
  split
  · exact appendKeys_wf _ _ _ _ h
  · exact h

theorem sendFire_padKept {sh : Shot} : PadKept (sendFire sh) := by
  intro t a b c h
  have hp : Memory.wf (if a.valid then writeCells t.pad (rowCells sh sh.line) (lanes16 a.data) else t.pad) = true := by
    split
    · exact writeCells_wf _ _ h
    · exact h
  unfold sendFire
  extract_lets
  dsimp only
  split <;> exact hp

theorem takeFire_padKept {upset : Bool} {d : Option (List Byte)} {sh : Shot} : PadKept (takeFire upset d sh) := fun _ _ _ _ h => h

theorem pullFire_padKept {upset : Bool} {d : Option (List Byte)} {sh : Shot} : PadKept (pullFire upset d sh) := fun _ _ _ _ h => h

end Sys2Proof.Machine
end

