-- ==== Sys2Proof/Laws/KeptFrames.lean ====
section
/-! SUPPORT. What the operations of Machine.Frames keep. -/

set_option linter.unusedTactic false
set_option linter.unreachableTactic false
set_option linter.unusedSimpArgs false

namespace Sys2Proof.Machine

variable {o s : State}

theorem setEntry_kept {loaf : Nat} {e : DirEntry} (h : Kept o s) : Kept o (State.setEntry s loaf e) := by
  unfold State.setEntry
  repeat' first
    | with_reducible assumption
    | (intro x; first | (refine kept_cut (P := Kept o x) ?_ ?_; rotate_left; dsimp only [x]; rotate_left; intro hx; clear_value x) | skip)
    | lift_lets
    | (simp only [kept_cons]; with_reducible apply kept_mk <;> first | with_reducible assumption | rfl | exact Kept.bytes (by assumption) | skip)
    | with_reducible apply copyFrame_wf
    | with_reducible apply drop_wf
    | exact Kept.bytes (by assumption)
    | with_reducible apply Kept.bytes (o := o)
    | with_reducible apply Memory.writeBytes_wf
    | with_reducible first
                     | apply kept_ite
    | split

theorem each_wf {α : Type} {f : α → Memory → Memory} (hf : ∀ a m, Memory.wf m = true → Memory.wf (f a m) = true) (l : List α) :
    ∀ {m : Memory}, Memory.wf m = true → Memory.wf (each f l m) = true := by
  induction l with
  | nil => intro m h; exact h
  | cons a l ih => intro m h; exact ih (hf a m h)

theorem copyFrame_wf {src dst : Nat} {m : Memory} (h : Memory.wf m = true) : Memory.wf (copyFrame src dst m) = true := by
  unfold copyFrame
  extract_lets cleared
  have hc : Memory.wf cleared = true := Memory.clear_wf _ _ h
  split
  · exact hc
  · exact each_wf (fun _ _ h => Memory.write_wf _ _ h) _ hc

theorem drop_bytes (keep f : Nat) (m : Mem) : (m.drop keep f).bytes = m.bytes := by
  unfold Mem.drop
  extract_lets held back m1
  repeat' first | rfl | split

theorem drop_wf {keep f : Nat} {m : Mem} (h : Memory.wf m.bytes = true) : Memory.wf (m.drop keep f).bytes = true := by
  rw [drop_bytes]; exact h

theorem normalise_kept {loaf : Nat} (h : Kept o s) : Kept o (normalise loaf s) := by
  unfold normalise
  repeat' first
    | with_reducible assumption
    | (intro x; first | (refine kept_cut (P := Kept o x) ?_ ?_; rotate_left; dsimp only [x]; rotate_left; intro hx; clear_value x) | skip)
    | lift_lets
    | (simp only [kept_cons]; with_reducible apply kept_mk <;> first | with_reducible assumption | rfl | exact Kept.bytes (by assumption) | skip)
    | with_reducible apply copyFrame_wf
    | with_reducible apply drop_wf
    | exact Kept.bytes (by assumption)
    | with_reducible apply Kept.bytes (o := o)
    | with_reducible apply Memory.writeBytes_wf
    | with_reducible first
                     | apply kept_ite | apply setEntry_kept
    | split

theorem cancelMigration_kept {loaf : Nat} (h : Kept o s) : Kept o (cancelMigration loaf s) := by
  unfold cancelMigration
  repeat' first
    | with_reducible assumption
    | (intro x; first | (refine kept_cut (P := Kept o x) ?_ ?_; rotate_left; dsimp only [x]; rotate_left; intro hx; clear_value x) | skip)
    | lift_lets
    | (simp only [kept_cons]; with_reducible apply kept_mk <;> first | with_reducible assumption | rfl | exact Kept.bytes (by assumption) | skip)
    | with_reducible apply copyFrame_wf
    | with_reducible apply drop_wf
    | exact Kept.bytes (by assumption)
    | with_reducible apply Kept.bytes (o := o)
    | with_reducible apply Memory.writeBytes_wf
    | with_reducible first
                     | apply kept_ite | apply setEntry_kept
    | split

theorem allocPending_kept {loaf : Nat} {t : State} (h : Kept o s) (e : allocPending loaf s = some t) : Kept o t := by
  have h1 : Kept o (cancelMigration loaf (normalise loaf s)) := cancelMigration_kept (normalise_kept h)
  unfold allocPending at e
  revert e h1
  generalize cancelMigration loaf (normalise loaf s) = s0
  intro e h1
  dsimp only at e
  split at e
  · cases e; exact h1
  · split at e
    · cases e
    · have hc : ∀ f : Nat, Memory.wf (copyFrame (s0.committedFrame loaf) f s0.mem.bytes) = true := fun f => copyFrame_wf h1.bytes
      split at e
      · split at e
        · split at e
          · cases e
          · cases e
            exact setEntry_kept (kept_cons.mpr (kept_mk h1 (copyFrame_wf (hc _)) rfl rfl rfl rfl rfl rfl rfl rfl rfl rfl rfl))
        · cases e
          exact setEntry_kept (kept_cons.mpr (kept_mk h1 (hc _) rfl rfl rfl rfl rfl rfl rfl rfl rfl rfl rfl))
      · cases e
        exact setEntry_kept (kept_cons.mpr (kept_mk h1 (hc _) rfl rfl rfl rfl rfl rfl rfl rfl rfl rfl rfl))

theorem openVersion_kept {loaf : Nat} (h : Kept o s) : Kept o (openVersion loaf s).1 := by
  unfold openVersion
  split
  · exact allocPending_kept h ‹_›
  · (dsimp only; exact raise_kept h)

theorem touch_kept {loaf : Nat} (h : Kept o s) : Kept o (touch loaf s) := by
  unfold touch
  repeat' first
    | with_reducible assumption
    | (intro x; first | (refine kept_cut (P := Kept o x) ?_ ?_; rotate_left; dsimp only [x]; rotate_left; intro hx; clear_value x) | skip)
    | lift_lets
    | (simp only [kept_cons]; with_reducible apply kept_mk <;> first | with_reducible assumption | rfl | exact Kept.bytes (by assumption) | skip)
    | with_reducible apply copyFrame_wf
    | with_reducible apply drop_wf
    | exact Kept.bytes (by assumption)
    | with_reducible apply Kept.bytes (o := o)
    | with_reducible apply Memory.writeBytes_wf
    | with_reducible first
                     | apply kept_ite | apply setEntry_kept
    | split

theorem hbmGrant_bytes (f j r : Nat) (ls : List Nat) (m : Mem) : (hbmGrant f j r ls m).bytes = m.bytes := by
  unfold hbmGrant; split <;> rfl

theorem grant_kept {f j r : Nat} {ls : List Nat} (h : Kept o s) : Kept o { s with mem := hbmGrant f j r ls s.mem } :=
  kept_cons.mpr (kept_mk h (by rw [hbmGrant_bytes]; exact h.bytes) rfl rfl rfl rfl rfl rfl rfl rfl rfl rfl rfl)

theorem grantWrite_kept {w : Writer} {l j : Nat} (h : Kept o s) : Kept o (grantWrite w l j s) := by
  unfold grantWrite
  split
  · exact grant_kept h
  · exact h

theorem grantReads_kept {loaf line n : Nat} (h : Kept o s) : Kept o (grantReads loaf line n s) := by
  exact each_kept _ (fun _ _ h => grant_kept h) h

theorem storePending_kept {loaf off : Nat} {data : List Byte} (h : Kept o s) : Kept o (storePending loaf off data s) := by
  unfold storePending
  split
  · exact h
  · refine setBytes_kept h ?_
    have h1 := h.bytes
    split
    · exact Memory.writeBytes_wf _ _ (Memory.writeBytes_wf _ _ h1)
    · exact Memory.writeBytes_wf _ _ h1

theorem writePending_kept {w : Writer} {loaf line : Nat} {data : List Byte} (h : Kept o s) : Kept o (writePending w loaf line data s) := by
  unfold writePending
  repeat' first
    | with_reducible assumption
    | (intro x; first | (refine kept_cut (P := Kept o x) ?_ ?_; rotate_left; dsimp only [x]; rotate_left; intro hx; clear_value x) | skip)
    | lift_lets
    | with_reducible apply openVersion_kept
    | (simp only [kept_cons]; with_reducible apply kept_mk <;> first | with_reducible assumption | rfl | exact Kept.bytes (by assumption) | skip)
    | with_reducible apply copyFrame_wf
    | with_reducible apply drop_wf
    | exact Kept.bytes (by assumption)
    | with_reducible apply Kept.bytes (o := o)
    | with_reducible apply Memory.writeBytes_wf
    | with_reducible first
                     | apply kept_ite | apply grantWrite_kept | apply storePending_kept
    | split

theorem writeLines_kept {w : Writer} {loaf : Nat} (ds : List (List Byte)) : ∀ {line : Nat} {s : State}, Kept o s →
    Kept o (writeLines w loaf line ds s) := by
  induction ds with
  | nil => intro line s h; exact h
  | cons d ds ih => intro line s h; exact ih (writePending_kept h)

theorem writePendingByte_kept {w : Writer} {loaf off : Nat} {v : Byte} (h : Kept o s) : Kept o (writePendingByte w loaf off v s) := by
  unfold writePendingByte
  repeat' first
    | with_reducible assumption
    | (intro x; first | (refine kept_cut (P := Kept o x) ?_ ?_; rotate_left; dsimp only [x]; rotate_left; intro hx; clear_value x) | skip)
    | lift_lets
    | with_reducible apply openVersion_kept
    | (simp only [kept_cons]; with_reducible apply kept_mk <;> first | with_reducible assumption | rfl | exact Kept.bytes (by assumption) | skip)
    | with_reducible apply copyFrame_wf
    | with_reducible apply drop_wf
    | exact Kept.bytes (by assumption)
    | with_reducible apply Kept.bytes (o := o)
    | with_reducible apply Memory.writeBytes_wf
    | with_reducible first
                     | apply kept_ite | apply grantWrite_kept | apply storePending_kept
    | split

theorem replacePending_kept {loaf line : Nat} {data : List Byte} (h : Kept o s) : Kept o (replacePending loaf line data s) := by
  unfold replacePending
  repeat' first
    | with_reducible assumption
    | (intro x; first | (refine kept_cut (P := Kept o x) ?_ ?_; rotate_left; dsimp only [x]; rotate_left; intro hx; clear_value x) | skip)
    | lift_lets
    | with_reducible apply openVersion_kept
    | (simp only [kept_cons]; with_reducible apply kept_mk <;> first | with_reducible assumption | rfl | exact Kept.bytes (by assumption) | skip)
    | with_reducible apply copyFrame_wf
    | with_reducible apply drop_wf
    | exact Kept.bytes (by assumption)
    | with_reducible apply Kept.bytes (o := o)
    | with_reducible apply Memory.writeBytes_wf
    | with_reducible first
                     | apply kept_ite | apply grantWrite_kept | apply storePending_kept
    | split

theorem setScale_kept {loaf tray : Nat} {r : ScaleRec} (h : Kept o s) : Kept o (setScale loaf tray r s) := by
  unfold setScale
  repeat' first
    | with_reducible assumption
    | (intro x; first | (refine kept_cut (P := Kept o x) ?_ ?_; rotate_left; dsimp only [x]; rotate_left; intro hx; clear_value x) | skip)
    | lift_lets
    | (simp only [kept_cons]; with_reducible apply kept_mk <;> first | with_reducible assumption | rfl | exact Kept.bytes (by assumption) | skip)
    | with_reducible apply copyFrame_wf
    | with_reducible apply drop_wf
    | exact Kept.bytes (by assumption)
    | with_reducible apply Kept.bytes (o := o)
    | with_reducible apply Memory.writeBytes_wf
    | with_reducible first
                     | apply kept_ite
    | split

theorem memRaise_kept {c : Cond} {f j loaf row : Nat} (h : Kept o s) : Kept o (memRaise c f j loaf row s).2 := fresh_kept h

theorem markRow_kept {r : RowRef} (h : Kept o s) : Kept o (markRow r s) := by
  unfold markRow
  repeat' first
    | with_reducible assumption
    | (intro x; first | (refine kept_cut (P := Kept o x) ?_ ?_; rotate_left; dsimp only [x]; rotate_left; intro hx; clear_value x) | skip)
    | lift_lets
    | (simp only [kept_cons]; with_reducible apply kept_mk <;> first | with_reducible assumption | rfl | exact Kept.bytes (by assumption) | skip)
    | with_reducible apply copyFrame_wf
    | with_reducible apply drop_wf
    | exact Kept.bytes (by assumption)
    | with_reducible apply Kept.bytes (o := o)
    | with_reducible apply Memory.writeBytes_wf
    | with_reducible first
                     | apply kept_ite
    | split

theorem memCorrected_kept {f j loaf row : Nat} (h : Kept o s) : Kept o (memCorrected f j loaf row s) := by
  unfold memCorrected
  repeat' first
    | with_reducible assumption
    | (intro x; first | (refine kept_cut (P := Kept o x) ?_ ?_; rotate_left; dsimp only [x]; rotate_left; intro hx; clear_value x) | skip)
    | lift_lets
    | with_reducible apply memRaise_kept
    | (simp only [kept_cons]; with_reducible apply kept_mk <;> first | with_reducible assumption | rfl | exact Kept.bytes (by assumption) | skip)
    | with_reducible apply copyFrame_wf
    | with_reducible apply drop_wf
    | exact Kept.bytes (by assumption)
    | with_reducible apply Kept.bytes (o := o)
    | with_reducible apply Memory.writeBytes_wf
    | with_reducible first
                     | apply kept_ite | apply countMem_kept | apply raise_kept | apply markRow_kept
    | split

theorem memLost_kept {u : Source} (h : Kept o s) : Kept o (memLost u s) := by
  unfold memLost
  repeat' first
    | with_reducible assumption
    | (intro x; first | (refine kept_cut (P := Kept o x) ?_ ?_; rotate_left; dsimp only [x]; rotate_left; intro hx; clear_value x) | skip)
    | lift_lets
    | (simp only [kept_cons]; with_reducible apply kept_mk <;> first | with_reducible assumption | rfl | exact Kept.bytes (by assumption) | skip)
    | with_reducible apply copyFrame_wf
    | with_reducible apply drop_wf
    | exact Kept.bytes (by assumption)
    | with_reducible apply Kept.bytes (o := o)
    | with_reducible apply Memory.writeBytes_wf
    | with_reducible first
                     | apply kept_ite | apply countMem_kept | apply raise_kept
    | split

theorem memUncorrectable_kept {f j loaf row : Nat} (h : Kept o s) : Kept o (memUncorrectable f j loaf row s) := by
  unfold memUncorrectable
  repeat' first
    | with_reducible assumption
    | (intro x; first | (refine kept_cut (P := Kept o x) ?_ ?_; rotate_left; dsimp only [x]; rotate_left; intro hx; clear_value x) | skip)
    | lift_lets
    | with_reducible apply memRaise_kept
    | (simp only [kept_cons]; with_reducible apply kept_mk <;> first | with_reducible assumption | rfl | exact Kept.bytes (by assumption) | skip)
    | with_reducible apply copyFrame_wf
    | with_reducible apply drop_wf
    | exact Kept.bytes (by assumption)
    | with_reducible apply Kept.bytes (o := o)
    | with_reducible apply Memory.writeBytes_wf
    | with_reducible first
                     | apply kept_ite | apply countMem_kept | apply raise_kept | apply markRow_kept | apply memLost_kept
    | split

theorem repairFromBacking_kept {f : Nat} (h : Kept o s) : Kept o (repairFromBacking f s) := by
  unfold repairFromBacking
  repeat' first
    | with_reducible assumption
    | (intro x; first | (refine kept_cut (P := Kept o x) ?_ ?_; rotate_left; dsimp only [x]; rotate_left; intro hx; clear_value x) | skip)
    | lift_lets
    | (simp only [kept_cons]; with_reducible apply kept_mk <;> first | with_reducible assumption | rfl | exact Kept.bytes (by assumption) | skip)
    | with_reducible apply copyFrame_wf
    | with_reducible apply drop_wf
    | exact Kept.bytes (by assumption)
    | with_reducible apply Kept.bytes (o := o)
    | with_reducible apply Memory.writeBytes_wf
    | with_reducible first
                     | apply kept_ite
    | split

theorem setFrameLine_kept {f j : Nat} {data : List Byte} (h : Kept o s) : Kept o (State.setFrameLine s f j data) := by
  unfold State.setFrameLine
  repeat' first
    | with_reducible assumption
    | (intro x; first | (refine kept_cut (P := Kept o x) ?_ ?_; rotate_left; dsimp only [x]; rotate_left; intro hx; clear_value x) | skip)
    | lift_lets
    | (simp only [kept_cons]; with_reducible apply kept_mk <;> first | with_reducible assumption | rfl | exact Kept.bytes (by assumption) | skip)
    | with_reducible apply copyFrame_wf
    | with_reducible apply drop_wf
    | exact Kept.bytes (by assumption)
    | with_reducible apply Kept.bytes (o := o)
    | with_reducible apply Memory.writeBytes_wf
    | with_reducible first
                     | apply kept_ite
    | split

theorem loseLine_kept {f j : Nat} (h : Kept o s) : Kept o (loseLine f j s) := by
  unfold loseLine State.setFrameLine
  split
  · exact counter_kept h
  · exact counter_kept (setBytes_kept h (Memory.writeBytes_wf _ _ h.bytes))

/-- A reader that tells the hub and keeps. -/
def Reader.Keeps (w : Reader) : Prop := ∀ (o : State) (r : Raise) (s : State), Kept o s → Kept o (w.tell r s)

theorem Reader.tile_keeps (p task loaf : Nat) (ahead : Bool) : (Reader.tile p task loaf ahead).Keeps := fun _ _ _ h => report_kept h

theorem Reader.hub_keeps (loaf : Nat) (spares : Bool) : (Reader.hub loaf spares).Keeps := fun _ _ _ h => raiseStrike_kept h

theorem sliceParityError_kept {w : Reader} (hw : w.Keeps) {f j loaf : Nat} (h : Kept o s) : Kept o (sliceParityError w f j loaf s).1 := by
  unfold sliceParityError
  have h1 : Kept o (memRaise .sliceParity f j loaf 0 s).2 := memRaise_kept h
  extract_lets c
  generalize memRaise .sliceParity f j loaf 0 s = x at h1
  obtain ⟨r, s1⟩ := x
  dsimp only at h1 ⊢
  have h2 := hw o (if w.spares then r.as .note r.sev else r) s1 h1
  generalize w.tell (if w.spares then r.as .note r.sev else r) s1 = s2 at h2
  split
  · exact h2
  · split
    · exact loseLine_kept (hw _ _ _ h2)
    · exact repairFromBacking_kept h2

theorem readVersion_kept {w : Reader} (hw : w.Keeps) {f j loaf : Nat} {x : ReadOutcome} (h : Kept o s) : Kept o (readVersion w f j loaf x s).1 := by
  unfold readVersion
  split
  · exact sliceParityError_kept hw h
  · exact memCorrected_kept h
  · exact memCorrected_kept h
  · exact setFrameLine_kept (memCorrected_kept h)
  · exact memUncorrectable_kept (loseLine_kept h)
  · exact memUncorrectable_kept (loseLine_kept h)
  · (dsimp only; exact raise_kept h)
  · (dsimp only; exact raise_kept h)
  · exact h

theorem readChecked_kept {p task : Nat} {ahead : Bool} {loaf j : Nat} {x : ReadOutcome} (h : Kept o s) :
    Kept o (readChecked p task ahead loaf j x s).1 := readVersion_kept (Reader.tile_keeps _ _ _ _) h

theorem hubReads_kept {reads : MemRead → Bool} {rs : List MemRead} (h : Kept o s) : Kept o (hubReads reads rs s) := by
  refine each_kept _ (fun _ _ h => ?_) h
  split
  · exact readVersion_kept (Reader.hub_keeps _ _) h
  · exact h

theorem hubReadPending_kept {loaf line : Nat} {w : ReadOutcome} (h : Kept o s) : Kept o (hubReadPending loaf line w s) := by
  exact readVersion_kept (Reader.hub_keeps _ _) h

theorem judgeVersions_kept {ok saving : Bool} (h : Kept o s) : Kept o (judgeVersions ok saving s) := by
  unfold judgeVersions
  repeat' first
    | with_reducible assumption
    | (intro x; first | (refine kept_cut (P := Kept o x) ?_ ?_; rotate_left; dsimp only [x]; rotate_left; intro hx; clear_value x) | skip)
    | lift_lets
    | (simp only [kept_cons]; with_reducible apply kept_mk <;> first | with_reducible assumption | rfl | exact Kept.bytes (by assumption) | skip)
    | with_reducible apply copyFrame_wf
    | with_reducible apply drop_wf
    | exact Kept.bytes (by assumption)
    | with_reducible apply Kept.bytes (o := o)
    | with_reducible apply Memory.writeBytes_wf
    | with_reducible first
                     | apply kept_ite
    | (with_reducible apply each_kept; intro _ _ _; beta_reduce)
    | split

theorem sweepDue_kept (h : Kept o s) : Kept o (sweepDue s) := by
  unfold sweepDue
  repeat' first
    | with_reducible assumption
    | (intro x; first | (refine kept_cut (P := Kept o x) ?_ ?_; rotate_left; dsimp only [x]; rotate_left; intro hx; clear_value x) | skip)
    | lift_lets
    | (simp only [kept_cons]; with_reducible apply kept_mk <;> first | with_reducible assumption | rfl | exact Kept.bytes (by assumption) | skip)
    | with_reducible apply copyFrame_wf
    | with_reducible apply drop_wf
    | exact Kept.bytes (by assumption)
    | with_reducible apply Kept.bytes (o := o)
    | with_reducible apply Memory.writeBytes_wf
    | with_reducible first
                     | apply kept_ite | apply normalise_kept
    | (with_reducible apply each_kept; intro _ _ _; beta_reduce)
    | split

end Sys2Proof.Machine
end

