-- ==== Sys2Proof/Laws/KeptDirectory.lean ====
section
/-! SUPPORT. What the operations of Machine.Directory keep. -/

set_option linter.unusedTactic false
set_option linter.unreachableTactic false
set_option linter.unusedSimpArgs false

namespace Sys2Proof.Machine

variable {o s : State}

theorem setPins_kept (h : Kept o s) : Kept o (setPins s) := by
  unfold setPins
  repeat' first
    | with_reducible assumption
    | (intro x; first | (refine kept_cut (P := Kept o x) ?_ ?_; rotate_left; dsimp only [x]; rotate_left; intro hx; clear_value x) | skip)
    | lift_lets
    | (simp only [kept_cons]; with_reducible apply kept_mk <;> first | with_reducible assumption | rfl | exact Kept.bytes (by assumption) | skip)
    | with_reducible apply copyFrame_wf
    | exact Kept.bytes (by assumption)
    | with_reducible apply Kept.bytes (o := o)
    | with_reducible first
                     | apply kept_ite
    | split

theorem pinLoaves_kept (h : Kept o s) : Kept o (pinLoaves s) := by
  unfold pinLoaves
  repeat' first
    | with_reducible assumption
    | (intro x; first | (refine kept_cut (P := Kept o x) ?_ ?_; rotate_left; dsimp only [x]; rotate_left; intro hx; clear_value x) | skip)
    | lift_lets
    | (simp only [kept_cons]; with_reducible apply kept_mk <;> first | with_reducible assumption | rfl | exact Kept.bytes (by assumption) | skip)
    | with_reducible apply copyFrame_wf
    | exact Kept.bytes (by assumption)
    | with_reducible apply Kept.bytes (o := o)
    | with_reducible first
                     | apply kept_ite | apply raise_kept | apply setPins_kept
    | split

theorem planMove_kept {loaf f : Nat} (h : Kept o s) : Kept o (planMove loaf f s) := by
  unfold planMove
  repeat' first
    | with_reducible assumption
    | (intro x; first | (refine kept_cut (P := Kept o x) ?_ ?_; rotate_left; dsimp only [x]; rotate_left; intro hx; clear_value x) | skip)
    | lift_lets
    | (simp only [kept_cons]; with_reducible apply kept_mk <;> first | with_reducible assumption | rfl | exact Kept.bytes (by assumption) | skip)
    | with_reducible apply copyFrame_wf
    | exact Kept.bytes (by assumption)
    | with_reducible apply Kept.bytes (o := o)
    | with_reducible first
                     | apply kept_ite | apply setEntry_kept
    | split

theorem moveTo_kept {loaf f : Nat} (h : Kept o s) : Kept o (moveTo loaf f s) := by
  unfold moveTo
  repeat' first
    | with_reducible assumption
    | (intro x; first | (refine kept_cut (P := Kept o x) ?_ ?_; rotate_left; dsimp only [x]; rotate_left; intro hx; clear_value x) | skip)
    | lift_lets
    | (simp only [kept_cons]; with_reducible apply kept_mk <;> first | with_reducible assumption | rfl | exact Kept.bytes (by assumption) | skip)
    | with_reducible apply copyFrame_wf
    | exact Kept.bytes (by assumption)
    | with_reducible apply Kept.bytes (o := o)
    | with_reducible first
                     | apply kept_ite | apply planMove_kept
    | split

theorem promote_kept {loaf : Nat} {b : Budget} (h : Kept o s) : Kept o (promote loaf b s).2 := by
  unfold promote
  extract_lets s1 c
  have h1 : Kept o s1 := normalise_kept h
  clear_value s1
  split
  · extract_lets b'
    split
    · exact h1
    · exact moveTo_kept (kept_cons.mpr (kept_mk h1 h1.bytes rfl rfl rfl rfl rfl rfl rfl rfl rfl rfl rfl))
  · exact h1

theorem demoteCopy_kept {loaf : Nat} {src : Tier} {d : Bool} {b : Budget} (h : Kept o s) : Kept o (demoteCopy loaf src d b s).2 := by
  unfold demoteCopy
  split
  · exact h
  · extract_lets b'
    split
    · exact h
    · exact moveTo_kept h

theorem demote_kept {loaf : Nat} {b : Budget} (h : Kept o s) : Kept o (demote loaf b s).2 := by
  unfold demote
  extract_lets s1 back
  have h1 : Kept o s1 := normalise_kept h
  clear_value s1
  split
  · exact planMove_kept h1
  · exact demoteCopy_kept h1

theorem tryPromote_kept {x : Nat × Nat} {st : Budget × State} (h : Kept o st.2) : Kept o (tryPromote x st).2 := by
  obtain ⟨b, s⟩ := st
  unfold tryPromote
  dsimp only at h ⊢
  repeat' first | exact h | exact promote_kept h | exact demote_kept h | split

theorem coolHbm_kept {want : Nat} (l : List (Nat × Nat)) : ∀ {freed : Nat} {st : Budget × State}, Kept o st.2 →
    Kept o (coolHbm want l freed st).2 := by
  induction l with
  | nil => intro freed st h; exact h
  | cons x l ih =>
    rintro freed ⟨b, s⟩ h
    have h1 : Kept o (normalise x.1 s) := normalise_kept h
    unfold coolHbm
    dsimp only
    repeat' first | exact h | exact h1 | exact ih (moveTo_kept h1) | split

theorem warmHbm_kept {total : Nat} (l : List (Nat × Nat)) : ∀ {st : Budget × State}, Kept o st.2 → Kept o (warmHbm total l st).2 := by
  induction l with
  | nil => intro st h; exact h
  | cons x l ih =>
    rintro ⟨b, s⟩ h
    have h1 : Kept o (normalise x.1 s) := normalise_kept h
    unfold warmHbm
    dsimp only
    repeat' first | exact h | exact h1 | exact ih (moveTo_kept h1) | split

theorem each_pair_kept {α β : Type} {f : α → β × State → β × State} (hf : ∀ a x, Kept o x.2 → Kept o (f a x).2) (l : List α) :
    ∀ {x : β × State}, Kept o x.2 → Kept o (each f l x).2 := by
  induction l with
  | nil => intro x h; exact h
  | cons a l ih => intro x h; exact ih (hf a x h)

theorem pinMoves_kept (h : Kept o s) : Kept o (pinMoves s).2 := by
  rw [pinMoves]
  exact each_pair_kept (fun _ _ h => tryPromote_kept h) _ h

theorem hotMoves_kept {st : Budget × State} (h : Kept o st.2) : Kept o (hotMoves st).2 := by
  rw [hotMoves]
  exact each_pair_kept (fun _ _ h => tryPromote_kept h) _ h

theorem coolMoves_kept {st : Budget × State} (h : Kept o st.2) : Kept o (coolMoves st).2 := by
  rw [coolMoves]
  split
  · exact coolHbm_kept _ h
  · exact h

theorem warmMoves_kept {st : Budget × State} (h : Kept o st.2) : Kept o (warmMoves st).2 := by
  rw [warmMoves]
  exact warmHbm_kept _ h

theorem planMigrations_kept (h : Kept o s) : Kept o (planMigrations s) := by
  rw [planMigrations]
  exact warmMoves_kept (coolMoves_kept (hotMoves_kept (pinMoves_kept h)))

theorem copyRead_kept {r : MemRead} (h : Kept o s) : Kept o (copyRead r s) := by
  unfold copyRead
  extract_lets e migrating f s1 s2
  have h1 : Kept o s1 := by
    unfold s1
    split
    · exact cancelMigration_kept h
    · exact h
  clear_value s1
  split
  · exact h
  · have h2 : Kept o s2 := readVersion_kept (Reader.hub_keeps r.loaf migrating) h1
    exact kept_ite (setFrameLine_kept h2) h2

theorem memIdleError_kept {f j row : Nat} (h : Kept o s) : Kept o (memIdleError f j row s) := by
  unfold memIdleError
  repeat' first
    | with_reducible assumption
    | (intro x; first | (refine kept_cut (P := Kept o x) ?_ ?_; rotate_left; dsimp only [x]; rotate_left; intro hx; clear_value x) | skip)
    | lift_lets
    | with_reducible apply memRaise_kept
    | (simp only [kept_cons]; with_reducible apply kept_mk <;> first | with_reducible assumption | rfl | exact Kept.bytes (by assumption) | skip)
    | with_reducible apply copyFrame_wf
    | exact Kept.bytes (by assumption)
    | with_reducible apply Kept.bytes (o := o)
    | with_reducible first
                     | apply kept_ite | apply countMem_kept | apply raise_kept | apply markRow_kept | apply memLost_kept
    | split

theorem frameUncorrectable_kept {f j row : Nat} (h : Kept o s) : Kept o (frameUncorrectable f j row s) := by
  unfold frameUncorrectable
  repeat' first
    | with_reducible assumption
    | (intro x; first | (refine kept_cut (P := Kept o x) ?_ ?_; rotate_left; dsimp only [x]; rotate_left; intro hx; clear_value x) | skip)
    | lift_lets
    | (simp only [kept_cons]; with_reducible apply kept_mk <;> first | with_reducible assumption | rfl | exact Kept.bytes (by assumption) | skip)
    | with_reducible apply copyFrame_wf
    | exact Kept.bytes (by assumption)
    | with_reducible apply Kept.bytes (o := o)
    | with_reducible first
                     | apply kept_ite | apply memUncorrectable_kept | apply memIdleError_kept
    | split

theorem areaRead_kept {a : AreaRead} (h : Kept o s) : Kept o (areaRead a s) := by
  unfold areaRead
  repeat' first
    | with_reducible assumption
    | (intro x; first | (refine kept_cut (P := Kept o x) ?_ ?_; rotate_left; dsimp only [x]; rotate_left; intro hx; clear_value x) | skip)
    | lift_lets
    | (simp only [kept_cons]; with_reducible apply kept_mk <;> first | with_reducible assumption | rfl | exact Kept.bytes (by assumption) | skip)
    | with_reducible apply copyFrame_wf
    | exact Kept.bytes (by assumption)
    | with_reducible apply Kept.bytes (o := o)
    | with_reducible first
                     | apply kept_ite | apply memCorrected_kept | apply memUncorrectable_kept
    | split

end Sys2Proof.Machine
end

