-- ==== Sys2Proof/Laws/KeptPredict.lean ====
section
/-! SUPPORT. What the operations of Machine.Predict keep. -/

set_option linter.unusedTactic false
set_option linter.unreachableTactic false
set_option linter.unusedSimpArgs false

namespace Sys2Proof.Machine

variable {o s : State}

theorem measureSpeed_kept {p speed : Nat} (h : Kept o s) : Kept o (measureSpeed p speed s) := by
  unfold measureSpeed
  repeat' first
    | with_reducible assumption
    | (intro x; first | (refine kept_cut (P := Kept o x) ?_ ?_; rotate_left; dsimp only [x]; rotate_left; intro hx; clear_value x) | skip)
    | lift_lets
    | (simp only [kept_cons]; with_reducible apply kept_mk <;> first | with_reducible assumption | rfl | exact Kept.bytes (by assumption) | skip)
    | with_reducible first
                     | apply kept_ite | apply onRegion_kept
    | split

theorem updateBoard_kept {p : Nat} (h : Kept o s) : Kept o (updateBoard p s) := by
  unfold updateBoard
  exact kept_ite h (onTile_kept (mapTiles_kept h (fun _ => rfl)) (fun _ ht => ht))

end Sys2Proof.Machine
end

