-- ==== Sys2Proof/Laws/KeptFill.lean ====
section
/-! SUPPORT. What the operations of Machine.Fill keep. -/

set_option linter.unusedTactic false
set_option linter.unreachableTactic false
set_option linter.unusedSimpArgs false

namespace Sys2Proof.Machine

variable {o s : State}

theorem touchAll_kept {ls : List Nat} (h : Kept o s) : Kept o (touchAll ls s) := by
  unfold touchAll
  repeat' first
    | with_reducible assumption
    | (intro x; first | (refine kept_cut (P := Kept o x) ?_ ?_; rotate_left; dsimp only [x]; rotate_left; intro hx; clear_value x) | skip)
    | lift_lets
    | (simp only [kept_cons]; with_reducible apply kept_mk <;> first | with_reducible assumption | rfl | exact Kept.bytes (by assumption) | skip)
    | with_reducible first
                     | apply kept_ite | apply touch_kept
    | (with_reducible apply each_kept; intro _ _ _; beta_reduce)
    | split

theorem writeLine_wf {line : Nat} {data : List Byte} {pad : Memory} (h : Memory.wf pad = true) : Memory.wf (writeLine line data pad) = true :=
  Memory.writeBytes_wf _ _ h

theorem writeScaleCell_wf {b n k : Nat} {v : Word16} {pad : Memory} (h : Memory.wf pad = true) :
    Memory.wf (writeScaleCell b n k v pad) = true := Memory.writeBytes_wf _ _ h

theorem setRun_pad (t : Tile) (b : Bool) (r : Option TaskRun) : (t.setRun b r).pad = t.pad := by unfold Tile.setRun; split <;> rfl

theorem onRing_pad (t : Tile) (q : Nat) (f : Ring → Ring) : (t.onRing q f).pad = t.pad := rfl

theorem issueFills_wf (es : List Entry) (g : Nat) : ∀ (n : Nat) {pad : Memory} {r : TaskRun}, Memory.wf pad = true →
    Memory.wf (issueFills es g n pad r).1 = true := by
  intro n
  induction n with
  | zero => intro pad r h; exact h
  | succ n ih =>
    intro pad r h
    unfold issueFills
    split
    · exact h
    · split
      · exact h
      · dsimp only
        split
        · exact ih (Memory.clear_wf _ _ h)
        · exact h

theorem translate_pad (s : State) (l : Nat) (t : Tile) : (s.translate l t).pad = t.pad := by
  unfold State.translate; split <;> rfl

theorem translates_pad (s : State) (ls : List Nat) : ∀ t : Tile, (each s.translate ls t).pad = t.pad := by
  induction ls with
  | nil => intro t; rfl
  | cons l ls ih => intro t; exact (ih _).trans (translate_pad s l t)

theorem pump_kept {p : Nat} {second : Bool} (h : Kept o s) : Kept o (pump p second s) := by
  unfold pump
  dsimp only
  split
  · exact h
  · refine touchAll_kept (setTile_kept h ?_)
    rw [setRun_pad, translates_pad]
    exact issueFills_wf _ _ _ (h.pad p)

theorem offerReads_kept (h : Kept o s) : Kept o (offerReads s) := by
  unfold offerReads
  repeat' first
    | with_reducible assumption
    | (intro x; first | (refine kept_cut (P := Kept o x) ?_ ?_; rotate_left; dsimp only [x]; rotate_left; intro hx; clear_value x) | skip)
    | lift_lets
    | (simp only [kept_cons]; with_reducible apply kept_mk <;> first | with_reducible assumption | rfl | exact Kept.bytes (by assumption) | skip)
    | with_reducible first
                     | apply kept_ite
    | (with_reducible apply each_kept; intro _ _ _; beta_reduce)
    | split

theorem startRun_kept {p task : Nat} {second ahead : Bool} (h : Kept o s) : Kept o (startRun p task second ahead s) := by
  refine pump_kept (setTile_kept h ?_)
  rw [setRun_pad]
  exact h.pad p

theorem adopt_kept {p : Nat} {r : TaskRun} (h : Kept o s) : Kept o (adopt p r s) := by
  unfold adopt
  dsimp only
  split
  · exact report_kept (onTile_kept h (fun _ ht => ht))
  · exact onTile_kept h (fun _ ht => ht)

theorem fillArrives_kept {p : Nat} {second : Bool} {r : TaskRun} {e : Entry} {fl : FillLine} {loaf j : Nat} {data : List Byte} (h : Kept o s) : Kept o (fillArrives p second r e fl loaf j data s) := by
  refine pump_kept (onTile_kept h (fun t ht => ?_))
  rw [setRun_pad]
  dsimp only
  split
  · exact writeScaleCell_wf (writeLine_wf ht)
  · exact writeLine_wf ht

theorem fillFails_kept {p : Nat} {second : Bool} {r : TaskRun} {entry : Nat} (h : Kept o s) : Kept o (fillFails p second r entry s) := by
  unfold fillFails
  split
  · exact onTile_kept h (fun t ht => by rw [setRun_pad]; exact ht)
  · exact h

theorem fillReply_kept {good : Bool} {x : SliceReq} {loaf : Nat} (h : Kept o s) : Kept o (fillReply good x loaf s) := by
  unfold fillReply
  repeat' first
    | with_reducible assumption
    | (intro x; first | (refine kept_cut (P := Kept o x) ?_ ?_; rotate_left; dsimp only [x]; rotate_left; intro hx; clear_value x) | skip)
    | lift_lets
    | (simp only [kept_cons]; with_reducible apply kept_mk <;> first | with_reducible assumption | rfl | exact Kept.bytes (by assumption) | skip)
    | with_reducible first
                     | apply kept_ite | apply fillArrives_kept | apply fillFails_kept
    | (with_reducible apply each_kept; intro _ _ _; beta_reduce)
    | split

theorem queues_kept {q : List (Nat × List SliceReq)} (h : Kept o s) : Kept o { s with mem := { s.mem with sliceQueues := q } } :=
  kept_cons.mpr (kept_mk h h.bytes rfl rfl rfl rfl rfl rfl rfl rfl rfl rfl rfl)

theorem fillReturns_kept {p : Nat} {r : TaskRun} {fl : FillLine} {loaf j : Nat} {outcome : ReadOutcome} (h : Kept o s) : Kept o (fillReturns p r fl loaf j outcome s) := by
  unfold fillReturns
  dsimp only
  split
  · split
    · exact h
    · exact offerReads_kept (each_kept _ (fun _ _ h => fillReply_kept h) (queues_kept (readVersion_kept (Reader.tile_keeps _ _ _ _) h)))
  · exact offerReads_kept (fillReply_kept (readVersion_kept (Reader.tile_keeps _ _ _ _) (grant_kept h)))

theorem dropAhead_kept {p : Nat} (h : Kept o s) : Kept o (dropAhead p s) := by
  refine onTile_kept h (fun t ht => ?_)
  repeat' first | exact ht | split

theorem revalidateAll_kept {fresh : List Nat} (h : Kept o s) : Kept o (revalidateAll fresh s) := by
  exact each_kept _ (fun _ _ h => onTile_kept h (fun _ ht => ht)) h

end Sys2Proof.Machine
end

