-- ==== Sys2Proof/Laws/KeptDrain.lean ====
section
/-! SUPPORT. What the operations of Machine.Drain keep. -/

set_option linter.unusedTactic false
set_option linter.unreachableTactic false
set_option linter.unusedSimpArgs false

namespace Sys2Proof.Machine

variable {o s : State}

theorem drainLine_kept {d : DrainAt} {loaf line : Nat} {data : List Byte} (h : Kept o s) : Kept o (drainLine d loaf line data s) := by
  unfold drainLine
  repeat' first
    | with_reducible assumption
    | (intro x; first | (refine kept_cut (P := Kept o x) ?_ ?_; rotate_left; dsimp only [x]; rotate_left; intro hx; clear_value x) | skip)
    | lift_lets
    | (simp only [kept_cons]; with_reducible apply kept_mk <;> first | with_reducible assumption | rfl | exact Kept.bytes (by assumption) | skip)
    | with_reducible first
                     | apply kept_ite | apply report_kept | apply writePending_kept
    | split

theorem drainByte_kept {d : DrainAt} {loaf byte : Nat} {v : Byte} (h : Kept o s) : Kept o (drainByte d loaf byte v s) := by
  unfold drainByte
  repeat' first
    | with_reducible assumption
    | (intro x; first | (refine kept_cut (P := Kept o x) ?_ ?_; rotate_left; dsimp only [x]; rotate_left; intro hx; clear_value x) | skip)
    | lift_lets
    | (simp only [kept_cons]; with_reducible apply kept_mk <;> first | with_reducible assumption | rfl | exact Kept.bytes (by assumption) | skip)
    | with_reducible first
                     | apply kept_ite | apply writePendingByte_kept | apply drainLine_kept
    | split

theorem drainLines_kept {loaf : Nat} (xs : List (List Byte)) : ∀ {d : DrainAt} {line : Nat} {s : State}, Kept o s →
    Kept o (drainLines d loaf line xs s) := by
  induction xs with
  | nil => intro d line s h; exact h
  | cons x xs ih => intro d line s h; exact ih (drainLine_kept h)

theorem drainPlain_kept {d : DrainAt} {r : TaskRun} {e : Entry} {pad : Memory} (h : Kept o s) : Kept o (drainPlain d r e pad s) := by
  unfold drainPlain
  repeat' first
    | with_reducible assumption
    | (intro x; first | (refine kept_cut (P := Kept o x) ?_ ?_; rotate_left; dsimp only [x]; rotate_left; intro hx; clear_value x) | skip)
    | lift_lets
    | (simp only [kept_cons]; with_reducible apply kept_mk <;> first | with_reducible assumption | rfl | exact Kept.bytes (by assumption) | skip)
    | with_reducible first
                     | apply kept_ite | apply drainLine_kept
    | (with_reducible apply each_kept; intro _ _ _; beta_reduce)
    | split

theorem trayConditions_kept {d : DrainAt} {tensor pos : Nat} {flow : Bool} {x : TrayResult} (h : Kept o s) : Kept o (trayConditions d tensor pos flow x s) := by
  unfold trayConditions
  repeat' first
    | with_reducible assumption
    | (intro x; first | (refine kept_cut (P := Kept o x) ?_ ?_; rotate_left; dsimp only [x]; rotate_left; intro hx; clear_value x) | skip)
    | lift_lets
    | (simp only [kept_cons]; with_reducible apply kept_mk <;> first | with_reducible assumption | rfl | exact Kept.bytes (by assumption) | skip)
    | with_reducible first
                     | apply kept_ite | apply onJob_kept | apply report_kept | apply addCounts_kept
    | split

theorem drainTray_kept {d : DrainAt} {r : TaskRun} {e : Entry} {pad : Memory} {seed : Nat} {i : Nat} (h : Kept o s) : Kept o (drainTray d r e pad seed i s) := by
  unfold drainTray
  repeat' first
    | with_reducible assumption
    | (intro x; first | (refine kept_cut (P := Kept o x) ?_ ?_; rotate_left; dsimp only [x]; rotate_left; intro hx; clear_value x) | skip)
    | lift_lets
    | with_reducible apply drainLines_kept
    | (simp only [kept_cons]; with_reducible apply kept_mk <;> first | with_reducible assumption | rfl | exact Kept.bytes (by assumption) | skip)
    | with_reducible first
                     | apply kept_ite | apply setScale_kept | apply trayConditions_kept
    | split

theorem drainMxLine_kept {d : DrainAt} {r : TaskRun} {e : Entry} {pad : Memory} {seed : Nat} {i : Nat} (h : Kept o s) : Kept o (drainMxLine d r e pad seed i s) := by
  unfold drainMxLine
  repeat' first
    | with_reducible assumption
    | (intro x; first | (refine kept_cut (P := Kept o x) ?_ ?_; rotate_left; dsimp only [x]; rotate_left; intro hx; clear_value x) | skip)
    | lift_lets
    | (simp only [kept_cons]; with_reducible apply kept_mk <;> first | with_reducible assumption | rfl | exact Kept.bytes (by assumption) | skip)
    | with_reducible first
                     | apply kept_ite | apply addCounts_kept | apply drainLine_kept | apply drainByte_kept
    | (with_reducible apply each_kept; intro _ _ _; beta_reduce)
    | split

theorem drainEntry_kept {p : Nat} {r : TaskRun} {pad : Memory} {seed : Nat} {x : Entry × Nat} (h : Kept o s) : Kept o (drainEntry p r pad seed x s) := by
  unfold drainEntry
  repeat' first
    | with_reducible assumption
    | (intro x; first | (refine kept_cut (P := Kept o x) ?_ ?_; rotate_left; dsimp only [x]; rotate_left; intro hx; clear_value x) | skip)
    | lift_lets
    | (simp only [kept_cons]; with_reducible apply kept_mk <;> first | with_reducible assumption | rfl | exact Kept.bytes (by assumption) | skip)
    | with_reducible first
                     | apply kept_ite | apply touchAll_kept | apply drainPlain_kept | apply drainTray_kept
                     | apply drainMxLine_kept
    | (with_reducible apply each_kept; intro _ _ _; beta_reduce)
    | split

theorem mergeReads_kept {p task : Nat} {outcomes : List (Nat × ReadOutcome)} {loaves : List Nat} (h : Kept o s) : Kept o (mergeReads p task outcomes loaves s) := by
  unfold mergeReads
  repeat' first
    | with_reducible assumption
    | (intro x; first | (refine kept_cut (P := Kept o x) ?_ ?_; rotate_left; dsimp only [x]; rotate_left; intro hx; clear_value x) | skip)
    | lift_lets
    | with_reducible apply readChecked_kept
    | (simp only [kept_cons]; with_reducible apply kept_mk <;> first | with_reducible assumption | rfl | exact Kept.bytes (by assumption) | skip)
    | with_reducible first
                     | apply kept_ite
    | (with_reducible apply each_kept; intro _ _ _; beta_reduce)
    | split

theorem runDrain_kept {p : Nat} {r : TaskRun} {outcomes : List (Nat × ReadOutcome)} (h : Kept o s) : Kept o (runDrain p r outcomes s) := by
  unfold runDrain
  repeat' first
    | with_reducible assumption
    | (intro x; first | (refine kept_cut (P := Kept o x) ?_ ?_; rotate_left; dsimp only [x]; rotate_left; intro hx; clear_value x) | skip)
    | lift_lets
    | (simp only [kept_cons]; with_reducible apply kept_mk <;> first | with_reducible assumption | rfl | exact Kept.bytes (by assumption) | skip)
    | with_reducible first
                     | apply kept_ite | apply report_kept | apply drainEntry_kept | apply mergeReads_kept
    | (with_reducible apply each_kept; intro _ _ _; beta_reduce)
    | split

theorem abandonWeave_kept {p : Nat} (h : Kept o s) : Kept o (abandonWeave p s) := by
  exact onTile_kept h (fun _ ht => ht)

theorem deviates_kept {p : Nat} {r : TaskRun} {measured : Nat} (h : Kept o s) : Kept o (deviates p r measured s) := by
  unfold deviates
  repeat' first
    | with_reducible assumption
    | (intro x; first | (refine kept_cut (P := Kept o x) ?_ ?_; rotate_left; dsimp only [x]; rotate_left; intro hx; clear_value x) | skip)
    | lift_lets
    | (simp only [kept_cons]; with_reducible apply kept_mk <;> first | with_reducible assumption | rfl | exact Kept.bytes (by assumption) | skip)
    | with_reducible first
                     | apply kept_ite | apply report_kept | apply abandonWeave_kept
    | split

theorem setHome_kept {p task : Nat} (h : Kept o s) : Kept o (setHome p task s) := by
  unfold setHome
  repeat' first
    | with_reducible assumption
    | (intro x; first | (refine kept_cut (P := Kept o x) ?_ ?_; rotate_left; dsimp only [x]; rotate_left; intro hx; clear_value x) | skip)
    | lift_lets
    | (simp only [kept_cons]; with_reducible apply kept_mk <;> first | with_reducible assumption | rfl | exact Kept.bytes (by assumption) | skip)
    | with_reducible first
                     | apply kept_ite | apply onJob_kept
    | split

end Sys2Proof.Machine
end

