-- ==== Sys2Proof/Laws/KeptRings.lean ====
section
/-! SUPPORT. What the operations of Machine.Rings keep. -/

set_option linter.unusedTactic false
set_option linter.unreachableTactic false
set_option linter.unusedSimpArgs false

namespace Sys2Proof.Machine

variable {o s : State}

theorem resetRings_kept {im : Image} (h : Kept o s) : Kept o (resetRings im s) := by
  unfold resetRings
  repeat' first
    | with_reducible assumption
    | (intro x; first | (refine kept_cut (P := Kept o x) ?_ ?_; rotate_left; dsimp only [x]; rotate_left; intro hx; clear_value x) | skip)
    | lift_lets
    | (simp only [kept_cons]; with_reducible apply kept_mk <;> first | with_reducible assumption | rfl | exact Kept.bytes (by assumption) | skip)
    | with_reducible first
                     | apply kept_ite | apply onTile_kept
    | (with_reducible apply each_kept; intro _ _ _; beta_reduce)
    | assumption
    | exact Kept.pad (by assumption) _
    | split

theorem lose_kept {sender : Nat} {at_ : Option (Nat × Nat)} (h : Kept o s) : Kept o (lose sender at_ s) := by
  unfold lose
  repeat' first
    | with_reducible assumption
    | (intro x; first | (refine kept_cut (P := Kept o x) ?_ ?_; rotate_left; dsimp only [x]; rotate_left; intro hx; clear_value x) | skip)
    | lift_lets
    | (simp only [kept_cons]; with_reducible apply kept_mk <;> first | with_reducible assumption | rfl | exact Kept.bytes (by assumption) | skip)
    | with_reducible first
                     | apply kept_ite | apply onTile_kept
    | assumption
    | exact Kept.pad (by assumption) _
    | split

theorem refuse_kept {sender receiver : Nat} {q : Nat} (h : Kept o s) : Kept o (refuse sender receiver q s) := by
  unfold refuse
  repeat' first
    | with_reducible assumption
    | (intro x; first | (refine kept_cut (P := Kept o x) ?_ ?_; rotate_left; dsimp only [x]; rotate_left; intro hx; clear_value x) | skip)
    | lift_lets
    | (simp only [kept_cons]; with_reducible apply kept_mk <;> first | with_reducible assumption | rfl | exact Kept.bytes (by assumption) | skip)
    | with_reducible first
                     | apply kept_ite | apply onTile_kept | apply lose_kept
    | assumption
    | exact Kept.pad (by assumption) _
    | split

theorem putMessage_wf {r : Ring} {off : Nat} {m : Message} {d : List Byte} {src gang : Nat} {pad : Memory} (h : Memory.wf pad = true) :
    Memory.wf (putMessage r off m d src gang pad) = true := by
  unfold putMessage
  refine Memory.writeBytes_wf _ _ (Memory.writeBytes_wf _ _ ?_)
  split
  · exact Memory.writeBytes_wf _ _ h
  · exact h

theorem land_pad (off : Nat) (m : Message) (d : List Byte) (task gang sender : Nat) (t : Tile) :
    (t.land off m d task gang sender).pad = putMessage (t.ring m.queue) off m d task gang t.pad := by
  unfold Tile.land
  rw [onRing_pad]

theorem deliver_kept {damage : Option (List Byte)} {sender receiver : Nat} (h : Kept o s) : Kept o (deliver damage sender receiver s) := by
  unfold deliver
  split
  · exact h
  · split
    · exact h
    · split
      · exact onTile_kept h (fun _ ht => ht)
      · dsimp only
        split
        · exact refuse_kept h
        · exact onTile_kept (setTile_kept h (by rw [land_pad]; exact putMessage_wf (h.pad receiver))) (fun _ ht => ht)

theorem reportWait_kept {p : Nat} (h : Kept o s) : Kept o (reportWait p s) := by
  refine onTile_kept h (fun t ht => ?_)
  repeat' first | exact ht | split

theorem serveRing_kept {again : Option Nat} {receiver : Nat} {upset : Bool} (h : Kept o s) : Kept o (serveRing again receiver upset s) := by
  unfold serveRing
  split
  · exact h
  · dsimp only
    split
    · exact h
    · refine reportWait_kept (deliver_kept ?_)
      split
      · exact report_kept (counter_kept (each_kept _ (fun _ _ h => lose_kept h) (onTile_kept h (fun _ ht => ht))))
      · exact each_kept _ (fun _ _ h => lose_kept h) (onTile_kept h (fun _ ht => ht))

end Sys2Proof.Machine
end

