-- ==== Sys2Proof/Laws/KeptTask.lean ====
section
/-! SUPPORT. What the operations of Machine.Task keep. -/

set_option linter.unusedTactic false
set_option linter.unreachableTactic false
set_option linter.unusedSimpArgs false

namespace Sys2Proof.Machine

variable {o s : State}

theorem configReadError_kept {p : Nat} (h : Kept o s) : Kept o (configReadError p s) := by
  exact report_kept (fresh_kept h)

theorem pathReport_kept {x : Raise} (h : Kept o s) : Kept o (pathReport x s) := by
  unfold pathReport
  repeat' first
    | with_reducible assumption
    | (intro x; first | (refine kept_cut (P := Kept o x) ?_ ?_; rotate_left; dsimp only [x]; rotate_left; intro hx; clear_value x) | skip)
    | lift_lets
    | (simp only [kept_cons]; with_reducible apply kept_mk <;> first | with_reducible assumption | rfl | exact Kept.bytes (by assumption) | skip)
    | with_reducible first
                     | apply kept_ite | apply raise_kept
    | split

theorem raiseCycle_kept {c : List WaitEdge} (h : Kept o s) : Kept o (raiseCycle c s) := by
  unfold raiseCycle
  repeat' first
    | with_reducible assumption
    | (intro x; first | (refine kept_cut (P := Kept o x) ?_ ?_; rotate_left; dsimp only [x]; rotate_left; intro hx; clear_value x) | skip)
    | lift_lets
    | (simp only [kept_cons]; with_reducible apply kept_mk <;> first | with_reducible assumption | rfl | exact Kept.bytes (by assumption) | skip)
    | with_reducible first
                     | apply kept_ite | apply setSticky_kept | apply raise_kept
    | (with_reducible apply each_kept; intro _ _ _; beta_reduce)
    | split

end Sys2Proof.Machine
end

