-- ==== Sys2Proof/Laws/KeptAdmission.lean ====
section
/-! SUPPORT. What the operations of Machine.Admission keep. -/

set_option linter.unusedTactic false
set_option linter.unreachableTactic false
set_option linter.unusedSimpArgs false

namespace Sys2Proof.Machine

variable {o s : State}

theorem requestSteal_kept {p : Nat} (h : Kept o s) : Kept o (requestSteal p s) := by
  unfold requestSteal
  repeat' first
    | with_reducible assumption
    | (intro x; first | (refine kept_cut (P := Kept o x) ?_ ?_; rotate_left; dsimp only [x]; rotate_left; intro hx; clear_value x) | skip)
    | lift_lets
    | (simp only [kept_cons]; with_reducible apply kept_mk <;> first | with_reducible assumption | rfl | exact Kept.bytes (by assumption) | skip)
    | with_reducible first
                     | apply kept_ite | apply setTile_kept
    | assumption
    | exact Kept.pad (by assumption) _
    | split

end Sys2Proof.Machine
end

