-- ==== Sys2Proof/Laws/KeptClock.lean ====
section
/-! SUPPORT. What the operations of Machine.Clock keep. -/

set_option linter.unusedTactic false
set_option linter.unreachableTactic false
set_option linter.unusedSimpArgs false

namespace Sys2Proof.Machine

variable {o s : State}

theorem addDefect_kept {kind origin : Nat} {c : Cond} {location : Nat} (h : Kept o s) : Kept o (addDefect kind origin c location s) := by
  unfold addDefect
  repeat' first
    | with_reducible assumption
    | (intro x; first | (refine kept_cut (P := Kept o x) ?_ ?_; rotate_left; dsimp only [x]; rotate_left; intro hx; clear_value x) | skip)
    | lift_lets
    | (simp only [kept_cons]; with_reducible apply kept_mk <;> first | with_reducible assumption | rfl | exact Kept.bytes (by assumption) | skip)
    | with_reducible first
                     | apply kept_ite
    | split

theorem excludeSensor_kept {p : Nat} (h : Kept o s) : Kept o (excludeSensor p s) := by
  unfold excludeSensor
  repeat' first
    | with_reducible assumption
    | (intro x; first | (refine kept_cut (P := Kept o x) ?_ ?_; rotate_left; dsimp only [x]; rotate_left; intro hx; clear_value x) | skip)
    | lift_lets
    | (simp only [kept_cons]; with_reducible apply kept_mk <;> first | with_reducible assumption | rfl | exact Kept.bytes (by assumption) | skip)
    | with_reducible first
                     | apply kept_ite | apply onRegion_kept | apply raise_kept | apply addDefect_kept
    | (with_reducible apply each_kept; intro _ _ _; beta_reduce)
    | assumption
    | exact Kept.pad (by assumption) _
    | split

theorem checkTileSensor_kept {p : Nat} (h : Kept o s) : Kept o (checkTileSensor p s) := by
  unfold checkTileSensor
  repeat' first
    | with_reducible assumption
    | (intro x; first | (refine kept_cut (P := Kept o x) ?_ ?_; rotate_left; dsimp only [x]; rotate_left; intro hx; clear_value x) | skip)
    | lift_lets
    | (simp only [kept_cons]; with_reducible apply kept_mk <;> first | with_reducible assumption | rfl | exact Kept.bytes (by assumption) | skip)
    | with_reducible first
                     | apply kept_ite | apply excludeSensor_kept
    | split

theorem checkOther_kept {x : Sensor} {old : Option Int} {v : Int} (h : Kept o s) : Kept o (checkOther x old v s) := by
  unfold checkOther
  repeat' first
    | with_reducible assumption
    | (intro x; first | (refine kept_cut (P := Kept o x) ?_ ?_; rotate_left; dsimp only [x]; rotate_left; intro hx; clear_value x) | skip)
    | lift_lets
    | (simp only [kept_cons]; with_reducible apply kept_mk <;> first | with_reducible assumption | rfl | exact Kept.bytes (by assumption) | skip)
    | with_reducible first
                     | apply kept_ite | apply raise_kept
    | split

theorem checkRegion_kept {old : Nat → Option Int} {g : Nat} (h : Kept o s) : Kept o (checkRegion old g s) := by
  unfold checkRegion
  repeat' first
    | with_reducible assumption
    | (intro x; first | (refine kept_cut (P := Kept o x) ?_ ?_; rotate_left; dsimp only [x]; rotate_left; intro hx; clear_value x) | skip)
    | lift_lets
    | (simp only [kept_cons]; with_reducible apply kept_mk <;> first | with_reducible assumption | rfl | exact Kept.bytes (by assumption) | skip)
    | with_reducible first
                     | apply kept_ite | apply onRegion_kept | apply raise_kept
    | split

theorem readSensors_kept {readings : List (Sensor × Int)} (h : Kept o s) : Kept o (readSensors readings s) := by
  unfold readSensors
  repeat' first
    | with_reducible assumption
    | (intro x; first | (refine kept_cut (P := Kept o x) ?_ ?_; rotate_left; dsimp only [x]; rotate_left; intro hx; clear_value x) | skip)
    | lift_lets
    | (simp only [kept_cons]; with_reducible apply kept_mk <;> first | with_reducible assumption | rfl | exact Kept.bytes (by assumption) | skip)
    | with_reducible first
                     | apply kept_ite | apply checkTileSensor_kept | apply checkOther_kept | apply checkRegion_kept
    | (with_reducible apply each_kept; intro _ _ _; beta_reduce)
    | split

theorem closeRegion_kept {us : Nat} {cycles : List (Nat × Nat)} {g : Nat} (h : Kept o s) : Kept o (closeRegion us cycles g s) := by
  unfold closeRegion
  repeat' first
    | with_reducible assumption
    | (intro x; first | (refine kept_cut (P := Kept o x) ?_ ?_; rotate_left; dsimp only [x]; rotate_left; intro hx; clear_value x) | skip)
    | lift_lets
    | (simp only [kept_cons]; with_reducible apply kept_mk <;> first | with_reducible assumption | rfl | exact Kept.bytes (by assumption) | skip)
    | with_reducible first
                     | apply kept_ite | apply onRegion_kept | apply raise_kept
    | split

theorem closeClocks_kept {us : Nat} {m : SlotMeasure} (h : Kept o s) : Kept o (closeClocks us m s) := by
  unfold closeClocks
  repeat' first
    | with_reducible assumption
    | (intro x; first | (refine kept_cut (P := Kept o x) ?_ ?_; rotate_left; dsimp only [x]; rotate_left; intro hx; clear_value x) | skip)
    | lift_lets
    | (simp only [kept_cons]; with_reducible apply kept_mk <;> first | with_reducible assumption | rfl | exact Kept.bytes (by assumption) | skip)
    | with_reducible first
                     | apply kept_ite | apply closeRegion_kept
    | (with_reducible apply each_kept; intro _ _ _; beta_reduce)
    | split

theorem switchState_kept (h : Kept o s) : Kept o (switchState s) := by
  unfold switchState
  repeat' first
    | with_reducible assumption
    | (intro x; first | (refine kept_cut (P := Kept o x) ?_ ?_; rotate_left; dsimp only [x]; rotate_left; intro hx; clear_value x) | skip)
    | lift_lets
    | (simp only [kept_cons]; with_reducible apply kept_mk <;> first | with_reducible assumption | rfl | exact Kept.bytes (by assumption) | skip)
    | with_reducible first
                     | apply kept_ite
    | split

theorem chooseState_kept {f0 : Nat} (h : Kept o s) : Kept o (chooseState f0 s) := by
  unfold chooseState
  repeat' first
    | with_reducible assumption
    | (intro x; first | (refine kept_cut (P := Kept o x) ?_ ?_; rotate_left; dsimp only [x]; rotate_left; intro hx; clear_value x) | skip)
    | lift_lets
    | (simp only [kept_cons]; with_reducible apply kept_mk <;> first | with_reducible assumption | rfl | exact Kept.bytes (by assumption) | skip)
    | with_reducible first
                     | apply kept_ite | apply raise_kept
    | split

end Sys2Proof.Machine
end

