-- ==== Sys2Proof/Laws/KeptFlits.lean ====
section
/-! SUPPORT. What the operations of Machine.Flits keep. -/

set_option linter.unusedTactic false
set_option linter.unreachableTactic false
set_option linter.unusedSimpArgs false

namespace Sys2Proof.Machine

variable {o s : State}

theorem pumpPort_kept {port : Nat} (h : Kept o s) : Kept o (pumpPort port s) := by
  unfold pumpPort
  repeat' first
    | with_reducible assumption
    | (intro x; first | (refine kept_cut (P := Kept o x) ?_ ?_; rotate_left; dsimp only [x]; rotate_left; intro hx; clear_value x) | skip)
    | lift_lets
    | (simp only [kept_cons]; with_reducible apply kept_mk <;> first | with_reducible assumption | rfl | exact Kept.bytes (by assumption) | skip)
    | with_reducible first
                     | apply kept_ite | apply onPort_kept
    | split

theorem sendAs_kept {requester port : Nat} {p : Packet} (h : Kept o s) : Kept o (sendAs requester port p s) := by
  unfold sendAs
  repeat' first
    | with_reducible assumption
    | (intro x; first | (refine kept_cut (P := Kept o x) ?_ ?_; rotate_left; dsimp only [x]; rotate_left; intro hx; clear_value x) | skip)
    | lift_lets
    | (simp only [kept_cons]; with_reducible apply kept_mk <;> first | with_reducible assumption | rfl | exact Kept.bytes (by assumption) | skip)
    | with_reducible first
                     | apply kept_ite | apply onPort_kept | apply pumpPort_kept
    | split

theorem sendOn_kept {port : Nat} {p : Packet} (h : Kept o s) : Kept o (sendOn port p s) := by
  unfold sendOn
  repeat' first
    | with_reducible assumption
    | (intro x; first | (refine kept_cut (P := Kept o x) ?_ ?_; rotate_left; dsimp only [x]; rotate_left; intro hx; clear_value x) | skip)
    | lift_lets
    | (simp only [kept_cons]; with_reducible apply kept_mk <;> first | with_reducible assumption | rfl | exact Kept.bytes (by assumption) | skip)
    | with_reducible first
                     | apply kept_ite | apply sendAs_kept
    | split

end Sys2Proof.Machine
end

