-- ==== Sys2Proof/Laws/KeptReserve.lean ====
section
/-! SUPPORT. What the operations of Machine.Reserve keep. -/

set_option linter.unusedTactic false
set_option linter.unreachableTactic false
set_option linter.unusedSimpArgs false

namespace Sys2Proof.Machine

variable {o s : State}

theorem checkReserveLow_kept (h : Kept o s) : Kept o (checkReserveLow s) := by
  unfold checkReserveLow
  repeat' first
    | with_reducible assumption
    | (intro x; first | (refine kept_cut (P := Kept o x) ?_ ?_; rotate_left; dsimp only [x]; rotate_left; intro hx; clear_value x) | skip)
    | lift_lets
    | (simp only [kept_cons]; with_reducible apply kept_mk <;> first | with_reducible assumption | rfl | exact Kept.bytes (by assumption) | skip)
    | with_reducible first
                     | apply kept_ite | apply raise_kept
    | split

theorem setReserve_kept {p : Nat} {st : ReserveState} (h : Kept o s) : Kept o (setReserve p st s) := by
  unfold setReserve
  repeat' first
    | with_reducible assumption
    | (intro x; first | (refine kept_cut (P := Kept o x) ?_ ?_; rotate_left; dsimp only [x]; rotate_left; intro hx; clear_value x) | skip)
    | lift_lets
    | (simp only [kept_cons]; with_reducible apply kept_mk <;> first | with_reducible assumption | rfl | exact Kept.bytes (by assumption) | skip)
    | with_reducible first
                     | apply kept_ite
    | split

theorem startMove_kept {kind : MoveKind} {l p q : Nat} (h : Kept o s) : Kept o (startMove kind l p q s) := by
  unfold startMove
  repeat' first
    | with_reducible assumption
    | (intro x; first | (refine kept_cut (P := Kept o x) ?_ ?_; rotate_left; dsimp only [x]; rotate_left; intro hx; clear_value x) | skip)
    | lift_lets
    | (simp only [kept_cons]; with_reducible apply kept_mk <;> first | with_reducible assumption | rfl | exact Kept.bytes (by assumption) | skip)
    | with_reducible first
                     | apply kept_ite
    | split

theorem exchange_kept {m : Move} (h : Kept o s) : Kept o (exchange m s) := by
  unfold exchange
  extract_lets st mp
  refine checkReserveLow_kept ?_
  simp only [kept_cons]
  refine kept_mk (s := { s with tiles := del m.source (del m.target s.tiles) }) (tiles_kept h (fun z hz => ?_)) h.bytes rfl rfl rfl rfl rfl rfl rfl rfl rfl rfl rfl
  exact h.pads' z (mem_del (mem_del hz))

theorem finishMoves_kept (h : Kept o s) : Kept o (finishMoves s) := by
  unfold finishMoves
  repeat' first
    | with_reducible assumption
    | (intro x; first | (refine kept_cut (P := Kept o x) ?_ ?_; rotate_left; dsimp only [x]; rotate_left; intro hx; clear_value x) | skip)
    | lift_lets
    | (simp only [kept_cons]; with_reducible apply kept_mk <;> first | with_reducible assumption | rfl | exact Kept.bytes (by assumption) | skip)
    | with_reducible first
                     | apply kept_ite | apply exchange_kept
    | (with_reducible apply each_kept; intro _ _ _; beta_reduce)
    | split

theorem settleMoves_kept (h : Kept o s) : Kept o (settleMoves s) := by
  unfold settleMoves
  repeat' first
    | with_reducible assumption
    | (intro x; first | (refine kept_cut (P := Kept o x) ?_ ?_; rotate_left; dsimp only [x]; rotate_left; intro hx; clear_value x) | skip)
    | lift_lets
    | (simp only [kept_cons]; with_reducible apply kept_mk <;> first | with_reducible assumption | rfl | exact Kept.bytes (by assumption) | skip)
    | with_reducible first
                     | apply kept_ite | apply exchange_kept
    | (with_reducible apply each_kept; intro _ _ _; beta_reduce)
    | split

theorem noteRetirement_kept {p : Nat} {c : Cond} (h : Kept o s) : Kept o (noteRetirement p c s) := by
  unfold noteRetirement
  repeat' first
    | with_reducible assumption
    | (intro x; first | (refine kept_cut (P := Kept o x) ?_ ?_; rotate_left; dsimp only [x]; rotate_left; intro hx; clear_value x) | skip)
    | lift_lets
    | (simp only [kept_cons]; with_reducible apply kept_mk <;> first | with_reducible assumption | rfl | exact Kept.bytes (by assumption) | skip)
    | with_reducible first
                     | apply kept_ite | apply addDefect_kept
    | split

theorem retireTile_kept {x : Nat × Cond} (h : Kept o s) : Kept o (retireTile x s) := by
  unfold retireTile
  repeat' first
    | with_reducible assumption
    | (intro x; first | (refine kept_cut (P := Kept o x) ?_ ?_; rotate_left; dsimp only [x]; rotate_left; intro hx; clear_value x) | skip)
    | lift_lets
    | (simp only [kept_cons]; with_reducible apply kept_mk <;> first | with_reducible assumption | rfl | exact Kept.bytes (by assumption) | skip)
    | with_reducible first
                     | apply kept_ite | apply raise_kept | apply checkReserveLow_kept | apply setReserve_kept
                     | apply startMove_kept | apply noteRetirement_kept
    | split

theorem retireAll_kept (h : Kept o s) : Kept o (retireAll s) := by
  unfold retireAll
  repeat' first
    | with_reducible assumption
    | (intro x; first | (refine kept_cut (P := Kept o x) ?_ ?_; rotate_left; dsimp only [x]; rotate_left; intro hx; clear_value x) | skip)
    | lift_lets
    | (simp only [kept_cons]; with_reducible apply kept_mk <;> first | with_reducible assumption | rfl | exact Kept.bytes (by assumption) | skip)
    | with_reducible first
                     | apply kept_ite | apply retireTile_kept
    | (with_reducible apply each_kept; intro _ _ _; beta_reduce)
    | split

theorem beginRotation_kept {retired : List Nat} (h : Kept o s) : Kept o (beginRotation retired s) := by
  unfold beginRotation
  repeat' first
    | with_reducible assumption
    | (intro x; first | (refine kept_cut (P := Kept o x) ?_ ?_; rotate_left; dsimp only [x]; rotate_left; intro hx; clear_value x) | skip)
    | lift_lets
    | (simp only [kept_cons]; with_reducible apply kept_mk <;> first | with_reducible assumption | rfl | exact Kept.bytes (by assumption) | skip)
    | with_reducible first
                     | apply kept_ite | apply raise_kept | apply startMove_kept
    | split

theorem failReserve_kept {p : Nat} (h : Kept o s) : Kept o (failReserve p s) := by
  unfold failReserve
  repeat' first
    | with_reducible assumption
    | (intro x; first | (refine kept_cut (P := Kept o x) ?_ ?_; rotate_left; dsimp only [x]; rotate_left; intro hx; clear_value x) | skip)
    | lift_lets
    | (simp only [kept_cons]; with_reducible apply kept_mk <;> first | with_reducible assumption | rfl | exact Kept.bytes (by assumption) | skip)
    | with_reducible first
                     | apply kept_ite | apply raise_kept | apply addDefect_kept | apply checkReserveLow_kept
                     | apply setReserve_kept
    | split

theorem sweepProgram_kept {p : Nat} (h : Kept o s) : Kept o (sweepProgram p s) := by
  unfold sweepProgram
  repeat' first
    | with_reducible assumption
    | (intro x; first | (refine kept_cut (P := Kept o x) ?_ ?_; rotate_left; dsimp only [x]; rotate_left; intro hx; clear_value x) | skip)
    | lift_lets
    | (simp only [kept_cons]; with_reducible apply kept_mk <;> first | with_reducible assumption | rfl | exact Kept.bytes (by assumption) | skip)
    | with_reducible first
                     | apply kept_ite
    | split

theorem unresolved_kept {p : Nat} (h : Kept o s) : Kept o (unresolved p s) := by
  unfold unresolved
  repeat' first
    | with_reducible assumption
    | (intro x; first | (refine kept_cut (P := Kept o x) ?_ ?_; rotate_left; dsimp only [x]; rotate_left; intro hx; clear_value x) | skip)
    | lift_lets
    | (simp only [kept_cons]; with_reducible apply kept_mk <;> first | with_reducible assumption | rfl | exact Kept.bytes (by assumption) | skip)
    | with_reducible first
                     | apply kept_ite | apply failReserve_kept
    | split

theorem comparePair_kept {c : Crumb} {a b : Nat × Word64} {reruns : List (Nat × Word64)} (h : Kept o s) : Kept o (comparePair c a b reruns s) := by
  unfold comparePair
  repeat' first
    | with_reducible assumption
    | (intro x; first | (refine kept_cut (P := Kept o x) ?_ ?_; rotate_left; dsimp only [x]; rotate_left; intro hx; clear_value x) | skip)
    | lift_lets
    | (simp only [kept_cons]; with_reducible apply kept_mk <;> first | with_reducible assumption | rfl | exact Kept.bytes (by assumption) | skip)
    | with_reducible first
                     | apply kept_ite | apply record_kept | apply raise_kept
    | (with_reducible apply each_kept; intro _ _ _; beta_reduce)
    | split

theorem crumbProgram_kept {p : Nat} (h : Kept o s) : Kept o (crumbProgram p s) := by
  unfold crumbProgram
  repeat' first
    | with_reducible assumption
    | (intro x; first | (refine kept_cut (P := Kept o x) ?_ ?_; rotate_left; dsimp only [x]; rotate_left; intro hx; clear_value x) | skip)
    | lift_lets
    | (simp only [kept_cons]; with_reducible apply kept_mk <;> first | with_reducible assumption | rfl | exact Kept.bytes (by assumption) | skip)
    | with_reducible first
                     | apply kept_ite
    | split

theorem endCrumb_kept (h : Kept o s) : Kept o (endCrumb s) := by
  unfold endCrumb
  repeat' first
    | with_reducible assumption
    | (intro x; first | (refine kept_cut (P := Kept o x) ?_ ?_; rotate_left; dsimp only [x]; rotate_left; intro hx; clear_value x) | skip)
    | lift_lets
    | (simp only [kept_cons]; with_reducible apply kept_mk <;> first | with_reducible assumption | rfl | exact Kept.bytes (by assumption) | skip)
    | with_reducible first
                     | apply kept_ite | apply respond_kept | apply dropCrumb_kept
    | split

end Sys2Proof.Machine
end

