-- ==== Sys2Proof/Laws/KeptRouting.lean ====
section
/-! SUPPORT. What the operations of Machine.Routing keep. -/

set_option linter.unusedTactic false
set_option linter.unreachableTactic false
set_option linter.unusedSimpArgs false

namespace Sys2Proof.Machine

variable {o s : State}

theorem forward_kept {inPort : Option Nat} {p : Packet} (h : Kept o s) : Kept o (forward inPort p s) := by
  unfold forward
  split
  · exact kept_cons.mpr (kept_mk h h.bytes rfl rfl rfl rfl rfl rfl rfl rfl rfl rfl rfl)
  · split
    · exact h
    · exact raise_kept (kept_cons.mpr (kept_mk h h.bytes rfl rfl rfl rfl rfl rfl rfl rfl rfl rfl rfl))
    · dsimp only
      split
      · exact kept_cons.mpr (kept_mk h h.bytes rfl rfl rfl rfl rfl rfl rfl rfl rfl rfl rfl)
      · exact sendAs_kept h

theorem inject_kept {p : Packet} (h : Kept o s) : Kept o (inject p s) := by
  unfold inject
  repeat' first
    | with_reducible assumption
    | (intro x; first | (refine kept_cut (P := Kept o x) ?_ ?_; rotate_left; dsimp only [x]; rotate_left; intro hx; clear_value x) | skip)
    | lift_lets
    | (simp only [kept_cons]; with_reducible apply kept_mk <;> first | with_reducible assumption | rfl | exact Kept.bytes (by assumption) | skip)
    | with_reducible first
                     | apply kept_ite | apply forward_kept
    | split

theorem adoptPorts_kept {pl : Plan} (h : Kept o s) : Kept o (adoptPorts pl s) := by
  unfold adoptPorts
  repeat' first
    | with_reducible assumption
    | (intro x; first | (refine kept_cut (P := Kept o x) ?_ ?_; rotate_left; dsimp only [x]; rotate_left; intro hx; clear_value x) | skip)
    | lift_lets
    | (simp only [kept_cons]; with_reducible apply kept_mk <;> first | with_reducible assumption | rfl | exact Kept.bytes (by assumption) | skip)
    | with_reducible first
                     | apply kept_ite
    | split

theorem recomputeRoutes_kept {pl : Plan} (h : Kept o s) : Kept o (recomputeRoutes pl s) := by
  unfold recomputeRoutes
  repeat' first
    | with_reducible assumption
    | (intro x; first | (refine kept_cut (P := Kept o x) ?_ ?_; rotate_left; dsimp only [x]; rotate_left; intro hx; clear_value x) | skip)
    | lift_lets
    | (simp only [kept_cons]; with_reducible apply kept_mk <;> first | with_reducible assumption | rfl | exact Kept.bytes (by assumption) | skip)
    | with_reducible first
                     | apply kept_ite | apply raise_kept | apply adoptPorts_kept
    | split

theorem insertSwap_kept {n : Swap} (h : Kept o s) : Kept o (insertSwap n s) := by
  unfold insertSwap
  extract_lets later moved src now
  have hl : ∀ x s, Kept o s → Kept o (later x s) := by
    intro x s h
    simp only [later]
    split <;> exact kept_cons.mpr (kept_mk h h.bytes rfl rfl rfl rfl rfl rfl rfl rfl rfl rfl rfl)
  have hn : ∀ x, Kept o (now x) := fun x => kept_cons.mpr (kept_mk h h.bytes rfl rfl rfl rfl rfl rfl rfl rfl rfl rfl rfl)
  clear_value later now
  repeat' first | exact hn _ | exact hl _ _ (hn _) | exact hl _ _ h | split

theorem handleFlood_kept {e : Flood} (h : Kept o s) : Kept o (handleFlood e s) := by
  unfold handleFlood
  repeat' first
    | with_reducible assumption
    | (intro x; first | (refine kept_cut (P := Kept o x) ?_ ?_; rotate_left; dsimp only [x]; rotate_left; intro hx; clear_value x) | skip)
    | lift_lets
    | (simp only [kept_cons]; with_reducible apply kept_mk <;> first | with_reducible assumption | rfl | exact Kept.bytes (by assumption) | skip)
    | with_reducible first
                     | apply kept_ite | apply raise_kept | apply recomputeRoutes_kept | apply insertSwap_kept
    | split

theorem emitFlood_kept {e : Flood} {except : Option Nat} (h : Kept o s) : Kept o (emitFlood e except s) := by
  unfold emitFlood
  repeat' first
    | with_reducible assumption
    | (intro x; first | (refine kept_cut (P := Kept o x) ?_ ?_; rotate_left; dsimp only [x]; rotate_left; intro hx; clear_value x) | skip)
    | lift_lets
    | (simp only [kept_cons]; with_reducible apply kept_mk <;> first | with_reducible assumption | rfl | exact Kept.bytes (by assumption) | skip)
    | with_reducible first
                     | apply kept_ite
    | split

theorem takeFlood_kept {e : Flood} {port : Option Nat} (h : Kept o s) : Kept o (takeFlood e port s) := by
  unfold takeFlood
  repeat' first
    | with_reducible assumption
    | (intro x; first | (refine kept_cut (P := Kept o x) ?_ ?_; rotate_left; dsimp only [x]; rotate_left; intro hx; clear_value x) | skip)
    | lift_lets
    | (simp only [kept_cons]; with_reducible apply kept_mk <;> first | with_reducible assumption | rfl | exact Kept.bytes (by assumption) | skip)
    | with_reducible first
                     | apply kept_ite | apply handleFlood_kept | apply emitFlood_kept
    | split

theorem bundleEvent_kept {port : Nat} {up : Bool} (h : Kept o s) : Kept o (bundleEvent port up s) := by
  unfold bundleEvent
  repeat' first
    | with_reducible assumption
    | (intro x; first | (refine kept_cut (P := Kept o x) ?_ ?_; rotate_left; dsimp only [x]; rotate_left; intro hx; clear_value x) | skip)
    | lift_lets
    | (simp only [kept_cons]; with_reducible apply kept_mk <;> first | with_reducible assumption | rfl | exact Kept.bytes (by assumption) | skip)
    | with_reducible first
                     | apply kept_ite | apply takeFlood_kept
    | split

theorem installCircuits_kept {pl : Plan} (h : Kept o s) : Kept o (installCircuits pl s) := by
  unfold installCircuits
  repeat' first
    | with_reducible assumption
    | (intro x; first | (refine kept_cut (P := Kept o x) ?_ ?_; rotate_left; dsimp only [x]; rotate_left; intro hx; clear_value x) | skip)
    | lift_lets
    | (simp only [kept_cons]; with_reducible apply kept_mk <;> first | with_reducible assumption | rfl | exact Kept.bytes (by assumption) | skip)
    | with_reducible first
                     | apply kept_ite | apply onPort_kept | apply raise_kept
    | (with_reducible apply each_kept; intro _ _ _; beta_reduce)
    | split

theorem sendCoords_kept {pl : Plan} (h : Kept o s) : Kept o (sendCoords pl s) := by
  unfold sendCoords
  repeat' first
    | with_reducible assumption
    | (intro x; first | (refine kept_cut (P := Kept o x) ?_ ?_; rotate_left; dsimp only [x]; rotate_left; intro hx; clear_value x) | skip)
    | lift_lets
    | (simp only [kept_cons]; with_reducible apply kept_mk <;> first | with_reducible assumption | rfl | exact Kept.bytes (by assumption) | skip)
    | with_reducible first
                     | apply kept_ite | apply sendOn_kept
    | (with_reducible apply each_kept; intro _ _ _; beta_reduce)
    | split

theorem formPlan_kept (h : Kept o s) : Kept o (formPlan s) := by
  unfold formPlan
  repeat' first
    | with_reducible assumption
    | (intro x; first | (refine kept_cut (P := Kept o x) ?_ ?_; rotate_left; dsimp only [x]; rotate_left; intro hx; clear_value x) | skip)
    | lift_lets
    | (simp only [kept_cons]; with_reducible apply kept_mk <;> first | with_reducible assumption | rfl | exact Kept.bytes (by assumption) | skip)
    | with_reducible first
                     | apply kept_ite | apply recomputeRoutes_kept
    | split

theorem adoptPlan_kept {pl : Plan} (h : Kept o s) : Kept o (adoptPlan pl s) := by
  unfold adoptPlan
  repeat' first
    | with_reducible assumption
    | (intro x; first | (refine kept_cut (P := Kept o x) ?_ ?_; rotate_left; dsimp only [x]; rotate_left; intro hx; clear_value x) | skip)
    | lift_lets
    | (simp only [kept_cons]; with_reducible apply kept_mk <;> first | with_reducible assumption | rfl | exact Kept.bytes (by assumption) | skip)
    | with_reducible first
                     | apply kept_ite | apply adoptPorts_kept
    | split

theorem floodUnusable_kept {pl : Plan} (h : Kept o s) : Kept o (floodUnusable pl s) := by
  unfold floodUnusable
  repeat' first
    | with_reducible assumption
    | (intro x; first | (refine kept_cut (P := Kept o x) ?_ ?_; rotate_left; dsimp only [x]; rotate_left; intro hx; clear_value x) | skip)
    | lift_lets
    | (simp only [kept_cons]; with_reducible apply kept_mk <;> first | with_reducible assumption | rfl | exact Kept.bytes (by assumption) | skip)
    | with_reducible first
                     | apply kept_ite | apply takeFlood_kept
    | (with_reducible apply each_kept; intro _ _ _; beta_reduce)
    | split

end Sys2Proof.Machine
end

