-- ==== Sys2Proof/Laws/KeptLink.lean ====
section
/-! SUPPORT. What the operations of Machine.Link keep. -/

set_option linter.unusedTactic false
set_option linter.unreachableTactic false
set_option linter.unusedSimpArgs false

namespace Sys2Proof.Machine

variable {o s : State}

theorem followParent_kept {offset : Int} (h : Kept o s) : Kept o (followParent offset s) := by
  unfold followParent
  repeat' first
    | with_reducible assumption
    | (intro x; first | (refine kept_cut (P := Kept o x) ?_ ?_; rotate_left; dsimp only [x]; rotate_left; intro hx; clear_value x) | skip)
    | lift_lets
    | (simp only [kept_cons]; with_reducible apply kept_mk <;> first | with_reducible assumption | rfl | exact Kept.bytes (by assumption) | skip)
    | with_reducible first
                     | apply kept_ite
    | split

theorem reparent_kept (h : Kept o s) : Kept o (reparent s) := by
  unfold reparent
  repeat' first
    | with_reducible assumption
    | (intro x; first | (refine kept_cut (P := Kept o x) ?_ ?_; rotate_left; dsimp only [x]; rotate_left; intro hx; clear_value x) | skip)
    | lift_lets
    | (simp only [kept_cons]; with_reducible apply kept_mk <;> first | with_reducible assumption | rfl | exact Kept.bytes (by assumption) | skip)
    | with_reducible first
                     | apply kept_ite | apply raise_kept | apply followParent_kept
    | split

theorem freshBytes_kept : ∀ (n : Nat) {s : State}, Kept o s → Kept o (freshBytes n s).2
  | 0, _, h => h
  | n + 1, _, h => freshBytes_kept n (fresh_kept h)

theorem sendHello_kept {port : Nat} {peerNonce : BitVec 128} (h : Kept o s) : Kept o (sendHello port peerNonce s) := by
  unfold sendHello
  exact sendOn_kept (freshBytes_kept 6 h)

theorem challengePeer_kept {port : Nat} (h : Kept o s) : Kept o (challengePeer port s) := by
  exact sendHello_kept (onPort_kept (fresh_kept h))

theorem sendChain_kept {port : Nat} (h : Kept o s) : Kept o (sendChain port s) := by
  unfold sendChain
  repeat' first
    | with_reducible assumption
    | (intro x; first | (refine kept_cut (P := Kept o x) ?_ ?_; rotate_left; dsimp only [x]; rotate_left; intro hx; clear_value x) | skip)
    | lift_lets
    | (simp only [kept_cons]; with_reducible apply kept_mk <;> first | with_reducible assumption | rfl | exact Kept.bytes (by assumption) | skip)
    | with_reducible first
                     | apply kept_ite | apply sendOn_kept
    | split

theorem portDown_kept {p : Nat} (h : Kept o s) : Kept o (portDown p s) := by
  unfold portDown
  repeat' first
    | with_reducible assumption
    | (intro x; first | (refine kept_cut (P := Kept o x) ?_ ?_; rotate_left; dsimp only [x]; rotate_left; intro hx; clear_value x) | skip)
    | lift_lets
    | (simp only [kept_cons]; with_reducible apply kept_mk <;> first | with_reducible assumption | rfl | exact Kept.bytes (by assumption) | skip)
    | with_reducible first
                     | apply kept_ite | apply onPort_kept | apply raise_kept | apply bundleEvent_kept | apply reparent_kept
    | split

theorem spareLane_kept {p dir : Nat} {m : BitVec 9} (h : Kept o s) : Kept o (spareLane p dir m s) := by
  unfold spareLane
  repeat' first
    | with_reducible assumption
    | (intro x; first | (refine kept_cut (P := Kept o x) ?_ ?_; rotate_left; dsimp only [x]; rotate_left; intro hx; clear_value x) | skip)
    | lift_lets
    | (simp only [kept_cons]; with_reducible apply kept_mk <;> first | with_reducible assumption | rfl | exact Kept.bytes (by assumption) | skip)
    | with_reducible first
                     | apply kept_ite | apply raise_kept
    | split

theorem measureFeed_kept {port : Nat} {feed : List Feed} (h : Kept o s) : Kept o (measureFeed port feed s) := by
  unfold measureFeed
  repeat' first
    | with_reducible assumption
    | (intro x; first | (refine kept_cut (P := Kept o x) ?_ ?_; rotate_left; dsimp only [x]; rotate_left; intro hx; clear_value x) | skip)
    | lift_lets
    | (simp only [kept_cons]; with_reducible apply kept_mk <;> first | with_reducible assumption | rfl | exact Kept.bytes (by assumption) | skip)
    | with_reducible first
                     | apply kept_ite
    | (with_reducible apply each_kept; intro _ _ _; beta_reduce)
    | split

theorem linkAck_kept {p : Nat} {f : Flit} (h : Kept o s) : Kept o (linkAck p f s) := by
  unfold linkAck
  repeat' first
    | with_reducible assumption
    | (intro x; first | (refine kept_cut (P := Kept o x) ?_ ?_; rotate_left; dsimp only [x]; rotate_left; intro hx; clear_value x) | skip)
    | lift_lets
    | (simp only [kept_cons]; with_reducible apply kept_mk <;> first | with_reducible assumption | rfl | exact Kept.bytes (by assumption) | skip)
    | with_reducible first
                     | apply kept_ite | apply onPort_kept | apply portDown_kept
    | split

theorem takeCredits_kept {p : Nat} {f : Flit} (h : Kept o s) : Kept o (takeCredits p f s) := by
  unfold takeCredits
  repeat' first
    | with_reducible assumption
    | (intro x; first | (refine kept_cut (P := Kept o x) ?_ ?_; rotate_left; dsimp only [x]; rotate_left; intro hx; clear_value x) | skip)
    | lift_lets
    | (simp only [kept_cons]; with_reducible apply kept_mk <;> first | with_reducible assumption | rfl | exact Kept.bytes (by assumption) | skip)
    | with_reducible first
                     | apply kept_ite | apply onPort_kept | apply pumpPort_kept
    | split

theorem shortFlit_kept {p : Nat} {a : FlitArrival} (h : Kept o s) : Kept o (shortFlit p a s) := by
  unfold shortFlit
  repeat' first
    | with_reducible assumption
    | (intro x; first | (refine kept_cut (P := Kept o x) ?_ ?_; rotate_left; dsimp only [x]; rotate_left; intro hx; clear_value x) | skip)
    | lift_lets
    | (simp only [kept_cons]; with_reducible apply kept_mk <;> first | with_reducible assumption | rfl | exact Kept.bytes (by assumption) | skip)
    | with_reducible first
                     | apply kept_ite | apply onPort_kept | apply linkAck_kept | apply takeCredits_kept
    | split

theorem flitDropped_kept {p : Nat} (h : Kept o s) : Kept o (flitDropped p s) := by
  unfold flitDropped
  repeat' first
    | with_reducible assumption
    | (intro x; first | (refine kept_cut (P := Kept o x) ?_ ?_; rotate_left; dsimp only [x]; rotate_left; intro hx; clear_value x) | skip)
    | lift_lets
    | (simp only [kept_cons]; with_reducible apply kept_mk <;> first | with_reducible assumption | rfl | exact Kept.bytes (by assumption) | skip)
    | with_reducible first
                     | apply kept_ite | apply onPort_kept | apply portDown_kept
    | split

theorem flitGap_kept {p : Nat} {f : Flit} (h : Kept o s) : Kept o (flitGap p f s) := by
  unfold flitGap
  repeat' first
    | with_reducible assumption
    | (intro x; first | (refine kept_cut (P := Kept o x) ?_ ?_; rotate_left; dsimp only [x]; rotate_left; intro hx; clear_value x) | skip)
    | lift_lets
    | (simp only [kept_cons]; with_reducible apply kept_mk <;> first | with_reducible assumption | rfl | exact Kept.bytes (by assumption) | skip)
    | with_reducible first
                     | apply kept_ite | apply onPort_kept | apply raise_kept
    | split

theorem longFlit_kept {p : Nat} {a : FlitArrival} (h : Kept o s) : Kept o (longFlit p a s) := by
  unfold longFlit
  repeat' first
    | with_reducible assumption
    | (intro x; first | (refine kept_cut (P := Kept o x) ?_ ?_; rotate_left; dsimp only [x]; rotate_left; intro hx; clear_value x) | skip)
    | lift_lets
    | (simp only [kept_cons]; with_reducible apply kept_mk <;> first | with_reducible assumption | rfl | exact Kept.bytes (by assumption) | skip)
    | with_reducible first
                     | apply kept_ite | apply onPort_kept | apply takeCredits_kept | apply flitDropped_kept | apply flitGap_kept
    | split

theorem authFail_kept {port : Nat} (h : Kept o s) : Kept o (authFail port s) := by
  unfold authFail
  repeat' first
    | with_reducible assumption
    | (intro x; first | (refine kept_cut (P := Kept o x) ?_ ?_; rotate_left; dsimp only [x]; rotate_left; intro hx; clear_value x) | skip)
    | lift_lets
    | (simp only [kept_cons]; with_reducible apply kept_mk <;> first | with_reducible assumption | rfl | exact Kept.bytes (by assumption) | skip)
    | with_reducible first
                     | apply kept_ite | apply onPort_kept | apply raise_kept
    | split

theorem checkHello_kept {port : Nat} (h : Kept o s) : Kept o (checkHello port s) := by
  unfold checkHello
  repeat' first
    | with_reducible assumption
    | (intro x; first | (refine kept_cut (P := Kept o x) ?_ ?_; rotate_left; dsimp only [x]; rotate_left; intro hx; clear_value x) | skip)
    | lift_lets
    | (simp only [kept_cons]; with_reducible apply kept_mk <;> first | with_reducible assumption | rfl | exact Kept.bytes (by assumption) | skip)
    | with_reducible first
                     | apply kept_ite | apply onPort_kept | apply authFail_kept
    | split

end Sys2Proof.Machine
end

