-- ==== Sys2Proof/Laws/KeptJournal.lean ====
section
/-! SUPPORT. What the operations of Machine.Journal keep. -/

set_option linter.unusedTactic false
set_option linter.unreachableTactic false
set_option linter.unusedSimpArgs false

namespace Sys2Proof.Machine

variable {o s : State}

theorem setPeer_kept {x : Peer} (h : Kept o s) : Kept o (State.setPeer s x) := by
  unfold State.setPeer
  repeat' first
    | with_reducible assumption
    | (intro x; first | (refine kept_cut (P := Kept o x) ?_ ?_; rotate_left; dsimp only [x]; rotate_left; intro hx; clear_value x) | skip)
    | lift_lets
    | (simp only [kept_cons]; with_reducible apply kept_mk <;> first | with_reducible assumption | rfl | exact Kept.bytes (by assumption) | skip)
    | with_reducible first
                     | apply kept_ite
    | split

theorem applyAdd_kept {loaf line : Nat} {data : List Byte} (h : Kept o s) : Kept o (applyAdd loaf line data s) := by
  unfold applyAdd
  repeat' first
    | with_reducible assumption
    | (intro x; first | (refine kept_cut (P := Kept o x) ?_ ?_; rotate_left; dsimp only [x]; rotate_left; intro hx; clear_value x) | skip)
    | lift_lets
    | (simp only [kept_cons]; with_reducible apply kept_mk <;> first | with_reducible assumption | rfl | exact Kept.bytes (by assumption) | skip)
    | with_reducible first
                     | apply kept_ite | apply addCounts_kept | apply replacePending_kept
    | split

theorem applyCas_kept {loaf line word : Nat} {compare swap : Word64} {peer seq : Nat} (h : Kept o s) : Kept o (applyCas loaf line word compare swap peer seq s) := by
  unfold applyCas
  repeat' first
    | with_reducible assumption
    | (intro x; first | (refine kept_cut (P := Kept o x) ?_ ?_; rotate_left; dsimp only [x]; rotate_left; intro hx; clear_value x) | skip)
    | lift_lets
    | (simp only [kept_cons]; with_reducible apply kept_mk <;> first | with_reducible assumption | rfl | exact Kept.bytes (by assumption) | skip)
    | with_reducible first
                     | apply kept_ite | apply replacePending_kept | apply setPeer_kept
    | split

theorem applyJournal_kept {op : JournalOp} (h : Kept o s) : Kept o (applyJournal op s) := by
  unfold applyJournal
  repeat' first
    | with_reducible assumption
    | (intro x; first | (refine kept_cut (P := Kept o x) ?_ ?_; rotate_left; dsimp only [x]; rotate_left; intro hx; clear_value x) | skip)
    | lift_lets
    | (simp only [kept_cons]; with_reducible apply kept_mk <;> first | with_reducible assumption | rfl | exact Kept.bytes (by assumption) | skip)
    | with_reducible first
                     | apply kept_ite | apply writePending_kept | apply setScale_kept | apply applyAdd_kept | apply applyCas_kept
    | split

theorem journalWrite_kept {op : JournalOp} {answer : Option Packet} (h : Kept o s) : Kept o (journalWrite op answer s) := by
  unfold journalWrite
  repeat' first
    | with_reducible assumption
    | (intro x; first | (refine kept_cut (P := Kept o x) ?_ ?_; rotate_left; dsimp only [x]; rotate_left; intro hx; clear_value x) | skip)
    | lift_lets
    | (simp only [kept_cons]; with_reducible apply kept_mk <;> first | with_reducible assumption | rfl | exact Kept.bytes (by assumption) | skip)
    | with_reducible first
                     | apply kept_ite | apply answer_kept | apply applyJournal_kept
    | split

theorem releaseReply_kept {e : JournalEntry} (h : Kept o s) : Kept o (releaseReply e s) := by
  unfold releaseReply
  repeat' first
    | with_reducible assumption
    | (intro x; first | (refine kept_cut (P := Kept o x) ?_ ?_; rotate_left; dsimp only [x]; rotate_left; intro hx; clear_value x) | skip)
    | lift_lets
    | (simp only [kept_cons]; with_reducible apply kept_mk <;> first | with_reducible assumption | rfl | exact Kept.bytes (by assumption) | skip)
    | with_reducible first
                     | apply kept_ite | apply inject_kept
    | split

theorem commitJournal_kept (h : Kept o s) : Kept o (commitJournal s) := by
  unfold commitJournal
  repeat' first
    | with_reducible assumption
    | (intro x; first | (refine kept_cut (P := Kept o x) ?_ ?_; rotate_left; dsimp only [x]; rotate_left; intro hx; clear_value x) | skip)
    | lift_lets
    | (simp only [kept_cons]; with_reducible apply kept_mk <;> first | with_reducible assumption | rfl | exact Kept.bytes (by assumption) | skip)
    | with_reducible first
                     | apply kept_ite | apply answer_kept | apply releaseReply_kept
    | (with_reducible apply each_kept; intro _ _ _; beta_reduce)
    | split

theorem replayJournal_kept {failed : Nat} (h : Kept o s) : Kept o (replayJournal failed s) := by
  unfold replayJournal
  repeat' first
    | with_reducible assumption
    | (intro x; first | (refine kept_cut (P := Kept o x) ?_ ?_; rotate_left; dsimp only [x]; rotate_left; intro hx; clear_value x) | skip)
    | lift_lets
    | (simp only [kept_cons]; with_reducible apply kept_mk <;> first | with_reducible assumption | rfl | exact Kept.bytes (by assumption) | skip)
    | with_reducible first
                     | apply kept_ite | apply applyJournal_kept
    | (with_reducible apply each_kept; intro _ _ _; beta_reduce)
    | split

end Sys2Proof.Machine
end

