-- ==== Sys2Proof/Laws/KeptCollective.lean ====
section
/-! SUPPORT. What the operations of Machine.Collective keep. -/

set_option linter.unusedTactic false
set_option linter.unreachableTactic false
set_option linter.unusedSimpArgs false

namespace Sys2Proof.Machine

variable {o s : State}

theorem setRun_kept {r : CollRun} (h : Kept o s) : Kept o (State.setRun s r) := by
  unfold State.setRun
  repeat' first
    | with_reducible assumption
    | (intro x; first | (refine kept_cut (P := Kept o x) ?_ ?_; rotate_left; dsimp only [x]; rotate_left; intro hx; clear_value x) | skip)
    | lift_lets
    | (simp only [kept_cons]; with_reducible apply kept_mk <;> first | with_reducible assumption | rfl | exact Kept.bytes (by assumption) | skip)
    | with_reducible first
                     | apply kept_ite
    | split

theorem onRun_kept {coll : Nat} {f : CollRun → CollRun} (h : Kept o s) : Kept o (State.onRun s coll f) := by
  unfold State.onRun
  repeat' first
    | with_reducible assumption
    | (intro x; first | (refine kept_cut (P := Kept o x) ?_ ?_; rotate_left; dsimp only [x]; rotate_left; intro hx; clear_value x) | skip)
    | lift_lets
    | (simp only [kept_cons]; with_reducible apply kept_mk <;> first | with_reducible assumption | rfl | exact Kept.bytes (by assumption) | skip)
    | with_reducible first
                     | apply kept_ite | apply setRun_kept
    | split

theorem sendChunk_kept {c : CollCtx} {k : SentChunk} (h : Kept o s) : Kept o (sendChunk c k s) := by
  unfold sendChunk
  repeat' first
    | with_reducible assumption
    | (intro x; first | (refine kept_cut (P := Kept o x) ?_ ?_; rotate_left; dsimp only [x]; rotate_left; intro hx; clear_value x) | skip)
    | lift_lets
    | (simp only [kept_cons]; with_reducible apply kept_mk <;> first | with_reducible assumption | rfl | exact Kept.bytes (by assumption) | skip)
    | with_reducible first
                     | apply kept_ite | apply inject_kept
    | (with_reducible apply each_kept; intro _ _ _; beta_reduce)
    | split

theorem sendAck_kept {c : CollCtx} {p : Packet} {status : Nat} (h : Kept o s) : Kept o (sendAck c p status s) := by
  unfold sendAck
  repeat' first
    | with_reducible assumption
    | (intro x; first | (refine kept_cut (P := Kept o x) ?_ ?_; rotate_left; dsimp only [x]; rotate_left; intro hx; clear_value x) | skip)
    | lift_lets
    | (simp only [kept_cons]; with_reducible apply kept_mk <;> first | with_reducible assumption | rfl | exact Kept.bytes (by assumption) | skip)
    | with_reducible first
                     | apply kept_ite | apply inject_kept
    | split

theorem sendBareAck_kept {p : Packet} {status : Nat} (h : Kept o s) : Kept o (sendBareAck p status s) := by
  unfold sendBareAck
  repeat' first
    | with_reducible assumption
    | (intro x; first | (refine kept_cut (P := Kept o x) ?_ ?_; rotate_left; dsimp only [x]; rotate_left; intro hx; clear_value x) | skip)
    | lift_lets
    | (simp only [kept_cons]; with_reducible apply kept_mk <;> first | with_reducible assumption | rfl | exact Kept.bytes (by assumption) | skip)
    | with_reducible first
                     | apply kept_ite | apply inject_kept
    | split

theorem stageLine_kept {loaf j : Nat} {data : List Byte} (h : Kept o s) : Kept o (stageLine loaf j data s) := by
  unfold stageLine
  dsimp only
  split
  · exact setFrameLine_kept h
  · split
    · exact h
    · exact setFrameLine_kept (setEntry_kept (kept_cons.mpr (kept_mk h (by dsimp only; exact copyFrame_wf h.bytes) rfl rfl rfl rfl rfl rfl rfl rfl rfl rfl rfl)))

theorem stageBytes_kept {c : CollCtx} {bytes : List Byte} (h : Kept o s) : Kept o (stageBytes c bytes s) := by
  unfold stageBytes
  repeat' first
    | with_reducible assumption
    | (intro x; first | (refine kept_cut (P := Kept o x) ?_ ?_; rotate_left; dsimp only [x]; rotate_left; intro hx; clear_value x) | skip)
    | lift_lets
    | (simp only [kept_cons]; with_reducible apply kept_mk <;> first | with_reducible assumption | rfl | exact Kept.bytes (by assumption) | skip)
    | with_reducible first
                     | apply kept_ite | apply setRun_kept | apply stageLine_kept
    | (with_reducible apply each_kept; intro _ _ _; beta_reduce)
    | split

theorem writeResult_kept {w : Writer} {loaf line : Nat} {ls : List (List Byte)} (h : Kept o s) : Kept o (writeResult w loaf line ls s) := by
  unfold writeResult
  repeat' first
    | with_reducible assumption
    | (intro x; first | (refine kept_cut (P := Kept o x) ?_ ?_; rotate_left; dsimp only [x]; rotate_left; intro hx; clear_value x) | skip)
    | lift_lets
    | (simp only [kept_cons]; with_reducible apply kept_mk <;> first | with_reducible assumption | rfl | exact Kept.bytes (by assumption) | skip)
    | with_reducible first
                     | apply kept_ite | apply journalWrite_kept
    | (with_reducible apply each_kept; intro _ _ _; beta_reduce)
    | split

theorem writeScales_kept {w : Writer} {loaf line : Nat} {scales : List Byte} (h : Kept o s) : Kept o (writeScales w loaf line scales s) := by
  unfold writeScales
  repeat' first
    | with_reducible assumption
    | (intro x; first | (refine kept_cut (P := Kept o x) ?_ ?_; rotate_left; dsimp only [x]; rotate_left; intro hx; clear_value x) | skip)
    | lift_lets
    | (simp only [kept_cons]; with_reducible apply kept_mk <;> first | with_reducible assumption | rfl | exact Kept.bytes (by assumption) | skip)
    | with_reducible first
                     | apply kept_ite | apply journalWrite_kept
    | (with_reducible apply each_kept; intro _ _ _; beta_reduce)
    | split

theorem writeUnit_kept {c : CollCtx} {chunk u : Nat} {bytes : List Byte} (h : Kept o s) : Kept o (writeUnit c chunk u bytes s) := by
  unfold writeUnit
  repeat' first
    | with_reducible assumption
    | (intro x; first | (refine kept_cut (P := Kept o x) ?_ ?_; rotate_left; dsimp only [x]; rotate_left; intro hx; clear_value x) | skip)
    | lift_lets
    | (simp only [kept_cons]; with_reducible apply kept_mk <;> first | with_reducible assumption | rfl | exact Kept.bytes (by assumption) | skip)
    | with_reducible first
                     | apply kept_ite | apply writeResult_kept | apply writeScales_kept
    | split

theorem addCollCounts_kept {tensor : Nat} {c : TensorCounters} (h : Kept o s) : Kept o (addCollCounts tensor c s) := by
  unfold addCollCounts
  repeat' first
    | with_reducible assumption
    | (intro x; first | (refine kept_cut (P := Kept o x) ?_ ?_; rotate_left; dsimp only [x]; rotate_left; intro hx; clear_value x) | skip)
    | lift_lets
    | (simp only [kept_cons]; with_reducible apply kept_mk <;> first | with_reducible assumption | rfl | exact Kept.bytes (by assumption) | skip)
    | with_reducible first
                     | apply kept_ite | apply onJob_kept
    | split

theorem combineUnit_kept {c : CollCtx} {stage : Nat} {x : (Nat × List (List Exact)) × Nat} (h : Kept o s) : Kept o (combineUnit c stage x s) := by
  unfold combineUnit
  repeat' first
    | with_reducible assumption
    | (intro x; first | (refine kept_cut (P := Kept o x) ?_ ?_; rotate_left; dsimp only [x]; rotate_left; intro hx; clear_value x) | skip)
    | lift_lets
    | (simp only [kept_cons]; with_reducible apply kept_mk <;> first | with_reducible assumption | rfl | exact Kept.bytes (by assumption) | skip)
    | with_reducible first
                     | apply kept_ite | apply raise_kept | apply setRun_kept | apply writeUnit_kept | apply addCollCounts_kept
    | split

theorem combineStage_kept {c : CollCtx} {stage : Nat} {r : CollRun} (h : Kept o s) : Kept o (combineStage c stage r s) := by
  unfold combineStage
  dsimp only
  split
  · exact h
  · exact each_kept _ (fun _ _ h => combineUnit_kept h) h

theorem deliverChunk_kept {c : CollCtx} {y : RecvChunk} (h : Kept o s) : Kept o (deliverChunk c y s) := by
  unfold deliverChunk
  dsimp only
  repeat' first | exact h | exact writeScales_kept (writeResult_kept (setRun_kept h)) | split

theorem deliverAll_kept {c : CollCtx} (h : Kept o s) : Kept o (deliverAll c s) := by
  unfold deliverAll
  repeat' first
    | with_reducible assumption
    | (intro x; first | (refine kept_cut (P := Kept o x) ?_ ?_; rotate_left; dsimp only [x]; rotate_left; intro hx; clear_value x) | skip)
    | lift_lets
    | (simp only [kept_cons]; with_reducible apply kept_mk <;> first | with_reducible assumption | rfl | exact Kept.bytes (by assumption) | skip)
    | with_reducible first
                     | apply kept_ite | apply deliverChunk_kept
    | (with_reducible apply each_kept; intro _ _ _; beta_reduce)
    | split

theorem deliverOwn_kept {c : CollCtx} (h : Kept o s) : Kept o (deliverOwn c s) := by
  unfold deliverOwn
  repeat' first
    | with_reducible assumption
    | (intro x; first | (refine kept_cut (P := Kept o x) ?_ ?_; rotate_left; dsimp only [x]; rotate_left; intro hx; clear_value x) | skip)
    | lift_lets
    | (simp only [kept_cons]; with_reducible apply kept_mk <;> first | with_reducible assumption | rfl | exact Kept.bytes (by assumption) | skip)
    | with_reducible first
                     | apply kept_ite | apply writeResult_kept | apply writeScales_kept
    | (with_reducible apply each_kept; intro _ _ _; beta_reduce)
    | split

theorem writeRecv_kept {c : CollCtx} (h : Kept o s) : Kept o (writeRecv c s) := by
  unfold writeRecv
  repeat' first
    | with_reducible assumption
    | (intro x; first | (refine kept_cut (P := Kept o x) ?_ ?_; rotate_left; dsimp only [x]; rotate_left; intro hx; clear_value x) | skip)
    | lift_lets
    | (simp only [kept_cons]; with_reducible apply kept_mk <;> first | with_reducible assumption | rfl | exact Kept.bytes (by assumption) | skip)
    | with_reducible first
                     | apply kept_ite | apply raise_kept | apply writeResult_kept
    | (with_reducible apply each_kept; intro _ _ _; beta_reduce)
    | split

theorem sendStage_kept {c : CollCtx} {stage : Nat} (h : Kept o s) : Kept o (sendStage c stage s) := by
  unfold sendStage
  repeat' first
    | with_reducible assumption
    | (intro x; first | (refine kept_cut (P := Kept o x) ?_ ?_; rotate_left; dsimp only [x]; rotate_left; intro hx; clear_value x) | skip)
    | lift_lets
    | (simp only [kept_cons]; with_reducible apply kept_mk <;> first | with_reducible assumption | rfl | exact Kept.bytes (by assumption) | skip)
    | with_reducible first
                     | apply kept_ite | apply setRun_kept | apply sendChunk_kept
    | (with_reducible apply each_kept; intro _ _ _; beta_reduce)
    | split

theorem beginStage_kept {c : CollCtx} (h : Kept o s) : Kept o (beginStage c s) := by
  unfold beginStage
  repeat' first
    | with_reducible assumption
    | (intro x; first | (refine kept_cut (P := Kept o x) ?_ ?_; rotate_left; dsimp only [x]; rotate_left; intro hx; clear_value x) | skip)
    | lift_lets
    | (simp only [kept_cons]; with_reducible apply kept_mk <;> first | with_reducible assumption | rfl | exact Kept.bytes (by assumption) | skip)
    | with_reducible first
                     | apply kept_ite | apply sendStage_kept
    | split

theorem settleRun_kept {coll : Nat} (h : Kept o s) : Kept o (settleRun coll s) := by
  unfold settleRun
  repeat' first
    | with_reducible assumption
    | (intro x; first | (refine kept_cut (P := Kept o x) ?_ ?_; rotate_left; dsimp only [x]; rotate_left; intro hx; clear_value x) | skip)
    | lift_lets
    | (simp only [kept_cons]; with_reducible apply kept_mk <;> first | with_reducible assumption | rfl | exact Kept.bytes (by assumption) | skip)
    | with_reducible first
                     | apply kept_ite | apply onJob_kept | apply setRun_kept
    | split

theorem nextStage_kept {c : CollCtx} (h : Kept o s) : Kept o (nextStage c s) := by
  unfold nextStage
  repeat' first
    | with_reducible assumption
    | (intro x; first | (refine kept_cut (P := Kept o x) ?_ ?_; rotate_left; dsimp only [x]; rotate_left; intro hx; clear_value x) | skip)
    | lift_lets
    | (simp only [kept_cons]; with_reducible apply kept_mk <;> first | with_reducible assumption | rfl | exact Kept.bytes (by assumption) | skip)
    | with_reducible first
                     | apply kept_ite | apply setRun_kept | apply beginStage_kept | apply settleRun_kept
    | split

theorem completeStage_kept {c : CollCtx} (h : Kept o s) : Kept o (completeStage c s) := by
  unfold completeStage
  repeat' first
    | with_reducible assumption
    | (intro x; first | (refine kept_cut (P := Kept o x) ?_ ?_; rotate_left; dsimp only [x]; rotate_left; intro hx; clear_value x) | skip)
    | lift_lets
    | (simp only [kept_cons]; with_reducible apply kept_mk <;> first | with_reducible assumption | rfl | exact Kept.bytes (by assumption) | skip)
    | with_reducible first
                     | apply kept_ite | apply setRun_kept | apply combineStage_kept | apply nextStage_kept
    | split

theorem advanceBarrier_kept {c : CollCtx} : ∀ (n : Nat) {s : State}, Kept o s → Kept o (advanceBarrier c n s)
  | 0, _, h => h
  | n + 1, _, h => by
    unfold advanceBarrier
    split
    · exact advanceBarrier_kept n (completeStage_kept h)
    · exact h

theorem startBarriers_kept (h : Kept o s) : Kept o (startBarriers s) := by
  refine each_kept _ (fun r s h => ?_) h
  repeat' first | exact h | exact advanceBarrier_kept _ (beginStage_kept h) | split

theorem stageInputs_kept {c : CollCtx} {r : CollRun} (h : Kept o s) : Kept o (stageInputs c r s) := by
  unfold stageInputs
  split
  · exact stageBytes_kept (setRun_kept (freshBytes_kept 4 h))
  · split
    · exact setRun_kept h
    · exact stageBytes_kept (setRun_kept h)

theorem soleResult_kept {c : CollCtx} (h : Kept o s) : Kept o (soleResult c s) := by
  unfold soleResult
  repeat' first
    | with_reducible assumption
    | (intro x; first | (refine kept_cut (P := Kept o x) ?_ ?_; rotate_left; dsimp only [x]; rotate_left; intro hx; clear_value x) | skip)
    | lift_lets
    | (simp only [kept_cons]; with_reducible apply kept_mk <;> first | with_reducible assumption | rfl | exact Kept.bytes (by assumption) | skip)
    | with_reducible first
                     | apply kept_ite | apply onRun_kept | apply combineUnit_kept
    | (with_reducible apply each_kept; intro _ _ _; beta_reduce)
    | split

theorem sourceReads_kept {c : CollCtx} {reads : List MemRead} (h : Kept o s) : Kept o (sourceReads c reads s) := by
  unfold sourceReads
  repeat' first
    | with_reducible assumption
    | (intro x; first | (refine kept_cut (P := Kept o x) ?_ ?_; rotate_left; dsimp only [x]; rotate_left; intro hx; clear_value x) | skip)
    | lift_lets
    | (simp only [kept_cons]; with_reducible apply kept_mk <;> first | with_reducible assumption | rfl | exact Kept.bytes (by assumption) | skip)
    | with_reducible first
                     | apply kept_ite | apply hubReads_kept
    | split

theorem startStages_kept {c : CollCtx} {r : CollRun} (h : Kept o s) : Kept o (startStages c r s) := by
  unfold startStages
  have h1 := stageInputs_kept (c := c) (r := r) h
  generalize stageInputs c r s = s1 at h1
  dsimp only
  have h2 : Kept o (deliverOwn c (if c.e.op = 6 then writeRecv c s1 else s1)) := deliverOwn_kept (kept_ite (writeRecv_kept h1) h1)
  have h3 := deliverAll_kept (c := c) h2
  generalize deliverAll c (deliverOwn c (if c.e.op = 6 then writeRecv c s1 else s1)) = s3 at h3
  exact kept_ite (settleRun_kept (soleResult_kept h3)) (advanceBarrier_kept _ (beginStage_kept h3))

theorem takeChunk_kept {c : CollCtx} {p : Packet} (h : Kept o s) : Kept o (takeChunk c p s) := by
  unfold takeChunk
  dsimp only
  split
  · exact h
  · split
    · exact sendAck_kept h
    · split
      · exact setRun_kept h
      · exact deliverAll_kept (sendAck_kept (stageBytes_kept (setRun_kept h)))

theorem takeCountChunk_kept {c : CollCtx} {p : Packet} (h : Kept o s) : Kept o (takeCountChunk c p s) := by
  unfold takeCountChunk
  repeat' first
    | with_reducible assumption
    | (intro x; first | (refine kept_cut (P := Kept o x) ?_ ?_; rotate_left; dsimp only [x]; rotate_left; intro hx; clear_value x) | skip)
    | lift_lets
    | (simp only [kept_cons]; with_reducible apply kept_mk <;> first | with_reducible assumption | rfl | exact Kept.bytes (by assumption) | skip)
    | with_reducible first
                     | apply kept_ite | apply setRun_kept | apply sendAck_kept | apply stageBytes_kept | apply deliverAll_kept
                     | apply deliverOwn_kept | apply writeRecv_kept
    | (with_reducible apply each_kept; intro _ _ _; beta_reduce)
    | split

theorem receiveColl_kept {p : Packet} {own : CollCtx → State → State} (ho : ∀ c s, Kept o s → Kept o (own c s)) (h : Kept o s) :
    Kept o (receiveColl p own s) := by
  unfold receiveColl
  refine kept_ite h (kept_ite (kept_ite h (sendBareAck_kept h)) ?_)
  split
  · exact sendBareAck_kept h
  · exact kept_ite (ho _ _ h) (kept_ite (sendAck_kept h) (sendAck_kept h))

theorem countReserved_kept {p : Packet} (h : Kept o s) : Kept o (countReserved p s) := by
  unfold countReserved
  repeat' first
    | with_reducible assumption
    | (intro x; first | (refine kept_cut (P := Kept o x) ?_ ?_; rotate_left; dsimp only [x]; rotate_left; intro hx; clear_value x) | skip)
    | lift_lets
    | (simp only [kept_cons]; with_reducible apply kept_mk <;> first | with_reducible assumption | rfl | exact Kept.bytes (by assumption) | skip)
    | with_reducible first
                     | apply kept_ite
    | split

theorem peerLost_kept {peer : Nat} (h : Kept o s) : Kept o (peerLost peer s) := by
  unfold peerLost
  repeat' first
    | with_reducible assumption
    | (intro x; first | (refine kept_cut (P := Kept o x) ?_ ?_; rotate_left; dsimp only [x]; rotate_left; intro hx; clear_value x) | skip)
    | lift_lets
    | (simp only [kept_cons]; with_reducible apply kept_mk <;> first | with_reducible assumption | rfl | exact Kept.bytes (by assumption) | skip)
    | with_reducible first
                     | apply kept_ite | apply raise_kept
    | split

theorem reissue_kept {c : CollCtx} {k : SentChunk} {timer : Bool} (h : Kept o s) : Kept o (reissue c k timer s) := by
  unfold reissue
  repeat' first
    | with_reducible assumption
    | (intro x; first | (refine kept_cut (P := Kept o x) ?_ ?_; rotate_left; dsimp only [x]; rotate_left; intro hx; clear_value x) | skip)
    | lift_lets
    | (simp only [kept_cons]; with_reducible apply kept_mk <;> first | with_reducible assumption | rfl | exact Kept.bytes (by assumption) | skip)
    | with_reducible first
                     | apply kept_ite | apply onRun_kept | apply sendChunk_kept
    | split

theorem issueColl_kept {coll : Nat} (h : Kept o s) : Kept o (issueColl coll s) := by
  unfold issueColl
  repeat' first
    | with_reducible assumption
    | (intro x; first | (refine kept_cut (P := Kept o x) ?_ ?_; rotate_left; dsimp only [x]; rotate_left; intro hx; clear_value x) | skip)
    | lift_lets
    | (simp only [kept_cons]; with_reducible apply kept_mk <;> first | with_reducible assumption | rfl | exact Kept.bytes (by assumption) | skip)
    | with_reducible first
                     | apply kept_ite | apply onJob_kept | apply setRun_kept
    | split

end Sys2Proof.Machine
end

