-- ==== Sys2Proof/Laws/KeptWindows.lean ====
section
/-! SUPPORT. What the operations of Machine.Windows keep. -/

set_option linter.unusedTactic false
set_option linter.unreachableTactic false
set_option linter.unusedSimpArgs false

namespace Sys2Proof.Machine

variable {o s : State}

theorem opRead_kept {op : Nat} {p : Packet} {read : ReadOutcome} (h : Kept o s) : Kept o (opRead op p read s) := by
  unfold opRead
  exact kept_ite (hubReads_kept (grant_kept h)) (kept_ite h (hubReadPending_kept h))

theorem replyAgain_kept {op : Nat} {p : Packet} {x : Peer} (h : Kept o s) : Kept o (replyAgain op p x s) := by
  unfold replyAgain
  repeat' first
    | with_reducible assumption
    | (intro x; first | (refine kept_cut (P := Kept o x) ?_ ?_; rotate_left; dsimp only [x]; rotate_left; intro hx; clear_value x) | skip)
    | lift_lets
    | (simp only [kept_cons]; with_reducible apply kept_mk <;> first | with_reducible assumption | rfl | exact Kept.bytes (by assumption) | skip)
    | with_reducible first
                     | apply kept_ite | apply inject_kept
    | split

theorem applyOp_kept {op : Nat} {p : Packet} {read : ReadOutcome} (h : Kept o s) : Kept o (applyOp op p read s) := by
  unfold applyOp
  repeat' first
    | with_reducible assumption
    | (intro x; first | (refine kept_cut (P := Kept o x) ?_ ?_; rotate_left; dsimp only [x]; rotate_left; intro hx; clear_value x) | skip)
    | lift_lets
    | (simp only [kept_cons]; with_reducible apply kept_mk <;> first | with_reducible assumption | rfl | exact Kept.bytes (by assumption) | skip)
    | with_reducible first
                     | apply kept_ite | apply touch_kept | apply inject_kept | apply journalWrite_kept | apply opRead_kept
    | split

theorem receiveOp_kept {op : Nat} {p : Packet} {read : ReadOutcome} (h : Kept o s) : Kept o (receiveOp op p read s) := by
  unfold receiveOp
  repeat' first
    | with_reducible assumption
    | (intro x; first | (refine kept_cut (P := Kept o x) ?_ ?_; rotate_left; dsimp only [x]; rotate_left; intro hx; clear_value x) | skip)
    | lift_lets
    | (simp only [kept_cons]; with_reducible apply kept_mk <;> first | with_reducible assumption | rfl | exact Kept.bytes (by assumption) | skip)
    | with_reducible first
                     | apply kept_ite | apply inject_kept | apply setPeer_kept | apply replyAgain_kept | apply applyOp_kept
    | split

theorem onProxy_kept {n : Nat} {f : Window → Window} (h : Kept o s) : Kept o (State.onProxy s n f) := by
  unfold State.onProxy
  repeat' first
    | with_reducible assumption
    | (intro x; first | (refine kept_cut (P := Kept o x) ?_ ?_; rotate_left; dsimp only [x]; rotate_left; intro hx; clear_value x) | skip)
    | lift_lets
    | (simp only [kept_cons]; with_reducible apply kept_mk <;> first | with_reducible assumption | rfl | exact Kept.bytes (by assumption) | skip)
    | with_reducible first
                     | apply kept_ite
    | split

theorem sendOp_kept {x : Peer} {p : Packet} (h : Kept o s) : Kept o (sendOp x p s) := by
  unfold sendOp
  repeat' first
    | with_reducible assumption
    | (intro x; first | (refine kept_cut (P := Kept o x) ?_ ?_; rotate_left; dsimp only [x]; rotate_left; intro hx; clear_value x) | skip)
    | lift_lets
    | (simp only [kept_cons]; with_reducible apply kept_mk <;> first | with_reducible assumption | rfl | exact Kept.bytes (by assumption) | skip)
    | with_reducible first
                     | apply kept_ite | apply inject_kept
    | split

theorem pumpPeer_kept {a : Nat} : ∀ (n : Nat) {s : State}, Kept o s → Kept o (pumpPeer a n s)
  | 0, _, h => h
  | n + 1, _, h => by
    unfold pumpPeer
    dsimp only
    repeat' first | exact h | exact pumpPeer_kept n (sendOp_kept (onProxy_kept (setPeer_kept h))) | split

theorem pumpAll_kept {a : Nat} (h : Kept o s) : Kept o (pumpAll a s) := by
  unfold pumpAll
  repeat' first
    | with_reducible assumption
    | (intro x; first | (refine kept_cut (P := Kept o x) ?_ ?_; rotate_left; dsimp only [x]; rotate_left; intro hx; clear_value x) | skip)
    | lift_lets
    | with_reducible apply pumpPeer_kept
    | (simp only [kept_cons]; with_reducible apply kept_mk <;> first | with_reducible assumption | rfl | exact Kept.bytes (by assumption) | skip)
    | with_reducible first
                     | apply kept_ite
    | split

theorem opRefused_kept {proxy peer status : Nat} (h : Kept o s) : Kept o (opRefused proxy peer status s) := by
  unfold opRefused
  repeat' first
    | with_reducible assumption
    | (intro x; first | (refine kept_cut (P := Kept o x) ?_ ?_; rotate_left; dsimp only [x]; rotate_left; intro hx; clear_value x) | skip)
    | lift_lets
    | (simp only [kept_cons]; with_reducible apply kept_mk <;> first | with_reducible assumption | rfl | exact Kept.bytes (by assumption) | skip)
    | with_reducible first
                     | apply kept_ite | apply raise_kept | apply onProxy_kept
    | split

theorem answerProxies_kept (h : Kept o s) : Kept o (answerProxies s) := by
  unfold answerProxies
  repeat' first
    | with_reducible assumption
    | (intro x; first | (refine kept_cut (P := Kept o x) ?_ ?_; rotate_left; dsimp only [x]; rotate_left; intro hx; clear_value x) | skip)
    | lift_lets
    | (simp only [kept_cons]; with_reducible apply kept_mk <;> first | with_reducible assumption | rfl | exact Kept.bytes (by assumption) | skip)
    | with_reducible first
                     | apply kept_ite | apply answer_kept
    | (with_reducible apply each_kept; intro _ _ _; beta_reduce)
    | split

theorem replyWrites_kept {u : Unreplied} {p : Packet} (h : Kept o s) : Kept o (replyWrites u p s) := by
  unfold replyWrites
  repeat' first
    | with_reducible assumption
    | (intro x; first | (refine kept_cut (P := Kept o x) ?_ ?_; rotate_left; dsimp only [x]; rotate_left; intro hx; clear_value x) | skip)
    | lift_lets
    | (simp only [kept_cons]; with_reducible apply kept_mk <;> first | with_reducible assumption | rfl | exact Kept.bytes (by assumption) | skip)
    | with_reducible first
                     | apply kept_ite | apply journalWrite_kept
    | split

theorem issueOp_kept {w : OutOp} (h : Kept o s) : Kept o (issueOp w s) := by
  unfold issueOp
  dsimp only
  repeat' first | exact h | exact opRefused_kept h | exact setPeer_kept h | split

theorem releaseOutbound_kept (h : Kept o s) : Kept o (releaseOutbound s) := by
  unfold releaseOutbound
  repeat' first
    | with_reducible assumption
    | (intro x; first | (refine kept_cut (P := Kept o x) ?_ ?_; rotate_left; dsimp only [x]; rotate_left; intro hx; clear_value x) | skip)
    | lift_lets
    | (simp only [kept_cons]; with_reducible apply kept_mk <;> first | with_reducible assumption | rfl | exact Kept.bytes (by assumption) | skip)
    | with_reducible first
                     | apply kept_ite | apply pumpAll_kept | apply issueOp_kept
    | (with_reducible apply each_kept; intro _ _ _; beta_reduce)
    | split

end Sys2Proof.Machine
end

