-- ==== Sys2Proof/Laws/KeptMailbox.lean ====
section
/-! SUPPORT. What the operations of Machine.Mailbox keep. -/

set_option linter.unusedTactic false
set_option linter.unreachableTactic false
set_option linter.unusedSimpArgs false

namespace Sys2Proof.Machine

variable {o s : State}

theorem takeCommand_kept {mb : Nat} {f : Nat → Mailbox → State → State} (hf : ∀ mb m s, Kept o s → Kept o (f mb m s)) (h : Kept o s) :
    Kept o (takeCommand mb f s) := by
  unfold takeCommand
  have h1 := onMailbox_kept (mb := mb) (f := fun x => { x with tickTaken := s.takenTick }) h (fun _ hm => hm)
  refine kept_ite h ?_
  dsimp only
  split
  · exact answer_kept h1
  · exact hf _ _ _ h1

theorem setWait_kept {mb : Nat} {w : Wait} (h : Kept o s) : Kept o (setWait mb w s) := by
  unfold setWait
  repeat' first
    | with_reducible assumption
    | (intro x; first | (refine kept_cut (P := Kept o x) ?_ ?_; rotate_left; dsimp only [x]; rotate_left; intro hx; clear_value x) | skip)
    | lift_lets
    | (simp only [kept_cons]; with_reducible apply kept_mk <;> first | with_reducible assumption | rfl | exact Kept.bytes (by assumption) | skip)
    | with_reducible first
                     | apply kept_ite | apply onMailbox_kept
    | split

theorem writeOut_kept {list : List Descriptor} {out : List Byte} (h : Kept o s) : Kept o (writeOut list out s) := by
  exact sent_kept h rfl (List.prefix_append _ _) List.prefix_rfl

theorem identityHash_kept (h : Kept o s) : Kept o (identityHash s).2 := by
  unfold identityHash
  split
  · exact h
  · exact freshBytes_kept 3 h

theorem runIdentify_kept {mb : Nat} {_u1 : Mailbox} (h : Kept o s) : Kept o (runIdentify mb _u1 s) := by
  exact respond_kept (identityHash_kept h)

theorem runGetStatus_kept {mb : Nat} {m : Mailbox} (h : Kept o s) : Kept o (runGetStatus mb m s) := by
  unfold runGetStatus
  refine kept_ite (answer_kept h) (kept_ite (answer_kept h) ?_)
  have h1 := freshBytes_kept 1 h
  revert h1
  generalize freshBytes 1 s = x
  intro h1
  dsimp only
  split
  · exact answer_kept h1
  · exact respond_kept h1

theorem runSetPolicy_kept {mb : Nat} {m : Mailbox} (h : Kept o s) : Kept o (runSetPolicy mb m s) := by
  unfold runSetPolicy
  repeat' first
    | with_reducible assumption
    | (intro x; first | (refine kept_cut (P := Kept o x) ?_ ?_; rotate_left; dsimp only [x]; rotate_left; intro hx; clear_value x) | skip)
    | lift_lets
    | (simp only [kept_cons]; with_reducible apply kept_mk <;> first | with_reducible assumption | rfl | exact Kept.bytes (by assumption) | skip)
    | with_reducible first
                     | apply kept_ite | apply answer_kept | apply respond_kept | apply setPins_kept
    | split

end Sys2Proof.Machine
end

