-- ==== Sys2Proof/Laws/KeptJobCmds.lean ====
section
/-! SUPPORT. What the operations of Machine.JobCmds keep. -/

set_option linter.unusedTactic false
set_option linter.unreachableTactic false
set_option linter.unusedSimpArgs false

namespace Sys2Proof.Machine

variable {o s : State}

theorem runLoadImage_kept {mb : Nat} {m : Mailbox} (h : Kept o s) : Kept o (runLoadImage mb m s) := by
  unfold runLoadImage
  repeat' first
    | with_reducible assumption
    | (intro x; first | (refine kept_cut (P := Kept o x) ?_ ?_; rotate_left; dsimp only [x]; rotate_left; intro hx; clear_value x) | skip)
    | lift_lets
    | (simp only [kept_cons]; with_reducible apply kept_mk <;> first | with_reducible assumption | rfl | exact Kept.bytes (by assumption) | skip)
    | with_reducible first
                     | apply kept_ite | apply answer_kept | apply setWait_kept
    | split

theorem setImage_kept {im : Option Image} {raw : List Byte} (h : Kept o s) : Kept o (setImage im raw s) := by
  unfold setImage
  repeat' first
    | with_reducible assumption
    | (intro x; first | (refine kept_cut (P := Kept o x) ?_ ?_; rotate_left; dsimp only [x]; rotate_left; intro hx; clear_value x) | skip)
    | lift_lets
    | (simp only [kept_cons]; with_reducible apply kept_mk <;> first | with_reducible assumption | rfl | exact Kept.bytes (by assumption) | skip)
    | with_reducible first
                     | apply kept_ite
    | split

theorem imageArrives_kept {mb : Nat} {list : List Descriptor} {data : List Byte} (h : Kept o s) : Kept o (imageArrives mb list data s) := by
  unfold imageArrives
  repeat' first
    | with_reducible assumption
    | (intro x; first | (refine kept_cut (P := Kept o x) ?_ ?_; rotate_left; dsimp only [x]; rotate_left; intro hx; clear_value x) | skip)
    | lift_lets
    | (simp only [kept_cons]; with_reducible apply kept_mk <;> first | with_reducible assumption | rfl | exact Kept.bytes (by assumption) | skip)
    | with_reducible first
                     | apply kept_ite | apply answer_kept | apply setImage_kept
    | split

theorem openJob_kept {im : Image} {seed : Nat} (h : Kept o s) : Kept o (openJob im seed s) := by
  unfold openJob
  repeat' first
    | with_reducible assumption
    | (intro x; first | (refine kept_cut (P := Kept o x) ?_ ?_; rotate_left; dsimp only [x]; rotate_left; intro hx; clear_value x) | skip)
    | lift_lets
    | (simp only [kept_cons]; with_reducible apply kept_mk <;> first | with_reducible assumption | rfl | exact Kept.bytes (by assumption) | skip)
    | with_reducible first
                     | apply kept_ite | apply setDev_kept | apply pinLoaves_kept | apply resetRings_kept
    | split

theorem runOpenJob_kept {mb : Nat} {m : Mailbox} (h : Kept o s) : Kept o (runOpenJob mb m s) := by
  unfold runOpenJob
  repeat' first
    | with_reducible assumption
    | (intro x; first | (refine kept_cut (P := Kept o x) ?_ ?_; rotate_left; dsimp only [x]; rotate_left; intro hx; clear_value x) | skip)
    | lift_lets
    | (simp only [kept_cons]; with_reducible apply kept_mk <;> first | with_reducible assumption | rfl | exact Kept.bytes (by assumption) | skip)
    | with_reducible first
                     | apply kept_ite | apply answer_kept | apply openJob_kept
    | split

theorem runDeclareLoaves_kept {mb : Nat} {m : Mailbox} (h : Kept o s) : Kept o (runDeclareLoaves mb m s) := by
  unfold runDeclareLoaves
  repeat' first
    | with_reducible assumption
    | (intro x; first | (refine kept_cut (P := Kept o x) ?_ ?_; rotate_left; dsimp only [x]; rotate_left; intro hx; clear_value x) | skip)
    | lift_lets
    | (simp only [kept_cons]; with_reducible apply kept_mk <;> first | with_reducible assumption | rfl | exact Kept.bytes (by assumption) | skip)
    | with_reducible first
                     | apply kept_ite | apply onJob_kept | apply answer_kept | apply pinLoaves_kept
    | split

theorem runHostFill_kept {mb : Nat} {m : Mailbox} (h : Kept o s) : Kept o (runHostFill mb m s) := by
  unfold runHostFill
  repeat' first
    | with_reducible assumption
    | (intro x; first | (refine kept_cut (P := Kept o x) ?_ ?_; rotate_left; dsimp only [x]; rotate_left; intro hx; clear_value x) | skip)
    | lift_lets
    | (simp only [kept_cons]; with_reducible apply kept_mk <;> first | with_reducible assumption | rfl | exact Kept.bytes (by assumption) | skip)
    | with_reducible first
                     | apply kept_ite | apply answer_kept | apply setWait_kept
    | split

theorem runHostDrain_kept {reads : List MemRead} {mb : Nat} {m : Mailbox} (h : Kept o s) : Kept o (runHostDrain reads mb m s) := by
  unfold runHostDrain
  repeat' first
    | with_reducible assumption
    | (intro x; first | (refine kept_cut (P := Kept o x) ?_ ?_; rotate_left; dsimp only [x]; rotate_left; intro hx; clear_value x) | skip)
    | lift_lets
    | (simp only [kept_cons]; with_reducible apply kept_mk <;> first | with_reducible assumption | rfl | exact Kept.bytes (by assumption) | skip)
    | with_reducible first
                     | apply kept_ite | apply answer_kept | apply grantReads_kept | apply hubReads_kept | apply touchAll_kept
                     | apply setWait_kept
    | split

theorem setStart_kept {mb at_ : Nat} (h : Kept o s) : Kept o (setStart mb at_ s) := by
  unfold setStart
  repeat' first
    | with_reducible assumption
    | (intro x; first | (refine kept_cut (P := Kept o x) ?_ ?_; rotate_left; dsimp only [x]; rotate_left; intro hx; clear_value x) | skip)
    | lift_lets
    | (simp only [kept_cons]; with_reducible apply kept_mk <;> first | with_reducible assumption | rfl | exact Kept.bytes (by assumption) | skip)
    | with_reducible first
                     | apply kept_ite | apply onJob_kept | apply setWait_kept
    | split

theorem runStartJob_kept {mb : Nat} {m : Mailbox} (h : Kept o s) : Kept o (runStartJob mb m s) := by
  unfold runStartJob
  repeat' first
    | with_reducible assumption
    | (intro x; first | (refine kept_cut (P := Kept o x) ?_ ?_; rotate_left; dsimp only [x]; rotate_left; intro hx; clear_value x) | skip)
    | lift_lets
    | (simp only [kept_cons]; with_reducible apply kept_mk <;> first | with_reducible assumption | rfl | exact Kept.bytes (by assumption) | skip)
    | with_reducible first
                     | apply kept_ite | apply answer_kept | apply setStart_kept
    | split

theorem runResumeJob_kept {mb : Nat} {m : Mailbox} (h : Kept o s) : Kept o (runResumeJob mb m s) := by
  unfold runResumeJob
  repeat' first
    | with_reducible assumption
    | (intro x; first | (refine kept_cut (P := Kept o x) ?_ ?_; rotate_left; dsimp only [x]; rotate_left; intro hx; clear_value x) | skip)
    | lift_lets
    | (simp only [kept_cons]; with_reducible apply kept_mk <;> first | with_reducible assumption | rfl | exact Kept.bytes (by assumption) | skip)
    | with_reducible first
                     | apply kept_ite | apply answer_kept | apply setStart_kept
    | split

theorem dropProvisional_kept (h : Kept o s) : Kept o (dropProvisional s) := by
  unfold dropProvisional
  repeat' first
    | with_reducible assumption
    | (intro x; first | (refine kept_cut (P := Kept o x) ?_ ?_; rotate_left; dsimp only [x]; rotate_left; intro hx; clear_value x) | skip)
    | lift_lets
    | (simp only [kept_cons]; with_reducible apply kept_mk <;> first | with_reducible assumption | rfl | exact Kept.bytes (by assumption) | skip)
    | with_reducible first
                     | apply kept_ite | apply dropAhead_kept
    | (with_reducible apply each_kept; intro _ _ _; beta_reduce)
    | split

theorem runPauseJob_kept {mb : Nat} {_u1 : Mailbox} (h : Kept o s) : Kept o (runPauseJob mb _u1 s) := by
  unfold runPauseJob
  repeat' first
    | with_reducible assumption
    | (intro x; first | (refine kept_cut (P := Kept o x) ?_ ?_; rotate_left; dsimp only [x]; rotate_left; intro hx; clear_value x) | skip)
    | lift_lets
    | (simp only [kept_cons]; with_reducible apply kept_mk <;> first | with_reducible assumption | rfl | exact Kept.bytes (by assumption) | skip)
    | with_reducible first
                     | apply kept_ite | apply onJob_kept | apply setWait_kept | apply dropProvisional_kept
    | split

theorem overtakeRequalify_kept (h : Kept o s) : Kept o (overtakeRequalify s) := by
  unfold overtakeRequalify
  repeat' first
    | with_reducible assumption
    | (intro x; first | (refine kept_cut (P := Kept o x) ?_ ?_; rotate_left; dsimp only [x]; rotate_left; intro hx; clear_value x) | skip)
    | lift_lets
    | (simp only [kept_cons]; with_reducible apply kept_mk <;> first | with_reducible assumption | rfl | exact Kept.bytes (by assumption) | skip)
    | with_reducible first
                     | apply kept_ite | apply answer_kept | apply dropCrumb_kept
    | split

theorem takeReset_kept {mb : Nat} {_u1 : Mailbox} (h : Kept o s) : Kept o (takeReset mb _u1 s) := by
  unfold takeReset
  repeat' first
    | with_reducible assumption
    | (intro x; first | (refine kept_cut (P := Kept o x) ?_ ?_; rotate_left; dsimp only [x]; rotate_left; intro hx; clear_value x) | skip)
    | lift_lets
    | (simp only [kept_cons]; with_reducible apply kept_mk <;> first | with_reducible assumption | rfl | exact Kept.bytes (by assumption) | skip)
    | with_reducible first
                     | apply kept_ite | apply beginReset_kept | apply setWait_kept | apply overtakeRequalify_kept
    | split

theorem runResetCompute_kept {mb : Nat} {m : Mailbox} (h : Kept o s) : Kept o (runResetCompute mb m s) := by
  unfold runResetCompute
  repeat' first
    | with_reducible assumption
    | (intro x; first | (refine kept_cut (P := Kept o x) ?_ ?_; rotate_left; dsimp only [x]; rotate_left; intro hx; clear_value x) | skip)
    | lift_lets
    | (simp only [kept_cons]; with_reducible apply kept_mk <;> first | with_reducible assumption | rfl | exact Kept.bytes (by assumption) | skip)
    | with_reducible first
                     | apply kept_ite | apply takeReset_kept
    | split

theorem saveState_kept {j : Job} {reads : List MemRead} {mb : Nat} (h : Kept o s) : Kept o (saveState j reads mb s) := by
  unfold saveState
  repeat' first
    | with_reducible assumption
    | (intro x; first | (refine kept_cut (P := Kept o x) ?_ ?_; rotate_left; dsimp only [x]; rotate_left; intro hx; clear_value x) | skip)
    | lift_lets
    | (simp only [kept_cons]; with_reducible apply kept_mk <;> first | with_reducible assumption | rfl | exact Kept.bytes (by assumption) | skip)
    | with_reducible first
                     | apply kept_ite | apply grantReads_kept | apply hubReads_kept | apply setWait_kept
    | (with_reducible apply each_kept; intro _ _ _; beta_reduce)
    | split

theorem runCheckpoint_kept {reads : List MemRead} {mb : Nat} {m : Mailbox} (h : Kept o s) : Kept o (runCheckpoint reads mb m s) := by
  unfold runCheckpoint
  repeat' first
    | with_reducible assumption
    | (intro x; first | (refine kept_cut (P := Kept o x) ?_ ?_; rotate_left; dsimp only [x]; rotate_left; intro hx; clear_value x) | skip)
    | lift_lets
    | (simp only [kept_cons]; with_reducible apply kept_mk <;> first | with_reducible assumption | rfl | exact Kept.bytes (by assumption) | skip)
    | with_reducible first
                     | apply kept_ite | apply answer_kept | apply setWait_kept | apply saveState_kept
    | split

theorem runRestore_kept {mb : Nat} {m : Mailbox} (h : Kept o s) : Kept o (runRestore mb m s) := by
  unfold runRestore
  repeat' first
    | with_reducible assumption
    | (intro x; first | (refine kept_cut (P := Kept o x) ?_ ?_; rotate_left; dsimp only [x]; rotate_left; intro hx; clear_value x) | skip)
    | lift_lets
    | (simp only [kept_cons]; with_reducible apply kept_mk <;> first | with_reducible assumption | rfl | exact Kept.bytes (by assumption) | skip)
    | with_reducible first
                     | apply kept_ite | apply runCheckpoint_kept
    | split

theorem freeKept_kept (h : Kept o s) : Kept o (freeKept s) := by
  unfold freeKept
  refine each_kept _ (fun k s h => ?_) (kept_cons.mpr (kept_mk h h.bytes rfl rfl rfl rfl rfl rfl rfl rfl rfl rfl rfl))
  exact kept_ite h (kept_cons.mpr (kept_mk h (drop_wf h.bytes) rfl rfl rfl rfl rfl rfl rfl rfl rfl rfl rfl))

theorem fillJournal_kept {mb loaf : Nat} (ds : List (List Byte)) : ∀ {line : Nat} {s : State}, Kept o s → Kept o (fillJournal mb loaf line ds s) := by
  induction ds with
  | nil => intro line s h; exact h
  | cons d ds ih => intro line s h; exact ih (journalWrite_kept h)

theorem restoreLoaf_kept {mb : Nat} {x : Nat × List Byte} (h : Kept o s) : Kept o (restoreLoaf mb x s) := by
  unfold restoreLoaf
  repeat' first
    | with_reducible assumption
    | (intro x; first | (refine kept_cut (P := Kept o x) ?_ ?_; rotate_left; dsimp only [x]; rotate_left; intro hx; clear_value x) | skip)
    | lift_lets
    | with_reducible apply fillJournal_kept
    | (simp only [kept_cons]; with_reducible apply kept_mk <;> first | with_reducible assumption | rfl | exact Kept.bytes (by assumption) | skip)
    | with_reducible first
                     | apply kept_ite
    | split

theorem restoreScales_kept {mb : Nat} {x : Nat × List Byte} (h : Kept o s) : Kept o (restoreScales mb x s) := by
  unfold restoreScales
  repeat' first
    | with_reducible assumption
    | (intro x; first | (refine kept_cut (P := Kept o x) ?_ ?_; rotate_left; dsimp only [x]; rotate_left; intro hx; clear_value x) | skip)
    | lift_lets
    | (simp only [kept_cons]; with_reducible apply kept_mk <;> first | with_reducible assumption | rfl | exact Kept.bytes (by assumption) | skip)
    | with_reducible first
                     | apply kept_ite | apply journalWrite_kept
    | (with_reducible apply each_kept; intro _ _ _; beta_reduce)
    | split

theorem restoreStream_kept {mb : Nat} {j : Job} {b : List Byte} (h : Kept o s) : Kept o (restoreStream mb j b s) := by
  unfold restoreStream
  repeat' first
    | with_reducible assumption
    | (intro x; first | (refine kept_cut (P := Kept o x) ?_ ?_; rotate_left; dsimp only [x]; rotate_left; intro hx; clear_value x) | skip)
    | lift_lets
    | (simp only [kept_cons]; with_reducible apply kept_mk <;> first | with_reducible assumption | rfl | exact Kept.bytes (by assumption) | skip)
    | with_reducible first
                     | apply kept_ite | apply onJob_kept | apply restoreLoaf_kept | apply restoreScales_kept
    | (with_reducible apply each_kept; intro _ _ _; beta_reduce)
    | split

end Sys2Proof.Machine
end

