-- ==== Sys2Proof/Laws/KeptFabCmds.lean ====
section
/-! SUPPORT. What the operations of Machine.FabCmds keep. -/

set_option linter.unusedTactic false
set_option linter.unreachableTactic false
set_option linter.unusedSimpArgs false

namespace Sys2Proof.Machine

variable {o s : State}

theorem runFabricPlan_kept {mb : Nat} {m : Mailbox} (h : Kept o s) : Kept o (runFabricPlan mb m s) := by
  unfold runFabricPlan
  repeat' first
    | with_reducible assumption
    | (intro x; first | (refine kept_cut (P := Kept o x) ?_ ?_; rotate_left; dsimp only [x]; rotate_left; intro hx; clear_value x) | skip)
    | lift_lets
    | (simp only [kept_cons]; with_reducible apply kept_mk <;> first | with_reducible assumption | rfl | exact Kept.bytes (by assumption) | skip)
    | with_reducible first
                     | apply kept_ite | apply answer_kept | apply setWait_kept
    | split

theorem loadPlan_kept {pl : Plan} (h : Kept o s) : Kept o (loadPlan pl s) := by
  unfold loadPlan
  repeat' first
    | with_reducible assumption
    | (intro x; first | (refine kept_cut (P := Kept o x) ?_ ?_; rotate_left; dsimp only [x]; rotate_left; intro hx; clear_value x) | skip)
    | lift_lets
    | (simp only [kept_cons]; with_reducible apply kept_mk <;> first | with_reducible assumption | rfl | exact Kept.bytes (by assumption) | skip)
    | with_reducible first
                     | apply kept_ite | apply raise_kept | apply reparent_kept
    | split

theorem planArrives_kept {mb : Nat} {list : List Descriptor} {data : List Byte} (h : Kept o s) : Kept o (planArrives mb list data s) := by
  unfold planArrives
  repeat' first
    | with_reducible assumption
    | (intro x; first | (refine kept_cut (P := Kept o x) ?_ ?_; rotate_left; dsimp only [x]; rotate_left; intro hx; clear_value x) | skip)
    | lift_lets
    | (simp only [kept_cons]; with_reducible apply kept_mk <;> first | with_reducible assumption | rfl | exact Kept.bytes (by assumption) | skip)
    | with_reducible first
                     | apply kept_ite | apply answer_kept | apply loadPlan_kept
    | split

theorem releaseHeld_kept (h : Kept o s) : Kept o (releaseHeld s) := by
  unfold releaseHeld
  repeat' first
    | with_reducible assumption
    | (intro x; first | (refine kept_cut (P := Kept o x) ?_ ?_; rotate_left; dsimp only [x]; rotate_left; intro hx; clear_value x) | skip)
    | lift_lets
    | (simp only [kept_cons]; with_reducible apply kept_mk <;> first | with_reducible assumption | rfl | exact Kept.bytes (by assumption) | skip)
    | with_reducible first
                     | apply kept_ite | apply onPort_kept
    | (with_reducible apply each_kept; intro _ _ _; beta_reduce)
    | split

theorem runFabricCommit_kept {mb : Nat} {m : Mailbox} (h : Kept o s) : Kept o (runFabricCommit mb m s) := by
  unfold runFabricCommit
  repeat' first
    | with_reducible assumption
    | (intro x; first | (refine kept_cut (P := Kept o x) ?_ ?_; rotate_left; dsimp only [x]; rotate_left; intro hx; clear_value x) | skip)
    | lift_lets
    | (simp only [kept_cons]; with_reducible apply kept_mk <;> first | with_reducible assumption | rfl | exact Kept.bytes (by assumption) | skip)
    | with_reducible first
                     | apply kept_ite | apply answer_kept | apply insertSwap_kept | apply setWait_kept | apply releaseHeld_kept
    | split

theorem openLocal_kept {n : Nat} {w : Window} (h : Kept o s) : Kept o (openLocal n w s) := by
  unfold openLocal
  repeat' first
    | with_reducible assumption
    | (intro x; first | (refine kept_cut (P := Kept o x) ?_ ?_; rotate_left; dsimp only [x]; rotate_left; intro hx; clear_value x) | skip)
    | lift_lets
    | (simp only [kept_cons]; with_reducible apply kept_mk <;> first | with_reducible assumption | rfl | exact Kept.bytes (by assumption) | skip)
    | with_reducible first
                     | apply kept_ite
    | split

theorem runWindowOpen_kept {mb : Nat} {m : Mailbox} (h : Kept o s) : Kept o (runWindowOpen mb m s) := by
  unfold runWindowOpen
  repeat' first
    | with_reducible assumption
    | (intro x; first | (refine kept_cut (P := Kept o x) ?_ ?_; rotate_left; dsimp only [x]; rotate_left; intro hx; clear_value x) | skip)
    | lift_lets
    | (simp only [kept_cons]; with_reducible apply kept_mk <;> first | with_reducible assumption | rfl | exact Kept.bytes (by assumption) | skip)
    | with_reducible first
                     | apply kept_ite | apply answer_kept | apply respond_kept | apply openLocal_kept
    | split

theorem runWindowCloseLocal_kept {mb : Nat} {m : Mailbox} (h : Kept o s) : Kept o (runWindowCloseLocal mb m s) := by
  unfold runWindowCloseLocal
  repeat' first
    | with_reducible assumption
    | (intro x; first | (refine kept_cut (P := Kept o x) ?_ ?_; rotate_left; dsimp only [x]; rotate_left; intro hx; clear_value x) | skip)
    | lift_lets
    | (simp only [kept_cons]; with_reducible apply kept_mk <;> first | with_reducible assumption | rfl | exact Kept.bytes (by assumption) | skip)
    | with_reducible first
                     | apply kept_ite | apply answer_kept | apply setWait_kept
    | split

theorem runWindowCloseProxy_kept {mb : Nat} {m : Mailbox} (h : Kept o s) : Kept o (runWindowCloseProxy mb m s) := by
  unfold runWindowCloseProxy
  repeat' first
    | with_reducible assumption
    | (intro x; first | (refine kept_cut (P := Kept o x) ?_ ?_; rotate_left; dsimp only [x]; rotate_left; intro hx; clear_value x) | skip)
    | lift_lets
    | (simp only [kept_cons]; with_reducible apply kept_mk <;> first | with_reducible assumption | rfl | exact Kept.bytes (by assumption) | skip)
    | with_reducible first
                     | apply kept_ite | apply answer_kept | apply setWait_kept
    | split

end Sys2Proof.Machine
end

