-- ==== Sys2Proof/Laws/KeptRecovery.lean ====
section
/-! SUPPORT. What the operations of Machine.Recovery keep. -/

set_option linter.unusedTactic false
set_option linter.unreachableTactic false
set_option linter.unusedSimpArgs false

namespace Sys2Proof.Machine

variable {o s : State}

theorem runCrumbCheck_kept {mb : Nat} {m : Mailbox} (h : Kept o s) : Kept o (runCrumbCheck mb m s) := by
  unfold runCrumbCheck
  repeat' first
    | with_reducible assumption
    | (intro x; first | (refine kept_cut (P := Kept o x) ?_ ?_; rotate_left; dsimp only [x]; rotate_left; intro hx; clear_value x) | skip)
    | lift_lets
    | (simp only [kept_cons]; with_reducible apply kept_mk <;> first | with_reducible assumption | rfl | exact Kept.bytes (by assumption) | skip)
    | with_reducible first
                     | apply kept_ite | apply answer_kept | apply setWait_kept | apply dropProvisional_kept
    | split

theorem beginSweep_kept {c : Crumb} (h : Kept o s) : Kept o (beginSweep c s) := by
  have h1 := fresh_kept h
  exact kept_cons.mpr (kept_mk h1 h1.bytes rfl rfl rfl rfl rfl rfl rfl rfl rfl rfl rfl)

theorem finishSweep_kept (h : Kept o s) : Kept o (finishSweep s) := by
  unfold finishSweep
  repeat' first
    | with_reducible assumption
    | (intro x; first | (refine kept_cut (P := Kept o x) ?_ ?_; rotate_left; dsimp only [x]; rotate_left; intro hx; clear_value x) | skip)
    | lift_lets
    | (simp only [kept_cons]; with_reducible apply kept_mk <;> first | with_reducible assumption | rfl | exact Kept.bytes (by assumption) | skip)
    | with_reducible first
                     | apply kept_ite | apply settleMoves_kept | apply retireTile_kept | apply endCrumb_kept
    | (with_reducible apply each_kept; intro _ _ _; beta_reduce)
    | split

theorem crumbRun_kept {tile partner : Nat} {sig sigPartner : Word64} {reruns : List (Nat × Word64)} (h : Kept o s) : Kept o (crumbRun tile partner sig sigPartner reruns s) := by
  unfold crumbRun
  repeat' first
    | with_reducible assumption
    | (intro x; first | (refine kept_cut (P := Kept o x) ?_ ?_; rotate_left; dsimp only [x]; rotate_left; intro hx; clear_value x) | skip)
    | lift_lets
    | (simp only [kept_cons]; with_reducible apply kept_mk <;> first | with_reducible assumption | rfl | exact Kept.bytes (by assumption) | skip)
    | with_reducible first
                     | apply kept_ite | apply comparePair_kept | apply crumbProgram_kept | apply finishSweep_kept
    | split

theorem replaceTile_kept {p : Nat} (h : Kept o s) : Kept o (replaceTile p s) := by
  unfold replaceTile
  repeat' first
    | with_reducible assumption
    | (intro x; first | (refine kept_cut (P := Kept o x) ?_ ?_; rotate_left; dsimp only [x]; rotate_left; intro hx; clear_value x) | skip)
    | lift_lets
    | (simp only [kept_cons]; with_reducible apply kept_mk <;> first | with_reducible assumption | rfl | exact Kept.bytes (by assumption) | skip)
    | with_reducible first
                     | apply kept_ite | apply raise_kept | apply startMove_kept
    | split

theorem resetRetire_kept (h : Kept o s) : Kept o (resetRetire s) := by
  unfold resetRetire
  repeat' first
    | with_reducible assumption
    | (intro x; first | (refine kept_cut (P := Kept o x) ?_ ?_; rotate_left; dsimp only [x]; rotate_left; intro hx; clear_value x) | skip)
    | lift_lets
    | (simp only [kept_cons]; with_reducible apply kept_mk <;> first | with_reducible assumption | rfl | exact Kept.bytes (by assumption) | skip)
    | with_reducible first
                     | apply kept_ite | apply settleMoves_kept | apply retireTile_kept | apply replaceTile_kept
    | (with_reducible apply each_kept; intro _ _ _; beta_reduce)
    | split

theorem clearCompute_kept (h : Kept o s) : Kept o (clearCompute s) := by
  unfold clearCompute
  repeat' first
    | with_reducible assumption
    | (intro x; first | (refine kept_cut (P := Kept o x) ?_ ?_; rotate_left; dsimp only [x]; rotate_left; intro hx; clear_value x) | skip)
    | lift_lets
    | (simp only [kept_cons]; with_reducible apply kept_mk <;> first | with_reducible assumption | rfl | exact Kept.bytes (by assumption) | skip)
    | with_reducible first
                     | apply kept_ite
    | split

theorem enterService_kept (h : Kept o s) : Kept o (enterService s) := by
  unfold enterService
  repeat' first
    | with_reducible assumption
    | (intro x; first | (refine kept_cut (P := Kept o x) ?_ ?_; rotate_left; dsimp only [x]; rotate_left; intro hx; clear_value x) | skip)
    | lift_lets
    | (simp only [kept_cons]; with_reducible apply kept_mk <;> first | with_reducible assumption | rfl | exact Kept.bytes (by assumption) | skip)
    | with_reducible first
                     | apply kept_ite | apply setDev_kept
    | split

theorem answerResets_kept (h : Kept o s) : Kept o (answerResets s) := by
  unfold answerResets
  repeat' first
    | with_reducible assumption
    | (intro x; first | (refine kept_cut (P := Kept o x) ?_ ?_; rotate_left; dsimp only [x]; rotate_left; intro hx; clear_value x) | skip)
    | lift_lets
    | (simp only [kept_cons]; with_reducible apply kept_mk <;> first | with_reducible assumption | rfl | exact Kept.bytes (by assumption) | skip)
    | with_reducible first
                     | apply kept_ite | apply answer_kept
    | (with_reducible apply each_kept; intro _ _ _; beta_reduce)
    | split

theorem requalifySweep_kept (h : Kept o s) : Kept o (requalifySweep s) := by
  unfold requalifySweep
  repeat' first
    | with_reducible assumption
    | (intro x; first | (refine kept_cut (P := Kept o x) ?_ ?_; rotate_left; dsimp only [x]; rotate_left; intro hx; clear_value x) | skip)
    | lift_lets
    | (simp only [kept_cons]; with_reducible apply kept_mk <;> first | with_reducible assumption | rfl | exact Kept.bytes (by assumption) | skip)
    | with_reducible first
                     | apply kept_ite | apply beginSweep_kept
    | split

theorem endReset_kept (h : Kept o s) : Kept o (endReset s) := by
  unfold endReset
  repeat' first
    | with_reducible assumption
    | (intro x; first | (refine kept_cut (P := Kept o x) ?_ ?_; rotate_left; dsimp only [x]; rotate_left; intro hx; clear_value x) | skip)
    | lift_lets
    | (simp only [kept_cons]; with_reducible apply kept_mk <;> first | with_reducible assumption | rfl | exact Kept.bytes (by assumption) | skip)
    | with_reducible first
                     | apply kept_ite | apply clearCompute_kept | apply enterService_kept | apply answerResets_kept
                     | apply requalifySweep_kept
    | split

theorem completeReset_kept {failTiles : List Nat} {lostUnits : List Source} (h : Kept o s) : Kept o (completeReset failTiles lostUnits s) := by
  unfold completeReset
  repeat' first
    | with_reducible assumption
    | (intro x; first | (refine kept_cut (P := Kept o x) ?_ ?_; rotate_left; dsimp only [x]; rotate_left; intro hx; clear_value x) | skip)
    | lift_lets
    | (simp only [kept_cons]; with_reducible apply kept_mk <;> first | with_reducible assumption | rfl | exact Kept.bytes (by assumption) | skip)
    | with_reducible first
                     | apply kept_ite | apply raise_kept | apply memLost_kept | apply settleMoves_kept | apply resetRetire_kept
                     | apply endReset_kept
    | (with_reducible apply each_kept; intro _ _ _; beta_reduce)
    | split

theorem runRequalify_kept {mb : Nat} {_u1 : Mailbox} (h : Kept o s) : Kept o (runRequalify mb _u1 s) := by
  unfold runRequalify
  repeat' first
    | with_reducible assumption
    | (intro x; first | (refine kept_cut (P := Kept o x) ?_ ?_; rotate_left; dsimp only [x]; rotate_left; intro hx; clear_value x) | skip)
    | lift_lets
    | (simp only [kept_cons]; with_reducible apply kept_mk <;> first | with_reducible assumption | rfl | exact Kept.bytes (by assumption) | skip)
    | with_reducible first
                     | apply kept_ite | apply answer_kept | apply beginReset_kept | apply setWait_kept
    | split

theorem passRequalify_kept {mb : Nat} (h : Kept o s) : Kept o (passRequalify mb s) := by
  unfold passRequalify
  repeat' first
    | with_reducible assumption
    | (intro x; first | (refine kept_cut (P := Kept o x) ?_ ?_; rotate_left; dsimp only [x]; rotate_left; intro hx; clear_value x) | skip)
    | lift_lets
    | (simp only [kept_cons]; with_reducible apply kept_mk <;> first | with_reducible assumption | rfl | exact Kept.bytes (by assumption) | skip)
    | with_reducible first
                     | apply kept_ite | apply setDev_kept | apply answer_kept | apply fatalTransit_kept
    | split

theorem testFail_kept {u : Source} (h : Kept o s) : Kept o (testFail u s) := by
  unfold testFail
  repeat' first
    | with_reducible assumption
    | (intro x; first | (refine kept_cut (P := Kept o x) ?_ ?_; rotate_left; dsimp only [x]; rotate_left; intro hx; clear_value x) | skip)
    | lift_lets
    | (simp only [kept_cons]; with_reducible apply kept_mk <;> first | with_reducible assumption | rfl | exact Kept.bytes (by assumption) | skip)
    | with_reducible first
                     | apply kept_ite | apply raise_kept
    | split

theorem requalifyStep_kept {n : Nat} (h : Kept o s) : Kept o (requalifyStep n s) := by
  unfold requalifyStep
  repeat' first
    | with_reducible assumption
    | (intro x; first | (refine kept_cut (P := Kept o x) ?_ ?_; rotate_left; dsimp only [x]; rotate_left; intro hx; clear_value x) | skip)
    | lift_lets
    | (simp only [kept_cons]; with_reducible apply kept_mk <;> first | with_reducible assumption | rfl | exact Kept.bytes (by assumption) | skip)
    | with_reducible first
                     | apply kept_ite
    | split

theorem softRepair_kept {rows : List RowRef} (h : Kept o s) : Kept o (softRepair rows s) := by
  unfold softRepair
  repeat' first
    | with_reducible assumption
    | (intro x; first | (refine kept_cut (P := Kept o x) ?_ ?_; rotate_left; dsimp only [x]; rotate_left; intro hx; clear_value x) | skip)
    | lift_lets
    | (simp only [kept_cons]; with_reducible apply kept_mk <;> first | with_reducible assumption | rfl | exact Kept.bytes (by assumption) | skip)
    | with_reducible first
                     | apply kept_ite | apply repairRow_kept
    | (with_reducible apply each_kept; intro _ _ _; beta_reduce)
    | split

theorem requalifyTest_kept {found : TestResult} (h : Kept o s) : Kept o (requalifyTest found s) := by
  unfold requalifyTest
  repeat' first
    | with_reducible assumption
    | (intro x; first | (refine kept_cut (P := Kept o x) ?_ ?_; rotate_left; dsimp only [x]; rotate_left; intro hx; clear_value x) | skip)
    | lift_lets
    | (simp only [kept_cons]; with_reducible apply kept_mk <;> first | with_reducible assumption | rfl | exact Kept.bytes (by assumption) | skip)
    | with_reducible first
                     | apply kept_ite | apply failRequalify_kept | apply memLost_kept | apply settleMoves_kept
                     | apply retireTile_kept | apply portDown_kept | apply releaseHeld_kept | apply passRequalify_kept
                     | apply testFail_kept | apply requalifyStep_kept | apply softRepair_kept
    | (with_reducible apply each_kept; intro _ _ _; beta_reduce)
    | split

theorem restartFenced_kept {code : Cond} (h : Kept o s) : Kept o (restartFenced code s) := by
  unfold restartFenced
  repeat' first
    | with_reducible assumption
    | (intro x; first | (refine kept_cut (P := Kept o x) ?_ ?_; rotate_left; dsimp only [x]; rotate_left; intro hx; clear_value x) | skip)
    | lift_lets
    | (simp only [kept_cons]; with_reducible apply kept_mk <;> first | with_reducible assumption | rfl | exact Kept.bytes (by assumption) | skip)
    | with_reducible first
                     | apply kept_ite | apply fence_kept | apply dropJob_kept | apply stopOscillators_kept | apply dropCrumb_kept
                     | apply fatalTransit_kept
    | split

theorem restartReset_kept {code : Cond} (h : Kept o s) : Kept o (restartReset code s) := by
  unfold restartReset
  repeat' first
    | with_reducible assumption
    | (intro x; first | (refine kept_cut (P := Kept o x) ?_ ?_; rotate_left; dsimp only [x]; rotate_left; intro hx; clear_value x) | skip)
    | lift_lets
    | (simp only [kept_cons]; with_reducible apply kept_mk <;> first | with_reducible assumption | rfl | exact Kept.bytes (by assumption) | skip)
    | with_reducible first
                     | apply kept_ite | apply record_kept | apply captureDump_kept | apply wipe_kept | apply fence_kept
                     | apply startReset_kept | apply restartFenced_kept
    | split

theorem recordCause_kept {cause : Option Cond} (h : Kept o s) : Kept o (recordCause cause s) := by
  unfold recordCause
  repeat' first
    | with_reducible assumption
    | (intro x; first | (refine kept_cut (P := Kept o x) ?_ ?_; rotate_left; dsimp only [x]; rotate_left; intro hx; clear_value x) | skip)
    | lift_lets
    | (simp only [kept_cons]; with_reducible apply kept_mk <;> first | with_reducible assumption | rfl | exact Kept.bytes (by assumption) | skip)
    | with_reducible first
                     | apply kept_ite | apply record_kept
    | split

theorem dropShutdown_kept (h : Kept o s) : Kept o (dropShutdown s) := by
  unfold dropShutdown
  repeat' first
    | with_reducible assumption
    | (intro x; first | (refine kept_cut (P := Kept o x) ?_ ?_; rotate_left; dsimp only [x]; rotate_left; intro hx; clear_value x) | skip)
    | lift_lets
    | (simp only [kept_cons]; with_reducible apply kept_mk <;> first | with_reducible assumption | rfl | exact Kept.bytes (by assumption) | skip)
    | with_reducible first
                     | apply kept_ite
    | split

theorem fenumRestart_kept {cause : Option Cond} (h : Kept o s) : Kept o (fenumRestart cause s) := by
  unfold fenumRestart
  repeat' first
    | with_reducible assumption
    | (intro x; first | (refine kept_cut (P := Kept o x) ?_ ?_; rotate_left; dsimp only [x]; rotate_left; intro hx; clear_value x) | skip)
    | lift_lets
    | (simp only [kept_cons]; with_reducible apply kept_mk <;> first | with_reducible assumption | rfl | exact Kept.bytes (by assumption) | skip)
    | with_reducible first
                     | apply kept_ite | apply setDev_kept | apply record_kept | apply restartFenced_kept | apply restartReset_kept
                     | apply recordCause_kept | apply dropShutdown_kept
    | split

theorem restartSlot_kept {started : Bool} (h : Kept o s) : Kept o (restartSlot started s) := by
  unfold restartSlot
  repeat' first
    | with_reducible assumption
    | (intro x; first | (refine kept_cut (P := Kept o x) ?_ ?_; rotate_left; dsimp only [x]; rotate_left; intro hx; clear_value x) | skip)
    | lift_lets
    | (simp only [kept_cons]; with_reducible apply kept_mk <;> first | with_reducible assumption | rfl | exact Kept.bytes (by assumption) | skip)
    | with_reducible first
                     | apply kept_ite | apply record_kept
    | split

theorem answerRestart_kept {act : Option Nat} {started : Bool} (h : Kept o s) : Kept o (answerRestart act started s) := by
  unfold answerRestart
  repeat' first
    | with_reducible assumption
    | (intro x; first | (refine kept_cut (P := Kept o x) ?_ ?_; rotate_left; dsimp only [x]; rotate_left; intro hx; clear_value x) | skip)
    | lift_lets
    | (simp only [kept_cons]; with_reducible apply kept_mk <;> first | with_reducible assumption | rfl | exact Kept.bytes (by assumption) | skip)
    | with_reducible first
                     | apply kept_ite | apply answer_kept | apply respond_kept
    | (with_reducible apply each_kept; intro _ _ _; beta_reduce)
    | split

theorem catchUpFloods_kept (h : Kept o s) : Kept o (catchUpFloods s) := by
  unfold catchUpFloods
  repeat' first
    | with_reducible assumption
    | (intro x; first | (refine kept_cut (P := Kept o x) ?_ ?_; rotate_left; dsimp only [x]; rotate_left; intro hx; clear_value x) | skip)
    | lift_lets
    | (simp only [kept_cons]; with_reducible apply kept_mk <;> first | with_reducible assumption | rfl | exact Kept.bytes (by assumption) | skip)
    | with_reducible first
                     | apply kept_ite | apply raise_kept | apply handleFlood_kept
    | (with_reducible apply each_kept; intro _ _ _; beta_reduce)
    | split

theorem firmwareRuns_kept {started : Bool} (h : Kept o s) : Kept o (firmwareRuns started s) := by
  unfold firmwareRuns
  repeat' first
    | with_reducible assumption
    | (intro x; first | (refine kept_cut (P := Kept o x) ?_ ?_; rotate_left; dsimp only [x]; rotate_left; intro hx; clear_value x) | skip)
    | lift_lets
    | (simp only [kept_cons]; with_reducible apply kept_mk <;> first | with_reducible assumption | rfl | exact Kept.bytes (by assumption) | skip)
    | with_reducible first
                     | apply kept_ite | apply wipe_kept | apply restartSlot_kept | apply answerRestart_kept
                     | apply catchUpFloods_kept
    | split

theorem activateStaged_kept {m : Mailbox} {t : State} (h : Kept o s) (e : activateStaged m s = .inr t) : Kept o t := by
  unfold activateStaged at e
  split at e
  · cases e
  · split at e
    · cases e
    · cases e
      exact kept_cons.mpr (kept_mk h h.bytes rfl rfl rfl rfl rfl rfl rfl rfl rfl rfl rfl)

theorem runFwActivate_kept {mb : Nat} {m : Mailbox} (h : Kept o s) : Kept o (runFwActivate mb m s) := by
  unfold runFwActivate
  refine kept_ite (answer_kept h) ?_
  split
  · exact answer_kept h
  · have h1 := activateStaged_kept h ‹_›
    exact fenumRestart_kept (setWait_kept (kept_cons.mpr (kept_mk h1 h1.bytes rfl rfl rfl rfl rfl rfl rfl rfl rfl rfl rfl)))

theorem runFwActivateAtBoot_kept {mb : Nat} {m : Mailbox} (h : Kept o s) : Kept o (runFwActivateAtBoot mb m s) := by
  unfold runFwActivateAtBoot
  split
  · exact answer_kept h
  · exact respond_kept (activateStaged_kept h ‹_›)

end Sys2Proof.Machine
end

