-- ==== Sys2Proof/Laws/KeptRecords.lean ====
section
/-! SUPPORT. What the operations of Machine.Records keep. -/

set_option linter.unusedTactic false
set_option linter.unreachableTactic false
set_option linter.unusedSimpArgs false

namespace Sys2Proof.Machine

variable {o s : State}

theorem runReadEvents_kept {mb : Nat} {m : Mailbox} (h : Kept o s) : Kept o (runReadEvents mb m s) := by
  unfold runReadEvents
  repeat' first
    | with_reducible assumption
    | (intro x; first | (refine kept_cut (P := Kept o x) ?_ ?_; rotate_left; dsimp only [x]; rotate_left; intro hx; clear_value x) | skip)
    | lift_lets
    | (simp only [kept_cons]; with_reducible apply kept_mk <;> first | with_reducible assumption | rfl | exact Kept.bytes (by assumption) | skip)
    | with_reducible first
                     | apply kept_ite | apply answer_kept | apply respond_kept
    | split

/-- The event area of the NOR flash holds records numbered from 1 to the limit, no more than it has room for. -/
structure AreaSound (n0 n : Nor) : Prop where
  size : n.events.length ≤ 524288
  seqs : ∀ x ∈ n.events, 1 ≤ x.seq ∧ x.seq ≤ n0.seqLimit
  limit : n.seqLimit = n0.seqLimit
  serial : n.serial = n0.serial
  minSvn : n.minSvn = n0.minSvn

theorem persistOne_sound {n0 n : Nor} {e : EventRec} (h : AreaSound n0 n) (he : 1 ≤ e.seq ∧ e.seq ≤ n0.seqLimit) : AreaSound n0 (persistOne e n) := by
  unfold persistOne
  split
  · exact ⟨h.size, h.seqs, h.limit, h.serial, h.minSvn⟩
  · rename_i l hl
    obtain ⟨h1, h2⟩ := storeRecord_spec hl h.size
    refine ⟨h1, fun x hx => ?_, h.limit, h.serial, h.minSvn⟩
    rcases h2 x hx with rfl | hx
    · exact he
    · exact h.seqs x hx

theorem persistAll_sound {n0 : Nor} (l : List EventRec) : ∀ {n : Nor}, AreaSound n0 n → (∀ e ∈ l, 1 ≤ e.seq ∧ e.seq ≤ n0.seqLimit) →
    AreaSound n0 (each persistOne l n) := by
  induction l with
  | nil => intro n h _; exact h
  | cons e l ih =>
    intro n h he
    exact ih (persistOne_sound h (he e (List.mem_cons_self ..))) (fun x hx => he x (List.mem_cons_of_mem _ hx))

theorem persistTo_kept {hi : Nat} (h : Kept o s) : Kept o (persistTo hi s) := by
  unfold persistTo
  obtain ⟨a1, a2, a3, a4, a5⟩ := persistAll_sound (n0 := s.nor) (s.unpersisted hi) ⟨h.area', h.areaSeq', rfl, rfl, rfl⟩ (fun e he => by
    have := h.ringSeq' e (List.mem_filter.mp (List.mem_mergeSort.mp he)).1
    exact ⟨this.1, Nat.le_trans this.2 h.head'⟩)
  exact events_kept h h.ring' h.ringSeq' h.trace' (by rw [a3]; exact h.head') h.dropped' a1 (by rw [a3]; exact a2) a4 (Nat.le_of_eq a5.symm)

theorem persistAll_kept (h : Kept o s) : Kept o (persistAll s) := by
  unfold persistAll
  repeat' first
    | with_reducible assumption
    | (intro x; first | (refine kept_cut (P := Kept o x) ?_ ?_; rotate_left; dsimp only [x]; rotate_left; intro hx; clear_value x) | skip)
    | lift_lets
    | (simp only [kept_cons]; with_reducible apply kept_mk <;> first | with_reducible assumption | rfl | exact Kept.bytes (by assumption) | skip)
    | with_reducible first
                     | apply kept_ite | apply persistTo_kept
    | split

theorem norWriteFail_kept (h : Kept o s) : Kept o (norWriteFail s) := by
  unfold norWriteFail
  repeat' first
    | with_reducible assumption
    | (intro x; first | (refine kept_cut (P := Kept o x) ?_ ?_; rotate_left; dsimp only [x]; rotate_left; intro hx; clear_value x) | skip)
    | lift_lets
    | (simp only [kept_cons]; with_reducible apply kept_mk <;> first | with_reducible assumption | rfl | exact Kept.bytes (by assumption) | skip)
    | with_reducible first
                     | apply kept_ite | apply record_kept
    | split

theorem runClearEventsNonce_kept {mb : Nat} {_u1 : Mailbox} (h : Kept o s) : Kept o (runClearEventsNonce mb _u1 s) := by
  have h1 := fresh_kept h
  exact respond_kept (kept_cons.mpr (kept_mk h1 h1.bytes rfl rfl rfl rfl rfl rfl rfl rfl rfl rfl rfl))

theorem applyClear_kept {mb first last : Nat} {key : Word64} (h : Kept o s) : Kept o (applyClear mb first last key s) := by
  unfold applyClear
  exact respond_kept (persistAll_kept (raise_kept (events_kept h (Nat.le_trans (List.length_filter_le _ _) h.ring')
    (fun x hx => h.ringSeq' x (List.mem_filter.mp hx).1) h.trace' h.head' h.dropped' (Nat.le_trans (List.length_filter_le _ _) h.area')
    (fun x hx => h.areaSeq' x (List.mem_filter.mp hx).1) rfl (Nat.le_refl _))))

theorem runClearEventsClear_kept {mb : Nat} {m : Mailbox} (h : Kept o s) : Kept o (runClearEventsClear mb m s) := by
  unfold runClearEventsClear
  repeat' first
    | with_reducible assumption
    | (intro x; first | (refine kept_cut (P := Kept o x) ?_ ?_; rotate_left; dsimp only [x]; rotate_left; intro hx; clear_value x) | skip)
    | lift_lets
    | (simp only [kept_cons]; with_reducible apply kept_mk <;> first | with_reducible assumption | rfl | exact Kept.bytes (by assumption) | skip)
    | with_reducible first
                     | apply kept_ite | apply answer_kept | apply setWait_kept | apply applyClear_kept
    | split

theorem runClearSticky_kept {mb : Nat} {m : Mailbox} (h : Kept o s) : Kept o (runClearSticky mb m s) := by
  unfold runClearSticky
  repeat' first
    | with_reducible assumption
    | (intro x; first | (refine kept_cut (P := Kept o x) ?_ ?_; rotate_left; dsimp only [x]; rotate_left; intro hx; clear_value x) | skip)
    | lift_lets
    | (simp only [kept_cons]; with_reducible apply kept_mk <;> first | with_reducible assumption | rfl | exact Kept.bytes (by assumption) | skip)
    | with_reducible first
                     | apply kept_ite | apply answer_kept | apply respond_kept | apply raise_kept
    | split

theorem runGetDump_kept {mb : Nat} {m : Mailbox} (h : Kept o s) : Kept o (runGetDump mb m s) := by
  unfold runGetDump
  repeat' first
    | with_reducible assumption
    | (intro x; first | (refine kept_cut (P := Kept o x) ?_ ?_; rotate_left; dsimp only [x]; rotate_left; intro hx; clear_value x) | skip)
    | lift_lets
    | (simp only [kept_cons]; with_reducible apply kept_mk <;> first | with_reducible assumption | rfl | exact Kept.bytes (by assumption) | skip)
    | with_reducible first
                     | apply kept_ite | apply answer_kept | apply respond_kept | apply setWait_kept
    | split

theorem finishDumpCopy_kept (h : Kept o s) : Kept o (finishDumpCopy s) := by
  unfold finishDumpCopy
  repeat' first
    | with_reducible assumption
    | (intro x; first | (refine kept_cut (P := Kept o x) ?_ ?_; rotate_left; dsimp only [x]; rotate_left; intro hx; clear_value x) | skip)
    | lift_lets
    | (simp only [kept_cons]; with_reducible apply kept_mk <;> first | with_reducible assumption | rfl | exact Kept.bytes (by assumption) | skip)
    | with_reducible first
                     | apply kept_ite
    | split

theorem setOther_kept {p : Option FwPackage} (h : Kept o s) : Kept o (setOther p s) := by
  unfold setOther
  cases s.dev.runB <;> exact kept_cons.mpr (kept_mk h h.bytes rfl rfl rfl rfl rfl rfl rfl rfl rfl rfl rfl)

theorem runFwStage_kept {mb : Nat} {m : Mailbox} (h : Kept o s) : Kept o (runFwStage mb m s) := by
  unfold runFwStage
  repeat' first
    | with_reducible assumption
    | (intro x; first | (refine kept_cut (P := Kept o x) ?_ ?_; rotate_left; dsimp only [x]; rotate_left; intro hx; clear_value x) | skip)
    | lift_lets
    | (simp only [kept_cons]; with_reducible apply kept_mk <;> first | with_reducible assumption | rfl | exact Kept.bytes (by assumption) | skip)
    | with_reducible first
                     | apply kept_ite | apply answer_kept | apply setWait_kept
    | split

end Sys2Proof.Machine
end

