-- ==== Sys2Proof/Laws/KeptStart.lean ====
section
/-! SUPPORT. What the operations of Machine.Start keep. -/

set_option linter.unusedTactic false
set_option linter.unreachableTactic false
set_option linter.unusedSimpArgs false

namespace Sys2Proof.Machine

variable {o s : State}

theorem bootIdentity_kept {uds : Bool} (h : Kept o s) : Kept o (bootIdentity uds s) := by
  unfold bootIdentity
  repeat' first
    | with_reducible assumption
    | (intro x; first | (refine kept_cut (P := Kept o x) ?_ ?_; rotate_left; dsimp only [x]; rotate_left; intro hx; clear_value x) | skip)
    | lift_lets
    | (simp only [kept_cons]; with_reducible apply kept_mk <;> first | with_reducible assumption | rfl | exact Kept.bytes (by assumption) | skip)
    | with_reducible first
                     | apply kept_ite | apply raise_kept
    | split

theorem slotFallback_kept (h : Kept o s) : Kept o (slotFallback s) := by
  unfold slotFallback
  repeat' first
    | with_reducible assumption
    | (intro x; first | (refine kept_cut (P := Kept o x) ?_ ?_; rotate_left; dsimp only [x]; rotate_left; intro hx; clear_value x) | skip)
    | lift_lets
    | (simp only [kept_cons]; with_reducible apply kept_mk <;> first | with_reducible assumption | rfl | exact Kept.bytes (by assumption) | skip)
    | with_reducible first
                     | apply kept_ite | apply record_kept
    | split

theorem noFirmware_kept (h : Kept o s) : Kept o (noFirmware s) := by
  unfold noFirmware
  repeat' first
    | with_reducible assumption
    | (intro x; first | (refine kept_cut (P := Kept o x) ?_ ?_; rotate_left; dsimp only [x]; rotate_left; intro hx; clear_value x) | skip)
    | lift_lets
    | (simp only [kept_cons]; with_reducible apply kept_mk <;> first | with_reducible assumption | rfl | exact Kept.bytes (by assumption) | skip)
    | with_reducible first
                     | apply kept_ite
    | split

theorem bootSlot_kept (h : Kept o s) : Kept o (bootSlot s) := by
  unfold bootSlot
  have h1 : Kept o (if s.nor.trial then { s with nor := { s.nor with trialCount := s.nor.trialCount + 1 } } else s) :=
    kept_ite (kept_cons.mpr (kept_mk h h.bytes rfl rfl rfl rfl rfl rfl rfl rfl rfl rfl rfl)) h
  have hs : ∀ t : State, Kept o t → Kept o { t with dev := { t.dev with noFirmware := false, startStep := 3 } } := fun t h =>
    kept_cons.mpr (kept_mk h h.bytes rfl rfl rfl rfl rfl rfl rfl rfl rfl rfl rfl)
  exact kept_ite (hs _ h1) (kept_ite (hs _ (slotFallback_kept h1)) (noFirmware_kept h1))

theorem applyBoard_kept (h : Kept o s) : Kept o { s with nor := applyBoard s.nor } := by
  unfold applyBoard
  split <;> exact kept_cons.mpr (kept_mk h h.bytes rfl rfl rfl rfl rfl rfl rfl rfl rfl rfl rfl)

theorem beginStart_kept {uds : Bool} (h : Kept o s) : Kept o (beginStart uds s) := by
  exact bootSlot_kept (bootIdentity_kept (applyBoard_kept h))

theorem startPorts_kept (h : Kept o s) : Kept o (startPorts s) := by
  unfold startPorts
  repeat' first
    | with_reducible assumption
    | (intro x; first | (refine kept_cut (P := Kept o x) ?_ ?_; rotate_left; dsimp only [x]; rotate_left; intro hx; clear_value x) | skip)
    | lift_lets
    | (simp only [kept_cons]; with_reducible apply kept_mk <;> first | with_reducible assumption | rfl | exact Kept.bytes (by assumption) | skip)
    | with_reducible first
                     | apply kept_ite
    | split

theorem startRepairs_kept (h : Kept o s) : Kept o (startRepairs s) := by
  unfold startRepairs
  repeat' first
    | with_reducible assumption
    | (intro x; first | (refine kept_cut (P := Kept o x) ?_ ?_; rotate_left; dsimp only [x]; rotate_left; intro hx; clear_value x) | skip)
    | lift_lets
    | (simp only [kept_cons]; with_reducible apply kept_mk <;> first | with_reducible assumption | rfl | exact Kept.bytes (by assumption) | skip)
    | with_reducible first
                     | apply kept_ite | apply repairRow_kept
    | (with_reducible apply each_kept; intro _ _ _; beta_reduce)
    | split

theorem startFenum_kept {calFail : List Nat} (h : Kept o s) : Kept o (startFenum calFail s) := by
  unfold startFenum
  repeat' first
    | with_reducible assumption
    | (intro x; first | (refine kept_cut (P := Kept o x) ?_ ?_; rotate_left; dsimp only [x]; rotate_left; intro hx; clear_value x) | skip)
    | lift_lets
    | (simp only [kept_cons]; with_reducible apply kept_mk <;> first | with_reducible assumption | rfl | exact Kept.bytes (by assumption) | skip)
    | with_reducible first
                     | apply kept_ite | apply raise_kept | apply startPorts_kept | apply startRepairs_kept
    | (with_reducible apply each_kept; intro _ _ _; beta_reduce)
    | split

theorem foundDefects_kept {origin : Nat} {f : TestResult} (h : Kept o s) : Kept o (foundDefects origin f s) := by
  unfold foundDefects
  repeat' first
    | with_reducible assumption
    | (intro x; first | (refine kept_cut (P := Kept o x) ?_ ?_; rotate_left; dsimp only [x]; rotate_left; intro hx; clear_value x) | skip)
    | lift_lets
    | (simp only [kept_cons]; with_reducible apply kept_mk <;> first | with_reducible assumption | rfl | exact Kept.bytes (by assumption) | skip)
    | with_reducible first
                     | apply kept_ite | apply raise_kept | apply addDefect_kept
    | (with_reducible apply each_kept; intro _ _ _; beta_reduce)
    | split

theorem replaceAtStart_kept {l : Nat} (h : Kept o s) : Kept o (replaceAtStart l s) := by
  unfold replaceAtStart
  repeat' first
    | with_reducible assumption
    | (intro x; first | (refine kept_cut (P := Kept o x) ?_ ?_; rotate_left; dsimp only [x]; rotate_left; intro hx; clear_value x) | skip)
    | lift_lets
    | (simp only [kept_cons]; with_reducible apply kept_mk <;> first | with_reducible assumption | rfl | exact Kept.bytes (by assumption) | skip)
    | with_reducible first
                     | apply kept_ite | apply raise_kept | apply startMove_kept | apply settleMoves_kept
    | split

theorem applyMaps_kept (h : Kept o s) : Kept o (applyMaps s) := by
  unfold applyMaps
  repeat' first
    | with_reducible assumption
    | (intro x; first | (refine kept_cut (P := Kept o x) ?_ ?_; rotate_left; dsimp only [x]; rotate_left; intro hx; clear_value x) | skip)
    | lift_lets
    | (simp only [kept_cons]; with_reducible apply kept_mk <;> first | with_reducible assumption | rfl | exact Kept.bytes (by assumption) | skip)
    | with_reducible first
                     | apply kept_ite | apply onPort_kept | apply onRegion_kept | apply noteRetirement_kept
                     | apply replaceAtStart_kept
    | (with_reducible apply each_kept; intro _ _ _; beta_reduce)
    | assumption
    | exact Kept.pad (by assumption) _
    | split

theorem enterStandby_kept (h : Kept o s) : Kept o (enterStandby s) := by
  unfold enterStandby
  repeat' first
    | with_reducible assumption
    | (intro x; first | (refine kept_cut (P := Kept o x) ?_ ?_; rotate_left; dsimp only [x]; rotate_left; intro hx; clear_value x) | skip)
    | lift_lets
    | (simp only [kept_cons]; with_reducible apply kept_mk <;> first | with_reducible assumption | rfl | exact Kept.bytes (by assumption) | skip)
    | with_reducible first
                     | apply kept_ite | apply setDev_kept | apply wipe_kept | apply checkReserveLow_kept
    | split

theorem completeStart_kept {f : TestResult} (h : Kept o s) : Kept o (completeStart f s) := by
  unfold completeStart
  repeat' first
    | with_reducible assumption
    | (intro x; first | (refine kept_cut (P := Kept o x) ?_ ?_; rotate_left; dsimp only [x]; rotate_left; intro hx; clear_value x) | skip)
    | lift_lets
    | (simp only [kept_cons]; with_reducible apply kept_mk <;> first | with_reducible assumption | rfl | exact Kept.bytes (by assumption) | skip)
    | with_reducible first
                     | apply kept_ite | apply enterHalted_kept | apply raise_kept | apply memLost_kept | apply foundDefects_kept
                     | apply applyMaps_kept | apply enterStandby_kept
    | (with_reducible apply each_kept; intro _ _ _; beta_reduce)
    | split

theorem amendCause_kept {mask : Nat} (h : Kept o s) : Kept o (amendCause mask s) := by
  unfold amendCause
  extract_lets fix
  have hf : ∀ e, (fix e).seq = e.seq := by intro e; simp only [fix]; split <;> rfl
  have hm : ∀ (l : List EventRec) (k : Nat), (∀ x ∈ l, 1 ≤ x.seq ∧ x.seq ≤ k) → ∀ x ∈ l.map fix, 1 ≤ x.seq ∧ x.seq ≤ k := by
    intro l k hl x hx
    obtain ⟨y, hy, rfl⟩ := List.mem_map.mp hx
    rw [hf]; exact hl y hy
  exact events_kept h (by rw [List.length_map]; exact h.ring') (hm _ _ h.ringSeq') h.trace' h.head' h.dropped'
    (by rw [List.length_map]; exact h.area') (hm _ _ h.areaSeq') rfl (Nat.le_refl _)

theorem fastShutdown_kept {cause : BitVec 2} (h : Kept o s) : Kept o (fastShutdown cause s) := by
  unfold fastShutdown
  repeat' first
    | with_reducible assumption
    | (intro x; first | (refine kept_cut (P := Kept o x) ?_ ?_; rotate_left; dsimp only [x]; rotate_left; intro hx; clear_value x) | skip)
    | lift_lets
    | (simp only [kept_cons]; with_reducible apply kept_mk <;> first | with_reducible assumption | rfl | exact Kept.bytes (by assumption) | skip)
    | with_reducible first
                     | apply kept_ite | apply record_kept | apply enterHalted_kept | apply persistAll_kept | apply amendCause_kept
    | split

theorem deviceReset_kept (h : Kept o s) : Kept o (deviceReset s) := by
  unfold deviceReset
  have h1 := mailboxes_kept (setBytes_kept (tiles_kept (l := []) h (by simp)) (m := []) rfl) (l := []) (by simp)
  exact kept_cons.mpr (kept_mk h1 h1.bytes rfl rfl rfl rfl rfl rfl rfl rfl rfl rfl rfl)

theorem resetAndStart_kept (h : Kept o s) : Kept o (resetAndStart s) := by
  unfold resetAndStart
  repeat' first
    | with_reducible assumption
    | (intro x; first | (refine kept_cut (P := Kept o x) ?_ ?_; rotate_left; dsimp only [x]; rotate_left; intro hx; clear_value x) | skip)
    | lift_lets
    | (simp only [kept_cons]; with_reducible apply kept_mk <;> first | with_reducible assumption | rfl | exact Kept.bytes (by assumption) | skip)
    | with_reducible first
                     | apply kept_ite | apply beginStart_kept | apply deviceReset_kept
    | split

theorem takeDeviceReset_kept (h : Kept o s) : Kept o (takeDeviceReset s) := by
  unfold takeDeviceReset
  repeat' first
    | with_reducible assumption
    | (intro x; first | (refine kept_cut (P := Kept o x) ?_ ?_; rotate_left; dsimp only [x]; rotate_left; intro hx; clear_value x) | skip)
    | lift_lets
    | (simp only [kept_cons]; with_reducible apply kept_mk <;> first | with_reducible assumption | rfl | exact Kept.bytes (by assumption) | skip)
    | with_reducible first
                     | apply kept_ite | apply deviceReset_kept
    | split

theorem darkPorts_kept (h : Kept o s) : Kept o (darkPorts s) := by
  unfold darkPorts
  repeat' first
    | with_reducible assumption
    | (intro x; first | (refine kept_cut (P := Kept o x) ?_ ?_; rotate_left; dsimp only [x]; rotate_left; intro hx; clear_value x) | skip)
    | lift_lets
    | (simp only [kept_cons]; with_reducible apply kept_mk <;> first | with_reducible assumption | rfl | exact Kept.bytes (by assumption) | skip)
    | with_reducible first
                     | apply kept_ite
    | split

theorem tapDark_kept (h : Kept o s) : Kept o (tapDark s) := by
  unfold tapDark
  repeat' first
    | with_reducible assumption
    | (intro x; first | (refine kept_cut (P := Kept o x) ?_ ?_; rotate_left; dsimp only [x]; rotate_left; intro hx; clear_value x) | skip)
    | lift_lets
    | (simp only [kept_cons]; with_reducible apply kept_mk <;> first | with_reducible assumption | rfl | exact Kept.bytes (by assumption) | skip)
    | with_reducible first
                     | apply kept_ite | apply darkPorts_kept
    | split

end Sys2Proof.Machine
end

