-- ==== Sys2Proof/Laws/KeptShutdown.lean ====
section
/-! SUPPORT. What the operations of Machine.Shutdown keep. -/

set_option linter.unusedTactic false
set_option linter.unreachableTactic false
set_option linter.unusedSimpArgs false

namespace Sys2Proof.Machine

variable {o s : State}

theorem overtakeResets_kept (h : Kept o s) : Kept o (overtakeResets s) := by
  unfold overtakeResets
  repeat' first
    | with_reducible assumption
    | (intro x; first | (refine kept_cut (P := Kept o x) ?_ ?_; rotate_left; dsimp only [x]; rotate_left; intro hx; clear_value x) | skip)
    | lift_lets
    | (simp only [kept_cons]; with_reducible apply kept_mk <;> first | with_reducible assumption | rfl | exact Kept.bytes (by assumption) | skip)
    | with_reducible first
                     | apply kept_ite | apply answer_kept | apply overtakeRequalify_kept
    | (with_reducible apply each_kept; intro _ _ _; beta_reduce)
    | split

theorem settleRetirements_kept (h : Kept o s) : Kept o (settleRetirements s) := by
  unfold settleRetirements
  repeat' first
    | with_reducible assumption
    | (intro x; first | (refine kept_cut (P := Kept o x) ?_ ?_; rotate_left; dsimp only [x]; rotate_left; intro hx; clear_value x) | skip)
    | lift_lets
    | (simp only [kept_cons]; with_reducible apply kept_mk <;> first | with_reducible assumption | rfl | exact Kept.bytes (by assumption) | skip)
    | with_reducible first
                     | apply kept_ite | apply settleMoves_kept | apply retireAll_kept
    | split

theorem beginShutdown_kept {mb : Nat} (h : Kept o s) : Kept o (beginShutdown mb s) := by
  unfold beginShutdown
  repeat' first
    | with_reducible assumption
    | (intro x; first | (refine kept_cut (P := Kept o x) ?_ ?_; rotate_left; dsimp only [x]; rotate_left; intro hx; clear_value x) | skip)
    | lift_lets
    | (simp only [kept_cons]; with_reducible apply kept_mk <;> first | with_reducible assumption | rfl | exact Kept.bytes (by assumption) | skip)
    | with_reducible first
                     | apply kept_ite | apply setDev_kept | apply fence_kept | apply dropJob_kept | apply fenceCommands_kept
                     | apply dropCrumb_kept | apply overtakeResets_kept | apply settleRetirements_kept
    | split

theorem runShutdown_kept {mb : Nat} {_u1 : Mailbox} (h : Kept o s) : Kept o (runShutdown mb _u1 s) := by
  unfold runShutdown
  repeat' first
    | with_reducible assumption
    | (intro x; first | (refine kept_cut (P := Kept o x) ?_ ?_; rotate_left; dsimp only [x]; rotate_left; intro hx; clear_value x) | skip)
    | lift_lets
    | (simp only [kept_cons]; with_reducible apply kept_mk <;> first | with_reducible assumption | rfl | exact Kept.bytes (by assumption) | skip)
    | with_reducible first
                     | apply kept_ite | apply setWait_kept | apply beginShutdown_kept
    | split

theorem testReplace_kept {p : Nat} (h : Kept o s) : Kept o (testReplace p s) := by
  unfold testReplace
  repeat' first
    | with_reducible assumption
    | (intro x; first | (refine kept_cut (P := Kept o x) ?_ ?_; rotate_left; dsimp only [x]; rotate_left; intro hx; clear_value x) | skip)
    | lift_lets
    | (simp only [kept_cons]; with_reducible apply kept_mk <;> first | with_reducible assumption | rfl | exact Kept.bytes (by assumption) | skip)
    | with_reducible first
                     | apply kept_ite | apply raise_kept | apply setReserve_kept | apply startMove_kept | apply settleMoves_kept
    | split

theorem testFound_kept {f : TestResult} (h : Kept o s) : Kept o (testFound f s) := by
  unfold testFound
  repeat' first
    | with_reducible assumption
    | (intro x; first | (refine kept_cut (P := Kept o x) ?_ ?_; rotate_left; dsimp only [x]; rotate_left; intro hx; clear_value x) | skip)
    | lift_lets
    | (simp only [kept_cons]; with_reducible apply kept_mk <;> first | with_reducible assumption | rfl | exact Kept.bytes (by assumption) | skip)
    | with_reducible first
                     | apply kept_ite | apply onPort_kept | apply countMem_kept | apply raise_kept | apply foundDefects_kept
                     | apply testReplace_kept
    | (with_reducible apply each_kept; intro _ _ _; beta_reduce)
    | split

theorem hardRepair_kept {found : List RowRef} (h : Kept o s) : Kept o (hardRepair found s) := by
  unfold hardRepair
  repeat' first
    | with_reducible assumption
    | (intro x; first | (refine kept_cut (P := Kept o x) ?_ ?_; rotate_left; dsimp only [x]; rotate_left; intro hx; clear_value x) | skip)
    | lift_lets
    | (simp only [kept_cons]; with_reducible apply kept_mk <;> first | with_reducible assumption | rfl | exact Kept.bytes (by assumption) | skip)
    | with_reducible first
                     | apply kept_ite | apply repairRow_kept
    | (with_reducible apply each_kept; intro _ _ _; beta_reduce)
    | split

theorem endPhase_kept {found : TestResult} {repairs : List RowRef} (h : Kept o s) : Kept o (endPhase found repairs s) := by
  unfold endPhase
  repeat' first
    | with_reducible assumption
    | (intro x; first | (refine kept_cut (P := Kept o x) ?_ ?_; rotate_left; dsimp only [x]; rotate_left; intro hx; clear_value x) | skip)
    | lift_lets
    | (simp only [kept_cons]; with_reducible apply kept_mk <;> first | with_reducible assumption | rfl | exact Kept.bytes (by assumption) | skip)
    | with_reducible first
                     | apply kept_ite | apply reparent_kept | apply darkPorts_kept | apply testFound_kept | apply hardRepair_kept
    | split

theorem shutdownRecord_kept (h : Kept o s) : Kept o (shutdownRecord s).2 := freshBytes_kept 2 (freshBytes_kept 1 h)

theorem raiseSvn_kept {result : Nat} (h : Kept o s) : Kept o (raiseSvn result s) := by
  unfold raiseSvn
  split
  · rename_i c
    exact raise_kept (events_kept h h.ring' h.ringSeq' h.trace' h.head' h.dropped' h.area' h.areaSeq' rfl (Nat.le_of_lt c.2))
  · exact h

theorem answerShutdowns_kept (h : Kept o s) : Kept o (answerShutdowns s) := by
  unfold answerShutdowns
  repeat' first
    | with_reducible assumption
    | (intro x; first | (refine kept_cut (P := Kept o x) ?_ ?_; rotate_left; dsimp only [x]; rotate_left; intro hx; clear_value x) | skip)
    | lift_lets
    | (simp only [kept_cons]; with_reducible apply kept_mk <;> first | with_reducible assumption | rfl | exact Kept.bytes (by assumption) | skip)
    | with_reducible first
                     | apply kept_ite | apply answer_kept
    | (with_reducible apply each_kept; intro _ _ _; beta_reduce)
    | split

theorem endShutdown_kept (h : Kept o s) : Kept o (endShutdown s) := by
  unfold endShutdown
  split
  · have h1 := shutdownRecord_kept h
    have h2 : ∀ n : ShutdownRecord, Kept o { (shutdownRecord s).2 with nor := { (shutdownRecord s).2.nor with
        record := some n, tileMap := (shutdownRecord s).2.tests.tileMap } } := fun n =>
      kept_cons.mpr (kept_mk h1 h1.bytes rfl rfl rfl rfl rfl rfl rfl rfl rfl rfl rfl)
    exact enterHalted_kept (answerShutdowns_kept (persistAll_kept (finishDumpCopy_kept (raiseSvn_kept (raise_kept (h2 _))))))
  · exact h

end Sys2Proof.Machine
end

