-- ==== Sys2Proof/Laws/KeptLife.lean ====
section
/-! SUPPORT. What the operations of Machine.Life keep. -/

set_option linter.unusedTactic false
set_option linter.unreachableTactic false
set_option linter.unusedSimpArgs false

namespace Sys2Proof.Machine

variable {o s : State}

theorem spendNonce_kept {b : Body} (h : Kept o s) : Kept o (spendNonce b s) := by
  unfold spendNonce
  repeat' first
    | with_reducible assumption
    | (intro x; first | (refine kept_cut (P := Kept o x) ?_ ?_; rotate_left; dsimp only [x]; rotate_left; intro hx; clear_value x) | skip)
    | lift_lets
    | (simp only [kept_cons]; with_reducible apply kept_mk <;> first | with_reducible assumption | rfl | exact Kept.bytes (by assumption) | skip)
    | with_reducible first
                     | apply kept_ite
    | split

theorem refuseSigned_kept {mb : Nat} (h : Kept o s) : Kept o (refuseSigned mb s) := by
  unfold refuseSigned
  repeat' first
    | with_reducible assumption
    | (intro x; first | (refine kept_cut (P := Kept o x) ?_ ?_; rotate_left; dsimp only [x]; rotate_left; intro hx; clear_value x) | skip)
    | lift_lets
    | (simp only [kept_cons]; with_reducible apply kept_mk <;> first | with_reducible assumption | rfl | exact Kept.bytes (by assumption) | skip)
    | with_reducible first
                     | apply kept_ite | apply answer_kept | apply raise_kept
    | split

theorem runLifecycleGetNonce_kept {mb : Nat} {_u1 : Mailbox} (h : Kept o s) : Kept o (runLifecycleGetNonce mb _u1 s) := by
  have h1 := fresh_kept h
  exact respond_kept (kept_cons.mpr (kept_mk h1 h1.bytes rfl rfl rfl rfl rfl rfl rfl rfl rfl rfl rfl))

theorem eraseUser_kept (h : Kept o s) : Kept o (eraseUser s) := by
  unfold eraseUser
  have h1 := events_kept (e := { dropped := s.evt.dropped, truncated := false }) (n := { s.nor with
    events := [], eventsHead := 0, seqLimit := 0, sticky := 0, dump := none, imageKeys := [], clearKeys := [] }) h (Nat.zero_le _) (by simp) (Nat.zero_le _) (Nat.le_refl _) h.dropped'
    (Nat.zero_le _) (by simp) rfl (Nat.le_refl _)
  exact sent_kept (g := { s.host with dumpMap := none }) h1 rfl List.prefix_rfl List.prefix_rfl

theorem wipeForLife_kept (h : Kept o s) : Kept o (wipeForLife s) := by
  unfold wipeForLife
  repeat' first
    | with_reducible assumption
    | (intro x; first | (refine kept_cut (P := Kept o x) ?_ ?_; rotate_left; dsimp only [x]; rotate_left; intro hx; clear_value x) | skip)
    | lift_lets
    | (simp only [kept_cons]; with_reducible apply kept_mk <;> first | with_reducible assumption | rfl | exact Kept.bytes (by assumption) | skip)
    | with_reducible first
                     | apply kept_ite | apply fence_kept | apply eraseUser_kept
    | split

theorem installState_spec (a b : LifeCycle) (d : List Byte) (n : Nor) : (installState a b d n).events = n.events ∧
    (installState a b d n).seqLimit = n.seqLimit ∧ (installState a b d n).serial = n.serial ∧ (installState a b d n).minSvn = n.minSvn := by
  unfold installState
  dsimp only
  repeat' first | exact ⟨rfl, rfl, rfl, rfl⟩ | split

theorem installKey_spec (k i : Nat) (r : Bool) (d : List Byte) (n : Nor) : (installKey k i r d n).events = n.events ∧
    (installKey k i r d n).seqLimit = n.seqLimit ∧ (installKey k i r d n).serial = n.serial ∧ (installKey k i r d n).minSvn = n.minSvn := by
  unfold installKey
  split <;> exact ⟨rfl, rfl, rfl, rfl⟩

theorem nor_kept {n : Nor} (h : Kept o s) (hn : n.events = s.nor.events ∧ n.seqLimit = s.nor.seqLimit ∧ n.serial = s.nor.serial ∧
    n.minSvn = s.nor.minSvn) : Kept o { s with nor := n } :=
  kept_cons.mpr (kept_mk h h.bytes rfl rfl rfl rfl rfl hn.1 hn.2.1 hn.2.2.1 hn.2.2.2 rfl rfl)

theorem transition_kept {mb : Nat} {new : LifeCycle} {operand : List Byte} (h : Kept o s) : Kept o (transition mb new operand s) := by
  exact resetAndStart_kept (answer_kept (raise_kept (nor_kept (wipeForLife_kept h) (installState_spec _ _ _ _))))

theorem runLifecycleTransition_kept {mb : Nat} {m : Mailbox} (h : Kept o s) : Kept o (runLifecycleTransition mb m s) := by
  unfold runLifecycleTransition
  repeat' first
    | with_reducible assumption
    | (intro x; first | (refine kept_cut (P := Kept o x) ?_ ?_; rotate_left; dsimp only [x]; rotate_left; intro hx; clear_value x) | skip)
    | lift_lets
    | (simp only [kept_cons]; with_reducible apply kept_mk <;> first | with_reducible assumption | rfl | exact Kept.bytes (by assumption) | skip)
    | with_reducible first
                     | apply kept_ite | apply answer_kept | apply spendNonce_kept | apply refuseSigned_kept
                     | apply transition_kept
    | split

theorem runLifecycleInstallKey_kept {mb : Nat} {m : Mailbox} (h : Kept o s) : Kept o (runLifecycleInstallKey mb m s) := by
  unfold runLifecycleInstallKey
  dsimp only
  refine kept_ite (answer_kept h) (kept_ite (answer_kept h) (kept_ite (answer_kept h) ?_))
  split
  · exact answer_kept h
  · exact kept_ite (answer_kept h) (kept_ite (answer_kept h) (kept_ite (answer_kept h) (kept_ite
      (answer_kept (raise_kept (nor_kept (spendNonce_kept h) (installKey_spec _ _ _ _ _)))) (refuseSigned_kept (spendNonce_kept h)))))

theorem unlock_kept {mb level : Nat} (h : Kept o s) : Kept o (unlock mb level s) := by
  unfold unlock
  repeat' first
    | with_reducible assumption
    | (intro x; first | (refine kept_cut (P := Kept o x) ?_ ?_; rotate_left; dsimp only [x]; rotate_left; intro hx; clear_value x) | skip)
    | lift_lets
    | (simp only [kept_cons]; with_reducible apply kept_mk <;> first | with_reducible assumption | rfl | exact Kept.bytes (by assumption) | skip)
    | with_reducible first
                     | apply kept_ite | apply answer_kept | apply raise_kept | apply resetAndStart_kept | apply wipeForLife_kept
    | split

theorem runLifecycleDebugUnlock_kept {mb : Nat} {m : Mailbox} (h : Kept o s) : Kept o (runLifecycleDebugUnlock mb m s) := by
  unfold runLifecycleDebugUnlock
  repeat' first
    | with_reducible assumption
    | (intro x; first | (refine kept_cut (P := Kept o x) ?_ ?_; rotate_left; dsimp only [x]; rotate_left; intro hx; clear_value x) | skip)
    | lift_lets
    | (simp only [kept_cons]; with_reducible apply kept_mk <;> first | with_reducible assumption | rfl | exact Kept.bytes (by assumption) | skip)
    | with_reducible first
                     | apply kept_ite | apply answer_kept | apply spendNonce_kept | apply refuseSigned_kept | apply unlock_kept
    | split

theorem doeAnswer_kept {kind : Nat} {v : BitVec 384} (h : Kept o s) : Kept o (doeAnswer kind v s) := by
  unfold doeAnswer
  repeat' first
    | with_reducible assumption
    | (intro x; first | (refine kept_cut (P := Kept o x) ?_ ?_; rotate_left; dsimp only [x]; rotate_left; intro hx; clear_value x) | skip)
    | lift_lets
    | (simp only [kept_cons]; with_reducible apply kept_mk <;> first | with_reducible assumption | rfl | exact Kept.bytes (by assumption) | skip)
    | with_reducible first
                     | apply kept_ite
    | split

theorem doeError_kept (h : Kept o s) : Kept o (doeError s) := by
  unfold doeError
  repeat' first
    | with_reducible assumption
    | (intro x; first | (refine kept_cut (P := Kept o x) ?_ ?_; rotate_left; dsimp only [x]; rotate_left; intro hx; clear_value x) | skip)
    | lift_lets
    | (simp only [kept_cons]; with_reducible apply kept_mk <;> first | with_reducible assumption | rfl | exact Kept.bytes (by assumption) | skip)
    | with_reducible first
                     | apply kept_ite | apply doeAnswer_kept
    | split

theorem doeFree_kept {kind : Nat} (h : Kept o s) : Kept o (doeFree kind s) := by
  exact doeAnswer_kept (fresh_kept h)

theorem endSpdm_kept (h : Kept o s) : Kept o (endSpdm s) := by
  unfold endSpdm
  repeat' first
    | with_reducible assumption
    | (intro x; first | (refine kept_cut (P := Kept o x) ?_ ?_; rotate_left; dsimp only [x]; rotate_left; intro hx; clear_value x) | skip)
    | lift_lets
    | (simp only [kept_cons]; with_reducible apply kept_mk <;> first | with_reducible assumption | rfl | exact Kept.bytes (by assumption) | skip)
    | with_reducible first
                     | apply kept_ite
    | split

theorem doeRespond_kept {r : DoeRequest} (h : Kept o s) : Kept o (doeRespond r s) := by
  unfold doeRespond
  repeat' first
    | with_reducible assumption
    | (intro x; first | (refine kept_cut (P := Kept o x) ?_ ?_; rotate_left; dsimp only [x]; rotate_left; intro hx; clear_value x) | skip)
    | lift_lets
    | (simp only [kept_cons]; with_reducible apply kept_mk <;> first | with_reducible assumption | rfl | exact Kept.bytes (by assumption) | skip)
    | with_reducible first
                     | apply kept_ite | apply doeAnswer_kept | apply doeError_kept | apply doeFree_kept | apply endSpdm_kept
    | split

end Sys2Proof.Machine
end

