-- ==== Sys2Proof/Laws/KeptHostLink.lean ====
section
/-! SUPPORT. What the operations of Machine.HostLink keep. -/

set_option linter.unusedTactic false
set_option linter.unreachableTactic false
set_option linter.unusedSimpArgs false

namespace Sys2Proof.Machine

variable {o s : State}

theorem mailboxRun_kept {m : Mailbox} {mb : Nat} {x : Mailbox} (h : Kept o s) : Kept o (mailboxRun m mb x s) := by
  unfold mailboxRun
  repeat' first
    | with_reducible assumption
    | (intro x; first | (refine kept_cut (P := Kept o x) ?_ ?_; rotate_left; dsimp only [x]; rotate_left; intro hx; clear_value x) | skip)
    | lift_lets
    | (simp only [kept_cons]; with_reducible apply kept_mk <;> first | with_reducible assumption | rfl | exact Kept.bytes (by assumption) | skip)
    | with_reducible first
                     | apply kept_ite | apply runIdentify_kept | apply runGetStatus_kept | apply runSetPolicy_kept
                     | apply runLoadImage_kept | apply runOpenJob_kept | apply runDeclareLoaves_kept | apply runHostFill_kept
                     | apply runHostDrain_kept | apply runStartJob_kept | apply runResumeJob_kept | apply runPauseJob_kept
                     | apply takeReset_kept | apply runResetCompute_kept | apply runCheckpoint_kept | apply runRestore_kept
                     | apply runFabricPlan_kept | apply runFabricCommit_kept | apply runWindowOpen_kept
                     | apply runWindowCloseLocal_kept | apply runWindowCloseProxy_kept | apply runCrumbCheck_kept
                     | apply runRequalify_kept | apply runFwActivate_kept | apply runFwActivateAtBoot_kept
                     | apply runReadEvents_kept | apply runClearEventsNonce_kept | apply runClearEventsClear_kept
                     | apply runClearSticky_kept | apply runGetDump_kept | apply runFwStage_kept | apply runShutdown_kept
                     | apply runLifecycleGetNonce_kept | apply runLifecycleTransition_kept | apply runLifecycleInstallKey_kept
                     | apply runLifecycleDebugUnlock_kept
    | split

theorem runMailbox_kept {mb : Nat} (h : Kept o s) : Kept o (runMailbox mb s) := by
  exact kept_ite (takeCommand_kept (fun _ _ _ h => mailboxRun_kept h) h) h

theorem scanBoundary_kept (h : Kept o s) : Kept o (scanBoundary s) := by
  unfold scanBoundary
  repeat' first
    | with_reducible assumption
    | (intro x; first | (refine kept_cut (P := Kept o x) ?_ ?_; rotate_left; dsimp only [x]; rotate_left; intro hx; clear_value x) | skip)
    | lift_lets
    | (simp only [kept_cons]; with_reducible apply kept_mk <;> first | with_reducible assumption | rfl | exact Kept.bytes (by assumption) | skip)
    | with_reducible first
                     | apply kept_ite | apply runMailbox_kept
    | (with_reducible apply each_kept; intro _ _ _; beta_reduce)
    | split

theorem refreshPage_kept (h : Kept o s) : Kept o (refreshPage s) := by
  unfold refreshPage
  repeat' first
    | with_reducible assumption
    | (intro x; first | (refine kept_cut (P := Kept o x) ?_ ?_; rotate_left; dsimp only [x]; rotate_left; intro hx; clear_value x) | skip)
    | lift_lets
    | (simp only [kept_cons]; with_reducible apply kept_mk <;> first | with_reducible assumption | rfl | exact Kept.bytes (by assumption) | skip)
    | with_reducible first
                     | apply kept_ite
    | split

theorem mailboxWrite_wf {off v : Nat} {m : Mailbox} (h : Memory.wf m.payload = true) : Memory.wf (mailboxWrite off v m).payload = true := by
  unfold mailboxWrite
  repeat' first | exact h | exact Memory.writeBytes_wf _ _ h | split

theorem ringRegWrite_spec (off v : Nat) (g : HostLink) : (ringRegWrite off v g).mailboxes = g.mailboxes ∧ (ringRegWrite off v g).sent = g.sent ∧
    (ringRegWrite off v g).msix = g.msix := by
  unfold ringRegWrite
  split <;> exact ⟨rfl, rfl, rfl⟩

theorem bar0Dword_kept {off v : Nat} (h : Kept o s) : Kept o (bar0Dword off v s) := by
  unfold bar0Dword
  obtain ⟨e1, e2, e3⟩ := ringRegWrite_spec (off - 0x20000) v s.host
  refine kept_ite (kept_ite h (onMailbox_kept h (fun _ hm => mailboxWrite_wf hm))) (kept_ite ?_ h)
  exact sent_kept h e1 (by rw [e2]) (by rw [e3])

theorem bar0Write_kept {off width : Nat} {v : Word64} (h : Kept o s) : Kept o (bar0Write off width v s) := by
  unfold bar0Write
  repeat' first
    | with_reducible assumption
    | (intro x; first | (refine kept_cut (P := Kept o x) ?_ ?_; rotate_left; dsimp only [x]; rotate_left; intro hx; clear_value x) | skip)
    | lift_lets
    | (simp only [kept_cons]; with_reducible apply kept_mk <;> first | with_reducible assumption | rfl | exact Kept.bytes (by assumption) | skip)
    | with_reducible first
                     | apply kept_ite | apply bar0Dword_kept
    | split

theorem dropTransfer_kept {m : Mailbox} (h : Kept o s) : Kept o (dropTransfer m s) := by
  unfold dropTransfer
  repeat' first
    | with_reducible assumption
    | (intro x; first | (refine kept_cut (P := Kept o x) ?_ ?_; rotate_left; dsimp only [x]; rotate_left; intro hx; clear_value x) | skip)
    | lift_lets
    | (simp only [kept_cons]; with_reducible apply kept_mk <;> first | with_reducible assumption | rfl | exact Kept.bytes (by assumption) | skip)
    | with_reducible first
                     | apply kept_ite | apply setImage_kept | apply freeKept_kept | apply setOther_kept
    | split

theorem dmaFails_kept {mb status : Nat} (h : Kept o s) : Kept o (dmaFails mb status s) := by
  unfold dmaFails
  repeat' first
    | with_reducible assumption
    | (intro x; first | (refine kept_cut (P := Kept o x) ?_ ?_; rotate_left; dsimp only [x]; rotate_left; intro hx; clear_value x) | skip)
    | lift_lets
    | (simp only [kept_cons]; with_reducible apply kept_mk <;> first | with_reducible assumption | rfl | exact Kept.bytes (by assumption) | skip)
    | with_reducible first
                     | apply kept_ite | apply answer_kept | apply dropTransfer_kept
    | split

theorem recordFails_kept (h : Kept o s) : Kept o (recordFails s) := by
  unfold recordFails
  repeat' first
    | with_reducible assumption
    | (intro x; first | (refine kept_cut (P := Kept o x) ?_ ?_; rotate_left; dsimp only [x]; rotate_left; intro hx; clear_value x) | skip)
    | lift_lets
    | (simp only [kept_cons]; with_reducible apply kept_mk <;> first | with_reducible assumption | rfl | exact Kept.bytes (by assumption) | skip)
    | with_reducible first
                     | apply kept_ite
    | split

end Sys2Proof.Machine
end

