-- ==== Sys2Proof/Laws/KeptTick.lean ====
section
/-! SUPPORT. What the operations of Machine.Tick keep. -/

set_option linter.unusedTactic false
set_option linter.unreachableTactic false
set_option linter.unusedSimpArgs false

namespace Sys2Proof.Machine

variable {o s : State}

theorem closeSlot_kept {m : SlotMeasure} (h : Kept o s) : Kept o (closeSlot m s) := by
  unfold closeSlot
  repeat' first
    | with_reducible assumption
    | (intro x; first | (refine kept_cut (P := Kept o x) ?_ ?_; rotate_left; dsimp only [x]; rotate_left; intro hx; clear_value x) | skip)
    | lift_lets
    | (simp only [kept_cons]; with_reducible apply kept_mk <;> first | with_reducible assumption | rfl | exact Kept.bytes (by assumption) | skip)
    | with_reducible first
                     | apply kept_ite | apply receiveReport_kept | apply cancelMigration_kept | apply copyRead_kept
                     | apply areaRead_kept
    | (with_reducible apply each_kept; intro _ _ _; beta_reduce)
    | split

theorem checkResidue_kept (h : Kept o s) : Kept o (checkResidue s) := by
  unfold checkResidue
  cases residue s.tiles with
  | none => exact h
  | some x => exact raise_kept h

theorem checkOverrun_kept (h : Kept o s) : Kept o (checkOverrun s) := by
  unfold checkOverrun
  repeat' first
    | with_reducible assumption
    | (intro x; first | (refine kept_cut (P := Kept o x) ?_ ?_; rotate_left; dsimp only [x]; rotate_left; intro hx; clear_value x) | skip)
    | lift_lets
    | (simp only [kept_cons]; with_reducible apply kept_mk <;> first | with_reducible assumption | rfl | exact Kept.bytes (by assumption) | skip)
    | with_reducible first
                     | apply kept_ite | apply raise_kept
    | split

theorem answerPublished_kept {running : Bool} {localTick : Nat} (h : Kept o s) : Kept o (answerPublished running localTick s) := by
  unfold answerPublished
  repeat' first
    | with_reducible assumption
    | (intro x; first | (refine kept_cut (P := Kept o x) ?_ ?_; rotate_left; dsimp only [x]; rotate_left; intro hx; clear_value x) | skip)
    | lift_lets
    | (simp only [kept_cons]; with_reducible apply kept_mk <;> first | with_reducible assumption | rfl | exact Kept.bytes (by assumption) | skip)
    | with_reducible first
                     | apply kept_ite | apply onJob_kept | apply answer_kept | apply answerLocal_kept
    | (with_reducible apply each_kept; intro _ _ _; beta_reduce)
    | split

theorem advanceWave_kept (h : Kept o s) : Kept o (advanceWave s) := by
  unfold advanceWave
  repeat' first
    | with_reducible assumption
    | (intro x; first | (refine kept_cut (P := Kept o x) ?_ ?_; rotate_left; dsimp only [x]; rotate_left; intro hx; clear_value x) | skip)
    | lift_lets
    | (simp only [kept_cons]; with_reducible apply kept_mk <;> first | with_reducible assumption | rfl | exact Kept.bytes (by assumption) | skip)
    | with_reducible first
                     | apply kept_ite | apply onJob_kept
    | split

theorem growSlip_kept (h : Kept o s) : Kept o (growSlip s) := by
  unfold growSlip
  repeat' first
    | with_reducible assumption
    | (intro x; first | (refine kept_cut (P := Kept o x) ?_ ?_; rotate_left; dsimp only [x]; rotate_left; intro hx; clear_value x) | skip)
    | lift_lets
    | (simp only [kept_cons]; with_reducible apply kept_mk <;> first | with_reducible assumption | rfl | exact Kept.bytes (by assumption) | skip)
    | with_reducible first
                     | apply kept_ite | apply raise_kept
    | split

theorem completeTick_kept (h : Kept o s) : Kept o (completeTick s) := by
  unfold completeTick
  repeat' first
    | with_reducible assumption
    | (intro x; first | (refine kept_cut (P := Kept o x) ?_ ?_; rotate_left; dsimp only [x]; rotate_left; intro hx; clear_value x) | skip)
    | lift_lets
    | (simp only [kept_cons]; with_reducible apply kept_mk <;> first | with_reducible assumption | rfl | exact Kept.bytes (by assumption) | skip)
    | with_reducible first
                     | apply kept_ite | apply onJob_kept | apply advanceWave_kept | apply growSlip_kept
    | split

theorem commitAttempt_kept (h : Kept o s) : Kept o (commitAttempt s) := by
  unfold commitAttempt
  repeat' first
    | with_reducible assumption
    | (intro x; first | (refine kept_cut (P := Kept o x) ?_ ?_; rotate_left; dsimp only [x]; rotate_left; intro hx; clear_value x) | skip)
    | lift_lets
    | (simp only [kept_cons]; with_reducible apply kept_mk <;> first | with_reducible assumption | rfl | exact Kept.bytes (by assumption) | skip)
    | with_reducible first
                     | apply kept_ite | apply onJob_kept | apply judgeVersions_kept | apply commitJournal_kept
                     | apply issueColl_kept | apply releaseOutbound_kept | apply answerPublished_kept | apply completeTick_kept
    | (with_reducible apply each_kept; intro _ _ _; beta_reduce)
    | split

theorem dropWrites_kept (h : Kept o s) : Kept o (dropWrites s) := by
  unfold dropWrites
  repeat' first
    | with_reducible assumption
    | (intro x; first | (refine kept_cut (P := Kept o x) ?_ ?_; rotate_left; dsimp only [x]; rotate_left; intro hx; clear_value x) | skip)
    | lift_lets
    | (simp only [kept_cons]; with_reducible apply kept_mk <;> first | with_reducible assumption | rfl | exact Kept.bytes (by assumption) | skip)
    | with_reducible first
                     | apply kept_ite | apply onJob_kept | apply judgeVersions_kept
    | split

theorem discardAttempt_kept (h : Kept o s) : Kept o (discardAttempt s) := by
  unfold discardAttempt
  repeat' first
    | with_reducible assumption
    | (intro x; first | (refine kept_cut (P := Kept o x) ?_ ?_; rotate_left; dsimp only [x]; rotate_left; intro hx; clear_value x) | skip)
    | lift_lets
    | (simp only [kept_cons]; with_reducible apply kept_mk <;> first | with_reducible assumption | rfl | exact Kept.bytes (by assumption) | skip)
    | with_reducible first
                     | apply kept_ite | apply record_kept | apply growSlip_kept | apply dropWrites_kept
    | split

theorem stopJob_kept (h : Kept o s) : Kept o (stopJob s) := by
  unfold stopJob
  dsimp only
  have h1 := onJob_kept (f := fun j => { j with stopped := true, pausing := none }) (dropWrites_kept h)
  split
  · exact answer_kept (setDev_kept (kept_cons.mpr (kept_mk h1 h1.bytes rfl rfl rfl rfl rfl rfl rfl rfl rfl rfl rfl)))
  · exact setDev_kept (kept_cons.mpr (kept_mk h1 h1.bytes rfl rfl rfl rfl rfl rfl rfl rfl rfl rfl rfl))

theorem containVerdict_kept (h : Kept o s) : Kept o (containVerdict s) := by
  unfold containVerdict
  repeat' first
    | with_reducible assumption
    | (intro x; first | (refine kept_cut (P := Kept o x) ?_ ?_; rotate_left; dsimp only [x]; rotate_left; intro hx; clear_value x) | skip)
    | lift_lets
    | (simp only [kept_cons]; with_reducible apply kept_mk <;> first | with_reducible assumption | rfl | exact Kept.bytes (by assumption) | skip)
    | with_reducible first
                     | apply kept_ite | apply record_kept | apply beginReset_kept
    | split

theorem freshTile_pad (t : Tile) : (freshTile t).pad = t.pad := rfl

theorem openAttempt_kept (h : Kept o s) : Kept o (openAttempt s) := by
  unfold openAttempt
  split
  · exact h
  · have h1 := mapTiles_kept (f := fun x => (x.1, freshTile x.2)) h (fun x => freshTile_pad x.2)
    exact kept_cons.mpr (kept_mk h1 h1.bytes rfl rfl rfl rfl rfl rfl rfl rfl rfl rfl rfl)

theorem openRings_kept (h : Kept o s) : Kept o (openRings s) := by
  unfold openRings
  repeat' first
    | with_reducible assumption
    | (intro x; first | (refine kept_cut (P := Kept o x) ?_ ?_; rotate_left; dsimp only [x]; rotate_left; intro hx; clear_value x) | skip)
    | lift_lets
    | (simp only [kept_cons]; with_reducible apply kept_mk <;> first | with_reducible assumption | rfl | exact Kept.bytes (by assumption) | skip)
    | with_reducible first
                     | apply kept_ite | apply resetRings_kept
    | split

theorem applyVerdict_kept {v : Verdict} (h : Kept o s) : Kept o (applyVerdict v s) := by
  unfold applyVerdict
  repeat' first
    | with_reducible assumption
    | (intro x; first | (refine kept_cut (P := Kept o x) ?_ ?_; rotate_left; dsimp only [x]; rotate_left; intro hx; clear_value x) | skip)
    | lift_lets
    | (simp only [kept_cons]; with_reducible apply kept_mk <;> first | with_reducible assumption | rfl | exact Kept.bytes (by assumption) | skip)
    | with_reducible first
                     | apply kept_ite | apply replayJournal_kept | apply commitAttempt_kept | apply discardAttempt_kept
                     | apply stopJob_kept | apply containVerdict_kept | apply openAttempt_kept
    | split

theorem boundaryActions_kept {us : Nat} {m : SlotMeasure} (h : Kept o s) : Kept o (boundaryActions us m s) := by
  unfold boundaryActions
  repeat' first
    | with_reducible assumption
    | (intro x; first | (refine kept_cut (P := Kept o x) ?_ ?_; rotate_left; dsimp only [x]; rotate_left; intro hx; clear_value x) | skip)
    | lift_lets
    | (simp only [kept_cons]; with_reducible apply kept_mk <;> first | with_reducible assumption | rfl | exact Kept.bytes (by assumption) | skip)
    | with_reducible first
                     | apply kept_ite | apply closeClocks_kept | apply switchState_kept | apply chooseState_kept
                     | apply finishMoves_kept | apply settleMoves_kept | apply retireAll_kept | apply beginRotation_kept
    | split

theorem beginRun_kept (h : Kept o s) : Kept o (beginRun s) := by
  unfold beginRun
  split
  · exact h
  · split
    · exact h
    · refine kept_ite h ?_
      have h1 : ∀ f, Kept o (s.onJob f) := fun f => onJob_kept h
      exact answerLocal_kept (setDev_kept (kept_cons.mpr (kept_mk (h1 _) (h1 _).bytes rfl rfl rfl rfl rfl rfl rfl rfl rfl rfl rfl)))

theorem countUnfit_kept {j : Job} (h : Kept o s) : Kept o (countUnfit j s) := by
  unfold countUnfit
  repeat' first
    | with_reducible assumption
    | (intro x; first | (refine kept_cut (P := Kept o x) ?_ ?_; rotate_left; dsimp only [x]; rotate_left; intro hx; clear_value x) | skip)
    | lift_lets
    | (simp only [kept_cons]; with_reducible apply kept_mk <;> first | with_reducible assumption | rfl | exact Kept.bytes (by assumption) | skip)
    | with_reducible first
                     | apply kept_ite | apply onJob_kept | apply raise_kept
    | split

theorem pushTasks_kept (h : Kept o s) : Kept o (pushTasks s) := by
  unfold pushTasks
  dsimp only
  refine each_kept _ (fun x s h => ?_) (each_kept _ (fun _ _ h => onTile_kept h (fun _ ht => ht)) (mapTiles_kept h (fun _ => rfl)))
  refine updateBoard_kept ?_
  split
  · exact kept_ite h (dropAhead_kept h)
  · exact h

theorem admitSlot_kept (h : Kept o s) : Kept o (admitSlot s) := by
  unfold admitSlot
  repeat' first
    | with_reducible assumption
    | (intro x; first | (refine kept_cut (P := Kept o x) ?_ ?_; rotate_left; dsimp only [x]; rotate_left; intro hx; clear_value x) | skip)
    | lift_lets
    | (simp only [kept_cons]; with_reducible apply kept_mk <;> first | with_reducible assumption | rfl | exact Kept.bytes (by assumption) | skip)
    | with_reducible first
                     | apply kept_ite | apply countUnfit_kept | apply pushTasks_kept
    | split

theorem placementWork_kept {fresh : List Nat} (h : Kept o s) : Kept o (placementWork fresh s) := by
  unfold placementWork
  repeat' first
    | with_reducible assumption
    | (intro x; first | (refine kept_cut (P := Kept o x) ?_ ?_; rotate_left; dsimp only [x]; rotate_left; intro hx; clear_value x) | skip)
    | lift_lets
    | (simp only [kept_cons]; with_reducible apply kept_mk <;> first | with_reducible assumption | rfl | exact Kept.bytes (by assumption) | skip)
    | with_reducible first
                     | apply kept_ite | apply sweepDue_kept | apply planMigrations_kept | apply offerReads_kept
                     | apply revalidateAll_kept
    | split

theorem writeTrace_kept {v : Verdict} {serial localTick : Nat} (h : Kept o s) : Kept o (writeTrace v serial localTick s) := by
  unfold writeTrace
  extract_lets e l
  have ht : (if l.length > 262144 then l.drop 1 else l).length ≤ 262144 := by
    have hl : l.length ≤ 262145 := by simp only [l, List.length_append, List.length_singleton]; exact Nat.succ_le_succ h.trace'
    split
    · rw [List.length_drop]; omega
    · omega
  have h1 := evt_kept (e := { s.evt with trace := if l.length > 262144 then l.drop 1 else l, traceHead := s.time.tick }) h rfl rfl rfl ht
  exact kept_cons.mpr (kept_mk (s := { s with evt := { s.evt with trace := if l.length > 262144 then l.drop 1 else l, traceHead := s.time.tick } }) h1
    h1.bytes rfl rfl rfl rfl rfl rfl rfl rfl rfl rfl rfl)

theorem commitWindow_kept {us : Nat} {m : SlotMeasure} {v : Verdict} {serial localTick : Nat} {fresh : List Nat} (h : Kept o s) : Kept o (commitWindow us m v serial localTick fresh s) := by
  unfold commitWindow
  repeat' first
    | with_reducible assumption
    | (intro x; first | (refine kept_cut (P := Kept o x) ?_ ?_; rotate_left; dsimp only [x]; rotate_left; intro hx; clear_value x) | skip)
    | lift_lets
    | (simp only [kept_cons]; with_reducible apply kept_mk <;> first | with_reducible assumption | rfl | exact Kept.bytes (by assumption) | skip)
    | with_reducible first
                     | apply kept_ite | apply scanBoundary_kept | apply refreshPage_kept | apply openRings_kept
                     | apply boundaryActions_kept | apply beginRun_kept | apply admitSlot_kept | apply placementWork_kept
                     | apply writeTrace_kept
    | split

theorem judge_kept (h : Kept o s) : Kept o (judge s).2 := by
  unfold judge
  split
  · split
    · exact h
    · exact h
  · split
    · dsimp only; exact applyVerdict_kept h
    · have h1 := checkOverrun_kept (checkResidue_kept h)
      dsimp only
      split
      · exact h1
      · exact applyVerdict_kept h1

theorem boundary_kept {m : SlotMeasure} (h : Kept o s) : Kept o (boundary m s) := by
  have h1 := closeSlot_kept (m := m) h
  have h2 : Kept o { closeSlot m s with time := advanceTime (closeSlot m s).fab.plan.isSome (closeSlot m s).time } :=
    kept_cons.mpr (kept_mk h1 h1.bytes rfl rfl rfl rfl rfl rfl rfl rfl rfl rfl rfl)
  exact commitWindow_kept (judge_kept h2)

end Sys2Proof.Machine
end

