-- ==== Sys2Proof/Laws/KeptExec.lean ====
section
/-! SUPPORT. What each command keeps. -/

set_option linter.unusedTactic false
set_option linter.unreachableTactic false
set_option linter.unusedSimpArgs false

namespace Sys2Proof.Machine

variable {o s : State}

theorem command_kept {mb : Nat} {mine : Mailbox → Bool} {f : Nat → Mailbox → State → State} {t : State}
    (hf : ∀ mb m s, Kept o s → Kept o (f mb m s)) (h : Kept o s) (e : command mb mine f s = .next t) : Kept o t := by
  unfold command at e
  refine guardUnit_kept ?_ e
  exact kept_ite (takeCommand_kept hf h) h

theorem dev_kept {d : Device} (h : Kept o s) : Kept o { s with dev := d } :=
  kept_cons.mpr (kept_mk h h.bytes rfl rfl rfl rfl rfl rfl rfl rfl rfl rfl rfl)

theorem flush_kept {g : HostLink} (h : Kept o s) (h1 : g.mailboxes = s.host.mailboxes) (h2 : g.sent = s.host.sent) (h3 : g.msix = s.host.msix) :
    Kept o { s with host := g.flush } := by
  unfold HostLink.flush
  split
  · exact sent_kept h h1 (by rw [h2]; exact List.prefix_append _ _) (by rw [h3]; exact List.prefix_append _ _)
  · exact sent_kept h h1 (by rw [h2]) (by rw [h3])

theorem hearFailure_pad (t : Tile) : (hearFailure t).pad = t.pad := by
  unfold hearFailure
  repeat' first | rfl | split

theorem copyConfig_wf {t : Tile} {k : Nat} {header images : List Byte} (h : Memory.wf t.pad = true) :
    Memory.wf (t.copyConfig k header images).pad = true := by
  unfold Tile.copyConfig
  repeat' first | exact h | exact Memory.writeBytes_wf _ _ h | split

theorem dropConfig_pad (t : Tile) (k : Nat) : (t.dropConfig k).pad = t.pad := by
  unfold Tile.dropConfig
  repeat' first | rfl | split

theorem activate_pad (t : Tile) (k : Nat) : (t.activate k).pad = t.pad := by
  unfold Tile.activate
  repeat' first | rfl | split

theorem exchangeRegion_kept {g : Nat} (ls : List Nat) : ∀ {s : State}, Kept o s → Kept o (exchangeRegion g ls s) := by
  induction ls with
  | nil => intro s h; exact h
  | cons l ls ih =>
    intro s h
    unfold exchangeRegion
    dsimp only
    split
    · exact ih h
    · exact ih (startMove_kept h)

theorem execVaux3On_kept {udsMatches : Bool} {addrSel : BitVec 2} {z : State} (h : Kept o s) (e : execVaux3On udsMatches addrSel s = .next z) : Kept o z := by
  unfold execVaux3On at e
  refine next_kept (kept_ite h (beginStart_kept ?_)) e
  have h1 := events_kept (e := { s.evt with sticky := s.nor.sticky, headSeq := s.nor.seqLimit }) (n := s.nor) h h.ring'
    (fun x hx => ⟨(h.ringSeq' x hx).1, Nat.le_trans (h.ringSeq' x hx).2 h.head'⟩) h.trace' (Nat.le_refl _) h.dropped' h.area' h.areaSeq' rfl
    (Nat.le_refl _)
  exact dev_kept h1

theorem execVin12Ready_kept {calFail : List Nat} {z : State} (h : Kept o s) (e : execVin12Ready calFail s = .next z) : Kept o z := by
  unfold execVin12Ready at e
  refine guardUnit_kept ?_ e
  clear e
  repeat' first
    | with_reducible assumption
    | (intro x; first | (refine kept_cut (P := Kept o x) ?_ ?_; rotate_left; dsimp only [x]; rotate_left; intro hx; clear_value x) | skip)
    | lift_lets
    | (simp only [kept_cons]; with_reducible apply kept_mk <;> first | with_reducible assumption | rfl | exact Kept.bytes (by assumption) | skip)
    | with_reducible first
                     | apply kept_ite | apply slotFallback_kept | apply noFirmware_kept | apply startFenum_kept
    | split

theorem execVin12AbsentTimeout_kept {z : State} (h : Kept o s) (e : execVin12AbsentTimeout s = .next z) : Kept o z := by
  unfold execVin12AbsentTimeout at e
  refine next_kept ?_ e
  clear e
  repeat' first
    | with_reducible assumption
    | (intro x; first | (refine kept_cut (P := Kept o x) ?_ ?_; rotate_left; dsimp only [x]; rotate_left; intro hx; clear_value x) | skip)
    | lift_lets
    | (simp only [kept_cons]; with_reducible apply kept_mk <;> first | with_reducible assumption | rfl | exact Kept.bytes (by assumption) | skip)
    | with_reducible first
                     | apply kept_ite
    | split

theorem execStartTests_kept {memIdHash : BitVec 384} {z : State} (h : Kept o s) (e : execStartTests memIdHash s = .next z) : Kept o z := by
  unfold execStartTests at e
  refine next_kept ?_ e
  clear e
  repeat' first
    | with_reducible assumption
    | (intro x; first | (refine kept_cut (P := Kept o x) ?_ ?_; rotate_left; dsimp only [x]; rotate_left; intro hx; clear_value x) | skip)
    | lift_lets
    | (simp only [kept_cons]; with_reducible apply kept_mk <;> first | with_reducible assumption | rfl | exact Kept.bytes (by assumption) | skip)
    | with_reducible first
                     | apply kept_ite | apply raise_kept
    | split

theorem execStartComplete_kept {found : TestResult} {z : State} (h : Kept o s) (e : execStartComplete found s = .next z) : Kept o z := by
  unfold execStartComplete at e
  refine guardUnit_kept ?_ e
  clear e
  repeat' first
    | with_reducible assumption
    | (intro x; first | (refine kept_cut (P := Kept o x) ?_ ?_; rotate_left; dsimp only [x]; rotate_left; intro hx; clear_value x) | skip)
    | lift_lets
    | (simp only [kept_cons]; with_reducible apply kept_mk <;> first | with_reducible assumption | rfl | exact Kept.bytes (by assumption) | skip)
    | with_reducible first
                     | apply kept_ite | apply completeStart_kept
    | split

theorem execPwrOkLow_kept {z : State} (h : Kept o s) (e : execPwrOkLow s = .next z) : Kept o z := by
  unfold execPwrOkLow at e
  refine next_kept ?_ e
  clear e
  repeat' first
    | with_reducible assumption
    | (intro x; first | (refine kept_cut (P := Kept o x) ?_ ?_; rotate_left; dsimp only [x]; rotate_left; intro hx; clear_value x) | skip)
    | lift_lets
    | (simp only [kept_cons]; with_reducible apply kept_mk <;> first | with_reducible assumption | rfl | exact Kept.bytes (by assumption) | skip)
    | with_reducible first
                     | apply kept_ite | apply fastShutdown_kept
    | split

theorem execSyncInLow_kept {z : State} (h : Kept o s) (e : execSyncInLow s = .next z) : Kept o z := by
  unfold execSyncInLow at e
  refine next_kept ?_ e
  clear e
  repeat' first
    | with_reducible assumption
    | (intro x; first | (refine kept_cut (P := Kept o x) ?_ ?_; rotate_left; dsimp only [x]; rotate_left; intro hx; clear_value x) | skip)
    | lift_lets
    | (simp only [kept_cons]; with_reducible apply kept_mk <;> first | with_reducible assumption | rfl | exact Kept.bytes (by assumption) | skip)
    | with_reducible first
                     | apply kept_ite | apply fastShutdown_kept
    | split

theorem execSyncInEdge_kept {stamp : Nat} {z : State} (h : Kept o s) (e : execSyncInEdge stamp s = .next z) : Kept o z := by
  unfold execSyncInEdge at e
  refine next_kept ?_ e
  clear e
  repeat' first
    | with_reducible assumption
    | (intro x; first | (refine kept_cut (P := Kept o x) ?_ ?_; rotate_left; dsimp only [x]; rotate_left; intro hx; clear_value x) | skip)
    | lift_lets
    | (simp only [kept_cons]; with_reducible apply kept_mk <;> first | with_reducible assumption | rfl | exact Kept.bytes (by assumption) | skip)
    | with_reducible first
                     | apply kept_ite | apply followParent_kept
    | split

theorem execPerstNAssert_kept {z : State} (h : Kept o s) (e : execPerstNAssert s = .next z) : Kept o z := by
  unfold execPerstNAssert at e
  refine next_kept ?_ e
  clear e
  repeat' first
    | with_reducible assumption
    | (intro x; first | (refine kept_cut (P := Kept o x) ?_ ?_; rotate_left; dsimp only [x]; rotate_left; intro hx; clear_value x) | skip)
    | lift_lets
    | (simp only [kept_cons]; with_reducible apply kept_mk <;> first | with_reducible assumption | rfl | exact Kept.bytes (by assumption) | skip)
    | with_reducible first
                     | apply kept_ite | apply takeDeviceReset_kept
    | split

theorem execHotReset_kept {z : State} (h : Kept o s) (e : execHotReset s = .next z) : Kept o z := by
  unfold execHotReset at e
  refine next_kept ?_ e
  clear e
  repeat' first
    | with_reducible assumption
    | (intro x; first | (refine kept_cut (P := Kept o x) ?_ ?_; rotate_left; dsimp only [x]; rotate_left; intro hx; clear_value x) | skip)
    | lift_lets
    | (simp only [kept_cons]; with_reducible apply kept_mk <;> first | with_reducible assumption | rfl | exact Kept.bytes (by assumption) | skip)
    | with_reducible first
                     | apply kept_ite | apply takeDeviceReset_kept
    | split

theorem execPerstNRelease_kept {z : State} (h : Kept o s) (e : execPerstNRelease s = .next z) : Kept o z := by
  unfold execPerstNRelease at e
  have h1 : Kept o { s with dev := { s.dev with perstN := true } } := dev_kept h
  have h2 := kept_ite (c := ({ s with dev := { s.dev with perstN := true } } : State).dev.resetAfter = true) (deviceReset_kept h1) h1
  exact next_kept (kept_ite (beginStart_kept h2) h2) e

theorem execPowerRemoved_kept {z : State} (h : Kept o s) (e : execPowerRemoved s = .next z) : Kept o z := by
  unfold execPowerRemoved at e
  cases e
  have h1 := events_kept (e := {}) (n := s.nor) (mailboxes_kept (setBytes_kept (tiles_kept (l := []) h (by simp)) (m := []) rfl) (l := []) (by simp))
    (Nat.zero_le _) (by simp) (Nat.zero_le _) (Nat.zero_le _) rfl h.area' h.areaSeq' rfl (Nat.le_refl _)
  exact kept_cons.mpr (kept_mk h1 h1.bytes rfl rfl rfl rfl rfl rfl rfl rfl rfl rfl rfl)

theorem execTapEnterExtest_kept {which : TapInstr} {z : State} (h : Kept o s) (e : execTapEnterExtest which s = .next z) : Kept o z := by
  unfold execTapEnterExtest at e
  refine next_kept ?_ e
  clear e
  repeat' first
    | with_reducible assumption
    | (intro x; first | (refine kept_cut (P := Kept o x) ?_ ?_; rotate_left; dsimp only [x]; rotate_left; intro hx; clear_value x) | skip)
    | lift_lets
    | (simp only [kept_cons]; with_reducible apply kept_mk <;> first | with_reducible assumption | rfl | exact Kept.bytes (by assumption) | skip)
    | with_reducible first
                     | apply kept_ite | apply fence_kept | apply fenceCommands_kept | apply tapDark_kept
    | split

theorem execTapLeaveExtest_kept {z : State} (h : Kept o s) (e : execTapLeaveExtest s = .next z) : Kept o z := by
  unfold execTapLeaveExtest at e
  exact next_kept (kept_ite h (kept_ite (dev_kept h) (resetAndStart_kept (dev_kept h)))) e

theorem execVddqDdrFault_kept {z : State} (h : Kept o s) (e : execVddqDdrFault s = .next z) : Kept o z := by
  unfold execVddqDdrFault at e
  refine next_kept ?_ e
  clear e
  repeat' first
    | with_reducible assumption
    | (intro x; first | (refine kept_cut (P := Kept o x) ?_ ?_; rotate_left; dsimp only [x]; rotate_left; intro hx; clear_value x) | skip)
    | lift_lets
    | (simp only [kept_cons]; with_reducible apply kept_mk <;> first | with_reducible assumption | rfl | exact Kept.bytes (by assumption) | skip)
    | with_reducible first
                     | apply kept_ite | apply memLost_kept
    | (with_reducible apply each_kept; intro _ _ _; beta_reduce)
    | split

theorem execThermalComparatorTrip_kept {die : Nat} {z : State} (h : Kept o s) (e : execThermalComparatorTrip die s = .next z) : Kept o z := by
  unfold execThermalComparatorTrip at e
  refine guardUnit_kept ?_ e
  clear e
  repeat' first
    | with_reducible assumption
    | (intro x; first | (refine kept_cut (P := Kept o x) ?_ ?_; rotate_left; dsimp only [x]; rotate_left; intro hx; clear_value x) | skip)
    | lift_lets
    | (simp only [kept_cons]; with_reducible apply kept_mk <;> first | with_reducible assumption | rfl | exact Kept.bytes (by assumption) | skip)
    | with_reducible first
                     | apply kept_ite | apply raise_kept
    | split

theorem execSensorRead_kept {readings : List (Sensor × Int)} {z : State} (h : Kept o s) (e : execSensorRead readings s = .next z) : Kept o z := by
  unfold execSensorRead at e
  refine guardUnit_kept ?_ e
  clear e
  repeat' first
    | with_reducible assumption
    | (intro x; first | (refine kept_cut (P := Kept o x) ?_ ?_; rotate_left; dsimp only [x]; rotate_left; intro hx; clear_value x) | skip)
    | lift_lets
    | (simp only [kept_cons]; with_reducible apply kept_mk <;> first | with_reducible assumption | rfl | exact Kept.bytes (by assumption) | skip)
    | with_reducible first
                     | apply kept_ite | apply readSensors_kept
    | split

theorem execTimeUtcWrite_kept {value : Word64} {z : State} (h : Kept o s) (e : execTimeUtcWrite value s = .next z) : Kept o z := by
  unfold execTimeUtcWrite at e
  refine next_kept ?_ e
  clear e
  repeat' first
    | with_reducible assumption
    | (intro x; first | (refine kept_cut (P := Kept o x) ?_ ?_; rotate_left; dsimp only [x]; rotate_left; intro hx; clear_value x) | skip)
    | lift_lets
    | (simp only [kept_cons]; with_reducible apply kept_mk <;> first | with_reducible assumption | rfl | exact Kept.bytes (by assumption) | skip)
    | with_reducible first
                     | apply kept_ite
    | split

theorem execTimeUtcTick_kept {z : State} (h : Kept o s) (e : execTimeUtcTick s = .next z) : Kept o z := by
  unfold execTimeUtcTick at e
  refine next_kept ?_ e
  clear e
  repeat' first
    | with_reducible assumption
    | (intro x; first | (refine kept_cut (P := Kept o x) ?_ ?_; rotate_left; dsimp only [x]; rotate_left; intro hx; clear_value x) | skip)
    | lift_lets
    | (simp only [kept_cons]; with_reducible apply kept_mk <;> first | with_reducible assumption | rfl | exact Kept.bytes (by assumption) | skip)
    | with_reducible first
                     | apply kept_ite
    | split

theorem execRecLengthWrite_kept {value : Word32} {z : State} (h : Kept o s) (e : execRecLengthWrite value s = .next z) : Kept o z := by
  unfold execRecLengthWrite at e
  refine next_kept ?_ e
  clear e
  repeat' first
    | with_reducible assumption
    | (intro x; first | (refine kept_cut (P := Kept o x) ?_ ?_; rotate_left; dsimp only [x]; rotate_left; intro hx; clear_value x) | skip)
    | lift_lets
    | (simp only [kept_cons]; with_reducible apply kept_mk <;> first | with_reducible assumption | rfl | exact Kept.bytes (by assumption) | skip)
    | with_reducible first
                     | apply kept_ite
    | split

theorem execRecDataWrite_kept {value : Word32} {z : State} (h : Kept o s) (e : execRecDataWrite value s = .next z) : Kept o z := by
  unfold execRecDataWrite at e
  refine next_kept ?_ e
  clear e
  repeat' first
    | with_reducible assumption
    | (intro x; first | (refine kept_cut (P := Kept o x) ?_ ?_; rotate_left; dsimp only [x]; rotate_left; intro hx; clear_value x) | skip)
    | lift_lets
    | (simp only [kept_cons]; with_reducible apply kept_mk <;> first | with_reducible assumption | rfl | exact Kept.bytes (by assumption) | skip)
    | with_reducible first
                     | apply kept_ite
    | split

theorem execRecVerifyDone_kept {z : State} (h : Kept o s) (e : execRecVerifyDone s = .next z) : Kept o z := by
  unfold execRecVerifyDone at e
  refine next_kept ?_ e
  clear e
  repeat' first
    | with_reducible assumption
    | (intro x; first | (refine kept_cut (P := Kept o x) ?_ ?_; rotate_left; dsimp only [x]; rotate_left; intro hx; clear_value x) | skip)
    | lift_lets
    | (simp only [kept_cons]; with_reducible apply kept_mk <;> first | with_reducible assumption | rfl | exact Kept.bytes (by assumption) | skip)
    | with_reducible first
                     | apply kept_ite | apply noFirmware_kept | apply beginStart_kept
    | split

theorem execRegisterWrite_kept {target : RegTarget} {width : Nat} {value : Word64} {z : State} (h : Kept o s) (e : execRegisterWrite target width value s = .next z) : Kept o z := by
  unfold execRegisterWrite at e
  refine next_kept (kept_ite h ?_) e
  split
  · exact bar0Write_kept h
  · refine sent_kept h ?_ ?_ ?_
    all_goals (unfold bar4Write; split <;> first | rfl | exact List.prefix_rfl)
  · exact kept_ite (sent_kept h rfl List.prefix_rfl List.prefix_rfl) h
  · exact kept_ite (sent_kept h rfl List.prefix_rfl List.prefix_rfl) h
  · exact flush_kept h rfl rfl rfl
  · exact kept_ite (flush_kept h rfl rfl rfl) h

theorem execCrEntriesWrite_kept {value : Word32} {z : State} (h : Kept o s) (e : execCrEntriesWrite value s = .next z) : Kept o z := by
  unfold execCrEntriesWrite at e
  exact next_kept (kept_ite (sent_kept (g := setRing value s.host) h rfl List.prefix_rfl List.prefix_rfl) h) e

theorem execHostLinkTrained_kept {width : Nat} {gts : Nat} {z : State} (h : Kept o s) (e : execHostLinkTrained width gts s = .next z) : Kept o z := by
  unfold execHostLinkTrained at e
  refine next_kept ?_ e
  clear e
  repeat' first
    | with_reducible assumption
    | (intro x; first | (refine kept_cut (P := Kept o x) ?_ ?_; rotate_left; dsimp only [x]; rotate_left; intro hx; clear_value x) | skip)
    | lift_lets
    | (simp only [kept_cons]; with_reducible apply kept_mk <;> first | with_reducible assumption | rfl | exact Kept.bytes (by assumption) | skip)
    | with_reducible first
                     | apply kept_ite | apply raise_kept
    | split

theorem execDmaCompletionTimeout_kept {mb : Nat} {z : State} (h : Kept o s) (e : execDmaCompletionTimeout mb s = .next z) : Kept o z := by
  unfold execDmaCompletionTimeout at e
  refine guardUnit_kept ?_ e
  clear e
  repeat' first
    | with_reducible assumption
    | (intro x; first | (refine kept_cut (P := Kept o x) ?_ ?_; rotate_left; dsimp only [x]; rotate_left; intro hx; clear_value x) | skip)
    | lift_lets
    | (simp only [kept_cons]; with_reducible apply kept_mk <;> first | with_reducible assumption | rfl | exact Kept.bytes (by assumption) | skip)
    | with_reducible first
                     | apply kept_ite | apply dmaFails_kept
    | split

theorem execDmaWaitTimeout_kept {mb : Nat} {z : State} (h : Kept o s) (e : execDmaWaitTimeout mb s = .next z) : Kept o z := by
  unfold execDmaWaitTimeout at e
  refine guardUnit_kept ?_ e
  clear e
  repeat' first
    | with_reducible assumption
    | (intro x; first | (refine kept_cut (P := Kept o x) ?_ ?_; rotate_left; dsimp only [x]; rotate_left; intro hx; clear_value x) | skip)
    | lift_lets
    | (simp only [kept_cons]; with_reducible apply kept_mk <;> first | with_reducible assumption | rfl | exact Kept.bytes (by assumption) | skip)
    | with_reducible first
                     | apply kept_ite | apply dmaFails_kept
    | split

theorem execDmaCompletionError_kept {target : DmaTarget} {z : State} (h : Kept o s) (e : execDmaCompletionError target s = .next z) : Kept o z := by
  unfold execDmaCompletionError at e
  split at e
  · exact guardUnit_kept (dmaFails_kept h) e
  · exact next_kept (recordFails_kept h) e

theorem execCompletionCoalesceTimer_kept {z : State} (h : Kept o s) (e : execCompletionCoalesceTimer s = .next z) : Kept o z := by
  unfold execCompletionCoalesceTimer at e
  refine next_kept ?_ e
  clear e
  repeat' first
    | with_reducible assumption
    | (intro x; first | (refine kept_cut (P := Kept o x) ?_ ?_; rotate_left; dsimp only [x]; rotate_left; intro hx; clear_value x) | skip)
    | lift_lets
    | (simp only [kept_cons]; with_reducible apply kept_mk <;> first | with_reducible assumption | rfl | exact Kept.bytes (by assumption) | skip)
    | with_reducible first
                     | apply kept_ite | apply irq_kept
    | split

theorem execMb00Scan_kept {z : State} (h : Kept o s) (e : execMb00Scan s = .next z) : Kept o z := by
  unfold execMb00Scan at e
  refine next_kept ?_ e
  clear e
  repeat' first
    | with_reducible assumption
    | (intro x; first | (refine kept_cut (P := Kept o x) ?_ ?_; rotate_left; dsimp only [x]; rotate_left; intro hx; clear_value x) | skip)
    | lift_lets
    | (simp only [kept_cons]; with_reducible apply kept_mk <;> first | with_reducible assumption | rfl | exact Kept.bytes (by assumption) | skip)
    | with_reducible first
                     | apply kept_ite | apply runMailbox_kept
    | split

theorem execSlowMailboxScan_kept {z : State} (h : Kept o s) (e : execSlowMailboxScan s = .next z) : Kept o z := by
  unfold execSlowMailboxScan at e
  refine next_kept ?_ e
  clear e
  repeat' first
    | with_reducible assumption
    | (intro x; first | (refine kept_cut (P := Kept o x) ?_ ?_; rotate_left; dsimp only [x]; rotate_left; intro hx; clear_value x) | skip)
    | lift_lets
    | (simp only [kept_cons]; with_reducible apply kept_mk <;> first | with_reducible assumption | rfl | exact Kept.bytes (by assumption) | skip)
    | with_reducible first
                     | apply kept_ite | apply runMailbox_kept
    | (with_reducible apply each_kept; intro _ _ _; beta_reduce)
    | split

theorem execStatusPageSlowRefresh_kept {z : State} (h : Kept o s) (e : execStatusPageSlowRefresh s = .next z) : Kept o z := by
  unfold execStatusPageSlowRefresh at e
  refine next_kept ?_ e
  clear e
  repeat' first
    | with_reducible assumption
    | (intro x; first | (refine kept_cut (P := Kept o x) ?_ ?_; rotate_left; dsimp only [x]; rotate_left; intro hx; clear_value x) | skip)
    | lift_lets
    | (simp only [kept_cons]; with_reducible apply kept_mk <;> first | with_reducible assumption | rfl | exact Kept.bytes (by assumption) | skip)
    | with_reducible first
                     | apply kept_ite | apply refreshPage_kept
    | split

theorem execUnknownCommand_kept {mb : Nat} {z : State} (h : Kept o s) (e : execUnknownCommand mb s = .next z) : Kept o z := by
  unfold execUnknownCommand at e
  exact command_kept (fun _ _ _ h => h) h e

theorem execIdentify_kept {mb : Nat} {z : State} (h : Kept o s) (e : execIdentify mb s = .next z) : Kept o z := by
  unfold execIdentify at e
  exact command_kept (fun _ _ _ h => runIdentify_kept h) h e

theorem execGetStatus_kept {mb : Nat} {z : State} (h : Kept o s) (e : execGetStatus mb s = .next z) : Kept o z := by
  unfold execGetStatus at e
  exact command_kept (fun _ _ _ h => runGetStatus_kept h) h e

theorem execSetPolicy_kept {mb : Nat} {z : State} (h : Kept o s) (e : execSetPolicy mb s = .next z) : Kept o z := by
  unfold execSetPolicy at e
  exact command_kept (fun _ _ _ h => runSetPolicy_kept h) h e

theorem execLoadImage_kept {mb : Nat} {z : State} (h : Kept o s) (e : execLoadImage mb s = .next z) : Kept o z := by
  unfold execLoadImage at e
  exact command_kept (fun _ _ _ h => runLoadImage_kept h) h e

theorem execOpenJob_kept {mb : Nat} {z : State} (h : Kept o s) (e : execOpenJob mb s = .next z) : Kept o z := by
  unfold execOpenJob at e
  exact command_kept (fun _ _ _ h => runOpenJob_kept h) h e

theorem execDeclareLoaves_kept {mb : Nat} {z : State} (h : Kept o s) (e : execDeclareLoaves mb s = .next z) : Kept o z := by
  unfold execDeclareLoaves at e
  exact command_kept (fun _ _ _ h => runDeclareLoaves_kept h) h e

theorem execHostFill_kept {mb : Nat} {z : State} (h : Kept o s) (e : execHostFill mb s = .next z) : Kept o z := by
  unfold execHostFill at e
  exact command_kept (fun _ _ _ h => runHostFill_kept h) h e

theorem execHostFillDmaComplete_kept {mb : Nat} {list : List Descriptor} {data : List Byte} {z : State} (h : Kept o s) (e : execHostFillDmaComplete mb list data s = .next z) : Kept o z := by
  unfold execHostFillDmaComplete at e
  refine guardUnit_kept ?_ e
  clear e
  repeat' first
    | with_reducible assumption
    | (intro x; first | (refine kept_cut (P := Kept o x) ?_ ?_; rotate_left; dsimp only [x]; rotate_left; intro hx; clear_value x) | skip)
    | lift_lets
    | with_reducible apply fillJournal_kept
    | (simp only [kept_cons]; with_reducible apply kept_mk <;> first | with_reducible assumption | rfl | exact Kept.bytes (by assumption) | skip)
    | with_reducible first
                     | apply kept_ite | apply answer_kept | apply touchAll_kept | apply setWait_kept
    | split

theorem execHostDrain_kept {c : HostRead} {z : State} (h : Kept o s) (e : execHostDrain c s = .next z) : Kept o z := by
  unfold execHostDrain at e
  exact command_kept (fun _ _ _ h => runHostDrain_kept h) h e

theorem execHostDrainComplete_kept {mb : Nat} {list : List Descriptor} {z : State} (h : Kept o s) (e : execHostDrainComplete mb list s = .next z) : Kept o z := by
  unfold execHostDrainComplete at e
  refine guardUnit_kept ?_ e
  clear e
  repeat' first
    | with_reducible assumption
    | (intro x; first | (refine kept_cut (P := Kept o x) ?_ ?_; rotate_left; dsimp only [x]; rotate_left; intro hx; clear_value x) | skip)
    | lift_lets
    | (simp only [kept_cons]; with_reducible apply kept_mk <;> first | with_reducible assumption | rfl | exact Kept.bytes (by assumption) | skip)
    | with_reducible first
                     | apply kept_ite | apply answer_kept | apply writeOut_kept
    | split

theorem execStartJob_kept {mb : Nat} {z : State} (h : Kept o s) (e : execStartJob mb s = .next z) : Kept o z := by
  unfold execStartJob at e
  exact command_kept (fun _ _ _ h => runStartJob_kept h) h e

theorem execPauseJob_kept {mb : Nat} {z : State} (h : Kept o s) (e : execPauseJob mb s = .next z) : Kept o z := by
  unfold execPauseJob at e
  exact command_kept (fun _ _ _ h => runPauseJob_kept h) h e

theorem execPauseEnterReady_kept {z : State} (h : Kept o s) (e : execPauseEnterReady s = .next z) : Kept o z := by
  unfold execPauseEnterReady at e
  refine next_kept ?_ e
  clear e
  repeat' first
    | with_reducible assumption
    | (intro x; first | (refine kept_cut (P := Kept o x) ?_ ?_; rotate_left; dsimp only [x]; rotate_left; intro hx; clear_value x) | skip)
    | lift_lets
    | (simp only [kept_cons]; with_reducible apply kept_mk <;> first | with_reducible assumption | rfl | exact Kept.bytes (by assumption) | skip)
    | with_reducible first
                     | apply kept_ite | apply onJob_kept | apply setDev_kept | apply answer_kept
    | split

theorem execResumeJob_kept {mb : Nat} {z : State} (h : Kept o s) (e : execResumeJob mb s = .next z) : Kept o z := by
  unfold execResumeJob at e
  exact command_kept (fun _ _ _ h => runResumeJob_kept h) h e

theorem execStopJob_kept {mb : Nat} {z : State} (h : Kept o s) (e : execStopJob mb s = .next z) : Kept o z := by
  unfold execStopJob at e
  exact command_kept (fun _ _ _ h => takeReset_kept h) h e

theorem execCheckpointSave_kept {c : HostRead} {z : State} (h : Kept o s) (e : execCheckpointSave c s = .next z) : Kept o z := by
  unfold execCheckpointSave at e
  exact command_kept (fun _ _ _ h => runCheckpoint_kept h) h e

theorem execCheckpointRestore_kept {mb : Nat} {z : State} (h : Kept o s) (e : execCheckpointRestore mb s = .next z) : Kept o z := by
  unfold execCheckpointRestore at e
  exact command_kept (fun _ _ _ h => runRestore_kept h) h e

theorem execCheckpointTransferComplete_kept {mb : Nat} {list : List Descriptor} {data : List Byte} {z : State} (h : Kept o s) (e : execCheckpointTransferComplete mb list data s = .next z) : Kept o z := by
  unfold execCheckpointTransferComplete at e
  refine guardUnit_kept ?_ e
  clear e
  repeat' first
    | with_reducible assumption
    | (intro x; first | (refine kept_cut (P := Kept o x) ?_ ?_; rotate_left; dsimp only [x]; rotate_left; intro hx; clear_value x) | skip)
    | lift_lets
    | (simp only [kept_cons]; with_reducible apply kept_mk <;> first | with_reducible assumption | rfl | exact Kept.bytes (by assumption) | skip)
    | with_reducible first
                     | apply kept_ite | apply answer_kept | apply setWait_kept | apply writeOut_kept | apply freeKept_kept
                     | apply restoreStream_kept
    | split

theorem execFabricPlan_kept {mb : Nat} {z : State} (h : Kept o s) (e : execFabricPlan mb s = .next z) : Kept o z := by
  unfold execFabricPlan at e
  exact command_kept (fun _ _ _ h => runFabricPlan_kept h) h e

theorem execFabricCommit_kept {mb : Nat} {z : State} (h : Kept o s) (e : execFabricCommit mb s = .next z) : Kept o z := by
  unfold execFabricCommit at e
  exact command_kept (fun _ _ _ h => runFabricCommit_kept h) h e

theorem execWindowOpen_kept {mb : Nat} {z : State} (h : Kept o s) (e : execWindowOpen mb s = .next z) : Kept o z := by
  unfold execWindowOpen at e
  exact command_kept (fun _ _ _ h => runWindowOpen_kept h) h e

theorem execWindowCloseLocal_kept {mb : Nat} {z : State} (h : Kept o s) (e : execWindowCloseLocal mb s = .next z) : Kept o z := by
  unfold execWindowCloseLocal at e
  exact command_kept (fun _ _ _ h => runWindowCloseLocal_kept h) h e

theorem execWindowCloseProxy_kept {mb : Nat} {z : State} (h : Kept o s) (e : execWindowCloseProxy mb s = .next z) : Kept o z := by
  unfold execWindowCloseProxy at e
  exact command_kept (fun _ _ _ h => runWindowCloseProxy_kept h) h e

theorem execCrumbCheck_kept {mb : Nat} {z : State} (h : Kept o s) (e : execCrumbCheck mb s = .next z) : Kept o z := by
  unfold execCrumbCheck at e
  exact command_kept (fun _ _ _ h => runCrumbCheck_kept h) h e

theorem execCrumbCheckBegin_kept {z : State} (h : Kept o s) (e : execCrumbCheckBegin s = .next z) : Kept o z := by
  unfold execCrumbCheckBegin at e
  refine next_kept ?_ e
  clear e
  repeat' first
    | with_reducible assumption
    | (intro x; first | (refine kept_cut (P := Kept o x) ?_ ?_; rotate_left; dsimp only [x]; rotate_left; intro hx; clear_value x) | skip)
    | lift_lets
    | (simp only [kept_cons]; with_reducible apply kept_mk <;> first | with_reducible assumption | rfl | exact Kept.bytes (by assumption) | skip)
    | with_reducible first
                     | apply kept_ite | apply beginSweep_kept
    | split

theorem execCrumbProgramComplete_kept {tile : Nat} {partner : Nat} {out : List Word64} {outPartner : List Word64} {reruns : List (Nat × List Word64)} {z : State} (h : Kept o s) (e : execCrumbProgramComplete tile partner out outPartner reruns s = .next z) : Kept o z := by
  unfold execCrumbProgramComplete at e
  refine guardUnit_kept ?_ e
  clear e
  repeat' first
    | with_reducible assumption
    | (intro x; first | (refine kept_cut (P := Kept o x) ?_ ?_; rotate_left; dsimp only [x]; rotate_left; intro hx; clear_value x) | skip)
    | lift_lets
    | (simp only [kept_cons]; with_reducible apply kept_mk <;> first | with_reducible assumption | rfl | exact Kept.bytes (by assumption) | skip)
    | with_reducible first
                     | apply kept_ite | apply crumbRun_kept
    | split

theorem execRequalify_kept {mb : Nat} {z : State} (h : Kept o s) (e : execRequalify mb s = .next z) : Kept o z := by
  unfold execRequalify at e
  exact command_kept (fun _ _ _ h => runRequalify_kept h) h e

theorem execReadEvents_kept {mb : Nat} {z : State} (h : Kept o s) (e : execReadEvents mb s = .next z) : Kept o z := by
  unfold execReadEvents at e
  exact command_kept (fun _ _ _ h => runReadEvents_kept h) h e

theorem execClearEventsNonce_kept {mb : Nat} {z : State} (h : Kept o s) (e : execClearEventsNonce mb s = .next z) : Kept o z := by
  unfold execClearEventsNonce at e
  exact command_kept (fun _ _ _ h => runClearEventsNonce_kept h) h e

theorem execClearEventsClear_kept {mb : Nat} {z : State} (h : Kept o s) (e : execClearEventsClear mb s = .next z) : Kept o z := by
  unfold execClearEventsClear at e
  exact command_kept (fun _ _ _ h => runClearEventsClear_kept h) h e

theorem execClearSticky_kept {mb : Nat} {z : State} (h : Kept o s) (e : execClearSticky mb s = .next z) : Kept o z := by
  unfold execClearSticky at e
  exact command_kept (fun _ _ _ h => runClearSticky_kept h) h e

theorem execGetDump_kept {mb : Nat} {z : State} (h : Kept o s) (e : execGetDump mb s = .next z) : Kept o z := by
  unfold execGetDump at e
  exact command_kept (fun _ _ _ h => runGetDump_kept h) h e

theorem execResetCompute_kept {mb : Nat} {z : State} (h : Kept o s) (e : execResetCompute mb s = .next z) : Kept o z := by
  unfold execResetCompute at e
  exact command_kept (fun _ _ _ h => runResetCompute_kept h) h e

theorem execComputeResetComplete_kept {failTiles : List Nat} {lostUnits : List Source} {z : State} (h : Kept o s) (e : execComputeResetComplete failTiles lostUnits s = .next z) : Kept o z := by
  unfold execComputeResetComplete at e
  refine guardUnit_kept ?_ e
  clear e
  repeat' first
    | with_reducible assumption
    | (intro x; first | (refine kept_cut (P := Kept o x) ?_ ?_; rotate_left; dsimp only [x]; rotate_left; intro hx; clear_value x) | skip)
    | lift_lets
    | (simp only [kept_cons]; with_reducible apply kept_mk <;> first | with_reducible assumption | rfl | exact Kept.bytes (by assumption) | skip)
    | with_reducible first
                     | apply kept_ite | apply completeReset_kept
    | split

theorem execShutdown_kept {mb : Nat} {z : State} (h : Kept o s) (e : execShutdown mb s = .next z) : Kept o z := by
  unfold execShutdown at e
  exact command_kept (fun _ _ _ h => runShutdown_kept h) h e

theorem execShutdownTestComplete_kept {z : State} (h : Kept o s) (e : execShutdownTestComplete s = .next z) : Kept o z := by
  unfold execShutdownTestComplete at e
  refine next_kept ?_ e
  clear e
  repeat' first
    | with_reducible assumption
    | (intro x; first | (refine kept_cut (P := Kept o x) ?_ ?_; rotate_left; dsimp only [x]; rotate_left; intro hx; clear_value x) | skip)
    | lift_lets
    | (simp only [kept_cons]; with_reducible apply kept_mk <;> first | with_reducible assumption | rfl | exact Kept.bytes (by assumption) | skip)
    | with_reducible first
                     | apply kept_ite | apply endShutdown_kept
    | split

theorem execFwStage_kept {mb : Nat} {z : State} (h : Kept o s) (e : execFwStage mb s = .next z) : Kept o z := by
  unfold execFwStage at e
  exact command_kept (fun _ _ _ h => runFwStage_kept h) h e

theorem execFwActivate_kept {mb : Nat} {z : State} (h : Kept o s) (e : execFwActivate mb s = .next z) : Kept o z := by
  unfold execFwActivate at e
  exact command_kept (fun _ _ _ h => runFwActivate_kept h) h e

theorem execFwActivateAtBoot_kept {mb : Nat} {z : State} (h : Kept o s) (e : execFwActivateAtBoot mb s = .next z) : Kept o z := by
  unfold execFwActivateAtBoot at e
  exact command_kept (fun _ _ _ h => runFwActivateAtBoot_kept h) h e

theorem execLifecycleGetNonce_kept {mb : Nat} {z : State} (h : Kept o s) (e : execLifecycleGetNonce mb s = .next z) : Kept o z := by
  unfold execLifecycleGetNonce at e
  exact command_kept (fun _ _ _ h => runLifecycleGetNonce_kept h) h e

theorem execLifecycleTransition_kept {mb : Nat} {z : State} (h : Kept o s) (e : execLifecycleTransition mb s = .next z) : Kept o z := by
  unfold execLifecycleTransition at e
  exact command_kept (fun _ _ _ h => runLifecycleTransition_kept h) h e

theorem execLifecycleInstallKey_kept {mb : Nat} {z : State} (h : Kept o s) (e : execLifecycleInstallKey mb s = .next z) : Kept o z := by
  unfold execLifecycleInstallKey at e
  exact command_kept (fun _ _ _ h => runLifecycleInstallKey_kept h) h e

theorem execLifecycleDebugUnlock_kept {mb : Nat} {z : State} (h : Kept o s) (e : execLifecycleDebugUnlock mb s = .next z) : Kept o z := by
  unfold execLifecycleDebugUnlock at e
  exact command_kept (fun _ _ _ h => runLifecycleDebugUnlock_kept h) h e

theorem execTickBoundary_kept {m : SlotMeasure} {z : State} (h : Kept o s) (e : execTickBoundary m s = .next z) : Kept o z := by
  unfold execTickBoundary at e
  refine next_kept ?_ e
  clear e
  repeat' first
    | with_reducible assumption
    | (intro x; first | (refine kept_cut (P := Kept o x) ?_ ?_; rotate_left; dsimp only [x]; rotate_left; intro hx; clear_value x) | skip)
    | lift_lets
    | (simp only [kept_cons]; with_reducible apply kept_mk <;> first | with_reducible assumption | rfl | exact Kept.bytes (by assumption) | skip)
    | with_reducible first
                     | apply kept_ite | apply boundary_kept
    | split

theorem execRunPhaseOpen_kept {z : State} (h : Kept o s) (e : execRunPhaseOpen s = .next z) : Kept o z := by
  unfold execRunPhaseOpen at e
  refine next_kept ?_ e
  clear e
  repeat' first
    | with_reducible assumption
    | (intro x; first | (refine kept_cut (P := Kept o x) ?_ ?_; rotate_left; dsimp only [x]; rotate_left; intro hx; clear_value x) | skip)
    | lift_lets
    | (simp only [kept_cons]; with_reducible apply kept_mk <;> first | with_reducible assumption | rfl | exact Kept.bytes (by assumption) | skip)
    | with_reducible first
                     | apply kept_ite
    | split

theorem execMarginOpen_kept {z : State} (h : Kept o s) (e : execMarginOpen s = .next z) : Kept o z := by
  unfold execMarginOpen at e
  refine next_kept ?_ e
  clear e
  repeat' first
    | with_reducible assumption
    | (intro x; first | (refine kept_cut (P := Kept o x) ?_ ?_; rotate_left; dsimp only [x]; rotate_left; intro hx; clear_value x) | skip)
    | lift_lets
    | (simp only [kept_cons]; with_reducible apply kept_mk <;> first | with_reducible assumption | rfl | exact Kept.bytes (by assumption) | skip)
    | with_reducible first
                     | apply kept_ite | apply raiseCycle_kept
    | (with_reducible apply each_kept; intro _ _ _; beta_reduce)
    | split

theorem execTaskBegin_kept {at_ : TileSpeed} {z : State} (h : Kept o s) (e : execTaskBegin at_ s = .next z) : Kept o z := by
  unfold execTaskBegin at e
  refine guardUnit_kept ?_ e
  clear e
  repeat' first
    | with_reducible assumption
    | (intro x; first | (refine kept_cut (P := Kept o x) ?_ ?_; rotate_left; dsimp only [x]; rotate_left; intro hx; clear_value x) | skip)
    | lift_lets
    | (simp only [kept_cons]; with_reducible apply kept_mk <;> first | with_reducible assumption | rfl | exact Kept.bytes (by assumption) | skip)
    | with_reducible first
                     | apply kept_ite | apply setTile_kept | apply onTile_kept | apply measureSpeed_kept | apply updateBoard_kept
                     | apply pump_kept | apply offerReads_kept | apply startRun_kept | apply adopt_kept
    | assumption
    | exact Kept.pad (by assumption) _
    | split

theorem execFillLineReturn_kept {tile : Nat} {runAhead : Bool} {entry : Nat} {line : Nat} {outcome : ReadOutcome} {z : State} (h : Kept o s) (e : execFillLineReturn tile runAhead entry line outcome s = .next z) : Kept o z := by
  unfold execFillLineReturn at e
  refine guardUnit_kept ?_ e
  dsimp only
  split
  · exact h
  · refine kept_ite h ?_
    split
    · exact offerReads_kept (fillArrives_kept (kept_ite (report_kept h) h))
    · exact fillReturns_kept h

theorem execFillListComplete_kept {tile : Nat} {z : State} (h : Kept o s) (e : execFillListComplete tile s = .next z) : Kept o z := by
  unfold execFillListComplete at e
  refine guardUnit_kept ?_ e
  clear e
  repeat' first
    | with_reducible assumption
    | (intro x; first | (refine kept_cut (P := Kept o x) ?_ ?_; rotate_left; dsimp only [x]; rotate_left; intro hx; clear_value x) | skip)
    | lift_lets
    | (simp only [kept_cons]; with_reducible apply kept_mk <;> first | with_reducible assumption | rfl | exact Kept.bytes (by assumption) | skip)
    | with_reducible first
                     | apply kept_ite | apply setTile_kept
    | assumption
    | exact Kept.pad (by assumption) _
    | split

theorem execWeaveStart_kept {tile : Nat} {configParity : Bool} {z : State} (h : Kept o s) (e : execWeaveStart tile configParity s = .next z) : Kept o z := by
  unfold execWeaveStart at e
  refine guardUnit_kept ?_ e
  clear e
  repeat' first
    | with_reducible assumption
    | (intro x; first | (refine kept_cut (P := Kept o x) ?_ ?_; rotate_left; dsimp only [x]; rotate_left; intro hx; clear_value x) | skip)
    | lift_lets
    | (simp only [kept_cons]; with_reducible apply kept_mk <;> first | with_reducible assumption | rfl | exact Kept.bytes (by assumption) | skip)
    | with_reducible first
                     | apply kept_ite | apply setTile_kept | apply report_kept
    | assumption
    | exact Kept.pad (by assumption) _
    | split

theorem execMstream_kept {f : Firing} {z : State} (h : Kept o s) (e : execMstream f s = .next z) : Kept o z := by
  unfold execMstream at e
  exact fireUnit_kept h (fun _ => matrixFire_padKept) e

theorem execMstreamAcc_kept {f : Firing} {z : State} (h : Kept o s) (e : execMstreamAcc f s = .next z) : Kept o z := by
  unfold execMstreamAcc at e
  exact fireUnit_kept h (fun _ => matrixFire_padKept) e

theorem execFma_kept {f : Firing} {z : State} (h : Kept o s) (e : execFma f s = .next z) : Kept o z := by
  unfold execFma at e
  exact fireUnit_kept h (fun _ => arith_padKept) e

theorem execMul_kept {f : Firing} {z : State} (h : Kept o s) (e : execMul f s = .next z) : Kept o z := by
  unfold execMul at e
  exact fireUnit_kept h (fun _ => arith_padKept) e

theorem execAdd_kept {f : Firing} {z : State} (h : Kept o s) (e : execAdd f s = .next z) : Kept o z := by
  unfold execAdd at e
  exact fireUnit_kept h (fun _ => arith_padKept) e

theorem execSub_kept {f : Firing} {z : State} (h : Kept o s) (e : execSub f s = .next z) : Kept o z := by
  unfold execSub at e
  exact fireUnit_kept h (fun _ => arith_padKept) e

theorem execAccum_kept {f : Firing} {z : State} (h : Kept o s) (e : execAccum f s = .next z) : Kept o z := by
  unfold execAccum at e
  exact fireUnit_kept h (fun _ => accumFire_padKept) e

theorem execMin_kept {f : Firing} {z : State} (h : Kept o s) (e : execMin f s = .next z) : Kept o z := by
  unfold execMin at e
  exact fireUnit_kept h (fun _ => arith_padKept) e

theorem execMax_kept {f : Firing} {z : State} (h : Kept o s) (e : execMax f s = .next z) : Kept o z := by
  unfold execMax at e
  exact fireUnit_kept h (fun _ => arith_padKept) e

theorem execCmp_kept {f : Firing} {z : State} (h : Kept o s) (e : execCmp f s = .next z) : Kept o z := by
  unfold execCmp at e
  exact fireUnit_kept h (fun _ => cmpFire_padKept) e

theorem execIadd_kept {f : Firing} {z : State} (h : Kept o s) (e : execIadd f s = .next z) : Kept o z := by
  unfold execIadd at e
  exact fireUnit_kept h (fun _ => intFire_padKept) e

theorem execIsub_kept {f : Firing} {z : State} (h : Kept o s) (e : execIsub f s = .next z) : Kept o z := by
  unfold execIsub at e
  exact fireUnit_kept h (fun _ => intFire_padKept) e

theorem execAnd_kept {f : Firing} {z : State} (h : Kept o s) (e : execAnd f s = .next z) : Kept o z := by
  unfold execAnd at e
  exact fireUnit_kept h (fun _ => intFire_padKept) e

theorem execOr_kept {f : Firing} {z : State} (h : Kept o s) (e : execOr f s = .next z) : Kept o z := by
  unfold execOr at e
  exact fireUnit_kept h (fun _ => intFire_padKept) e

theorem execXor_kept {f : Firing} {z : State} (h : Kept o s) (e : execXor f s = .next z) : Kept o z := by
  unfold execXor at e
  exact fireUnit_kept h (fun _ => intFire_padKept) e

theorem execShift_kept {f : Firing} {z : State} (h : Kept o s) (e : execShift f s = .next z) : Kept o z := by
  unfold execShift at e
  exact fireUnit_kept h (fun _ => intFire_padKept) e

theorem execExp2_kept {f : Firing} {z : State} (h : Kept o s) (e : execExp2 f s = .next z) : Kept o z := by
  unfold execExp2 at e
  exact fireUnit_kept h (fun _ => unary_padKept) e

theorem execLog2_kept {f : Firing} {z : State} (h : Kept o s) (e : execLog2 f s = .next z) : Kept o z := by
  unfold execLog2 at e
  exact fireUnit_kept h (fun _ => unary_padKept) e

theorem execRcp_kept {f : Firing} {z : State} (h : Kept o s) (e : execRcp f s = .next z) : Kept o z := by
  unfold execRcp at e
  exact fireUnit_kept h (fun _ => unary_padKept) e

theorem execRsqrt_kept {f : Firing} {z : State} (h : Kept o s) (e : execRsqrt f s = .next z) : Kept o z := by
  unfold execRsqrt at e
  exact fireUnit_kept h (fun _ => unary_padKept) e

theorem execRng_kept {f : Firing} {z : State} (h : Kept o s) (e : execRng f s = .next z) : Kept o z := by
  unfold execRng at e
  exact fireUnit_kept h (fun _ => rngFire_padKept) e

theorem execCvt_kept {f : Firing} {z : State} (h : Kept o s) (e : execCvt f s = .next z) : Kept o z := by
  unfold execCvt at e
  exact fireUnit_kept h (fun _ => cvtFire_padKept) e

theorem execReduce_kept {f : Firing} {z : State} (h : Kept o s) (e : execReduce f s = .next z) : Kept o z := by
  unfold execReduce at e
  exact fireUnit_kept h (fun _ => reduceFire_padKept) e

theorem execRoute_kept {f : Firing} {z : State} (h : Kept o s) (e : execRoute f s = .next z) : Kept o z := by
  unfold execRoute at e
  exact fireUnit_kept h (fun _ => routeFire_padKept) e

theorem execSelect_kept {f : Firing} {z : State} (h : Kept o s) (e : execSelect f s = .next z) : Kept o z := by
  unfold execSelect at e
  exact fireUnit_kept h (fun _ => controlFire_padKept) e

theorem execFilter_kept {f : Firing} {z : State} (h : Kept o s) (e : execFilter f s = .next z) : Kept o z := by
  unfold execFilter at e
  exact fireUnit_kept h (fun _ => controlFire_padKept) e

theorem execCompact_kept {f : Firing} {z : State} (h : Kept o s) (e : execCompact f s = .next z) : Kept o z := by
  unfold execCompact at e
  exact fireUnit_kept h (fun _ => compactFire_padKept) e

theorem execCount_kept {f : Firing} {z : State} (h : Kept o s) (e : execCount f s = .next z) : Kept o z := by
  unfold execCount at e
  exact fireUnit_kept h (fun _ => countFire_padKept) e

theorem execMerge_kept {f : Firing} {z : State} (h : Kept o s) (e : execMerge f s = .next z) : Kept o z := by
  unfold execMerge at e
  exact fireUnit_kept h (fun _ => setFire_padKept) e

theorem execUnion_kept {f : Firing} {z : State} (h : Kept o s) (e : execUnion f s = .next z) : Kept o z := by
  unfold execUnion at e
  exact fireUnit_kept h (fun _ => setFire_padKept) e

theorem execIntersect_kept {f : Firing} {z : State} (h : Kept o s) (e : execIntersect f s = .next z) : Kept o z := by
  unfold execIntersect at e
  exact fireUnit_kept h (fun _ => setFire_padKept) e

theorem execRowRead_kept {f : Firing} {upset : Bool} {z : State} (h : Kept o s) (e : execRowRead f upset s = .next z) : Kept o z := by
  unfold execRowRead at e
  exact fireRead_kept h (fun _ _ => readFire_padKept) e

theorem execRowWrite_kept {f : Firing} {z : State} (h : Kept o s) (e : execRowWrite f s = .next z) : Kept o z := by
  unfold execRowWrite at e
  exact fireAccess_kept h (fun _ => writeFire_padKept) e

theorem execColumnRead_kept {f : Firing} {upset : Bool} {z : State} (h : Kept o s) (e : execColumnRead f upset s = .next z) : Kept o z := by
  unfold execColumnRead at e
  exact fireRead_kept h (fun _ _ => readFire_padKept) e

theorem execColumnWrite_kept {f : Firing} {z : State} (h : Kept o s) (e : execColumnWrite f s = .next z) : Kept o z := by
  unfold execColumnWrite at e
  exact fireAccess_kept h (fun _ => writeFire_padKept) e

theorem execStridedRead_kept {f : Firing} {upset : Bool} {z : State} (h : Kept o s) (e : execStridedRead f upset s = .next z) : Kept o z := by
  unfold execStridedRead at e
  exact fireRead_kept h (fun _ _ => readFire_padKept) e

theorem execStridedWrite_kept {f : Firing} {z : State} (h : Kept o s) (e : execStridedWrite f s = .next z) : Kept o z := by
  unfold execStridedWrite at e
  exact fireAccess_kept h (fun _ => writeFire_padKept) e

theorem execIndexedRowRead_kept {f : Firing} {upset : Bool} {z : State} (h : Kept o s) (e : execIndexedRowRead f upset s = .next z) : Kept o z := by
  unfold execIndexedRowRead at e
  exact fireRead_kept h (fun _ _ => readFire_padKept) e

theorem execIndexedRowWrite_kept {f : Firing} {z : State} (h : Kept o s) (e : execIndexedRowWrite f s = .next z) : Kept o z := by
  unfold execIndexedRowWrite at e
  exact fireAccess_kept h (fun _ => writeFire_padKept) e

theorem execGather_kept {f : Firing} {upset : Bool} {z : State} (h : Kept o s) (e : execGather f upset s = .next z) : Kept o z := by
  unfold execGather at e
  exact fireRead_kept h (fun _ _ => readFire_padKept) e

theorem execScatter_kept {f : Firing} {z : State} (h : Kept o s) (e : execScatter f s = .next z) : Kept o z := by
  unfold execScatter at e
  exact fireAccess_kept h (fun _ => writeFire_padKept) e

theorem execProbe_kept {f : Firing} {upset : Bool} {z : State} (h : Kept o s) (e : execProbe f upset s = .next z) : Kept o z := by
  unfold execProbe at e
  exact fireRead_kept h (fun _ _ => probeFire_padKept) e

theorem execAppend_kept {f : Firing} {z : State} (h : Kept o s) (e : execAppend f s = .next z) : Kept o z := by
  unfold execAppend at e
  exact fireAccess_kept h (fun _ => appendFire_padKept) e

theorem execSend_kept {f : Firing} {z : State} (h : Kept o s) (e : execSend f s = .next z) : Kept o z := by
  unfold execSend at e
  exact fireAccess_kept h (fun _ => sendFire_padKept) e

theorem execTake_kept {f : Firing} {upset : Bool} {z : State} (h : Kept o s) (e : execTake f upset s = .next z) : Kept o z := by
  unfold execTake at e
  exact fireRead_kept h (fun _ _ => takeFire_padKept) e

theorem execPull_kept {f : Firing} {upset : Bool} {z : State} (h : Kept o s) (e : execPull f upset s = .next z) : Kept o z := by
  unfold execPull at e
  exact fireRead_kept h (fun _ _ => pullFire_padKept) e

theorem execWeaveHoldLimit_kept {tile : Nat} {z : State} (h : Kept o s) (e : execWeaveHoldLimit tile s = .next z) : Kept o z := by
  unfold execWeaveHoldLimit at e
  refine guardUnit_kept ?_ e
  clear e
  repeat' first
    | with_reducible assumption
    | (intro x; first | (refine kept_cut (P := Kept o x) ?_ ?_; rotate_left; dsimp only [x]; rotate_left; intro hx; clear_value x) | skip)
    | lift_lets
    | (simp only [kept_cons]; with_reducible apply kept_mk <;> first | with_reducible assumption | rfl | exact Kept.bytes (by assumption) | skip)
    | with_reducible first
                     | apply kept_ite | apply deviates_kept
    | split

theorem execSchedDeviation_kept {tile : Nat} {measured : Nat} {z : State} (h : Kept o s) (e : execSchedDeviation tile measured s = .next z) : Kept o z := by
  unfold execSchedDeviation at e
  refine guardUnit_kept ?_ e
  clear e
  repeat' first
    | with_reducible assumption
    | (intro x; first | (refine kept_cut (P := Kept o x) ?_ ?_; rotate_left; dsimp only [x]; rotate_left; intro hx; clear_value x) | skip)
    | lift_lets
    | (simp only [kept_cons]; with_reducible apply kept_mk <;> first | with_reducible assumption | rfl | exact Kept.bytes (by assumption) | skip)
    | with_reducible first
                     | apply kept_ite | apply deviates_kept
    | split

theorem execWeaveDrainEnd_kept {tile : Nat} {padUpset : Option Nat} {merge : List (Nat × ReadOutcome)} {z : State} (h : Kept o s) (e : execWeaveDrainEnd tile padUpset merge s = .next z) : Kept o z := by
  unfold execWeaveDrainEnd at e
  refine guardUnit_kept ?_ e
  dsimp only
  split
  · exact h
  · rename_i r _
    refine kept_ite h (kept_ite (deviates_kept h) (kept_ite (abandonWeave_kept h) ?_))
    refine onTile_kept ?_ ?_
    · refine runDrain_kept ?_
      cases padUpset with
      | none => exact h
      | some line =>
        have h1 := report_kept (r := taskRaise .padParity tile r.task line s) (counter_kept (n := 4) h)
        generalize s.freeLine = d
        refine onTile_kept h1 (fun t ht => ?_)
        exact writeLine_wf (line := line % 4096) (data := d) ht
    · intro t ht; exact ht

theorem execDrainTimeout_kept {tile : Nat} {z : State} (h : Kept o s) (e : execDrainTimeout tile s = .next z) : Kept o z := by
  unfold execDrainTimeout at e
  refine guardUnit_kept ?_ e
  clear e
  repeat' first
    | with_reducible assumption
    | (intro x; first | (refine kept_cut (P := Kept o x) ?_ ?_; rotate_left; dsimp only [x]; rotate_left; intro hx; clear_value x) | skip)
    | lift_lets
    | (simp only [kept_cons]; with_reducible apply kept_mk <;> first | with_reducible assumption | rfl | exact Kept.bytes (by assumption) | skip)
    | with_reducible first
                     | apply kept_ite | apply onTile_kept | apply report_kept
    | assumption
    | exact Kept.pad (by assumption) _
    | split

theorem execDrainComplete_kept {tile : Nat} {z : State} (h : Kept o s) (e : execDrainComplete tile s = .next z) : Kept o z := by
  unfold execDrainComplete at e
  refine guardUnit_kept ?_ e
  clear e
  repeat' first
    | with_reducible assumption
    | (intro x; first | (refine kept_cut (P := Kept o x) ?_ ?_; rotate_left; dsimp only [x]; rotate_left; intro hx; clear_value x) | skip)
    | lift_lets
    | (simp only [kept_cons]; with_reducible apply kept_mk <;> first | with_reducible assumption | rfl | exact Kept.bytes (by assumption) | skip)
    | with_reducible first
                     | apply kept_ite | apply setTile_kept | apply setHome_kept
    | assumption
    | exact Kept.pad (by assumption) _
    | split

theorem execErrorReport_kept {r : Option Raise} {z : State} (h : Kept o s) (e : execErrorReport r s = .next z) : Kept o z := by
  unfold execErrorReport at e
  have hr : ∀ l x, Kept o (receiveReport x { s with att := { s.att with reports := l } }) := fun l x =>
    receiveReport_kept (kept_cons.mpr (kept_mk h h.bytes rfl rfl rfl rfl rfl rfl rfl rfl rfl rfl rfl))
  split at e
  · refine next_kept ?_ e
    split
    · exact h
    · exact hr _ _
  · split at e
    · exact next_kept (hr _ _) e
    · split at e
      · split at e
        · exact next_kept (kept_ite (receiveReport_kept h) h) e
        · cases e
      · exact guardUnit_kept (pathReport_kept h) e
      · exact next_kept (pathReport_kept h) e
      · exact next_kept h e

theorem execFailureBroadcast_kept {z : State} (h : Kept o s) (e : execFailureBroadcast s = .next z) : Kept o z := by
  unfold execFailureBroadcast at e
  refine next_kept (kept_ite ?_ h) e
  have h1 := mapTiles_kept (f := fun x => (x.1, hearFailure x.2)) h (fun x => hearFailure_pad x.2)
  exact kept_cons.mpr (kept_mk h1 h1.bytes rfl rfl rfl rfl rfl rfl rfl rfl rfl rfl rfl)

theorem execMessageRingWrite_kept {sender : Nat} {receiver : Nat} {upset : Bool} {z : State} (h : Kept o s) (e : execMessageRingWrite sender receiver upset s = .next z) : Kept o z := by
  unfold execMessageRingWrite at e
  refine guardUnit_kept ?_ e
  clear e
  repeat' first
    | with_reducible assumption
    | (intro x; first | (refine kept_cut (P := Kept o x) ?_ ?_; rotate_left; dsimp only [x]; rotate_left; intro hx; clear_value x) | skip)
    | lift_lets
    | (simp only [kept_cons]; with_reducible apply kept_mk <;> first | with_reducible assumption | rfl | exact Kept.bytes (by assumption) | skip)
    | with_reducible first
                     | apply kept_ite | apply onTile_kept | apply serveRing_kept
    | assumption
    | exact Kept.pad (by assumption) _
    | split

theorem execRingSendRetry_kept {retry : RetrySend} {z : State} (h : Kept o s) (e : execRingSendRetry retry s = .next z) : Kept o z := by
  unfold execRingSendRetry at e
  refine guardUnit_kept ?_ e
  clear e
  repeat' first
    | with_reducible assumption
    | (intro x; first | (refine kept_cut (P := Kept o x) ?_ ?_; rotate_left; dsimp only [x]; rotate_left; intro hx; clear_value x) | skip)
    | lift_lets
    | (simp only [kept_cons]; with_reducible apply kept_mk <;> first | with_reducible assumption | rfl | exact Kept.bytes (by assumption) | skip)
    | with_reducible first
                     | apply kept_ite | apply onTile_kept | apply serveRing_kept
    | assumption
    | exact Kept.pad (by assumption) _
    | split

theorem execRingArbHoldCutoff_kept {sender : Nat} {receiver : Nat} {z : State} (h : Kept o s) (e : execRingArbHoldCutoff sender receiver s = .next z) : Kept o z := by
  unfold execRingArbHoldCutoff at e
  refine guardUnit_kept ?_ e
  clear e
  repeat' first
    | with_reducible assumption
    | (intro x; first | (refine kept_cut (P := Kept o x) ?_ ?_; rotate_left; dsimp only [x]; rotate_left; intro hx; clear_value x) | skip)
    | lift_lets
    | (simp only [kept_cons]; with_reducible apply kept_mk <;> first | with_reducible assumption | rfl | exact Kept.bytes (by assumption) | skip)
    | with_reducible first
                     | apply kept_ite | apply onTile_kept | apply report_kept
    | assumption
    | exact Kept.pad (by assumption) _
    | split

theorem execConfigLoad_kept {tile : Nat} {copy : CopyOutcome} {recordUpset : Bool} {z : State} (h : Kept o s) (e : execConfigLoad tile copy recordUpset s = .next z) : Kept o z := by
  unfold execConfigLoad at e
  refine guardUnit_kept ?_ e
  have hp := h.pad tile
  dsimp only
  split
  · exact h
  · exact kept_ite h (kept_ite (configReadError_kept h) (kept_ite (report_kept (setTile_kept h (copyConfig_wf hp)))
      (kept_ite (report_kept (setTile_kept h (copyConfig_wf hp))) (setTile_kept h (copyConfig_wf hp)))))

theorem execRunAheadConfigLoad_kept {a : AheadCopy} {z : State} (h : Kept o s) (e : execRunAheadConfigLoad a s = .next z) : Kept o z := by
  unfold execRunAheadConfigLoad at e
  refine guardUnit_kept ?_ e
  have hp := h.pad a.tile
  dsimp only
  split
  · exact h
  · exact kept_ite h (kept_ite (configReadError_kept h) (kept_ite (setTile_kept h (copyConfig_wf hp))
      (kept_ite (kept_ite (report_kept (setTile_kept h hp)) (setTile_kept h hp)) h)))

theorem execRunAheadFillIssue_kept {tile : Nat} {z : State} (h : Kept o s) (e : execRunAheadFillIssue tile s = .next z) : Kept o z := by
  unfold execRunAheadFillIssue at e
  refine guardUnit_kept ?_ e
  clear e
  repeat' first
    | with_reducible assumption
    | (intro x; first | (refine kept_cut (P := Kept o x) ?_ ?_; rotate_left; dsimp only [x]; rotate_left; intro hx; clear_value x) | skip)
    | lift_lets
    | (simp only [kept_cons]; with_reducible apply kept_mk <;> first | with_reducible assumption | rfl | exact Kept.bytes (by assumption) | skip)
    | with_reducible first
                     | apply kept_ite | apply pump_kept | apply offerReads_kept | apply startRun_kept
    | split

theorem execTileIdle_kept {at_ : TileSpeed} {z : State} (h : Kept o s) (e : execTileIdle at_ s = .next z) : Kept o z := by
  unfold execTileIdle at e
  refine guardUnit_kept ?_ e
  clear e
  repeat' first
    | with_reducible assumption
    | (intro x; first | (refine kept_cut (P := Kept o x) ?_ ?_; rotate_left; dsimp only [x]; rotate_left; intro hx; clear_value x) | skip)
    | lift_lets
    | (simp only [kept_cons]; with_reducible apply kept_mk <;> first | with_reducible assumption | rfl | exact Kept.bytes (by assumption) | skip)
    | with_reducible first
                     | apply kept_ite | apply setTile_kept | apply measureSpeed_kept | apply updateBoard_kept
                     | apply requestSteal_kept
    | assumption
    | exact Kept.pad (by assumption) _
    | split

theorem execStealReq_kept {thief : Nat} {at_ : TileSpeed} {z : State} (h : Kept o s) (e : execStealReq thief at_ s = .next z) : Kept o z := by
  unfold execStealReq at e
  refine guardUnit_kept ?_ e
  clear e
  repeat' first
    | with_reducible assumption
    | (intro x; first | (refine kept_cut (P := Kept o x) ?_ ?_; rotate_left; dsimp only [x]; rotate_left; intro hx; clear_value x) | skip)
    | lift_lets
    | (simp only [kept_cons]; with_reducible apply kept_mk <;> first | with_reducible assumption | rfl | exact Kept.bytes (by assumption) | skip)
    | with_reducible first
                     | apply kept_ite | apply setTile_kept | apply onTile_kept | apply measureSpeed_kept | apply updateBoard_kept
    | assumption
    | exact Kept.pad (by assumption) _
    | split

theorem execStealGrant_kept {thief : Nat} {z : State} (h : Kept o s) (e : execStealGrant thief s = .next z) : Kept o z := by
  unfold execStealGrant at e
  refine guardUnit_kept ?_ e
  clear e
  repeat' first
    | with_reducible assumption
    | (intro x; first | (refine kept_cut (P := Kept o x) ?_ ?_; rotate_left; dsimp only [x]; rotate_left; intro hx; clear_value x) | skip)
    | lift_lets
    | (simp only [kept_cons]; with_reducible apply kept_mk <;> first | with_reducible assumption | rfl | exact Kept.bytes (by assumption) | skip)
    | with_reducible first
                     | apply kept_ite | apply setTile_kept | apply updateBoard_kept | apply dropAhead_kept
    | assumption
    | exact Kept.pad (by assumption) _
    | split

theorem execStealRefusal_kept {thief : Nat} {z : State} (h : Kept o s) (e : execStealRefusal thief s = .next z) : Kept o z := by
  unfold execStealRefusal at e
  refine guardUnit_kept ?_ e
  clear e
  repeat' first
    | with_reducible assumption
    | (intro x; first | (refine kept_cut (P := Kept o x) ?_ ?_; rotate_left; dsimp only [x]; rotate_left; intro hx; clear_value x) | skip)
    | lift_lets
    | (simp only [kept_cons]; with_reducible apply kept_mk <;> first | with_reducible assumption | rfl | exact Kept.bytes (by assumption) | skip)
    | with_reducible first
                     | apply kept_ite | apply setTile_kept | apply requestSteal_kept
    | assumption
    | exact Kept.pad (by assumption) _
    | split

theorem execDirectorySweep_kept {loaf : Nat} {outcome : ReadOutcome} {z : State} (h : Kept o s) (e : execDirectorySweep loaf outcome s = .next z) : Kept o z := by
  unfold execDirectorySweep at e
  split at e
  · cases e
  refine next_kept ?_ e
  clear e
  repeat' first
    | with_reducible assumption
    | (intro x; first | (refine kept_cut (P := Kept o x) ?_ ?_; rotate_left; dsimp only [x]; rotate_left; intro hx; clear_value x) | skip)
    | lift_lets
    | (simp only [kept_cons]; with_reducible apply kept_mk <;> first | with_reducible assumption | rfl | exact Kept.bytes (by assumption) | skip)
    | with_reducible first
                     | apply kept_ite | apply raise_kept | apply normalise_kept
    | split

theorem execAccessDecay_kept {z : State} (h : Kept o s) (e : execAccessDecay s = .next z) : Kept o z := by
  unfold execAccessDecay at e
  refine next_kept ?_ e
  clear e
  repeat' first
    | with_reducible assumption
    | (intro x; first | (refine kept_cut (P := Kept o x) ?_ ?_; rotate_left; dsimp only [x]; rotate_left; intro hx; clear_value x) | skip)
    | lift_lets
    | (simp only [kept_cons]; with_reducible apply kept_mk <;> first | with_reducible assumption | rfl | exact Kept.bytes (by assumption) | skip)
    | with_reducible first
                     | apply kept_ite
    | split

theorem execRegionSlow_kept {region : Nat} {z : State} (h : Kept o s) (e : execRegionSlow region s = .next z) : Kept o z := by
  unfold execRegionSlow at e
  refine guardUnit_kept ?_ e
  clear e
  repeat' first
    | with_reducible assumption
    | (intro x; first | (refine kept_cut (P := Kept o x) ?_ ?_; rotate_left; dsimp only [x]; rotate_left; intro hx; clear_value x) | skip)
    | lift_lets
    | with_reducible apply exchangeRegion_kept
    | (simp only [kept_cons]; with_reducible apply kept_mk <;> first | with_reducible assumption | rfl | exact Kept.bytes (by assumption) | skip)
    | with_reducible first
                     | apply kept_ite | apply onRegion_kept | apply raise_kept
    | split

theorem execParkedTileVerified_kept {tile : Nat} {z : State} (h : Kept o s) (e : execParkedTileVerified tile s = .next z) : Kept o z := by
  unfold execParkedTileVerified at e
  refine guardUnit_kept ?_ e
  clear e
  repeat' first
    | with_reducible assumption
    | (intro x; first | (refine kept_cut (P := Kept o x) ?_ ?_; rotate_left; dsimp only [x]; rotate_left; intro hx; clear_value x) | skip)
    | lift_lets
    | (simp only [kept_cons]; with_reducible apply kept_mk <;> first | with_reducible assumption | rfl | exact Kept.bytes (by assumption) | skip)
    | with_reducible first
                     | apply kept_ite | apply setReserve_kept
    | split

theorem execRotation_kept {z : State} (h : Kept o s) (e : execRotation s = .next z) : Kept o z := by
  unfold execRotation at e
  refine next_kept ?_ e
  clear e
  repeat' first
    | with_reducible assumption
    | (intro x; first | (refine kept_cut (P := Kept o x) ?_ ?_; rotate_left; dsimp only [x]; rotate_left; intro hx; clear_value x) | skip)
    | lift_lets
    | (simp only [kept_cons]; with_reducible apply kept_mk <;> first | with_reducible assumption | rfl | exact Kept.bytes (by assumption) | skip)
    | with_reducible first
                     | apply kept_ite
    | split

theorem execTileExchange_kept {logical : Nat} {z : State} (h : Kept o s) (e : execTileExchange logical s = .next z) : Kept o z := by
  unfold execTileExchange at e
  refine guardUnit_kept ?_ e
  clear e
  repeat' first
    | with_reducible assumption
    | (intro x; first | (refine kept_cut (P := Kept o x) ?_ ?_; rotate_left; dsimp only [x]; rotate_left; intro hx; clear_value x) | skip)
    | lift_lets
    | (simp only [kept_cons]; with_reducible apply kept_mk <;> first | with_reducible assumption | rfl | exact Kept.bytes (by assumption) | skip)
    | with_reducible first
                     | apply kept_ite
    | split

theorem execReserveProgramComplete_kept {a : Nat} {b : Nat} {outA : List Word64} {outB : List Word64} {third : Option (Nat × List Word64)} {z : State} (h : Kept o s) (e : execReserveProgramComplete a b outA outB third s = .next z) : Kept o z := by
  unfold execReserveProgramComplete at e
  refine guardUnit_kept (kept_ite h (kept_ite (sweepProgram_kept (sweepProgram_kept h)) ?_)) e
  dsimp only
  split
  · exact unresolved_kept (unresolved_kept h)
  · exact kept_ite (failReserve_kept (sweepProgram_kept h)) (kept_ite (failReserve_kept (sweepProgram_kept h)) (unresolved_kept (unresolved_kept h)))

theorem execHealthScoreUpdate_kept {z : State} (h : Kept o s) (e : execHealthScoreUpdate s = .next z) : Kept o z := by
  unfold execHealthScoreUpdate at e
  refine next_kept ?_ e
  clear e
  repeat' first
    | with_reducible assumption
    | (intro x; first | (refine kept_cut (P := Kept o x) ?_ ?_; rotate_left; dsimp only [x]; rotate_left; intro hx; clear_value x) | skip)
    | lift_lets
    | (simp only [kept_cons]; with_reducible apply kept_mk <;> first | with_reducible assumption | rfl | exact Kept.bytes (by assumption) | skip)
    | with_reducible first
                     | apply kept_ite | apply raise_kept
    | split

theorem execFenumWatchdog_kept {z : State} (h : Kept o s) (e : execFenumWatchdog s = .next z) : Kept o z := by
  unfold execFenumWatchdog at e
  refine next_kept ?_ e
  clear e
  repeat' first
    | with_reducible assumption
    | (intro x; first | (refine kept_cut (P := Kept o x) ?_ ?_; rotate_left; dsimp only [x]; rotate_left; intro hx; clear_value x) | skip)
    | lift_lets
    | (simp only [kept_cons]; with_reducible apply kept_mk <;> first | with_reducible assumption | rfl | exact Kept.bytes (by assumption) | skip)
    | with_reducible first
                     | apply kept_ite | apply fenumRestart_kept
    | split

theorem execFenumLockstep_kept {z : State} (h : Kept o s) (e : execFenumLockstep s = .next z) : Kept o z := by
  unfold execFenumLockstep at e
  refine next_kept ?_ e
  clear e
  repeat' first
    | with_reducible assumption
    | (intro x; first | (refine kept_cut (P := Kept o x) ?_ ?_; rotate_left; dsimp only [x]; rotate_left; intro hx; clear_value x) | skip)
    | lift_lets
    | (simp only [kept_cons]; with_reducible apply kept_mk <;> first | with_reducible assumption | rfl | exact Kept.bytes (by assumption) | skip)
    | with_reducible first
                     | apply kept_ite | apply fenumRestart_kept
    | split

theorem execFirmwareRunning_kept {started : Bool} {z : State} (h : Kept o s) (e : execFirmwareRunning started s = .next z) : Kept o z := by
  unfold execFirmwareRunning at e
  refine next_kept ?_ e
  clear e
  repeat' first
    | with_reducible assumption
    | (intro x; first | (refine kept_cut (P := Kept o x) ?_ ?_; rotate_left; dsimp only [x]; rotate_left; intro hx; clear_value x) | skip)
    | lift_lets
    | (simp only [kept_cons]; with_reducible apply kept_mk <;> first | with_reducible assumption | rfl | exact Kept.bytes (by assumption) | skip)
    | with_reducible first
                     | apply kept_ite | apply firmwareRuns_kept
    | split

theorem execDumpPersist_kept {z : State} (h : Kept o s) (e : execDumpPersist s = .next z) : Kept o z := by
  unfold execDumpPersist at e
  refine next_kept ?_ e
  clear e
  repeat' first
    | with_reducible assumption
    | (intro x; first | (refine kept_cut (P := Kept o x) ?_ ?_; rotate_left; dsimp only [x]; rotate_left; intro hx; clear_value x) | skip)
    | lift_lets
    | (simp only [kept_cons]; with_reducible apply kept_mk <;> first | with_reducible assumption | rfl | exact Kept.bytes (by assumption) | skip)
    | with_reducible first
                     | apply kept_ite
    | split

theorem execEventPersist_kept {writeFails : Bool} {z : State} (h : Kept o s) (e : execEventPersist writeFails s = .next z) : Kept o z := by
  unfold execEventPersist at e
  refine next_kept ?_ e
  clear e
  repeat' first
    | with_reducible assumption
    | (intro x; first | (refine kept_cut (P := Kept o x) ?_ ?_; rotate_left; dsimp only [x]; rotate_left; intro hx; clear_value x) | skip)
    | lift_lets
    | (simp only [kept_cons]; with_reducible apply kept_mk <;> first | with_reducible assumption | rfl | exact Kept.bytes (by assumption) | skip)
    | with_reducible first
                     | apply kept_ite | apply norWriteFail_kept
    | split

theorem execDroopTrip_kept {region : Nat} {z : State} (h : Kept o s) (e : execDroopTrip region s = .next z) : Kept o z := by
  unfold execDroopTrip at e
  refine guardUnit_kept ?_ e
  clear e
  repeat' first
    | with_reducible assumption
    | (intro x; first | (refine kept_cut (P := Kept o x) ?_ ?_; rotate_left; dsimp only [x]; rotate_left; intro hx; clear_value x) | skip)
    | lift_lets
    | (simp only [kept_cons]; with_reducible apply kept_mk <;> first | with_reducible assumption | rfl | exact Kept.bytes (by assumption) | skip)
    | with_reducible first
                     | apply kept_ite | apply onRegion_kept
    | split

theorem execLimiterInterval_kept {meanW : Nat} {z : State} (h : Kept o s) (e : execLimiterInterval meanW s = .next z) : Kept o z := by
  unfold execLimiterInterval at e
  refine next_kept ?_ e
  clear e
  repeat' first
    | with_reducible assumption
    | (intro x; first | (refine kept_cut (P := Kept o x) ?_ ?_; rotate_left; dsimp only [x]; rotate_left; intro hx; clear_value x) | skip)
    | lift_lets
    | (simp only [kept_cons]; with_reducible apply kept_mk <;> first | with_reducible assumption | rfl | exact Kept.bytes (by assumption) | skip)
    | with_reducible first
                     | apply kept_ite | apply onRegion_kept | apply raise_kept
    | (with_reducible apply each_kept; intro _ _ _; beta_reduce)
    | split

theorem execPatrolLine_kept {frame : Nat} {line : Nat} {outcome : ReadOutcome} {z : State} (h : Kept o s) (e : execPatrolLine frame line outcome s = .next z) : Kept o z := by
  unfold execPatrolLine at e
  split at e
  · cases e
  · refine next_kept (kept_ite h ?_) e
    have h0 : ∀ x, Kept o { s with mem := hbmGrant frame line hbmPatrol x s.mem } := fun x =>
      kept_cons.mpr (kept_mk h (by rw [hbmGrant_bytes]; exact h.bytes) rfl rfl rfl rfl rfl rfl rfl rfl rfl rfl rfl)
    have h1 : ∀ u g x, Kept o (countMem u g { s with mem := hbmGrant frame line hbmPatrol x s.mem }) := fun _ _ x => countMem_kept (h0 x)
    dsimp only
    split
    · exact memCorrected_kept (h1 _ _ _)
    · exact kept_ite (setFrameLine_kept (memCorrected_kept (h1 _ _ _))) (memCorrected_kept (h1 _ _ _))
    · exact frameUncorrectable_kept (h1 _ _ _)
    · exact h1 _ _ _

theorem execDdrWriteCrcError_kept {frame : Nat} {line : Nat} {retriesFailed : Nat} {z : State} (h : Kept o s) (e : execDdrWriteCrcError frame line retriesFailed s = .next z) : Kept o z := by
  unfold execDdrWriteCrcError at e
  split at e
  · cases e
  · exact next_kept (kept_ite h (frameUncorrectable_kept (fresh_kept h))) e

theorem execHbmArbHoldCutoff_kept {stack : Nat} {pc : Nat} {z : State} (h : Kept o s) (e : execHbmArbHoldCutoff stack pc s = .next z) : Kept o z := by
  unfold execHbmArbHoldCutoff at e
  split at e
  · cases e
  refine next_kept ?_ e
  clear e
  repeat' first
    | with_reducible assumption
    | (intro x; first | (refine kept_cut (P := Kept o x) ?_ ?_; rotate_left; dsimp only [x]; rotate_left; intro hx; clear_value x) | skip)
    | lift_lets
    | (simp only [kept_cons]; with_reducible apply kept_mk <;> first | with_reducible assumption | rfl | exact Kept.bytes (by assumption) | skip)
    | with_reducible first
                     | apply kept_ite | apply raise_kept
    | split

theorem execPortTrainingAttempt_kept {port : Nat} {t : Training} {z : State} (h : Kept o s) (e : execPortTrainingAttempt port t s = .next z) : Kept o z := by
  unfold execPortTrainingAttempt at e
  refine guardUnit_kept (kept_ite h ?_) e
  have h0 := measureFeed_kept (port := port) (feed := t.feed) h
  refine kept_ite (kept_ite (challengePeer_kept h0) h0) (kept_ite ?_ ?_)
  · have h1 : ∀ f m, Kept o (spareLane port 1 t.rxLock (spareLane port 0 m ((measureFeed port t.feed s).onPort port f))) := fun _ _ =>
      spareLane_kept (spareLane_kept (onPort_kept h0))
    dsimp only
    split
    · exact h1 _ _
    · exact kept_ite (bundleEvent_kept (h1 _ _)) (sendOn_kept (h1 _ _))
  · exact kept_ite (raise_kept (onPort_kept h0)) (onPort_kept h0)

theorem execPortRetryTimer_kept {port : Nat} {z : State} (h : Kept o s) (e : execPortRetryTimer port s = .next z) : Kept o z := by
  unfold execPortRetryTimer at e
  refine guardUnit_kept ?_ e
  clear e
  repeat' first
    | with_reducible assumption
    | (intro x; first | (refine kept_cut (P := Kept o x) ?_ ?_; rotate_left; dsimp only [x]; rotate_left; intro hx; clear_value x) | skip)
    | lift_lets
    | (simp only [kept_cons]; with_reducible apply kept_mk <;> first | with_reducible assumption | rfl | exact Kept.bytes (by assumption) | skip)
    | with_reducible first
                     | apply kept_ite | apply onPort_kept
    | split

theorem execPortLossOfLock_kept {port : Nat} {lane : Nat} {z : State} (h : Kept o s) (e : execPortLossOfLock port lane s = .next z) : Kept o z := by
  unfold execPortLossOfLock at e
  refine guardUnit_kept ?_ e
  clear e
  repeat' first
    | with_reducible assumption
    | (intro x; first | (refine kept_cut (P := Kept o x) ?_ ?_; rotate_left; dsimp only [x]; rotate_left; intro hx; clear_value x) | skip)
    | lift_lets
    | (simp only [kept_cons]; with_reducible apply kept_mk <;> first | with_reducible assumption | rfl | exact Kept.bytes (by assumption) | skip)
    | with_reducible first
                     | apply kept_ite | apply portDown_kept
    | split

theorem execPortIdleTimeout_kept {port : Nat} {z : State} (h : Kept o s) (e : execPortIdleTimeout port s = .next z) : Kept o z := by
  unfold execPortIdleTimeout at e
  refine guardUnit_kept ?_ e
  clear e
  repeat' first
    | with_reducible assumption
    | (intro x; first | (refine kept_cut (P := Kept o x) ?_ ?_; rotate_left; dsimp only [x]; rotate_left; intro hx; clear_value x) | skip)
    | lift_lets
    | (simp only [kept_cons]; with_reducible apply kept_mk <;> first | with_reducible assumption | rfl | exact Kept.bytes (by assumption) | skip)
    | with_reducible first
                     | apply kept_ite | apply portDown_kept
    | split

theorem execFlitReceive_kept {port : Nat} {f : FlitArrival} {z : State} (h : Kept o s) (e : execFlitReceive port f s = .next z) : Kept o z := by
  unfold execFlitReceive at e
  refine guardUnit_kept ?_ e
  clear e
  repeat' first
    | with_reducible assumption
    | (intro x; first | (refine kept_cut (P := Kept o x) ?_ ?_; rotate_left; dsimp only [x]; rotate_left; intro hx; clear_value x) | skip)
    | lift_lets
    | (simp only [kept_cons]; with_reducible apply kept_mk <;> first | with_reducible assumption | rfl | exact Kept.bytes (by assumption) | skip)
    | with_reducible first
                     | apply kept_ite | apply shortFlit_kept | apply longFlit_kept
    | split

theorem execLinkControlFlit_kept {port : Nat} {request : Stamps} {answer : Stamps} {peerBudget : Option Nat} {peerDepth : Nat} {z : State} (h : Kept o s) (e : execLinkControlFlit port request answer peerBudget peerDepth s = .next z) : Kept o z := by
  unfold execLinkControlFlit at e
  refine guardUnit_kept ?_ e
  clear e
  repeat' first
    | with_reducible assumption
    | (intro x; first | (refine kept_cut (P := Kept o x) ?_ ?_; rotate_left; dsimp only [x]; rotate_left; intro hx; clear_value x) | skip)
    | lift_lets
    | (simp only [kept_cons]; with_reducible apply kept_mk <;> first | with_reducible assumption | rfl | exact Kept.bytes (by assumption) | skip)
    | with_reducible first
                     | apply kept_ite | apply onPort_kept | apply answer_kept | apply reparent_kept
    | split

theorem execHello_kept {port : Nat} {hello : Hello} {z : State} (h : Kept o s) (e : execHello port hello s = .next z) : Kept o z := by
  unfold execHello at e
  exact guardUnit_kept (kept_ite h (kept_ite (sendChain_kept (sendHello_kept (kept_ite (challengePeer_kept h) h)))
    (checkHello_kept (onPort_kept h)))) e

theorem execHelloCert_kept {port : Nat} {chain : BitVec 384} {z : State} (h : Kept o s) (e : execHelloCert port chain s = .next z) : Kept o z := by
  unfold execHelloCert at e
  refine guardUnit_kept ?_ e
  clear e
  repeat' first
    | with_reducible assumption
    | (intro x; first | (refine kept_cut (P := Kept o x) ?_ ?_; rotate_left; dsimp only [x]; rotate_left; intro hx; clear_value x) | skip)
    | lift_lets
    | (simp only [kept_cons]; with_reducible apply kept_mk <;> first | with_reducible assumption | rfl | exact Kept.bytes (by assumption) | skip)
    | with_reducible first
                     | apply kept_ite | apply onPort_kept | apply checkHello_kept
    | split

theorem execCoord_kept {port : Nat} {addr : BitVec 24} {dim : Nat} {plus : Bool} {z : State} (h : Kept o s) (e : execCoord port addr dim plus s = .next z) : Kept o z := by
  unfold execCoord at e
  refine guardUnit_kept ?_ e
  clear e
  repeat' first
    | with_reducible assumption
    | (intro x; first | (refine kept_cut (P := Kept o x) ?_ ?_; rotate_left; dsimp only [x]; rotate_left; intro hx; clear_value x) | skip)
    | lift_lets
    | (simp only [kept_cons]; with_reducible apply kept_mk <;> first | with_reducible assumption | rfl | exact Kept.bytes (by assumption) | skip)
    | with_reducible first
                     | apply kept_ite | apply onPort_kept | apply raise_kept | apply bundleEvent_kept
    | split

theorem execTransitPacket_kept {port : Nat} {p : Packet} {z : State} (h : Kept o s) (e : execTransitPacket port p s = .next z) : Kept o z := by
  unfold execTransitPacket at e
  refine guardUnit_kept ?_ e
  clear e
  repeat' first
    | with_reducible assumption
    | (intro x; first | (refine kept_cut (P := Kept o x) ?_ ?_; rotate_left; dsimp only [x]; rotate_left; intro hx; clear_value x) | skip)
    | lift_lets
    | (simp only [kept_cons]; with_reducible apply kept_mk <;> first | with_reducible assumption | rfl | exact Kept.bytes (by assumption) | skip)
    | with_reducible first
                     | apply kept_ite | apply forward_kept
    | split

theorem execPortDownFlood_kept {port : Nat} {en : Flood} {z : State} (h : Kept o s) (e : execPortDownFlood port en s = .next z) : Kept o z := by
  unfold execPortDownFlood at e
  refine guardUnit_kept ?_ e
  clear e
  repeat' first
    | with_reducible assumption
    | (intro x; first | (refine kept_cut (P := Kept o x) ?_ ?_; rotate_left; dsimp only [x]; rotate_left; intro hx; clear_value x) | skip)
    | lift_lets
    | (simp only [kept_cons]; with_reducible apply kept_mk <;> first | with_reducible assumption | rfl | exact Kept.bytes (by assumption) | skip)
    | with_reducible first
                     | apply kept_ite | apply takeFlood_kept
    | split

theorem execPortUpFlood_kept {port : Nat} {en : Flood} {z : State} (h : Kept o s) (e : execPortUpFlood port en s = .next z) : Kept o z := by
  unfold execPortUpFlood at e
  refine guardUnit_kept ?_ e
  clear e
  repeat' first
    | with_reducible assumption
    | (intro x; first | (refine kept_cut (P := Kept o x) ?_ ?_; rotate_left; dsimp only [x]; rotate_left; intro hx; clear_value x) | skip)
    | lift_lets
    | (simp only [kept_cons]; with_reducible apply kept_mk <;> first | with_reducible assumption | rfl | exact Kept.bytes (by assumption) | skip)
    | with_reducible first
                     | apply kept_ite | apply takeFlood_kept
    | split

theorem execInjectionStop_kept {z : State} (h : Kept o s) (e : execInjectionStop s = .next z) : Kept o z := by
  unfold execInjectionStop at e
  refine next_kept ?_ e
  clear e
  repeat' first
    | with_reducible assumption
    | (intro x; first | (refine kept_cut (P := Kept o x) ?_ ?_; rotate_left; dsimp only [x]; rotate_left; intro hx; clear_value x) | skip)
    | lift_lets
    | (simp only [kept_cons]; with_reducible apply kept_mk <;> first | with_reducible assumption | rfl | exact Kept.bytes (by assumption) | skip)
    | with_reducible first
                     | apply kept_ite | apply formPlan_kept
    | split

theorem execFabricTableSwap_kept {z : State} (h : Kept o s) (e : execFabricTableSwap s = .next z) : Kept o z := by
  unfold execFabricTableSwap at e
  refine next_kept ?_ e
  clear e
  repeat' first
    | with_reducible assumption
    | (intro x; first | (refine kept_cut (P := Kept o x) ?_ ?_; rotate_left; dsimp only [x]; rotate_left; intro hx; clear_value x) | skip)
    | lift_lets
    | (simp only [kept_cons]; with_reducible apply kept_mk <;> first | with_reducible assumption | rfl | exact Kept.bytes (by assumption) | skip)
    | with_reducible first
                     | apply kept_ite | apply answer_kept | apply recomputeRoutes_kept | apply installCircuits_kept
                     | apply sendCoords_kept | apply formPlan_kept | apply adoptPlan_kept | apply floodUnusable_kept
    | split

theorem execInjectionResume_kept {z : State} (h : Kept o s) (e : execInjectionResume s = .next z) : Kept o z := by
  unfold execInjectionResume at e
  refine next_kept ?_ e
  clear e
  repeat' first
    | with_reducible assumption
    | (intro x; first | (refine kept_cut (P := Kept o x) ?_ ?_; rotate_left; dsimp only [x]; rotate_left; intro hx; clear_value x) | skip)
    | lift_lets
    | (simp only [kept_cons]; with_reducible apply kept_mk <;> first | with_reducible assumption | rfl | exact Kept.bytes (by assumption) | skip)
    | with_reducible first
                     | apply kept_ite | apply inject_kept | apply reissue_kept
    | (with_reducible apply each_kept; intro _ _ _; beta_reduce)
    | split

theorem execFabricArbHoldCutoff_kept {port : Nat} {p : Packet} {z : State} (h : Kept o s) (e : execFabricArbHoldCutoff port p s = .next z) : Kept o z := by
  unfold execFabricArbHoldCutoff at e
  refine guardUnit_kept ?_ e
  clear e
  repeat' first
    | with_reducible assumption
    | (intro x; first | (refine kept_cut (P := Kept o x) ?_ ?_; rotate_left; dsimp only [x]; rotate_left; intro hx; clear_value x) | skip)
    | lift_lets
    | (simp only [kept_cons]; with_reducible apply kept_mk <;> first | with_reducible assumption | rfl | exact Kept.bytes (by assumption) | skip)
    | with_reducible first
                     | apply kept_ite | apply onPort_kept | apply raise_kept | apply pumpPort_kept
    | split

theorem execWindowPut_kept {w : WindowOp} {z : State} (h : Kept o s) (e : execWindowPut w s = .next z) : Kept o z := by
  unfold execWindowPut at e
  refine next_kept ?_ e
  clear e
  repeat' first
    | with_reducible assumption
    | (intro x; first | (refine kept_cut (P := Kept o x) ?_ ?_; rotate_left; dsimp only [x]; rotate_left; intro hx; clear_value x) | skip)
    | lift_lets
    | (simp only [kept_cons]; with_reducible apply kept_mk <;> first | with_reducible assumption | rfl | exact Kept.bytes (by assumption) | skip)
    | with_reducible first
                     | apply kept_ite | apply receiveOp_kept
    | split

theorem execWindowGet_kept {w : WindowOp} {z : State} (h : Kept o s) (e : execWindowGet w s = .next z) : Kept o z := by
  unfold execWindowGet at e
  refine next_kept ?_ e
  clear e
  repeat' first
    | with_reducible assumption
    | (intro x; first | (refine kept_cut (P := Kept o x) ?_ ?_; rotate_left; dsimp only [x]; rotate_left; intro hx; clear_value x) | skip)
    | lift_lets
    | (simp only [kept_cons]; with_reducible apply kept_mk <;> first | with_reducible assumption | rfl | exact Kept.bytes (by assumption) | skip)
    | with_reducible first
                     | apply kept_ite | apply receiveOp_kept
    | split

theorem execWindowAdd_kept {w : WindowOp} {z : State} (h : Kept o s) (e : execWindowAdd w s = .next z) : Kept o z := by
  unfold execWindowAdd at e
  refine next_kept ?_ e
  clear e
  repeat' first
    | with_reducible assumption
    | (intro x; first | (refine kept_cut (P := Kept o x) ?_ ?_; rotate_left; dsimp only [x]; rotate_left; intro hx; clear_value x) | skip)
    | lift_lets
    | (simp only [kept_cons]; with_reducible apply kept_mk <;> first | with_reducible assumption | rfl | exact Kept.bytes (by assumption) | skip)
    | with_reducible first
                     | apply kept_ite | apply receiveOp_kept
    | split

theorem execWindowCas_kept {w : WindowOp} {z : State} (h : Kept o s) (e : execWindowCas w s = .next z) : Kept o z := by
  unfold execWindowCas at e
  refine next_kept ?_ e
  clear e
  repeat' first
    | with_reducible assumption
    | (intro x; first | (refine kept_cut (P := Kept o x) ?_ ?_; rotate_left; dsimp only [x]; rotate_left; intro hx; clear_value x) | skip)
    | lift_lets
    | (simp only [kept_cons]; with_reducible apply kept_mk <;> first | with_reducible assumption | rfl | exact Kept.bytes (by assumption) | skip)
    | with_reducible first
                     | apply kept_ite | apply receiveOp_kept
    | split

theorem execReply_kept {p : Packet} {z : State} (h : Kept o s) (e : execReply p s = .next z) : Kept o z := by
  unfold execReply at e
  refine next_kept ?_ e
  clear e
  repeat' first
    | with_reducible assumption
    | (intro x; first | (refine kept_cut (P := Kept o x) ?_ ?_; rotate_left; dsimp only [x]; rotate_left; intro hx; clear_value x) | skip)
    | lift_lets
    | (simp only [kept_cons]; with_reducible apply kept_mk <;> first | with_reducible assumption | rfl | exact Kept.bytes (by assumption) | skip)
    | with_reducible first
                     | apply kept_ite | apply setPeer_kept | apply startBarriers_kept | apply onProxy_kept | apply pumpAll_kept
                     | apply opRefused_kept | apply answerProxies_kept | apply replyWrites_kept
    | split

theorem execE2eTimeout_kept {peer : Nat} {z : State} (h : Kept o s) (e : execE2eTimeout peer s = .next z) : Kept o z := by
  unfold execE2eTimeout at e
  refine guardUnit_kept ?_ e
  clear e
  repeat' first
    | with_reducible assumption
    | (intro x; first | (refine kept_cut (P := Kept o x) ?_ ?_; rotate_left; dsimp only [x]; rotate_left; intro hx; clear_value x) | skip)
    | lift_lets
    | (simp only [kept_cons]; with_reducible apply kept_mk <;> first | with_reducible assumption | rfl | exact Kept.bytes (by assumption) | skip)
    | with_reducible first
                     | apply kept_ite | apply raise_kept | apply setPeer_kept | apply sendOp_kept | apply answerProxies_kept
    | (with_reducible apply each_kept; intro _ _ _; beta_reduce)
    | split

theorem execBarrier_kept {p : Packet} {z : State} (h : Kept o s) (e : execBarrier p s = .next z) : Kept o z := by
  unfold execBarrier at e
  exact next_kept (kept_ite h (receiveColl_kept (fun c s h => kept_ite (advanceBarrier_kept _ (takeChunk_kept h)) h) h)) e

theorem execChunkData_kept {p : Packet} {z : State} (h : Kept o s) (e : execChunkData p s = .next z) : Kept o z := by
  unfold execChunkData at e
  refine next_kept ?_ e
  clear e
  repeat' first
    | with_reducible assumption
    | (intro x; first | (refine kept_cut (P := Kept o x) ?_ ?_; rotate_left; dsimp only [x]; rotate_left; intro hx; clear_value x) | skip)
    | lift_lets
    | (simp only [kept_cons]; with_reducible apply kept_mk <;> first | with_reducible assumption | rfl | exact Kept.bytes (by assumption) | skip)
    | with_reducible first
                     | apply kept_ite | apply takeChunk_kept | apply receiveColl_kept | apply countReserved_kept
    | split

theorem execChunkAck_kept {p : Packet} {z : State} (h : Kept o s) (e : execChunkAck p s = .next z) : Kept o z := by
  unfold execChunkAck at e
  refine next_kept ?_ e
  clear e
  repeat' first
    | with_reducible assumption
    | (intro x; first | (refine kept_cut (P := Kept o x) ?_ ?_; rotate_left; dsimp only [x]; rotate_left; intro hx; clear_value x) | skip)
    | lift_lets
    | (simp only [kept_cons]; with_reducible apply kept_mk <;> first | with_reducible assumption | rfl | exact Kept.bytes (by assumption) | skip)
    | with_reducible first
                     | apply kept_ite | apply setRun_kept | apply settleRun_kept | apply peerLost_kept
    | split

theorem execChunkCount_kept {p : Packet} {z : State} (h : Kept o s) (e : execChunkCount p s = .next z) : Kept o z := by
  unfold execChunkCount at e
  refine next_kept ?_ e
  clear e
  repeat' first
    | with_reducible assumption
    | (intro x; first | (refine kept_cut (P := Kept o x) ?_ ?_; rotate_left; dsimp only [x]; rotate_left; intro hx; clear_value x) | skip)
    | lift_lets
    | (simp only [kept_cons]; with_reducible apply kept_mk <;> first | with_reducible assumption | rfl | exact Kept.bytes (by assumption) | skip)
    | with_reducible first
                     | apply kept_ite | apply takeCountChunk_kept | apply receiveColl_kept
    | split

theorem execChunkTimeout_kept {coll : Nat} {chunk : Nat} {peer : Nat} {z : State} (h : Kept o s) (e : execChunkTimeout coll chunk peer s = .next z) : Kept o z := by
  unfold execChunkTimeout at e
  refine guardUnit_kept ?_ e
  clear e
  repeat' first
    | with_reducible assumption
    | (intro x; first | (refine kept_cut (P := Kept o x) ?_ ?_; rotate_left; dsimp only [x]; rotate_left; intro hx; clear_value x) | skip)
    | lift_lets
    | (simp only [kept_cons]; with_reducible apply kept_mk <;> first | with_reducible assumption | rfl | exact Kept.bytes (by assumption) | skip)
    | with_reducible first
                     | apply kept_ite | apply raise_kept | apply peerLost_kept | apply reissue_kept
    | split

theorem execCollectiveStage0Start_kept {start : StageStart} {z : State} (h : Kept o s) (e : execCollectiveStage0Start start s = .next z) : Kept o z := by
  unfold execCollectiveStage0Start at e
  refine guardUnit_kept ?_ e
  have h1 : ∀ c, Kept o (sourceReads c start.reads s) := fun _ => sourceReads_kept h
  split
  · exact kept_ite h (kept_ite (h1 _) (startStages_kept (h1 _)))
  · exact h

theorem execCollectiveStageComplete_kept {coll : Nat} {z : State} (h : Kept o s) (e : execCollectiveStageComplete coll s = .next z) : Kept o z := by
  unfold execCollectiveStageComplete at e
  refine guardUnit_kept ?_ e
  clear e
  repeat' first
    | with_reducible assumption
    | (intro x; first | (refine kept_cut (P := Kept o x) ?_ ?_; rotate_left; dsimp only [x]; rotate_left; intro hx; clear_value x) | skip)
    | lift_lets
    | (simp only [kept_cons]; with_reducible apply kept_mk <;> first | with_reducible assumption | rfl | exact Kept.bytes (by assumption) | skip)
    | with_reducible first
                     | apply kept_ite | apply completeStage_kept
    | split

theorem execPeerSlow_kept {coll : Nat} {z : State} (h : Kept o s) (e : execPeerSlow coll s = .next z) : Kept o z := by
  unfold execPeerSlow at e
  refine guardUnit_kept ?_ e
  clear e
  repeat' first
    | with_reducible assumption
    | (intro x; first | (refine kept_cut (P := Kept o x) ?_ ?_; rotate_left; dsimp only [x]; rotate_left; intro hx; clear_value x) | skip)
    | lift_lets
    | (simp only [kept_cons]; with_reducible apply kept_mk <;> first | with_reducible assumption | rfl | exact Kept.bytes (by assumption) | skip)
    | with_reducible first
                     | apply kept_ite | apply raise_kept | apply setRun_kept
    | split

theorem execLoadImageDmaComplete_kept {mb : Nat} {list : List Descriptor} {data : List Byte} {z : State} (h : Kept o s) (e : execLoadImageDmaComplete mb list data s = .next z) : Kept o z := by
  unfold execLoadImageDmaComplete at e
  refine guardUnit_kept ?_ e
  clear e
  repeat' first
    | with_reducible assumption
    | (intro x; first | (refine kept_cut (P := Kept o x) ?_ ?_; rotate_left; dsimp only [x]; rotate_left; intro hx; clear_value x) | skip)
    | lift_lets
    | (simp only [kept_cons]; with_reducible apply kept_mk <;> first | with_reducible assumption | rfl | exact Kept.bytes (by assumption) | skip)
    | with_reducible first
                     | apply kept_ite | apply imageArrives_kept
    | split

theorem execFabricPlanDmaComplete_kept {mb : Nat} {list : List Descriptor} {data : List Byte} {z : State} (h : Kept o s) (e : execFabricPlanDmaComplete mb list data s = .next z) : Kept o z := by
  unfold execFabricPlanDmaComplete at e
  refine guardUnit_kept ?_ e
  clear e
  repeat' first
    | with_reducible assumption
    | (intro x; first | (refine kept_cut (P := Kept o x) ?_ ?_; rotate_left; dsimp only [x]; rotate_left; intro hx; clear_value x) | skip)
    | lift_lets
    | (simp only [kept_cons]; with_reducible apply kept_mk <;> first | with_reducible assumption | rfl | exact Kept.bytes (by assumption) | skip)
    | with_reducible first
                     | apply kept_ite | apply planArrives_kept
    | split

theorem execFwStageDmaComplete_kept {mb : Nat} {list : List Descriptor} {data : List Byte} {z : State} (h : Kept o s) (e : execFwStageDmaComplete mb list data s = .next z) : Kept o z := by
  unfold execFwStageDmaComplete at e
  refine guardUnit_kept ?_ e
  clear e
  repeat' first
    | with_reducible assumption
    | (intro x; first | (refine kept_cut (P := Kept o x) ?_ ?_; rotate_left; dsimp only [x]; rotate_left; intro hx; clear_value x) | skip)
    | lift_lets
    | (simp only [kept_cons]; with_reducible apply kept_mk <;> first | with_reducible assumption | rfl | exact Kept.bytes (by assumption) | skip)
    | with_reducible first
                     | apply kept_ite | apply answer_kept | apply respond_kept | apply setOther_kept
    | split

theorem execGetDumpDmaComplete_kept {mb : Nat} {list : List Descriptor} {z : State} (h : Kept o s) (e : execGetDumpDmaComplete mb list s = .next z) : Kept o z := by
  unfold execGetDumpDmaComplete at e
  refine guardUnit_kept ?_ e
  clear e
  repeat' first
    | with_reducible assumption
    | (intro x; first | (refine kept_cut (P := Kept o x) ?_ ?_; rotate_left; dsimp only [x]; rotate_left; intro hx; clear_value x) | skip)
    | lift_lets
    | (simp only [kept_cons]; with_reducible apply kept_mk <;> first | with_reducible assumption | rfl | exact Kept.bytes (by assumption) | skip)
    | with_reducible first
                     | apply kept_ite | apply answer_kept | apply respond_kept | apply writeOut_kept
    | split

theorem execRequalifyTestComplete_kept {found : TestResult} {z : State} (h : Kept o s) (e : execRequalifyTestComplete found s = .next z) : Kept o z := by
  unfold execRequalifyTestComplete at e
  refine guardUnit_kept ?_ e
  clear e
  repeat' first
    | with_reducible assumption
    | (intro x; first | (refine kept_cut (P := Kept o x) ?_ ?_; rotate_left; dsimp only [x]; rotate_left; intro hx; clear_value x) | skip)
    | lift_lets
    | (simp only [kept_cons]; with_reducible apply kept_mk <;> first | with_reducible assumption | rfl | exact Kept.bytes (by assumption) | skip)
    | with_reducible first
                     | apply kept_ite | apply requalifyTest_kept
    | split

theorem execShutdownPhaseComplete_kept {found : TestResult} {repairs : List RowRef} {z : State} (h : Kept o s) (e : execShutdownPhaseComplete found repairs s = .next z) : Kept o z := by
  unfold execShutdownPhaseComplete at e
  refine guardUnit_kept ?_ e
  clear e
  repeat' first
    | with_reducible assumption
    | (intro x; first | (refine kept_cut (P := Kept o x) ?_ ?_; rotate_left; dsimp only [x]; rotate_left; intro hx; clear_value x) | skip)
    | lift_lets
    | (simp only [kept_cons]; with_reducible apply kept_mk <;> first | with_reducible assumption | rfl | exact Kept.bytes (by assumption) | skip)
    | with_reducible first
                     | apply kept_ite | apply endPhase_kept
    | split

theorem execEventPersistComplete_kept {z : State} (h : Kept o s) (e : execEventPersistComplete s = .next z) : Kept o z := by
  unfold execEventPersistComplete at e
  refine next_kept ?_ e
  clear e
  repeat' first
    | with_reducible assumption
    | (intro x; first | (refine kept_cut (P := Kept o x) ?_ ?_; rotate_left; dsimp only [x]; rotate_left; intro hx; clear_value x) | skip)
    | lift_lets
    | (simp only [kept_cons]; with_reducible apply kept_mk <;> first | with_reducible assumption | rfl | exact Kept.bytes (by assumption) | skip)
    | with_reducible first
                     | apply kept_ite | apply persistTo_kept | apply applyClear_kept
    | split

theorem execDumpPersistComplete_kept {z : State} (h : Kept o s) (e : execDumpPersistComplete s = .next z) : Kept o z := by
  unfold execDumpPersistComplete at e
  refine next_kept ?_ e
  clear e
  repeat' first
    | with_reducible assumption
    | (intro x; first | (refine kept_cut (P := Kept o x) ?_ ?_; rotate_left; dsimp only [x]; rotate_left; intro hx; clear_value x) | skip)
    | lift_lets
    | (simp only [kept_cons]; with_reducible apply kept_mk <;> first | with_reducible assumption | rfl | exact Kept.bytes (by assumption) | skip)
    | with_reducible first
                     | apply kept_ite | apply finishDumpCopy_kept
    | split

theorem execDoeRequest_kept {r : DoeRequest} {z : State} (h : Kept o s) (e : execDoeRequest r s = .next z) : Kept o z := by
  unfold execDoeRequest at e
  refine next_kept ?_ e
  clear e
  repeat' first
    | with_reducible assumption
    | (intro x; first | (refine kept_cut (P := Kept o x) ?_ ?_; rotate_left; dsimp only [x]; rotate_left; intro hx; clear_value x) | skip)
    | lift_lets
    | (simp only [kept_cons]; with_reducible apply kept_mk <;> first | with_reducible assumption | rfl | exact Kept.bytes (by assumption) | skip)
    | with_reducible first
                     | apply kept_ite | apply doeRespond_kept
    | split

theorem execFenceNotice_kept {port : Nat} {p : Packet} {z : State} (h : Kept o s) (e : execFenceNotice port p s = .next z) : Kept o z := by
  unfold execFenceNotice at e
  refine guardUnit_kept ?_ e
  clear e
  repeat' first
    | with_reducible assumption
    | (intro x; first | (refine kept_cut (P := Kept o x) ?_ ?_; rotate_left; dsimp only [x]; rotate_left; intro hx; clear_value x) | skip)
    | lift_lets
    | (simp only [kept_cons]; with_reducible apply kept_mk <;> first | with_reducible assumption | rfl | exact Kept.bytes (by assumption) | skip)
    | with_reducible first
                     | apply kept_ite
    | split

end Sys2Proof.Machine
end

