-- ==== Sys2Proof/Laws/Record.lean ====
section
/-! SUPPORT. What recording a condition does: its record, its sticky bits, its interrupts, and nothing else. -/

namespace Sys2Proof.Machine

theorem irq_eq (v : Nat) (s : State) : irq v s = { s with host := { s.host with msix := (irq v s).host.msix, msixHeld := (irq v s).host.msixHeld } } := by
  unfold irq; split <;> rfl

theorem irq_sends (v : Nat) (s : State) (h : (s.host.busMaster && s.host.dState == 0) = true) : irq v s = { s with host := { s.host with msix := s.host.msix ++ [v] } } := by
  unfold irq; rw [if_pos h]

theorem only_iff {s t : State} : OnlyRecorded s t ↔ ∃ evt lim a b c d e, t = { s with
    evt := evt
    nor := { s.nor with seqLimit := lim }
    host := { s.host with msix := a, msixHeld := b }
    health := { s.health with corrected := c }
    clk := { s.clk with tripped := d }
    att := { s.att with raised := e } } := by
  constructor
  · intro h; exact ⟨_, _, _, _, _, _, _, h⟩
  · rintro ⟨_, _, _, _, _, _, _, rfl⟩; rfl

theorem only_refl (s : State) : OnlyRecorded s s := rfl

theorem only_trans {s t u : State} (h : OnlyRecorded s t) (g : OnlyRecorded t u) : OnlyRecorded s u := by
  obtain ⟨_, _, _, _, _, _, _, rfl⟩ := only_iff.mp h
  obtain ⟨_, _, _, _, _, _, _, rfl⟩ := only_iff.mp g
  exact only_iff.mpr ⟨_, _, _, _, _, _, _, rfl⟩

theorem irq_only (v : Nat) (s : State) : OnlyRecorded s (irq v s) := by
  unfold irq; split <;> exact only_iff.mpr ⟨_, _, _, _, _, _, _, rfl⟩

theorem setSticky_only (b : Nat) (s : State) : OnlyRecorded s (setSticky b s) := by
  unfold setSticky; split
  · exact only_refl s
  · exact only_trans (t := { s with evt := { s.evt with sticky := s.evt.sticky ||| (1#32768 <<< b) } }) (only_iff.mpr ⟨_, _, _, _, _, _, _, rfl⟩) (irq_only 18 _)

theorem each_only {α : Type} (f : α → State → State) (hf : ∀ a s, OnlyRecorded s (f a s)) (l : List α) (s : State) : OnlyRecorded s (each f l s) := by
  induction l generalizing s with
  | nil => exact only_refl s
  | cons a l ih => exact only_trans (hf a s) (ih _)

theorem writeRecord_only (r : Raise) (s : State) : OnlyRecorded s (writeRecord r s) := by
  unfold writeRecord; simp only; split
  · exact only_iff.mpr ⟨_, _, _, _, _, _, _, rfl⟩
  · unfold takeSeqBlock; split <;> exact only_iff.mpr ⟨_, _, _, _, _, _, _, rfl⟩

theorem countHealth_only (c : Cond) (s : State) : OnlyRecorded s (countHealth c s) := by
  unfold countHealth; split
  all_goals first | exact only_refl s | exact only_iff.mpr ⟨_, _, _, _, _, _, _, rfl⟩

theorem record_only (r : Raise) (s : State) : OnlyRecorded s (record r s) := by
  unfold record
  extract_lets r' s1 s2 s3 s4 c5 s5
  have h1 : OnlyRecorded s s1 := writeRecord_only _ _
  have h2 : OnlyRecorded s s2 := only_trans h1 (each_only _ setSticky_only _ _)
  have h3 : OnlyRecorded s s3 := by
    simp only [s3]; split
    · exact only_trans h2 (irq_only _ _)
    · exact h2
  have h4 : OnlyRecorded s s4 := only_trans h3 (countHealth_only _ _)
  have h5 : OnlyRecorded s s5 := by
    simp only [s5]; split
    · exact only_trans h4 (only_iff.mpr ⟨_, _, _, _, _, _, _, rfl⟩)
    · exact h4
  split
  · exact only_trans h5 (only_iff.mpr ⟨_, _, _, _, _, _, _, rfl⟩)
  · exact h5

theorem irq_sticky (v : Nat) (s : State) : (irq v s).evt = s.evt := by unfold irq; split <;> rfl

theorem setSticky_bit (b : Nat) (s : State) (i : Nat) (hi : i < 32768) :
    (setSticky b s).evt.sticky.getLsbD i = (s.evt.sticky.getLsbD i || decide (i = b)) := by
  unfold setSticky; split
  · rename_i h
    by_cases e : i = b
    · subst e; simp [h]
    · simp [e]
  · rw [irq_sticky]
    simp only [BitVec.getLsbD_or, BitVec.getLsbD_shiftLeft]
    by_cases e : i = b
    · subst e; simp [hi]
    · have : ((1#32768).getLsbD (i - b)) = decide (i - b = 0) := by simp
      rw [this]
      by_cases l : i < b
      · simp [l, e]
      · have : i - b ≠ 0 := by omega
        simp [l, e, this]

theorem each_sticky_bit (l : List Nat) (s : State) (i : Nat) (hi : i < 32768) :
    (each setSticky l s).evt.sticky.getLsbD i = (s.evt.sticky.getLsbD i || l.contains i) := by
  induction l generalizing s with
  | nil => simp [each]
  | cons a l ih =>
    simp only [each, ih, setSticky_bit _ _ _ hi]
    simp [Bool.or_assoc]

theorem writeRecord_free (r : Raise) (s : State) (h : s.evt.ring.length < 65536) : writeRecord r s = { s with
      evt := { s.evt with
        ring := s.evt.ring ++ [{ seq := s.evt.headSeq + 1, tick := s.eventTick, cycle := BitVec.ofNat 32 s.eventCycle, raised := r }]
        headSeq := s.evt.headSeq + 1, copyDue := s.evt.copyDue || decide (r.sev = .fatal) }
      nor := takeSeqBlock (s.evt.headSeq + 1) s.nor } := by
  unfold writeRecord storeRecord
  simp only [if_pos h]

theorem setSticky_ring (b : Nat) (s : State) : (setSticky b s).evt.ring = s.evt.ring ∧ (setSticky b s).evt.headSeq = s.evt.headSeq ∧
    (setSticky b s).evt.dropped = s.evt.dropped ∧ (setSticky b s).host.busMaster = s.host.busMaster ∧ (setSticky b s).host.dState = s.host.dState ∧
    (setSticky b s).att = s.att ∧ (setSticky b s).dev = s.dev ∧ (setSticky b s).host.msix <+: (irq 18 (setSticky b s)).host.msix ∧ s.host.msix <+: (setSticky b s).host.msix := by
  have p : ∀ x : State, x.host.msix <+: (irq 18 x).host.msix := fun x => by
    unfold irq; split
    · exact List.prefix_append _ _
    · exact List.prefix_rfl
  unfold setSticky; split
  · exact ⟨rfl, rfl, rfl, rfl, rfl, rfl, rfl, p s, List.prefix_rfl⟩
  · refine ⟨?_, ?_, ?_, ?_, ?_, ?_, ?_, p _, p { s with evt := { s.evt with sticky := s.evt.sticky ||| (1#32768 <<< b) } }⟩ <;> (unfold irq; split <;> rfl)

theorem each_setSticky (l : List Nat) (s : State) : let t := each setSticky l s
    t.evt.ring = s.evt.ring ∧ t.evt.headSeq = s.evt.headSeq ∧ t.evt.dropped = s.evt.dropped ∧ t.host.busMaster = s.host.busMaster ∧
    t.host.dState = s.host.dState ∧ t.att = s.att ∧ t.dev = s.dev ∧ s.host.msix <+: t.host.msix := by
  induction l generalizing s with
  | nil => exact ⟨rfl, rfl, rfl, rfl, rfl, rfl, rfl, List.prefix_rfl⟩
  | cons a l ih =>
    obtain ⟨a1, a2, a3, a4, a5, a6, a7, _, a8⟩ := setSticky_ring a s
    obtain ⟨b1, b2, b3, b4, b5, b6, b7, b8⟩ := ih (setSticky a s)
    exact ⟨b1.trans a1, b2.trans a2, b3.trans a3, b4.trans a4, b5.trans a5, b6.trans a6, b7.trans a7, a8.trans b8⟩

theorem each_setSticky_18 (l : List Nat) (s : State) (hb : (s.host.busMaster && s.host.dState == 0) = true)
    (h : ∃ b ∈ l, s.evt.sticky.getLsbD b = false) : 18 ∈ (each setSticky l s).host.msix := by
  induction l generalizing s with
  | nil => simp at h
  | cons a l ih =>
    by_cases e : s.evt.sticky.getLsbD a = true
    · have : setSticky a s = s := by unfold setSticky; rw [if_pos e]
      simp only [each, this]
      apply ih s hb
      obtain ⟨b, hb1, hb2⟩ := h
      rcases List.mem_cons.mp hb1 with rfl | m
      · simp [e] at hb2
      · exact ⟨b, m, hb2⟩
    · have : 18 ∈ (setSticky a s).host.msix := by
        unfold setSticky
        rw [if_neg e, irq_sends 18 { s with evt := { s.evt with sticky := s.evt.sticky ||| (1#32768 <<< a) } } hb]; simp
      exact (each_setSticky l (setSticky a s)).2.2.2.2.2.2.2.subset this

theorem irq_same (v : Nat) (s : State) : (irq v s).evt = s.evt ∧ (irq v s).att = s.att ∧ (irq v s).dev = s.dev ∧ s.host.msix <+: (irq v s).host.msix := by
  unfold irq; split
  · exact ⟨rfl, rfl, rfl, List.prefix_append _ _⟩
  · exact ⟨rfl, rfl, rfl, List.prefix_rfl⟩

theorem countHealth_same (c : Cond) (s : State) : (countHealth c s).evt = s.evt ∧ (countHealth c s).att = s.att ∧ (countHealth c s).dev = s.dev ∧ (countHealth c s).host = s.host := by
  unfold countHealth; split <;> exact ⟨rfl, rfl, rfl, rfl⟩

theorem victim_none (sev : Nat) (l : List EventRec) (h : ∀ x ∈ l, Severity.code x.raised.sev < sev) : victim sev l = none := by
  induction l with
  | nil => rfl
  | cons e l ih =>
    have h1 := h e (by simp)
    rw [victim, ih (fun x m => h x (by simp [m]))]
    simp; omega

theorem victim_key (sev : Nat) : ∀ l : List EventRec, (∀ q, victim sev l = some q → (∃ x ∈ l, sev ≤ Severity.code x.raised.sev ∧ x.seq = q) ∧
      ∀ x ∈ l, sev ≤ Severity.code x.raised.sev → q ≤ x.seq) ∧ (victim sev l = none → ∀ x ∈ l, ¬ sev ≤ Severity.code x.raised.sev) := by
  intro l
  induction l with
  | nil => simp [victim]
  | cons e l ih =>
    rw [victim]
    cases hvl : victim sev l with
    | none =>
      have i2 := ih.2 hvl
      simp only
      split
      · rename_i he
        refine ⟨?_, by simp⟩
        rintro q ⟨⟩
        refine ⟨⟨e, by simp, he, rfl⟩, ?_⟩
        intro x mx hx
        rcases List.mem_cons.mp mx with rfl | m
        · exact Nat.le_refl _
        · exact absurd hx (i2 x m)
      · rename_i he
        refine ⟨by simp, ?_⟩
        intro _ x mx
        rcases List.mem_cons.mp mx with rfl | m
        · exact he
        · exact i2 x m
    | some b =>
      obtain ⟨⟨y, my, hy, yb⟩, lb⟩ := ih.1 b hvl
      simp only
      split
      · rename_i he
        refine ⟨?_, by simp⟩
        rintro q ⟨⟩
        constructor
        · by_cases c : e.seq ≤ b
          · exact ⟨e, by simp, he, (Nat.min_eq_left c).symm⟩
          · exact ⟨y, by simp [my], hy, by rw [yb]; exact (Nat.min_eq_right (by omega)).symm⟩
        · intro x mx hx
          rcases List.mem_cons.mp mx with rfl | m
          · exact Nat.min_le_left _ _
          · exact Nat.le_trans (Nat.min_le_right _ _) (lb x m hx)
      · rename_i he
        refine ⟨?_, by simp⟩
        rintro q ⟨⟩
        refine ⟨⟨y, by simp [my], hy, yb⟩, ?_⟩
        intro x mx hx
        rcases List.mem_cons.mp mx with rfl | m
        · exact absurd hx he
        · exact lb x m hx

theorem victim_some (sev : Nat) (l : List EventRec) (v : EventRec) (hv : v ∈ l) (hs : sev ≤ Severity.code v.raised.sev)
    (hm : ∀ x ∈ l, sev ≤ Severity.code x.raised.sev → v.seq ≤ x.seq) : victim sev l = some v.seq := by
  have key := victim_key sev
  cases hq : victim sev l with
  | none => exact absurd hs ((key l).2 hq v hv)
  | some q =>
    obtain ⟨⟨y, my, hy, yb⟩, lb⟩ := (key l).1 q hq
    have := hm y my hy
    have := lb v hv hs
    congr 1; omega

theorem setAt_eq {α : Type} (i : Nat) (v : α) (l : List α) : setAt i v l = l.set i v := by
  induction l generalizing i with
  | nil => simp [setAt]
  | cons a l ih => cases i with
    | zero => rfl
    | succ i => simp [setAt, ih]

theorem writeRecord_full (r : Raise) (s : State) (h : 65536 ≤ s.evt.ring.length) (q : Nat) (hq : victim (Severity.code r.sev) s.evt.ring = some q) :
    writeRecord r s = { s with
      evt := { s.evt with
        ring := s.evt.ring.map (fun x => if x.seq = q then { seq := s.evt.headSeq + 1, tick := s.eventTick, cycle := BitVec.ofNat 32 s.eventCycle, raised := r } else x)
        headSeq := s.evt.headSeq + 1, copyDue := s.evt.copyDue || decide (r.sev = .fatal) }
      nor := takeSeqBlock (s.evt.headSeq + 1) s.nor } := by
  unfold writeRecord storeRecord
  simp only [if_neg (Nat.not_lt.mpr h), hq]

theorem writeRecord_drop (r : Raise) (s : State) (h : 65536 ≤ s.evt.ring.length) (hq : victim (Severity.code r.sev) s.evt.ring = none) :
    writeRecord r s = { s with evt := { s.evt with dropped := s.evt.dropped.set (Severity.code r.sev) (Nat.min 0xFFFFFFFF (s.evt.dropped.getD (Severity.code r.sev) 0 + 1)) } } := by
  unfold writeRecord storeRecord
  simp only [if_neg (Nat.not_lt.mpr h), hq, setAt_eq]

theorem writeRecord_same (r : Raise) (s : State) : (writeRecord r s).evt.sticky = s.evt.sticky ∧ (writeRecord r s).dev = s.dev ∧
    (writeRecord r s).att = s.att ∧ (writeRecord r s).host = s.host := by
  unfold writeRecord; simp only; split <;> exact ⟨rfl, rfl, rfl, rfl⟩

/-- The sticky map after a recording: the bits of the raising are set, the others stay (R359). -/
theorem record_sticky (r : Raise) (s : State) {b : Nat} (h : b < 32768) :
    (record r s).evt.sticky.getLsbD b = (s.evt.sticky.getLsbD b || r.stickyBits.contains b) := by
  unfold record
  extract_lets r' s1 s2 s3 s4 c5 s5
  have e2 : s2.evt.sticky.getLsbD b = (s.evt.sticky.getLsbD b || r.stickyBits.contains b) := by
    show (each setSticky r'.stickyBits s1).evt.sticky.getLsbD b = _
    rw [each_sticky_bit _ _ _ h, (writeRecord_same r' s).1]
    rfl
  have e3 : s3.evt = s2.evt := by simp only [s3]; split; exact (irq_same 19 s2).1; rfl
  have e4 : s4.evt = s3.evt := (countHealth_same _ _).1
  have e5 : s5.evt = s4.evt := by simp only [s5]; split <;> rfl
  have e6 : ∀ x : State, (if x.inAttempt then { x with att := { x.att with raised := x.att.raised ++ [r'] } } else x).evt = x.evt := by
    intro x; split <;> rfl
  rw [e6, e5, e4, e3]; exact e2

/-- The attempt's conditions after a recording: in an attempt the new one is the last (R72). -/
theorem record_raised (r : Raise) (s : State) : (record r s).att =
    { s.att with raised := if s.inAttempt then s.att.raised ++ [{ r with logical := s.logicalField r.src }] else s.att.raised } ∧
    (record r s).dev = s.dev := by
  have hd : (record r s).dev = s.dev := by obtain ⟨_, _, _, _, _, _, _, h⟩ := only_iff.mp (record_only r s); rw [h]
  refine ⟨?_, hd⟩
  unfold record
  extract_lets r' s1 s2 s3 s4 c5 s5
  have w := writeRecord_same r' s
  obtain ⟨_, _, _, _, _, q6, q7, _⟩ := each_setSticky r'.stickyBits s1
  have e3 : s3.att = s2.att ∧ s3.dev = s2.dev := by simp only [s3]; split; exact ⟨(irq_same 19 s2).2.1, (irq_same 19 s2).2.2.1⟩; exact ⟨rfl, rfl⟩
  have e4 : s4.att = s3.att ∧ s4.dev = s3.dev := ⟨(countHealth_same _ _).2.1, (countHealth_same _ _).2.2.1⟩
  have e5 : s5.att = s4.att ∧ s5.dev = s4.dev := by simp only [s5]; split <;> exact ⟨rfl, rfl⟩
  have A : s5.att = s.att := e5.1.trans (e4.1.trans (e3.1.trans (q6.trans w.2.2.1)))
  have D : s5.dev = s.dev := e5.2.trans (e4.2.trans (e3.2.trans (q7.trans w.2.1)))
  have I : s5.inAttempt = s.inAttempt := by unfold State.inAttempt; rw [A, D]
  rw [I]
  split
  · show ({ s5.att with raised := _ } : Attempt) = _
    rw [A]
  · exact A

/-- With a free slot the record of a raising is the last of the ring. -/
theorem record_ring (r : Raise) (s : State) (h : s.evt.ring.length < 65536) : (record r s).evt.ring = s.evt.ring ++
    [{ seq := s.evt.headSeq + 1, tick := s.eventTick, cycle := BitVec.ofNat 32 s.eventCycle, raised := { r with logical := s.logicalField r.src } }] ∧
    (record r s).evt.headSeq = s.evt.headSeq + 1 := by
  unfold record
  extract_lets r' s1 s2 s3 s4 c5 s5
  have e1 := writeRecord_free r' s h
  obtain ⟨q1, q2, _, _, _, _, _, _⟩ := each_setSticky r'.stickyBits s1
  have e3 : s3.evt = s2.evt := by simp only [s3]; split; exact (irq_same 19 s2).1; rfl
  have e4 : s4.evt = s3.evt := (countHealth_same _ _).1
  have e5 : s5.evt = s4.evt := by simp only [s5]; split <;> rfl
  have e6 : ∀ x : State, (if x.inAttempt then { x with att := { x.att with raised := x.att.raised ++ [r'] } } else x).evt = x.evt := by
    intro x; split <;> rfl
  rw [e6, e5, e4, e3]
  refine ⟨q1.trans ?_, q2.trans ?_⟩
  · show (writeRecord r' s).evt.ring = _; rw [e1]
  · show (writeRecord r' s).evt.headSeq = _; rw [e1]

end Sys2Proof.Machine
end

