-- ==== Sys2Proof/Laws/Mailbox.lean ====
section
/-! SUPPORT. Mailboxes: what answering a command leaves, and how a command that stands in a mailbox is handed to its meaning. -/

namespace Sys2Proof.Machine

theorem irq_host (v : Nat) (s : State) : irq v s = { s with host := (irq v s).host } ∧ (irq v s).host.mailboxes = s.host.mailboxes := by
  unfold irq; split <;> exact ⟨rfl, rfl⟩

theorem post_mailboxes (mb : Nat) (m : Mailbox) (h : HostLink) : (h.post mb m).mailboxes = h.mailboxes := by
  unfold HostLink.post HostLink.send; dsimp only; split <;> rfl

theorem postRecord_host (mb : Nat) (s : State) : postRecord mb s = { s with host := (postRecord mb s).host } ∧
    (postRecord mb s).host.mailboxes = s.host.mailboxes := by
  unfold postRecord
  dsimp only
  split
  · exact ⟨rfl, rfl⟩
  · split
    · split
      · have := irq_host 16 { s with host := { s.host.post mb (s.mailbox mb) with coalescing := 0 } }
        exact ⟨this.1, this.2.trans (post_mailboxes ..)⟩
      · exact ⟨rfl, post_mailboxes ..⟩
    · exact ⟨rfl, post_mailboxes ..⟩

/-- The completion record and the vector of an answer change the host link alone, and no mailbox. -/
theorem notify_host (mb : Nat) (s : State) : notify mb s = { s with host := (notify mb s).host } ∧ (notify mb s).host.mailboxes = s.host.mailboxes := by
  unfold notify
  dsimp only
  repeat' first | exact postRecord_host mb s | exact irq_host _ s | exact ⟨rfl, rfl⟩ | split

theorem notify_sent (mb : Nat) (s : State) : s.host.sent <+: (notify mb s).host.sent := by
  have h1 : ∀ (m : Mailbox) (h : HostLink), h.sent <+: (h.post mb m).sent := by
    intro m h; unfold HostLink.post HostLink.send; dsimp only; split
    · exact List.prefix_append _ _
    · exact List.prefix_rfl
  have h2 : ∀ v (x : State), (irq v x).host.sent = x.host.sent := by intro v x; unfold irq; split <;> rfl
  have h3 : s.host.sent <+: (postRecord mb s).host.sent := by
    unfold postRecord
    dsimp only
    split
    · exact List.prefix_rfl
    · split
      · split
        · rw [h2]; exact h1 _ _
        · exact h1 _ _
      · exact h1 _ _
  unfold notify
  dsimp only
  repeat' first | exact h3 | (rw [h2]) | exact List.prefix_rfl | split

theorem answer_sent (mb st d : Nat) (s : State) : s.host.sent <+: (answer mb st d s).host.sent := notify_sent mb (s.onMailbox mb _)

theorem respond_sent (mb : Nat) (b : List Byte) (s : State) : s.host.sent <+: (respond mb b s).host.sent := notify_sent mb ((s.onMailbox mb _).onMailbox mb _)

theorem notify_mailbox (mb k : Nat) (s : State) : (notify mb s).mailbox k = s.mailbox k := by
  unfold State.mailbox; rw [(notify_host mb s).2]

theorem answer_host (mb st d : Nat) (s : State) : answer mb st d s = { s with host := (answer mb st d s).host } := by
  unfold answer
  conv_lhs => rw [(notify_host mb _).1]
  rfl

theorem answer_mailbox (mb st d : Nat) (s : State) : (answer mb st d s).mailbox mb = answerFields st d 0 false s.time.tick (s.mailbox mb) := by
  unfold answer; rw [notify_mailbox, mailbox_onMailbox]

theorem answer_mailbox_ne (mb st d : Nat) (s : State) {k : Nat} (h : k ≠ mb) : (answer mb st d s).mailbox k = s.mailbox k := by
  unfold answer; rw [notify_mailbox, mailbox_onMailbox_ne _ _ h]

theorem respond_host (mb : Nat) (b : List Byte) (s : State) : respond mb b s = { s with host := (respond mb b s).host } := by
  unfold respond
  dsimp only
  conv_lhs => rw [(notify_host mb _).1]
  rfl

theorem respond_mailbox (mb : Nat) (b : List Byte) (s : State) : (respond mb b s).mailbox mb =
    answerFields 0 0 (b.take 4032).length false s.time.tick { s.mailbox mb with payload := Memory.writeBytes [] 0 (b.take 4032) } := by
  unfold respond; dsimp only; rw [notify_mailbox, mailbox_onMailbox, mailbox_onMailbox]; rfl

theorem respond_mailbox_ne (mb : Nat) (b : List Byte) (s : State) {k : Nat} (h : k ≠ mb) : (respond mb b s).mailbox k = s.mailbox k := by
  unfold respond; dsimp only; rw [notify_mailbox, mailbox_onMailbox_ne _ _ h, mailbox_onMailbox_ne _ _ h]

theorem answerLocal_host (mb st tick : Nat) (s : State) : answerLocal mb st tick s = { s with host := (answerLocal mb st tick s).host } := by
  unfold answerLocal
  conv_lhs => rw [(notify_host mb _).1]
  rfl

theorem answerLocal_mailbox (mb st tick : Nat) (s : State) : (answerLocal mb st tick s).mailbox mb = answerFields st 0 0 true tick (s.mailbox mb) := by
  unfold answerLocal; rw [notify_mailbox, mailbox_onMailbox]

theorem answerLocal_mailbox_ne (mb st tick : Nat) (s : State) {k : Nat} (h : k ≠ mb) : (answerLocal mb st tick s).mailbox k = s.mailbox k := by
  unfold answerLocal; rw [notify_mailbox, mailbox_onMailbox_ne _ _ h]

/-- A command that stands in a mailbox, as its row of the table, answers what the scan of the mailbox makes of it. -/
theorem command_next (mb : Nat) (is : Mailbox → Bool) (f : Nat → Mailbox → State → State) (s : State) (h : mb < 16) (hs : s.scanning = true)
    (hi : is (s.mailbox mb) = true) (ho : (s.mailbox mb).owner = true) (hw : (s.mailbox mb).wait = none) :
    command mb is f s = .next (match refusal mb (s.mailbox mb) (s.onMailbox mb (fun x => { x with tickTaken := s.takenTick })) with
      | some r => answer mb r.1 r.2 (s.onMailbox mb (fun x => { x with tickTaken := s.takenTick }))
      | none => f mb (s.mailbox mb) (s.onMailbox mb (fun x => { x with tickTaken := s.takenTick }))) := by
  unfold command guardUnit takeCommand
  rw [if_pos (by simpa using h), if_pos (by simp [hs, hi])]
  dsimp only
  rw [if_neg (by simp [ho, hw])]
  all_goals (split <;> simp_all)

theorem record_mailbox (r : Raise) (s : State) (k : Nat) : (record r s).mailbox k = s.mailbox k := by
  obtain ⟨_, _, _, _, _, _, _, h⟩ := only_iff.mp (record_only r s)
  rw [h]; rfl

end Sys2Proof.Machine
end

