-- ==== Sys2Proof/Laws/PerInstr.lean ====
section
/-! SUPPORT. Two families of lemmas, one lemma for each command: what it keeps, and that it answers a next state when it names units
that exist. -/

namespace Sys2Proof.Laws

open Sys2Proof.Machine

/-- The invariant holds after a command if it held before, and what no command takes back is still there. -/
def Keeps.Statement (i : Instr) : Prop := ∀ o s t : State, Kept o s → exec i s = .next t → Kept o t

/-- A command about units that exist answers a next state. -/
def Answers.Statement (i : Instr) : Prop := ∀ s : State, i.wf = true → s.hasUnits i = true → ∃ t, exec i s = .next t

theorem guardUnit_answers {ok : Bool} {s : State} (h : ok = true) : ∃ t, guardUnit ok s = .next t := ⟨s, by rw [guardUnit, if_pos h]⟩

theorem command_answers {mb : Nat} {mine : Mailbox → Bool} {f : Nat → Mailbox → State → State} {s : State} (h : mailboxOk mb = true) :
    ∃ t, command mb mine f s = .next t := guardUnit_answers h

theorem Firing.wf_iff (f : Firing) : f.wf = true ↔ f.tile < 1152 ∧ f.unit < 32 ∧ f.fold < 8 := by
  simp [Firing.wf, and_assoc]

theorem fireUnit_answers {op : Nat} {wants : Shot → Want × Want × Want} {act : Shot → Tile → Token → Token → Token → Fired} {f : Firing}
    {s : State} (h : f.wf = true) : ∃ t, fireUnit op wants act f s = .next t := ⟨_, by rw [fireUnit, if_pos ((Firing.wf_iff f).mp h)]⟩

theorem fireAccess_answers {mode : Nat} {wants : Shot → Want × Want × Want} {act : Shot → Tile → Token → Token → Token → Fired} {f : Firing}
    {s : State} (h : f.wf = true) : ∃ t, fireAccess mode wants act f s = .next t := ⟨_, by rw [fireAccess, if_pos ((Firing.wf_iff f).mp h)]⟩

theorem fireRead_answers {mode : Nat} {upset : Bool} {wants : Shot → Want × Want × Want}
    {act : Option (List Byte) → Shot → Tile → Token → Token → Token → Fired} {f : Firing} {s : State} (h : f.wf = true) :
    ∃ t, fireRead mode wants act upset f s = .next t := by
  unfold fireRead
  split <;> exact fireAccess_answers h

/-! ## Keeps -/

theorem Keeps.vaux3On (udsMatches : Bool) (addrSel : BitVec 2) : Keeps.Statement (.vaux3On udsMatches addrSel) := fun _ _ _ h e => execVaux3On_kept h e

theorem Keeps.vin12Ready (calFail : List Nat) : Keeps.Statement (.vin12Ready calFail) := fun _ _ _ h e => execVin12Ready_kept h e

theorem Keeps.vin12AbsentTimeout : Keeps.Statement (.vin12AbsentTimeout) := fun _ _ _ h e => execVin12AbsentTimeout_kept h e

theorem Keeps.startTests (memIdHash : BitVec 384) : Keeps.Statement (.startTests memIdHash) := fun _ _ _ h e => execStartTests_kept h e

theorem Keeps.startComplete (found : TestResult) : Keeps.Statement (.startComplete found) := fun _ _ _ h e => execStartComplete_kept h e

theorem Keeps.pwrOkLow : Keeps.Statement (.pwrOkLow) := fun _ _ _ h e => execPwrOkLow_kept h e

theorem Keeps.syncInLow : Keeps.Statement (.syncInLow) := fun _ _ _ h e => execSyncInLow_kept h e

theorem Keeps.syncInEdge (stamp : Nat) : Keeps.Statement (.syncInEdge stamp) := fun _ _ _ h e => execSyncInEdge_kept h e

theorem Keeps.perstNAssert : Keeps.Statement (.perstNAssert) := fun _ _ _ h e => execPerstNAssert_kept h e

theorem Keeps.hotReset : Keeps.Statement (.hotReset) := fun _ _ _ h e => execHotReset_kept h e

theorem Keeps.perstNRelease : Keeps.Statement (.perstNRelease) := fun _ _ _ h e => execPerstNRelease_kept h e

theorem Keeps.powerRemoved : Keeps.Statement (.powerRemoved) := fun _ _ _ h e => execPowerRemoved_kept h e

theorem Keeps.tapEnterExtest (which : TapInstr) : Keeps.Statement (.tapEnterExtest which) := fun _ _ _ h e => execTapEnterExtest_kept h e

theorem Keeps.tapLeaveExtest : Keeps.Statement (.tapLeaveExtest) := fun _ _ _ h e => execTapLeaveExtest_kept h e

theorem Keeps.vddqDdrFault : Keeps.Statement (.vddqDdrFault) := fun _ _ _ h e => execVddqDdrFault_kept h e

theorem Keeps.thermalComparatorTrip (die : Nat) : Keeps.Statement (.thermalComparatorTrip die) := fun _ _ _ h e => execThermalComparatorTrip_kept h e

theorem Keeps.sensorRead (readings : List (Sensor × Int)) : Keeps.Statement (.sensorRead readings) := fun _ _ _ h e => execSensorRead_kept h e

theorem Keeps.timeUtcWrite (value : Word64) : Keeps.Statement (.timeUtcWrite value) := fun _ _ _ h e => execTimeUtcWrite_kept h e

theorem Keeps.timeUtcTick : Keeps.Statement (.timeUtcTick) := fun _ _ _ h e => execTimeUtcTick_kept h e

theorem Keeps.recLengthWrite (value : Word32) : Keeps.Statement (.recLengthWrite value) := fun _ _ _ h e => execRecLengthWrite_kept h e

theorem Keeps.recDataWrite (value : Word32) : Keeps.Statement (.recDataWrite value) := fun _ _ _ h e => execRecDataWrite_kept h e

theorem Keeps.recVerifyDone : Keeps.Statement (.recVerifyDone) := fun _ _ _ h e => execRecVerifyDone_kept h e

theorem Keeps.registerWrite (target : RegTarget) (width : Nat) (value : Word64) : Keeps.Statement (.registerWrite target width value) := fun _ _ _ h e => execRegisterWrite_kept h e

theorem Keeps.crEntriesWrite (value : Word32) : Keeps.Statement (.crEntriesWrite value) := fun _ _ _ h e => execCrEntriesWrite_kept h e

theorem Keeps.hostLinkTrained (width gts : Nat) : Keeps.Statement (.hostLinkTrained width gts) := fun _ _ _ h e => execHostLinkTrained_kept h e

theorem Keeps.dmaCompletionTimeout (mb : Nat) : Keeps.Statement (.dmaCompletionTimeout mb) := fun _ _ _ h e => execDmaCompletionTimeout_kept h e

theorem Keeps.dmaWaitTimeout (mb : Nat) : Keeps.Statement (.dmaWaitTimeout mb) := fun _ _ _ h e => execDmaWaitTimeout_kept h e

theorem Keeps.dmaCompletionError (target : DmaTarget) : Keeps.Statement (.dmaCompletionError target) := fun _ _ _ h e => execDmaCompletionError_kept h e

theorem Keeps.completionCoalesceTimer : Keeps.Statement (.completionCoalesceTimer) := fun _ _ _ h e => execCompletionCoalesceTimer_kept h e

theorem Keeps.mb00Scan : Keeps.Statement (.mb00Scan) := fun _ _ _ h e => execMb00Scan_kept h e

theorem Keeps.slowMailboxScan : Keeps.Statement (.slowMailboxScan) := fun _ _ _ h e => execSlowMailboxScan_kept h e

theorem Keeps.statusPageSlowRefresh : Keeps.Statement (.statusPageSlowRefresh) := fun _ _ _ h e => execStatusPageSlowRefresh_kept h e

theorem Keeps.unknownCommand (mb : Nat) : Keeps.Statement (.unknownCommand mb) := fun _ _ _ h e => execUnknownCommand_kept h e

theorem Keeps.identify (mb : Nat) : Keeps.Statement (.identify mb) := fun _ _ _ h e => execIdentify_kept h e

theorem Keeps.getStatus (mb : Nat) : Keeps.Statement (.getStatus mb) := fun _ _ _ h e => execGetStatus_kept h e

theorem Keeps.setPolicy (mb : Nat) : Keeps.Statement (.setPolicy mb) := fun _ _ _ h e => execSetPolicy_kept h e

theorem Keeps.loadImage (mb : Nat) : Keeps.Statement (.loadImage mb) := fun _ _ _ h e => execLoadImage_kept h e

theorem Keeps.openJob (mb : Nat) : Keeps.Statement (.openJob mb) := fun _ _ _ h e => execOpenJob_kept h e

theorem Keeps.declareLoaves (mb : Nat) : Keeps.Statement (.declareLoaves mb) := fun _ _ _ h e => execDeclareLoaves_kept h e

theorem Keeps.hostFill (mb : Nat) : Keeps.Statement (.hostFill mb) := fun _ _ _ h e => execHostFill_kept h e

theorem Keeps.hostFillDmaComplete (mb : Nat) (list : List Descriptor) (data : List Byte) : Keeps.Statement (.hostFillDmaComplete mb list data) := fun _ _ _ h e => execHostFillDmaComplete_kept h e

theorem Keeps.hostDrain (cmd : HostRead) : Keeps.Statement (.hostDrain cmd) := fun _ _ _ h e => execHostDrain_kept h e

theorem Keeps.hostDrainComplete (mb : Nat) (list : List Descriptor) : Keeps.Statement (.hostDrainComplete mb list) := fun _ _ _ h e => execHostDrainComplete_kept h e

theorem Keeps.startJob (mb : Nat) : Keeps.Statement (.startJob mb) := fun _ _ _ h e => execStartJob_kept h e

theorem Keeps.pauseJob (mb : Nat) : Keeps.Statement (.pauseJob mb) := fun _ _ _ h e => execPauseJob_kept h e

theorem Keeps.pauseEnterReady : Keeps.Statement (.pauseEnterReady) := fun _ _ _ h e => execPauseEnterReady_kept h e

theorem Keeps.resumeJob (mb : Nat) : Keeps.Statement (.resumeJob mb) := fun _ _ _ h e => execResumeJob_kept h e

theorem Keeps.stopJob (mb : Nat) : Keeps.Statement (.stopJob mb) := fun _ _ _ h e => execStopJob_kept h e

theorem Keeps.checkpointSave (cmd : HostRead) : Keeps.Statement (.checkpointSave cmd) := fun _ _ _ h e => execCheckpointSave_kept h e

theorem Keeps.checkpointRestore (mb : Nat) : Keeps.Statement (.checkpointRestore mb) := fun _ _ _ h e => execCheckpointRestore_kept h e

theorem Keeps.checkpointTransferComplete (mb : Nat) (list : List Descriptor) (data : List Byte) : Keeps.Statement (.checkpointTransferComplete mb list data) := fun _ _ _ h e => execCheckpointTransferComplete_kept h e

theorem Keeps.fabricPlan (mb : Nat) : Keeps.Statement (.fabricPlan mb) := fun _ _ _ h e => execFabricPlan_kept h e

theorem Keeps.fabricCommit (mb : Nat) : Keeps.Statement (.fabricCommit mb) := fun _ _ _ h e => execFabricCommit_kept h e

theorem Keeps.windowOpen (mb : Nat) : Keeps.Statement (.windowOpen mb) := fun _ _ _ h e => execWindowOpen_kept h e

theorem Keeps.windowCloseLocal (mb : Nat) : Keeps.Statement (.windowCloseLocal mb) := fun _ _ _ h e => execWindowCloseLocal_kept h e

theorem Keeps.windowCloseProxy (mb : Nat) : Keeps.Statement (.windowCloseProxy mb) := fun _ _ _ h e => execWindowCloseProxy_kept h e

theorem Keeps.crumbCheck (mb : Nat) : Keeps.Statement (.crumbCheck mb) := fun _ _ _ h e => execCrumbCheck_kept h e

theorem Keeps.crumbCheckBegin : Keeps.Statement (.crumbCheckBegin) := fun _ _ _ h e => execCrumbCheckBegin_kept h e

theorem Keeps.crumbProgramComplete (tile partner : Nat) (out outPartner : List Word64) (reruns : List (Nat × List Word64)) : Keeps.Statement (.crumbProgramComplete tile partner out outPartner reruns) := fun _ _ _ h e => execCrumbProgramComplete_kept h e

theorem Keeps.requalify (mb : Nat) : Keeps.Statement (.requalify mb) := fun _ _ _ h e => execRequalify_kept h e

theorem Keeps.readEvents (mb : Nat) : Keeps.Statement (.readEvents mb) := fun _ _ _ h e => execReadEvents_kept h e

theorem Keeps.clearEventsNonce (mb : Nat) : Keeps.Statement (.clearEventsNonce mb) := fun _ _ _ h e => execClearEventsNonce_kept h e

theorem Keeps.clearEventsClear (mb : Nat) : Keeps.Statement (.clearEventsClear mb) := fun _ _ _ h e => execClearEventsClear_kept h e

theorem Keeps.clearSticky (mb : Nat) : Keeps.Statement (.clearSticky mb) := fun _ _ _ h e => execClearSticky_kept h e

theorem Keeps.getDump (mb : Nat) : Keeps.Statement (.getDump mb) := fun _ _ _ h e => execGetDump_kept h e

theorem Keeps.resetCompute (mb : Nat) : Keeps.Statement (.resetCompute mb) := fun _ _ _ h e => execResetCompute_kept h e

theorem Keeps.computeResetComplete (failTiles : List Nat) (lostUnits : List Source) : Keeps.Statement (.computeResetComplete failTiles lostUnits) := fun _ _ _ h e => execComputeResetComplete_kept h e

theorem Keeps.shutdown (mb : Nat) : Keeps.Statement (.shutdown mb) := fun _ _ _ h e => execShutdown_kept h e

theorem Keeps.shutdownTestComplete : Keeps.Statement (.shutdownTestComplete) := fun _ _ _ h e => execShutdownTestComplete_kept h e

theorem Keeps.fwStage (mb : Nat) : Keeps.Statement (.fwStage mb) := fun _ _ _ h e => execFwStage_kept h e

theorem Keeps.fwActivate (mb : Nat) : Keeps.Statement (.fwActivate mb) := fun _ _ _ h e => execFwActivate_kept h e

theorem Keeps.fwActivateAtBoot (mb : Nat) : Keeps.Statement (.fwActivateAtBoot mb) := fun _ _ _ h e => execFwActivateAtBoot_kept h e

theorem Keeps.lifecycleGetNonce (mb : Nat) : Keeps.Statement (.lifecycleGetNonce mb) := fun _ _ _ h e => execLifecycleGetNonce_kept h e

theorem Keeps.lifecycleTransition (mb : Nat) : Keeps.Statement (.lifecycleTransition mb) := fun _ _ _ h e => execLifecycleTransition_kept h e

theorem Keeps.lifecycleInstallKey (mb : Nat) : Keeps.Statement (.lifecycleInstallKey mb) := fun _ _ _ h e => execLifecycleInstallKey_kept h e

theorem Keeps.lifecycleDebugUnlock (mb : Nat) : Keeps.Statement (.lifecycleDebugUnlock mb) := fun _ _ _ h e => execLifecycleDebugUnlock_kept h e

theorem Keeps.tickBoundary (m : SlotMeasure) : Keeps.Statement (.tickBoundary m) := fun _ _ _ h e => execTickBoundary_kept h e

theorem Keeps.runPhaseOpen : Keeps.Statement (.runPhaseOpen) := fun _ _ _ h e => execRunPhaseOpen_kept h e

theorem Keeps.marginOpen : Keeps.Statement (.marginOpen) := fun _ _ _ h e => execMarginOpen_kept h e

theorem Keeps.taskBegin (at_ : TileSpeed) : Keeps.Statement (.taskBegin at_) := fun _ _ _ h e => execTaskBegin_kept h e

theorem Keeps.fillLineReturn (tile : Nat) (runAhead : Bool) (entry line : Nat) (outcome : ReadOutcome) : Keeps.Statement (.fillLineReturn tile runAhead entry line outcome) := fun _ _ _ h e => execFillLineReturn_kept h e

theorem Keeps.fillListComplete (tile : Nat) : Keeps.Statement (.fillListComplete tile) := fun _ _ _ h e => execFillListComplete_kept h e

theorem Keeps.weaveStart (tile : Nat) (configParity : Bool) : Keeps.Statement (.weaveStart tile configParity) := fun _ _ _ h e => execWeaveStart_kept h e

theorem Keeps.mstream (f : Firing) : Keeps.Statement (.mstream f) := fun _ _ _ h e => execMstream_kept h e

theorem Keeps.mstreamAcc (f : Firing) : Keeps.Statement (.mstreamAcc f) := fun _ _ _ h e => execMstreamAcc_kept h e

theorem Keeps.fma (f : Firing) : Keeps.Statement (.fma f) := fun _ _ _ h e => execFma_kept h e

theorem Keeps.mul (f : Firing) : Keeps.Statement (.mul f) := fun _ _ _ h e => execMul_kept h e

theorem Keeps.add (f : Firing) : Keeps.Statement (.add f) := fun _ _ _ h e => execAdd_kept h e

theorem Keeps.sub (f : Firing) : Keeps.Statement (.sub f) := fun _ _ _ h e => execSub_kept h e

theorem Keeps.accum (f : Firing) : Keeps.Statement (.accum f) := fun _ _ _ h e => execAccum_kept h e

theorem Keeps.min (f : Firing) : Keeps.Statement (.min f) := fun _ _ _ h e => execMin_kept h e

theorem Keeps.max (f : Firing) : Keeps.Statement (.max f) := fun _ _ _ h e => execMax_kept h e

theorem Keeps.cmp (f : Firing) : Keeps.Statement (.cmp f) := fun _ _ _ h e => execCmp_kept h e

theorem Keeps.iadd (f : Firing) : Keeps.Statement (.iadd f) := fun _ _ _ h e => execIadd_kept h e

theorem Keeps.isub (f : Firing) : Keeps.Statement (.isub f) := fun _ _ _ h e => execIsub_kept h e

theorem Keeps.and (f : Firing) : Keeps.Statement (.and f) := fun _ _ _ h e => execAnd_kept h e

theorem Keeps.or (f : Firing) : Keeps.Statement (.or f) := fun _ _ _ h e => execOr_kept h e

theorem Keeps.xor (f : Firing) : Keeps.Statement (.xor f) := fun _ _ _ h e => execXor_kept h e

theorem Keeps.shift (f : Firing) : Keeps.Statement (.shift f) := fun _ _ _ h e => execShift_kept h e

theorem Keeps.exp2 (f : Firing) : Keeps.Statement (.exp2 f) := fun _ _ _ h e => execExp2_kept h e

theorem Keeps.log2 (f : Firing) : Keeps.Statement (.log2 f) := fun _ _ _ h e => execLog2_kept h e

theorem Keeps.rcp (f : Firing) : Keeps.Statement (.rcp f) := fun _ _ _ h e => execRcp_kept h e

theorem Keeps.rsqrt (f : Firing) : Keeps.Statement (.rsqrt f) := fun _ _ _ h e => execRsqrt_kept h e

theorem Keeps.rng (f : Firing) : Keeps.Statement (.rng f) := fun _ _ _ h e => execRng_kept h e

theorem Keeps.cvt (f : Firing) : Keeps.Statement (.cvt f) := fun _ _ _ h e => execCvt_kept h e

theorem Keeps.reduce (f : Firing) : Keeps.Statement (.reduce f) := fun _ _ _ h e => execReduce_kept h e

theorem Keeps.route (f : Firing) : Keeps.Statement (.route f) := fun _ _ _ h e => execRoute_kept h e

theorem Keeps.select (f : Firing) : Keeps.Statement (.select f) := fun _ _ _ h e => execSelect_kept h e

theorem Keeps.filter (f : Firing) : Keeps.Statement (.filter f) := fun _ _ _ h e => execFilter_kept h e

theorem Keeps.compact (f : Firing) : Keeps.Statement (.compact f) := fun _ _ _ h e => execCompact_kept h e

theorem Keeps.count (f : Firing) : Keeps.Statement (.count f) := fun _ _ _ h e => execCount_kept h e

theorem Keeps.merge (f : Firing) : Keeps.Statement (.merge f) := fun _ _ _ h e => execMerge_kept h e

theorem Keeps.union (f : Firing) : Keeps.Statement (.union f) := fun _ _ _ h e => execUnion_kept h e

theorem Keeps.intersect (f : Firing) : Keeps.Statement (.intersect f) := fun _ _ _ h e => execIntersect_kept h e

theorem Keeps.rowRead (f : Firing) (upset : Bool) : Keeps.Statement (.rowRead f upset) := fun _ _ _ h e => execRowRead_kept h e

theorem Keeps.rowWrite (f : Firing) : Keeps.Statement (.rowWrite f) := fun _ _ _ h e => execRowWrite_kept h e

theorem Keeps.columnRead (f : Firing) (upset : Bool) : Keeps.Statement (.columnRead f upset) := fun _ _ _ h e => execColumnRead_kept h e

theorem Keeps.columnWrite (f : Firing) : Keeps.Statement (.columnWrite f) := fun _ _ _ h e => execColumnWrite_kept h e

theorem Keeps.stridedRead (f : Firing) (upset : Bool) : Keeps.Statement (.stridedRead f upset) := fun _ _ _ h e => execStridedRead_kept h e

theorem Keeps.stridedWrite (f : Firing) : Keeps.Statement (.stridedWrite f) := fun _ _ _ h e => execStridedWrite_kept h e

theorem Keeps.indexedRowRead (f : Firing) (upset : Bool) : Keeps.Statement (.indexedRowRead f upset) := fun _ _ _ h e => execIndexedRowRead_kept h e

theorem Keeps.indexedRowWrite (f : Firing) : Keeps.Statement (.indexedRowWrite f) := fun _ _ _ h e => execIndexedRowWrite_kept h e

theorem Keeps.gather (f : Firing) (upset : Bool) : Keeps.Statement (.gather f upset) := fun _ _ _ h e => execGather_kept h e

theorem Keeps.scatter (f : Firing) : Keeps.Statement (.scatter f) := fun _ _ _ h e => execScatter_kept h e

theorem Keeps.probe (f : Firing) (upset : Bool) : Keeps.Statement (.probe f upset) := fun _ _ _ h e => execProbe_kept h e

theorem Keeps.append (f : Firing) : Keeps.Statement (.append f) := fun _ _ _ h e => execAppend_kept h e

theorem Keeps.send (f : Firing) : Keeps.Statement (.send f) := fun _ _ _ h e => execSend_kept h e

theorem Keeps.take (f : Firing) (upset : Bool) : Keeps.Statement (.take f upset) := fun _ _ _ h e => execTake_kept h e

theorem Keeps.pull (f : Firing) (upset : Bool) : Keeps.Statement (.pull f upset) := fun _ _ _ h e => execPull_kept h e

theorem Keeps.weaveHoldLimit (tile : Nat) : Keeps.Statement (.weaveHoldLimit tile) := fun _ _ _ h e => execWeaveHoldLimit_kept h e

theorem Keeps.schedDeviation (tile : Nat) (measured : Nat) : Keeps.Statement (.schedDeviation tile measured) := fun _ _ _ h e => execSchedDeviation_kept h e

theorem Keeps.weaveDrainEnd (tile : Nat) (padUpset : Option Nat) (merge : List (Nat × ReadOutcome)) : Keeps.Statement (.weaveDrainEnd tile padUpset merge) := fun _ _ _ h e => execWeaveDrainEnd_kept h e

theorem Keeps.drainTimeout (tile : Nat) : Keeps.Statement (.drainTimeout tile) := fun _ _ _ h e => execDrainTimeout_kept h e

theorem Keeps.drainComplete (tile : Nat) : Keeps.Statement (.drainComplete tile) := fun _ _ _ h e => execDrainComplete_kept h e

theorem Keeps.errorReport (r : Option Raise) : Keeps.Statement (.errorReport r) := fun _ _ _ h e => execErrorReport_kept h e

theorem Keeps.failureBroadcast : Keeps.Statement (.failureBroadcast) := fun _ _ _ h e => execFailureBroadcast_kept h e

theorem Keeps.messageRingWrite (sender receiver : Nat) (upset : Bool) : Keeps.Statement (.messageRingWrite sender receiver upset) := fun _ _ _ h e => execMessageRingWrite_kept h e

theorem Keeps.ringSendRetry (retry : RetrySend) : Keeps.Statement (.ringSendRetry retry) := fun _ _ _ h e => execRingSendRetry_kept h e

theorem Keeps.ringArbHoldCutoff (sender receiver : Nat) : Keeps.Statement (.ringArbHoldCutoff sender receiver) := fun _ _ _ h e => execRingArbHoldCutoff_kept h e

theorem Keeps.configLoad (tile : Nat) (copy : CopyOutcome) (recordUpset : Bool) : Keeps.Statement (.configLoad tile copy recordUpset) := fun _ _ _ h e => execConfigLoad_kept h e

theorem Keeps.runAheadConfigLoad (ahead : AheadCopy) : Keeps.Statement (.runAheadConfigLoad ahead) := fun _ _ _ h e => execRunAheadConfigLoad_kept h e

theorem Keeps.runAheadFillIssue (tile : Nat) : Keeps.Statement (.runAheadFillIssue tile) := fun _ _ _ h e => execRunAheadFillIssue_kept h e

theorem Keeps.tileIdle (at_ : TileSpeed) : Keeps.Statement (.tileIdle at_) := fun _ _ _ h e => execTileIdle_kept h e

theorem Keeps.stealReq (thief : Nat) (victim : TileSpeed) : Keeps.Statement (.stealReq thief victim) := fun _ _ _ h e => execStealReq_kept h e

theorem Keeps.stealGrant (thief : Nat) : Keeps.Statement (.stealGrant thief) := fun _ _ _ h e => execStealGrant_kept h e

theorem Keeps.stealRefusal (thief : Nat) : Keeps.Statement (.stealRefusal thief) := fun _ _ _ h e => execStealRefusal_kept h e

theorem Keeps.directorySweep (loaf : Nat) (outcome : ReadOutcome) : Keeps.Statement (.directorySweep loaf outcome) := fun _ _ _ h e => execDirectorySweep_kept h e

theorem Keeps.accessDecay : Keeps.Statement (.accessDecay) := fun _ _ _ h e => execAccessDecay_kept h e

theorem Keeps.regionSlow (region : Nat) : Keeps.Statement (.regionSlow region) := fun _ _ _ h e => execRegionSlow_kept h e

theorem Keeps.parkedTileVerified (tile : Nat) : Keeps.Statement (.parkedTileVerified tile) := fun _ _ _ h e => execParkedTileVerified_kept h e

theorem Keeps.rotation : Keeps.Statement (.rotation) := fun _ _ _ h e => execRotation_kept h e

theorem Keeps.tileExchange (logical : Nat) : Keeps.Statement (.tileExchange logical) := fun _ _ _ h e => execTileExchange_kept h e

theorem Keeps.reserveProgramComplete (a b : Nat) (outA outB : List Word64) (third : Option (Nat × List Word64)) : Keeps.Statement (.reserveProgramComplete a b outA outB third) := fun _ _ _ h e => execReserveProgramComplete_kept h e

theorem Keeps.healthScoreUpdate : Keeps.Statement (.healthScoreUpdate) := fun _ _ _ h e => execHealthScoreUpdate_kept h e

theorem Keeps.fenumWatchdog : Keeps.Statement (.fenumWatchdog) := fun _ _ _ h e => execFenumWatchdog_kept h e

theorem Keeps.fenumLockstep : Keeps.Statement (.fenumLockstep) := fun _ _ _ h e => execFenumLockstep_kept h e

theorem Keeps.firmwareRunning (started : Bool) : Keeps.Statement (.firmwareRunning started) := fun _ _ _ h e => execFirmwareRunning_kept h e

theorem Keeps.dumpPersist : Keeps.Statement (.dumpPersist) := fun _ _ _ h e => execDumpPersist_kept h e

theorem Keeps.eventPersist (writeFails : Bool) : Keeps.Statement (.eventPersist writeFails) := fun _ _ _ h e => execEventPersist_kept h e

theorem Keeps.droopTrip (region : Nat) : Keeps.Statement (.droopTrip region) := fun _ _ _ h e => execDroopTrip_kept h e

theorem Keeps.limiterInterval (meanW : Nat) : Keeps.Statement (.limiterInterval meanW) := fun _ _ _ h e => execLimiterInterval_kept h e

theorem Keeps.patrolLine (frame line : Nat) (outcome : ReadOutcome) : Keeps.Statement (.patrolLine frame line outcome) := fun _ _ _ h e => execPatrolLine_kept h e

theorem Keeps.ddrWriteCrcError (frame line : Nat) (retriesFailed : Nat) : Keeps.Statement (.ddrWriteCrcError frame line retriesFailed) := fun _ _ _ h e => execDdrWriteCrcError_kept h e

theorem Keeps.hbmArbHoldCutoff (stack pc : Nat) : Keeps.Statement (.hbmArbHoldCutoff stack pc) := fun _ _ _ h e => execHbmArbHoldCutoff_kept h e

theorem Keeps.portTrainingAttempt (port : Nat) (t : Training) : Keeps.Statement (.portTrainingAttempt port t) := fun _ _ _ h e => execPortTrainingAttempt_kept h e

theorem Keeps.portRetryTimer (port : Nat) : Keeps.Statement (.portRetryTimer port) := fun _ _ _ h e => execPortRetryTimer_kept h e

theorem Keeps.portLossOfLock (port lane : Nat) : Keeps.Statement (.portLossOfLock port lane) := fun _ _ _ h e => execPortLossOfLock_kept h e

theorem Keeps.portIdleTimeout (port : Nat) : Keeps.Statement (.portIdleTimeout port) := fun _ _ _ h e => execPortIdleTimeout_kept h e

theorem Keeps.flitReceive (port : Nat) (f : FlitArrival) : Keeps.Statement (.flitReceive port f) := fun _ _ _ h e => execFlitReceive_kept h e

theorem Keeps.linkControlFlit (port : Nat) (request answer : Stamps) (peerBudget : Option Nat) (peerDepth : Nat) : Keeps.Statement (.linkControlFlit port request answer peerBudget peerDepth) := fun _ _ _ h e => execLinkControlFlit_kept h e

theorem Keeps.hello (port : Nat) (h : Hello) : Keeps.Statement (.hello port h) := fun _ _ _ h e => execHello_kept h e

theorem Keeps.helloCert (port : Nat) (chain : BitVec 384) : Keeps.Statement (.helloCert port chain) := fun _ _ _ h e => execHelloCert_kept h e

theorem Keeps.coord (port : Nat) (addr : BitVec 24) (dim : Nat) (plus : Bool) : Keeps.Statement (.coord port addr dim plus) := fun _ _ _ h e => execCoord_kept h e

theorem Keeps.transitPacket (port : Nat) (p : Packet) : Keeps.Statement (.transitPacket port p) := fun _ _ _ h e => execTransitPacket_kept h e

theorem Keeps.portDownFlood (port : Nat) (e : Flood) : Keeps.Statement (.portDownFlood port e) := fun _ _ _ h e => execPortDownFlood_kept h e

theorem Keeps.portUpFlood (port : Nat) (e : Flood) : Keeps.Statement (.portUpFlood port e) := fun _ _ _ h e => execPortUpFlood_kept h e

theorem Keeps.injectionStop : Keeps.Statement (.injectionStop) := fun _ _ _ h e => execInjectionStop_kept h e

theorem Keeps.fabricTableSwap : Keeps.Statement (.fabricTableSwap) := fun _ _ _ h e => execFabricTableSwap_kept h e

theorem Keeps.injectionResume : Keeps.Statement (.injectionResume) := fun _ _ _ h e => execInjectionResume_kept h e

theorem Keeps.fabricArbHoldCutoff (port : Nat) (p : Packet) : Keeps.Statement (.fabricArbHoldCutoff port p) := fun _ _ _ h e => execFabricArbHoldCutoff_kept h e

theorem Keeps.windowPut (op : WindowOp) : Keeps.Statement (.windowPut op) := fun _ _ _ h e => execWindowPut_kept h e

theorem Keeps.windowGet (op : WindowOp) : Keeps.Statement (.windowGet op) := fun _ _ _ h e => execWindowGet_kept h e

theorem Keeps.windowAdd (op : WindowOp) : Keeps.Statement (.windowAdd op) := fun _ _ _ h e => execWindowAdd_kept h e

theorem Keeps.windowCas (op : WindowOp) : Keeps.Statement (.windowCas op) := fun _ _ _ h e => execWindowCas_kept h e

theorem Keeps.reply (p : Packet) : Keeps.Statement (.reply p) := fun _ _ _ h e => execReply_kept h e

theorem Keeps.e2eTimeout (peer : Nat) : Keeps.Statement (.e2eTimeout peer) := fun _ _ _ h e => execE2eTimeout_kept h e

theorem Keeps.barrier (p : Packet) : Keeps.Statement (.barrier p) := fun _ _ _ h e => execBarrier_kept h e

theorem Keeps.chunkData (p : Packet) : Keeps.Statement (.chunkData p) := fun _ _ _ h e => execChunkData_kept h e

theorem Keeps.chunkAck (p : Packet) : Keeps.Statement (.chunkAck p) := fun _ _ _ h e => execChunkAck_kept h e

theorem Keeps.chunkCount (p : Packet) : Keeps.Statement (.chunkCount p) := fun _ _ _ h e => execChunkCount_kept h e

theorem Keeps.chunkTimeout (coll : Nat) (chunk peer : Nat) : Keeps.Statement (.chunkTimeout coll chunk peer) := fun _ _ _ h e => execChunkTimeout_kept h e

theorem Keeps.collectiveStage0Start (start : StageStart) : Keeps.Statement (.collectiveStage0Start start) := fun _ _ _ h e => execCollectiveStage0Start_kept h e

theorem Keeps.collectiveStageComplete (coll : Nat) : Keeps.Statement (.collectiveStageComplete coll) := fun _ _ _ h e => execCollectiveStageComplete_kept h e

theorem Keeps.peerSlow (coll : Nat) : Keeps.Statement (.peerSlow coll) := fun _ _ _ h e => execPeerSlow_kept h e

theorem Keeps.loadImageDmaComplete (mb : Nat) (list : List Descriptor) (data : List Byte) : Keeps.Statement (.loadImageDmaComplete mb list data) := fun _ _ _ h e => execLoadImageDmaComplete_kept h e

theorem Keeps.fabricPlanDmaComplete (mb : Nat) (list : List Descriptor) (data : List Byte) : Keeps.Statement (.fabricPlanDmaComplete mb list data) := fun _ _ _ h e => execFabricPlanDmaComplete_kept h e

theorem Keeps.fwStageDmaComplete (mb : Nat) (list : List Descriptor) (data : List Byte) : Keeps.Statement (.fwStageDmaComplete mb list data) := fun _ _ _ h e => execFwStageDmaComplete_kept h e

theorem Keeps.getDumpDmaComplete (mb : Nat) (list : List Descriptor) : Keeps.Statement (.getDumpDmaComplete mb list) := fun _ _ _ h e => execGetDumpDmaComplete_kept h e

theorem Keeps.requalifyTestComplete (found : TestResult) : Keeps.Statement (.requalifyTestComplete found) := fun _ _ _ h e => execRequalifyTestComplete_kept h e

theorem Keeps.shutdownPhaseComplete (found : TestResult) (repairs : List RowRef) : Keeps.Statement (.shutdownPhaseComplete found repairs) := fun _ _ _ h e => execShutdownPhaseComplete_kept h e

theorem Keeps.eventPersistComplete : Keeps.Statement (.eventPersistComplete) := fun _ _ _ h e => execEventPersistComplete_kept h e

theorem Keeps.dumpPersistComplete : Keeps.Statement (.dumpPersistComplete) := fun _ _ _ h e => execDumpPersistComplete_kept h e

theorem Keeps.doeRequest (r : DoeRequest) : Keeps.Statement (.doeRequest r) := fun _ _ _ h e => execDoeRequest_kept h e

theorem Keeps.fenceNotice (port : Nat) (p : Packet) : Keeps.Statement (.fenceNotice port p) := fun _ _ _ h e => execFenceNotice_kept h e

/-! ## Answers -/

theorem Answers.vaux3On (udsMatches : Bool) (addrSel : BitVec 2) : Answers.Statement (.vaux3On udsMatches addrSel) := fun _ _ _ => ⟨_, rfl⟩

theorem Answers.vin12Ready (calFail : List Nat) : Answers.Statement (.vin12Ready calFail) := fun _ h _ => guardUnit_answers h

theorem Answers.vin12AbsentTimeout : Answers.Statement (.vin12AbsentTimeout) := fun _ _ _ => ⟨_, rfl⟩

theorem Answers.startTests (memIdHash : BitVec 384) : Answers.Statement (.startTests memIdHash) := fun _ _ _ => ⟨_, rfl⟩

theorem Answers.startComplete (found : TestResult) : Answers.Statement (.startComplete found) := fun _ h _ => guardUnit_answers h

theorem Answers.pwrOkLow : Answers.Statement (.pwrOkLow) := fun _ _ _ => ⟨_, rfl⟩

theorem Answers.syncInLow : Answers.Statement (.syncInLow) := fun _ _ _ => ⟨_, rfl⟩

theorem Answers.syncInEdge (stamp : Nat) : Answers.Statement (.syncInEdge stamp) := fun _ _ _ => ⟨_, rfl⟩

theorem Answers.perstNAssert : Answers.Statement (.perstNAssert) := fun _ _ _ => ⟨_, rfl⟩

theorem Answers.hotReset : Answers.Statement (.hotReset) := fun _ _ _ => ⟨_, rfl⟩

theorem Answers.perstNRelease : Answers.Statement (.perstNRelease) := fun _ _ _ => ⟨_, rfl⟩

theorem Answers.powerRemoved : Answers.Statement (.powerRemoved) := fun _ _ _ => ⟨_, rfl⟩

theorem Answers.tapEnterExtest (which : TapInstr) : Answers.Statement (.tapEnterExtest which) := fun _ _ _ => ⟨_, rfl⟩

theorem Answers.tapLeaveExtest : Answers.Statement (.tapLeaveExtest) := fun _ _ _ => ⟨_, rfl⟩

theorem Answers.vddqDdrFault : Answers.Statement (.vddqDdrFault) := fun _ _ _ => ⟨_, rfl⟩

theorem Answers.thermalComparatorTrip (die : Nat) : Answers.Statement (.thermalComparatorTrip die) := fun _ h _ => guardUnit_answers h

theorem Answers.sensorRead (readings : List (Sensor × Int)) : Answers.Statement (.sensorRead readings) := fun _ h _ => guardUnit_answers h

theorem Answers.timeUtcWrite (value : Word64) : Answers.Statement (.timeUtcWrite value) := fun _ _ _ => ⟨_, rfl⟩

theorem Answers.timeUtcTick : Answers.Statement (.timeUtcTick) := fun _ _ _ => ⟨_, rfl⟩

theorem Answers.recLengthWrite (value : Word32) : Answers.Statement (.recLengthWrite value) := fun _ _ _ => ⟨_, rfl⟩

theorem Answers.recDataWrite (value : Word32) : Answers.Statement (.recDataWrite value) := fun _ _ _ => ⟨_, rfl⟩

theorem Answers.recVerifyDone : Answers.Statement (.recVerifyDone) := fun _ _ _ => ⟨_, rfl⟩

theorem Answers.registerWrite (target : RegTarget) (width : Nat) (value : Word64) : Answers.Statement (.registerWrite target width value) := fun _ _ _ => ⟨_, rfl⟩

theorem Answers.crEntriesWrite (value : Word32) : Answers.Statement (.crEntriesWrite value) := fun _ _ _ => ⟨_, rfl⟩

theorem Answers.hostLinkTrained (width gts : Nat) : Answers.Statement (.hostLinkTrained width gts) := fun _ _ _ => ⟨_, rfl⟩

theorem Answers.dmaCompletionTimeout (mb : Nat) : Answers.Statement (.dmaCompletionTimeout mb) := fun _ h _ => guardUnit_answers h

theorem Answers.dmaWaitTimeout (mb : Nat) : Answers.Statement (.dmaWaitTimeout mb) := fun _ h _ => guardUnit_answers h

theorem Answers.dmaCompletionError (target : DmaTarget) : Answers.Statement (.dmaCompletionError target) := by
  intro s h _
  cases target with
  | command mb => exact guardUnit_answers h
  | record => exact ⟨_, rfl⟩

theorem Answers.completionCoalesceTimer : Answers.Statement (.completionCoalesceTimer) := fun _ _ _ => ⟨_, rfl⟩

theorem Answers.mb00Scan : Answers.Statement (.mb00Scan) := fun _ _ _ => ⟨_, rfl⟩

theorem Answers.slowMailboxScan : Answers.Statement (.slowMailboxScan) := fun _ _ _ => ⟨_, rfl⟩

theorem Answers.statusPageSlowRefresh : Answers.Statement (.statusPageSlowRefresh) := fun _ _ _ => ⟨_, rfl⟩

theorem Answers.unknownCommand (mb : Nat) : Answers.Statement (.unknownCommand mb) := by
  intro s h _
  show ∃ t, execUnknownCommand mb s = .next t
  rw [execUnknownCommand]
  exact command_answers h

theorem Answers.identify (mb : Nat) : Answers.Statement (.identify mb) := by
  intro s h _
  show ∃ t, execIdentify mb s = .next t
  rw [execIdentify]
  exact command_answers h

theorem Answers.getStatus (mb : Nat) : Answers.Statement (.getStatus mb) := by
  intro s h _
  show ∃ t, execGetStatus mb s = .next t
  rw [execGetStatus]
  exact command_answers h

theorem Answers.setPolicy (mb : Nat) : Answers.Statement (.setPolicy mb) := by
  intro s h _
  show ∃ t, execSetPolicy mb s = .next t
  rw [execSetPolicy]
  exact command_answers h

theorem Answers.loadImage (mb : Nat) : Answers.Statement (.loadImage mb) := by
  intro s h _
  show ∃ t, execLoadImage mb s = .next t
  rw [execLoadImage]
  exact command_answers h

theorem Answers.openJob (mb : Nat) : Answers.Statement (.openJob mb) := by
  intro s h _
  show ∃ t, execOpenJob mb s = .next t
  rw [execOpenJob]
  exact command_answers h

theorem Answers.declareLoaves (mb : Nat) : Answers.Statement (.declareLoaves mb) := by
  intro s h _
  show ∃ t, execDeclareLoaves mb s = .next t
  rw [execDeclareLoaves]
  exact command_answers h

theorem Answers.hostFill (mb : Nat) : Answers.Statement (.hostFill mb) := by
  intro s h _
  show ∃ t, execHostFill mb s = .next t
  rw [execHostFill]
  exact command_answers h

theorem Answers.hostFillDmaComplete (mb : Nat) (list : List Descriptor) (data : List Byte) : Answers.Statement (.hostFillDmaComplete mb list data) := fun _ h _ => guardUnit_answers h

theorem Answers.hostDrain (cmd : HostRead) : Answers.Statement (.hostDrain cmd) := by
  intro s h _
  show ∃ t, execHostDrain cmd s = .next t
  rw [execHostDrain]
  exact command_answers h

theorem Answers.hostDrainComplete (mb : Nat) (list : List Descriptor) : Answers.Statement (.hostDrainComplete mb list) := fun _ h _ => guardUnit_answers h

theorem Answers.startJob (mb : Nat) : Answers.Statement (.startJob mb) := by
  intro s h _
  show ∃ t, execStartJob mb s = .next t
  rw [execStartJob]
  exact command_answers h

theorem Answers.pauseJob (mb : Nat) : Answers.Statement (.pauseJob mb) := by
  intro s h _
  show ∃ t, execPauseJob mb s = .next t
  rw [execPauseJob]
  exact command_answers h

theorem Answers.pauseEnterReady : Answers.Statement (.pauseEnterReady) := fun _ _ _ => ⟨_, rfl⟩

theorem Answers.resumeJob (mb : Nat) : Answers.Statement (.resumeJob mb) := by
  intro s h _
  show ∃ t, execResumeJob mb s = .next t
  rw [execResumeJob]
  exact command_answers h

theorem Answers.stopJob (mb : Nat) : Answers.Statement (.stopJob mb) := by
  intro s h _
  show ∃ t, execStopJob mb s = .next t
  rw [execStopJob]
  exact command_answers h

theorem Answers.checkpointSave (cmd : HostRead) : Answers.Statement (.checkpointSave cmd) := by
  intro s h _
  show ∃ t, execCheckpointSave cmd s = .next t
  rw [execCheckpointSave]
  exact command_answers h

theorem Answers.checkpointRestore (mb : Nat) : Answers.Statement (.checkpointRestore mb) := by
  intro s h _
  show ∃ t, execCheckpointRestore mb s = .next t
  rw [execCheckpointRestore]
  exact command_answers h

theorem Answers.checkpointTransferComplete (mb : Nat) (list : List Descriptor) (data : List Byte) : Answers.Statement (.checkpointTransferComplete mb list data) := fun _ h _ => guardUnit_answers h

theorem Answers.fabricPlan (mb : Nat) : Answers.Statement (.fabricPlan mb) := by
  intro s h _
  show ∃ t, execFabricPlan mb s = .next t
  rw [execFabricPlan]
  exact command_answers h

theorem Answers.fabricCommit (mb : Nat) : Answers.Statement (.fabricCommit mb) := by
  intro s h _
  show ∃ t, execFabricCommit mb s = .next t
  rw [execFabricCommit]
  exact command_answers h

theorem Answers.windowOpen (mb : Nat) : Answers.Statement (.windowOpen mb) := by
  intro s h _
  show ∃ t, execWindowOpen mb s = .next t
  rw [execWindowOpen]
  exact command_answers h

theorem Answers.windowCloseLocal (mb : Nat) : Answers.Statement (.windowCloseLocal mb) := by
  intro s h _
  show ∃ t, execWindowCloseLocal mb s = .next t
  rw [execWindowCloseLocal]
  exact command_answers h

theorem Answers.windowCloseProxy (mb : Nat) : Answers.Statement (.windowCloseProxy mb) := by
  intro s h _
  show ∃ t, execWindowCloseProxy mb s = .next t
  rw [execWindowCloseProxy]
  exact command_answers h

theorem Answers.crumbCheck (mb : Nat) : Answers.Statement (.crumbCheck mb) := by
  intro s h _
  show ∃ t, execCrumbCheck mb s = .next t
  rw [execCrumbCheck]
  exact command_answers h

theorem Answers.crumbCheckBegin : Answers.Statement (.crumbCheckBegin) := fun _ _ _ => ⟨_, rfl⟩

theorem Answers.crumbProgramComplete (tile partner : Nat) (out outPartner : List Word64) (reruns : List (Nat × List Word64)) : Answers.Statement (.crumbProgramComplete tile partner out outPartner reruns) := fun _ h _ => guardUnit_answers h

theorem Answers.requalify (mb : Nat) : Answers.Statement (.requalify mb) := by
  intro s h _
  show ∃ t, execRequalify mb s = .next t
  rw [execRequalify]
  exact command_answers h

theorem Answers.readEvents (mb : Nat) : Answers.Statement (.readEvents mb) := by
  intro s h _
  show ∃ t, execReadEvents mb s = .next t
  rw [execReadEvents]
  exact command_answers h

theorem Answers.clearEventsNonce (mb : Nat) : Answers.Statement (.clearEventsNonce mb) := by
  intro s h _
  show ∃ t, execClearEventsNonce mb s = .next t
  rw [execClearEventsNonce]
  exact command_answers h

theorem Answers.clearEventsClear (mb : Nat) : Answers.Statement (.clearEventsClear mb) := by
  intro s h _
  show ∃ t, execClearEventsClear mb s = .next t
  rw [execClearEventsClear]
  exact command_answers h

theorem Answers.clearSticky (mb : Nat) : Answers.Statement (.clearSticky mb) := by
  intro s h _
  show ∃ t, execClearSticky mb s = .next t
  rw [execClearSticky]
  exact command_answers h

theorem Answers.getDump (mb : Nat) : Answers.Statement (.getDump mb) := by
  intro s h _
  show ∃ t, execGetDump mb s = .next t
  rw [execGetDump]
  exact command_answers h

theorem Answers.resetCompute (mb : Nat) : Answers.Statement (.resetCompute mb) := by
  intro s h _
  show ∃ t, execResetCompute mb s = .next t
  rw [execResetCompute]
  exact command_answers h

theorem Answers.computeResetComplete (failTiles : List Nat) (lostUnits : List Source) : Answers.Statement (.computeResetComplete failTiles lostUnits) := by
  intro s h h2
  refine guardUnit_answers ?_
  simp only [Instr.wf, State.hasUnits, Bool.and_eq_true] at h h2 ⊢
  exact ⟨h.1, h2⟩

theorem Answers.shutdown (mb : Nat) : Answers.Statement (.shutdown mb) := by
  intro s h _
  show ∃ t, execShutdown mb s = .next t
  rw [execShutdown]
  exact command_answers h

theorem Answers.shutdownTestComplete : Answers.Statement (.shutdownTestComplete) := fun _ _ _ => ⟨_, rfl⟩

theorem Answers.fwStage (mb : Nat) : Answers.Statement (.fwStage mb) := by
  intro s h _
  show ∃ t, execFwStage mb s = .next t
  rw [execFwStage]
  exact command_answers h

theorem Answers.fwActivate (mb : Nat) : Answers.Statement (.fwActivate mb) := by
  intro s h _
  show ∃ t, execFwActivate mb s = .next t
  rw [execFwActivate]
  exact command_answers h

theorem Answers.fwActivateAtBoot (mb : Nat) : Answers.Statement (.fwActivateAtBoot mb) := by
  intro s h _
  show ∃ t, execFwActivateAtBoot mb s = .next t
  rw [execFwActivateAtBoot]
  exact command_answers h

theorem Answers.lifecycleGetNonce (mb : Nat) : Answers.Statement (.lifecycleGetNonce mb) := by
  intro s h _
  show ∃ t, execLifecycleGetNonce mb s = .next t
  rw [execLifecycleGetNonce]
  exact command_answers h

theorem Answers.lifecycleTransition (mb : Nat) : Answers.Statement (.lifecycleTransition mb) := by
  intro s h _
  show ∃ t, execLifecycleTransition mb s = .next t
  rw [execLifecycleTransition]
  exact command_answers h

theorem Answers.lifecycleInstallKey (mb : Nat) : Answers.Statement (.lifecycleInstallKey mb) := by
  intro s h _
  show ∃ t, execLifecycleInstallKey mb s = .next t
  rw [execLifecycleInstallKey]
  exact command_answers h

theorem Answers.lifecycleDebugUnlock (mb : Nat) : Answers.Statement (.lifecycleDebugUnlock mb) := by
  intro s h _
  show ∃ t, execLifecycleDebugUnlock mb s = .next t
  rw [execLifecycleDebugUnlock]
  exact command_answers h

theorem Answers.tickBoundary (m : SlotMeasure) : Answers.Statement (.tickBoundary m) := fun _ _ _ => ⟨_, rfl⟩

theorem Answers.runPhaseOpen : Answers.Statement (.runPhaseOpen) := fun _ _ _ => ⟨_, rfl⟩

theorem Answers.marginOpen : Answers.Statement (.marginOpen) := fun _ _ _ => ⟨_, rfl⟩

theorem Answers.taskBegin (at_ : TileSpeed) : Answers.Statement (.taskBegin at_) := fun _ h _ => guardUnit_answers h

theorem Answers.fillLineReturn (tile : Nat) (runAhead : Bool) (entry line : Nat) (outcome : ReadOutcome) : Answers.Statement (.fillLineReturn tile runAhead entry line outcome) := fun _ h _ => guardUnit_answers h

theorem Answers.fillListComplete (tile : Nat) : Answers.Statement (.fillListComplete tile) := fun _ h _ => guardUnit_answers h

theorem Answers.weaveStart (tile : Nat) (configParity : Bool) : Answers.Statement (.weaveStart tile configParity) := fun _ h _ => guardUnit_answers h

theorem Answers.mstream (f : Firing) : Answers.Statement (.mstream f) := fun _ h _ => fireUnit_answers h

theorem Answers.mstreamAcc (f : Firing) : Answers.Statement (.mstreamAcc f) := fun _ h _ => fireUnit_answers h

theorem Answers.fma (f : Firing) : Answers.Statement (.fma f) := fun _ h _ => fireUnit_answers h

theorem Answers.mul (f : Firing) : Answers.Statement (.mul f) := fun _ h _ => fireUnit_answers h

theorem Answers.add (f : Firing) : Answers.Statement (.add f) := fun _ h _ => fireUnit_answers h

theorem Answers.sub (f : Firing) : Answers.Statement (.sub f) := fun _ h _ => fireUnit_answers h

theorem Answers.accum (f : Firing) : Answers.Statement (.accum f) := fun _ h _ => fireUnit_answers h

theorem Answers.min (f : Firing) : Answers.Statement (.min f) := fun _ h _ => fireUnit_answers h

theorem Answers.max (f : Firing) : Answers.Statement (.max f) := fun _ h _ => fireUnit_answers h

theorem Answers.cmp (f : Firing) : Answers.Statement (.cmp f) := fun _ h _ => fireUnit_answers h

theorem Answers.iadd (f : Firing) : Answers.Statement (.iadd f) := fun _ h _ => fireUnit_answers h

theorem Answers.isub (f : Firing) : Answers.Statement (.isub f) := fun _ h _ => fireUnit_answers h

theorem Answers.and (f : Firing) : Answers.Statement (.and f) := fun _ h _ => fireUnit_answers h

theorem Answers.or (f : Firing) : Answers.Statement (.or f) := fun _ h _ => fireUnit_answers h

theorem Answers.xor (f : Firing) : Answers.Statement (.xor f) := fun _ h _ => fireUnit_answers h

theorem Answers.shift (f : Firing) : Answers.Statement (.shift f) := fun _ h _ => fireUnit_answers h

theorem Answers.exp2 (f : Firing) : Answers.Statement (.exp2 f) := fun _ h _ => fireUnit_answers h

theorem Answers.log2 (f : Firing) : Answers.Statement (.log2 f) := fun _ h _ => fireUnit_answers h

theorem Answers.rcp (f : Firing) : Answers.Statement (.rcp f) := fun _ h _ => fireUnit_answers h

theorem Answers.rsqrt (f : Firing) : Answers.Statement (.rsqrt f) := fun _ h _ => fireUnit_answers h

theorem Answers.rng (f : Firing) : Answers.Statement (.rng f) := fun _ h _ => fireUnit_answers h

theorem Answers.cvt (f : Firing) : Answers.Statement (.cvt f) := fun _ h _ => fireUnit_answers h

theorem Answers.reduce (f : Firing) : Answers.Statement (.reduce f) := fun _ h _ => fireUnit_answers h

theorem Answers.route (f : Firing) : Answers.Statement (.route f) := fun _ h _ => fireUnit_answers h

theorem Answers.select (f : Firing) : Answers.Statement (.select f) := fun _ h _ => fireUnit_answers h

theorem Answers.filter (f : Firing) : Answers.Statement (.filter f) := fun _ h _ => fireUnit_answers h

theorem Answers.compact (f : Firing) : Answers.Statement (.compact f) := fun _ h _ => fireUnit_answers h

theorem Answers.count (f : Firing) : Answers.Statement (.count f) := fun _ h _ => fireUnit_answers h

theorem Answers.merge (f : Firing) : Answers.Statement (.merge f) := fun _ h _ => fireUnit_answers h

theorem Answers.union (f : Firing) : Answers.Statement (.union f) := fun _ h _ => fireUnit_answers h

theorem Answers.intersect (f : Firing) : Answers.Statement (.intersect f) := fun _ h _ => fireUnit_answers h

theorem Answers.rowRead (f : Firing) (upset : Bool) : Answers.Statement (.rowRead f upset) := by
  intro s h _
  show ∃ t, execRowRead f upset s = .next t
  unfold execRowRead
  exact fireRead_answers h

theorem Answers.rowWrite (f : Firing) : Answers.Statement (.rowWrite f) := fun _ h _ => fireAccess_answers h

theorem Answers.columnRead (f : Firing) (upset : Bool) : Answers.Statement (.columnRead f upset) := by
  intro s h _
  show ∃ t, execColumnRead f upset s = .next t
  unfold execColumnRead
  exact fireRead_answers h

theorem Answers.columnWrite (f : Firing) : Answers.Statement (.columnWrite f) := fun _ h _ => fireAccess_answers h

theorem Answers.stridedRead (f : Firing) (upset : Bool) : Answers.Statement (.stridedRead f upset) := by
  intro s h _
  show ∃ t, execStridedRead f upset s = .next t
  unfold execStridedRead
  exact fireRead_answers h

theorem Answers.stridedWrite (f : Firing) : Answers.Statement (.stridedWrite f) := fun _ h _ => fireAccess_answers h

theorem Answers.indexedRowRead (f : Firing) (upset : Bool) : Answers.Statement (.indexedRowRead f upset) := by
  intro s h _
  show ∃ t, execIndexedRowRead f upset s = .next t
  unfold execIndexedRowRead
  exact fireRead_answers h

theorem Answers.indexedRowWrite (f : Firing) : Answers.Statement (.indexedRowWrite f) := fun _ h _ => fireAccess_answers h

theorem Answers.gather (f : Firing) (upset : Bool) : Answers.Statement (.gather f upset) := by
  intro s h _
  show ∃ t, execGather f upset s = .next t
  unfold execGather
  exact fireRead_answers h

theorem Answers.scatter (f : Firing) : Answers.Statement (.scatter f) := fun _ h _ => fireAccess_answers h

theorem Answers.probe (f : Firing) (upset : Bool) : Answers.Statement (.probe f upset) := by
  intro s h _
  show ∃ t, execProbe f upset s = .next t
  unfold execProbe
  exact fireRead_answers h

theorem Answers.append (f : Firing) : Answers.Statement (.append f) := fun _ h _ => fireAccess_answers h

theorem Answers.send (f : Firing) : Answers.Statement (.send f) := fun _ h _ => fireAccess_answers h

theorem Answers.take (f : Firing) (upset : Bool) : Answers.Statement (.take f upset) := by
  intro s h _
  show ∃ t, execTake f upset s = .next t
  unfold execTake
  exact fireRead_answers h

theorem Answers.pull (f : Firing) (upset : Bool) : Answers.Statement (.pull f upset) := by
  intro s h _
  show ∃ t, execPull f upset s = .next t
  unfold execPull
  exact fireRead_answers h

theorem Answers.weaveHoldLimit (tile : Nat) : Answers.Statement (.weaveHoldLimit tile) := fun _ h _ => guardUnit_answers h

theorem Answers.schedDeviation (tile : Nat) (measured : Nat) : Answers.Statement (.schedDeviation tile measured) := fun _ h _ => guardUnit_answers h

theorem Answers.weaveDrainEnd (tile : Nat) (padUpset : Option Nat) (merge : List (Nat × ReadOutcome)) : Answers.Statement (.weaveDrainEnd tile padUpset merge) := fun _ h _ => guardUnit_answers h

theorem Answers.drainTimeout (tile : Nat) : Answers.Statement (.drainTimeout tile) := fun _ h _ => guardUnit_answers h

theorem Answers.drainComplete (tile : Nat) : Answers.Statement (.drainComplete tile) := fun _ h _ => guardUnit_answers h

theorem Answers.errorReport (r : Option Raise) : Answers.Statement (.errorReport r) := by
  intro s h _
  cases r with
  | none => exact ⟨_, rfl⟩
  | some x =>
    show ∃ t, execErrorReport (some x) s = .next t
    simp only [execErrorReport]
    split
    · exact ⟨_, rfl⟩
    · split
      · next p hp =>
        have hw : p < 1152 := by simpa [Instr.wf, Source.wf, tileOk, hp] using h
        exact ⟨_, by rw [if_pos hw]⟩
      · next p hp => exact guardUnit_answers (by simpa [Instr.wf, Source.wf, portOk, hp] using h)
      · exact ⟨_, rfl⟩
      · exact ⟨_, rfl⟩

theorem Answers.failureBroadcast : Answers.Statement (.failureBroadcast) := fun _ _ _ => ⟨_, rfl⟩

theorem Answers.messageRingWrite (sender receiver : Nat) (upset : Bool) : Answers.Statement (.messageRingWrite sender receiver upset) := fun _ h _ => guardUnit_answers h

theorem Answers.ringSendRetry (retry : RetrySend) : Answers.Statement (.ringSendRetry retry) := fun _ h _ => guardUnit_answers h

theorem Answers.ringArbHoldCutoff (sender receiver : Nat) : Answers.Statement (.ringArbHoldCutoff sender receiver) := fun _ h _ => guardUnit_answers h

theorem Answers.configLoad (tile : Nat) (copy : CopyOutcome) (recordUpset : Bool) : Answers.Statement (.configLoad tile copy recordUpset) := fun _ h _ => guardUnit_answers h

theorem Answers.runAheadConfigLoad (ahead : AheadCopy) : Answers.Statement (.runAheadConfigLoad ahead) := fun _ h _ => guardUnit_answers h

theorem Answers.runAheadFillIssue (tile : Nat) : Answers.Statement (.runAheadFillIssue tile) := fun _ h _ => guardUnit_answers h

theorem Answers.tileIdle (at_ : TileSpeed) : Answers.Statement (.tileIdle at_) := fun _ h _ => guardUnit_answers h

theorem Answers.stealReq (thief : Nat) (victim : TileSpeed) : Answers.Statement (.stealReq thief victim) := fun _ h _ => guardUnit_answers h

theorem Answers.stealGrant (thief : Nat) : Answers.Statement (.stealGrant thief) := fun _ h _ => guardUnit_answers h

theorem Answers.stealRefusal (thief : Nat) : Answers.Statement (.stealRefusal thief) := fun _ h _ => guardUnit_answers h

theorem Answers.directorySweep (loaf : Nat) (outcome : ReadOutcome) : Answers.Statement (.directorySweep loaf outcome) := by
  intro s h _
  have hw : ¬ 33554432 ≤ loaf := by simpa [Instr.wf, loafOk] using h
  exact ⟨_, if_neg hw⟩

theorem Answers.accessDecay : Answers.Statement (.accessDecay) := fun _ _ _ => ⟨_, rfl⟩

theorem Answers.regionSlow (region : Nat) : Answers.Statement (.regionSlow region) := fun _ h _ => guardUnit_answers h

theorem Answers.parkedTileVerified (tile : Nat) : Answers.Statement (.parkedTileVerified tile) := fun _ h _ => guardUnit_answers h

theorem Answers.rotation : Answers.Statement (.rotation) := fun _ _ _ => ⟨_, rfl⟩

theorem Answers.tileExchange (logical : Nat) : Answers.Statement (.tileExchange logical) := fun _ h _ => guardUnit_answers h

theorem Answers.reserveProgramComplete (a b : Nat) (outA outB : List Word64) (third : Option (Nat × List Word64)) : Answers.Statement (.reserveProgramComplete a b outA outB third) := fun _ h _ => guardUnit_answers h

theorem Answers.healthScoreUpdate : Answers.Statement (.healthScoreUpdate) := fun _ _ _ => ⟨_, rfl⟩

theorem Answers.fenumWatchdog : Answers.Statement (.fenumWatchdog) := fun _ _ _ => ⟨_, rfl⟩

theorem Answers.fenumLockstep : Answers.Statement (.fenumLockstep) := fun _ _ _ => ⟨_, rfl⟩

theorem Answers.firmwareRunning (started : Bool) : Answers.Statement (.firmwareRunning started) := fun _ _ _ => ⟨_, rfl⟩

theorem Answers.dumpPersist : Answers.Statement (.dumpPersist) := fun _ _ _ => ⟨_, rfl⟩

theorem Answers.eventPersist (writeFails : Bool) : Answers.Statement (.eventPersist writeFails) := fun _ _ _ => ⟨_, rfl⟩

theorem Answers.droopTrip (region : Nat) : Answers.Statement (.droopTrip region) := fun _ h _ => guardUnit_answers h

theorem Answers.limiterInterval (meanW : Nat) : Answers.Statement (.limiterInterval meanW) := fun _ _ _ => ⟨_, rfl⟩

theorem Answers.patrolLine (frame line : Nat) (outcome : ReadOutcome) : Answers.Statement (.patrolLine frame line outcome) := by
  intro s h h2
  have hw : line < 2048 := by simpa [Instr.wf, lineOk] using h
  exact ⟨_, if_neg (not_not.mpr ⟨h2, hw⟩)⟩

theorem Answers.ddrWriteCrcError (frame line : Nat) (retriesFailed : Nat) : Answers.Statement (.ddrWriteCrcError frame line retriesFailed) := by
  intro s h h2
  have hw : line < 2048 := by simpa [Instr.wf, lineOk] using h
  have h3 : 0x800000 ≤ frame ∧ s.externalFrame frame = true := by simpa [State.hasUnits] using h2
  exact ⟨_, if_neg (not_not.mpr ⟨h3.1, h3.2, hw⟩)⟩

theorem Answers.hbmArbHoldCutoff (stack pc : Nat) : Answers.Statement (.hbmArbHoldCutoff stack pc) := by
  intro s h _
  have hw : stack < 16 ∧ pc < 64 := by simpa [Instr.wf] using h
  exact ⟨_, if_neg (not_not.mpr hw)⟩

theorem Answers.portTrainingAttempt (port : Nat) (t : Training) : Answers.Statement (.portTrainingAttempt port t) := fun _ h _ => guardUnit_answers h

theorem Answers.portRetryTimer (port : Nat) : Answers.Statement (.portRetryTimer port) := fun _ h _ => guardUnit_answers h

theorem Answers.portLossOfLock (port lane : Nat) : Answers.Statement (.portLossOfLock port lane) := fun _ h _ => guardUnit_answers h

theorem Answers.portIdleTimeout (port : Nat) : Answers.Statement (.portIdleTimeout port) := fun _ h _ => guardUnit_answers h

theorem Answers.flitReceive (port : Nat) (f : FlitArrival) : Answers.Statement (.flitReceive port f) := fun _ h _ => guardUnit_answers h

theorem Answers.linkControlFlit (port : Nat) (request answer : Stamps) (peerBudget : Option Nat) (peerDepth : Nat) : Answers.Statement (.linkControlFlit port request answer peerBudget peerDepth) := fun _ h _ => guardUnit_answers h

theorem Answers.hello (port : Nat) (h : Hello) : Answers.Statement (.hello port h) := fun _ h _ => guardUnit_answers h

theorem Answers.helloCert (port : Nat) (chain : BitVec 384) : Answers.Statement (.helloCert port chain) := fun _ h _ => guardUnit_answers h

theorem Answers.coord (port : Nat) (addr : BitVec 24) (dim : Nat) (plus : Bool) : Answers.Statement (.coord port addr dim plus) := fun _ h _ => guardUnit_answers h

theorem Answers.transitPacket (port : Nat) (p : Packet) : Answers.Statement (.transitPacket port p) := fun _ h _ => guardUnit_answers h

theorem Answers.portDownFlood (port : Nat) (e : Flood) : Answers.Statement (.portDownFlood port e) := fun _ h _ => guardUnit_answers h

theorem Answers.portUpFlood (port : Nat) (e : Flood) : Answers.Statement (.portUpFlood port e) := fun _ h _ => guardUnit_answers h

theorem Answers.injectionStop : Answers.Statement (.injectionStop) := fun _ _ _ => ⟨_, rfl⟩

theorem Answers.fabricTableSwap : Answers.Statement (.fabricTableSwap) := fun _ _ _ => ⟨_, rfl⟩

theorem Answers.injectionResume : Answers.Statement (.injectionResume) := fun _ _ _ => ⟨_, rfl⟩

theorem Answers.fabricArbHoldCutoff (port : Nat) (p : Packet) : Answers.Statement (.fabricArbHoldCutoff port p) := fun _ h _ => guardUnit_answers h

theorem Answers.windowPut (op : WindowOp) : Answers.Statement (.windowPut op) := fun _ _ _ => ⟨_, rfl⟩

theorem Answers.windowGet (op : WindowOp) : Answers.Statement (.windowGet op) := fun _ _ _ => ⟨_, rfl⟩

theorem Answers.windowAdd (op : WindowOp) : Answers.Statement (.windowAdd op) := fun _ _ _ => ⟨_, rfl⟩

theorem Answers.windowCas (op : WindowOp) : Answers.Statement (.windowCas op) := fun _ _ _ => ⟨_, rfl⟩

theorem Answers.reply (p : Packet) : Answers.Statement (.reply p) := fun _ _ _ => ⟨_, rfl⟩

theorem Answers.e2eTimeout (peer : Nat) : Answers.Statement (.e2eTimeout peer) := fun _ h _ => guardUnit_answers h

theorem Answers.barrier (p : Packet) : Answers.Statement (.barrier p) := fun _ _ _ => ⟨_, rfl⟩

theorem Answers.chunkData (p : Packet) : Answers.Statement (.chunkData p) := fun _ _ _ => ⟨_, rfl⟩

theorem Answers.chunkAck (p : Packet) : Answers.Statement (.chunkAck p) := fun _ _ _ => ⟨_, rfl⟩

theorem Answers.chunkCount (p : Packet) : Answers.Statement (.chunkCount p) := fun _ _ _ => ⟨_, rfl⟩

theorem Answers.chunkTimeout (coll : Nat) (chunk peer : Nat) : Answers.Statement (.chunkTimeout coll chunk peer) := fun _ h _ => guardUnit_answers h

theorem Answers.collectiveStage0Start (start : StageStart) : Answers.Statement (.collectiveStage0Start start) := fun _ h _ => guardUnit_answers h

theorem Answers.collectiveStageComplete (coll : Nat) : Answers.Statement (.collectiveStageComplete coll) := fun _ h _ => guardUnit_answers h

theorem Answers.peerSlow (coll : Nat) : Answers.Statement (.peerSlow coll) := fun _ h _ => guardUnit_answers h

theorem Answers.loadImageDmaComplete (mb : Nat) (list : List Descriptor) (data : List Byte) : Answers.Statement (.loadImageDmaComplete mb list data) := fun _ h _ => guardUnit_answers h

theorem Answers.fabricPlanDmaComplete (mb : Nat) (list : List Descriptor) (data : List Byte) : Answers.Statement (.fabricPlanDmaComplete mb list data) := fun _ h _ => guardUnit_answers h

theorem Answers.fwStageDmaComplete (mb : Nat) (list : List Descriptor) (data : List Byte) : Answers.Statement (.fwStageDmaComplete mb list data) := fun _ h _ => guardUnit_answers h

theorem Answers.getDumpDmaComplete (mb : Nat) (list : List Descriptor) : Answers.Statement (.getDumpDmaComplete mb list) := fun _ h _ => guardUnit_answers h

theorem Answers.requalifyTestComplete (found : TestResult) : Answers.Statement (.requalifyTestComplete found) := fun _ h _ => guardUnit_answers h

theorem Answers.shutdownPhaseComplete (found : TestResult) (repairs : List RowRef) : Answers.Statement (.shutdownPhaseComplete found repairs) := fun _ h _ => guardUnit_answers h

theorem Answers.eventPersistComplete : Answers.Statement (.eventPersistComplete) := fun _ _ _ => ⟨_, rfl⟩

theorem Answers.dumpPersistComplete : Answers.Statement (.dumpPersistComplete) := fun _ _ _ => ⟨_, rfl⟩

theorem Answers.doeRequest (r : DoeRequest) : Answers.Statement (.doeRequest r) := fun _ _ _ => ⟨_, rfl⟩

theorem Answers.fenceNotice (port : Nat) (p : Packet) : Answers.Statement (.fenceNotice port p) := fun _ h _ => guardUnit_answers h

end Sys2Proof.Laws
end

