-- ==== Sys2Proof/Tests/Slice0.lean ====
section
/-! SUPPORT. Tests: for each statement with hypotheses, states and operands that meet them, a clause at a time and at the ends of its ranges; the
commands that the check of units refuses; and single steps whose results are taken from the rules. Where a hypothesis is a verdict of a
hash or a signature (`Config`), which nothing can evaluate, the clause for the other verdict and every other hypothesis are shown. -/

namespace Sys2Proof.Tests

set_option Elab.async false

open Sys2Proof.Machine Sys2Proof.Certificates

/-! ## Small states for the weave -/

/-- A record whose inputs are the constant token (code 11), with four firings in fold 0. -/
def rec0 (op mode : Nat) : Record :=
  { op := op, mode := mode, inA := 11, inB := 11, inC := 11, out0 := 2, fireCount := 4, span := 16, elemStride := 64, group := 1, split := 1,
    constant := List.replicate 64 1 }

/-- A configuration set with one record. -/
def set0 (u : Nat) (r : Record) : ConfigSet := { seq := [0], folds := [List.replicate u { span := 16 } ++ [r]] }

/-- A job with one task and that set, its tensor in a format. -/
def job0 (fmt u : Nat) (r : Record) : Job :=
  { seed := 7, image := { taskCount := 1, tensorCount := 1, tasks := [{ weaveCycles := 64, dataTrays := 2 }], sets := [set0 u r],
                          numerics := [{ format := fmt }], decls := [{ count := 8, hostIn := true, hostOut := true }] } }

/-- Tile 0 fires task 0 of that job, with a state bank and whatever else the tile holds. -/
def firing0 (fmt u : Nat) (r : Record) (k : Bank) (g : Tile → Tile) : State :=
  { State.reset with
    dev := { State.reset.dev with state := .running }
    job := some (job0 fmt u r)
    tiles := [(0, g { current := some { task := 0, phase := .firing }, resident := some 0, banks := [((u, 0), k)] })] }

/-- The hypotheses of a statement about an operation: a firing takes three tokens of 64 bytes, of which something more holds. -/
def Witnessed (op : Nat) (w : Shot → Want × Want × Want) (p : Shot → Token → Token → Token → Prop) : Prop :=
  ∃ f s sh a b e t, Fires op w f s sh a b e t ∧ a.data.length = 64 ∧ b.data.length = 64 ∧ e.data.length = 64 ∧ p sh a b e

/-- The same of an access of an address unit. -/
def WitnessedAccess (mode : Nat) (w : Shot → Want × Want × Want) (p : Shot → Token → Token → Token → Prop) : Prop :=
  ∃ f s sh a b e t, CanonicalMemory s ∧ Accesses mode w f s sh a b e t ∧ a.data.length = 64 ∧ b.data.length = 64 ∧ e.data.length = 64 ∧ p sh a b e

/-- A token of ones that carries LAST, kept in the unit's own bank. -/
def lastOne : Token := { data := List.replicate 64 1, valid := true, last := true }

theorem canonical_firing0 (fmt u : Nat) (r : Record) (k : Bank) : CanonicalMemory (firing0 fmt u r k id) :=
  ⟨by simp [firing0, Memory.wf, Memory.wfAbove], rfl, by simp [firing0, State.reset]⟩

/-! ## Witnesses: vector units -/

theorem test_fma_fires : Witnessed 0x20 (wantsArith true) (fun _ a _ _ => a.valid = true) :=
  ⟨⟨0, 1, 0⟩, firing0 1 1 (rec0 0x20 1) {} id, _, _, _, _, _, ⟨rfl, rfl, rfl, ⟨_, _, rfl, rfl, rfl⟩⟩, rfl, rfl, rfl, rfl⟩

theorem test_fma_fires_bubble : Witnessed 0x20 (wantsArith true) (fun _ a _ _ => a.valid = false) :=
  ⟨⟨0, 1, 0⟩, firing0 1 1 { rec0 0x20 1 with inA := 9 } {} id, _, _, _, _, _, ⟨rfl, rfl, rfl, ⟨_, _, rfl, rfl, rfl⟩⟩, rfl, rfl, rfl, rfl⟩

theorem test_mul_fires : Witnessed 0x21 (wantsArith false) (fun sh a b _ => a.valid && (bToken sh b).valid) :=
  ⟨⟨0, 1, 0⟩, firing0 1 1 { rec0 0x21 1 with bHold := true } {} id, _, _, _, _, _, ⟨rfl, rfl, rfl, ⟨_, _, rfl, rfl, rfl⟩⟩, rfl, rfl, rfl, rfl⟩

theorem test_add_fires : Witnessed 0x22 (wantsArith false) (fun sh a b _ => a.valid && (bToken sh b).valid) :=
  ⟨⟨1151, 62 - 31, 0⟩, { firing0 1 31 (rec0 0x22 1) {} id with tiles := [(1151, { current := some { task := 0, phase := .firing }, resident := some 0 })] },
    _, _, _, _, _, ⟨rfl, rfl, rfl, ⟨_, _, rfl, rfl, rfl⟩⟩, rfl, rfl, rfl, rfl⟩

theorem test_sub_fires : Witnessed 0x23 (wantsArith false) (fun sh a b _ => a.valid && (bToken sh b).valid) :=
  ⟨⟨0, 6, 0⟩, firing0 1 6 (rec0 0x23 1) {} id, _, _, _, _, _, ⟨rfl, rfl, rfl, ⟨_, _, rfl, rfl, rfl⟩⟩, rfl, rfl, rfl, rfl⟩

theorem test_min_max_fire : Witnessed 0x25 (wantsArith false) (fun sh a b _ => a.valid && (bToken sh b).valid) ∧
    Witnessed 0x26 (wantsArith false) (fun sh a b _ => a.valid && (bToken sh b).valid) :=
  ⟨⟨⟨0, 1, 0⟩, firing0 1 1 (rec0 0x25 1) {} id, _, _, _, _, _, ⟨rfl, rfl, rfl, ⟨_, _, rfl, rfl, rfl⟩⟩, rfl, rfl, rfl, rfl⟩,
    ⟨⟨0, 1, 0⟩, firing0 1 1 (rec0 0x26 1) {} id, _, _, _, _, _, ⟨rfl, rfl, rfl, ⟨_, _, rfl, rfl, rfl⟩⟩, rfl, rfl, rfl, rfl⟩⟩

theorem test_exp2_fires : Witnessed 0x2E wantsOne (fun _ a _ _ => a.valid = true) ∧ Witnessed 0x2E wantsOne (fun _ a _ _ => a.valid = false) :=
  ⟨⟨⟨0, 1, 0⟩, firing0 1 1 (rec0 0x2E 1) {} id, _, _, _, _, _, ⟨rfl, rfl, rfl, ⟨_, _, rfl, rfl, rfl⟩⟩, rfl, rfl, rfl, rfl⟩,
    ⟨⟨0, 1, 0⟩, firing0 1 1 { rec0 0x2E 1 with inA := 9 } {} id, _, _, _, _, _, ⟨rfl, rfl, rfl, ⟨_, _, rfl, rfl, rfl⟩⟩, rfl, rfl, rfl, rfl⟩⟩

theorem test_log2_fires : Witnessed 0x2F wantsOne (fun _ a _ _ => a.valid = true) :=
  ⟨⟨0, 1, 0⟩, firing0 1 1 (rec0 0x2F 1) {} id, _, _, _, _, _, ⟨rfl, rfl, rfl, ⟨_, _, rfl, rfl, rfl⟩⟩, rfl, rfl, rfl, rfl⟩

theorem test_rcp_rsqrt_fire : Witnessed 0x30 wantsOne (fun _ a _ _ => a.valid = true) ∧ Witnessed 0x31 wantsOne (fun _ a _ _ => a.valid = true) :=
  ⟨⟨⟨0, 1, 0⟩, firing0 1 1 (rec0 0x30 1) {} id, _, _, _, _, _, ⟨rfl, rfl, rfl, ⟨_, _, rfl, rfl, rfl⟩⟩, rfl, rfl, rfl, rfl⟩,
    ⟨⟨0, 1, 0⟩, firing0 1 1 (rec0 0x31 1) {} id, _, _, _, _, _, ⟨rfl, rfl, rfl, ⟨_, _, rfl, rfl, rfl⟩⟩, rfl, rfl, rfl, rfl⟩⟩

theorem test_iadd_isub_fire : Witnessed 0x28 wantsInt (fun sh a b _ => (a.valid && b.valid) = true ∧ sh.numeric.format = 5) ∧
    Witnessed 0x29 wantsInt (fun sh a b _ => (a.valid && b.valid) = true ∧ sh.numeric.format ≠ 5) :=
  ⟨⟨⟨0, 1, 0⟩, firing0 5 1 (rec0 0x28 0) {} id, _, _, _, _, _, ⟨rfl, rfl, rfl, ⟨_, _, rfl, rfl, rfl⟩⟩, rfl, rfl, rfl, rfl, rfl⟩,
    ⟨⟨0, 1, 0⟩, firing0 3 1 (rec0 0x29 0) {} id, _, _, _, _, _, ⟨rfl, rfl, rfl, ⟨_, _, rfl, rfl, rfl⟩⟩, rfl, rfl, rfl, rfl, by decide⟩⟩

theorem test_and_or_xor_fire : Witnessed 0x2A wantsInt (fun _ a b _ => a.valid && b.valid) ∧ Witnessed 0x2B wantsInt (fun _ a b _ => a.valid && b.valid) ∧
    Witnessed 0x2C wantsInt (fun _ a b _ => a.valid && b.valid) :=
  ⟨⟨⟨0, 1, 0⟩, firing0 3 1 (rec0 0x2A 0) {} id, _, _, _, _, _, ⟨rfl, rfl, rfl, ⟨_, _, rfl, rfl, rfl⟩⟩, rfl, rfl, rfl, rfl⟩,
    ⟨⟨0, 1, 0⟩, firing0 3 1 (rec0 0x2B 0) {} id, _, _, _, _, _, ⟨rfl, rfl, rfl, ⟨_, _, rfl, rfl, rfl⟩⟩, rfl, rfl, rfl, rfl⟩,
    ⟨⟨0, 1, 0⟩, firing0 3 1 (rec0 0x2C 0) {} id, _, _, _, _, _, ⟨rfl, rfl, rfl, ⟨_, _, rfl, rfl, rfl⟩⟩, rfl, rfl, rfl, rfl⟩⟩

theorem test_shift_fires : Witnessed 0x2D wantsInt (fun _ a b _ => a.valid && b.valid) ∧ Witnessed 0x2D wantsInt (fun _ a b _ => (a.valid && b.valid) = false) :=
  ⟨⟨⟨0, 1, 0⟩, firing0 5 1 (rec0 0x2D 0) {} id, _, _, _, _, _, ⟨rfl, rfl, rfl, ⟨_, _, rfl, rfl, rfl⟩⟩, rfl, rfl, rfl, rfl⟩,
    ⟨⟨0, 1, 0⟩, firing0 5 1 { rec0 0x2D 0 with inB := 9 } {} id, _, _, _, _, _, ⟨rfl, rfl, rfl, ⟨_, _, rfl, rfl, rfl⟩⟩, rfl, rfl, rfl, rfl⟩⟩

theorem test_accum_fires : Witnessed 0x24 (wantsArith false) (fun sh a _ _ => a.last = true ∧ sh.bank.accFull = true ∧ sh.bank.acc.length = 32) :=
  ⟨⟨0, 1, 0⟩, firing0 1 1 { rec0 0x24 1 with inA := 9 } { own := some lastOne, acc := List.replicate 32 0, accFull := true } id, _, _, _, _, _,
    ⟨rfl, rfl, rfl, ⟨_, _, rfl, rfl, rfl⟩⟩, rfl, rfl, rfl, rfl, rfl, rfl⟩

theorem test_accum_fires_inside : Witnessed 0x24 (wantsArith false) (fun sh a b _ => a.last = false ∧ sh.bank.accCount + 1 ≠ sh.cfg.fireCount ∧
    sh.bank.accFull = false ∧ (a.valid && (bToken sh b).valid) = true) :=
  ⟨⟨0, 1, 0⟩, firing0 1 1 (rec0 0x24 1) {} id, _, _, _, _, _, ⟨rfl, rfl, rfl, ⟨_, _, rfl, rfl, rfl⟩⟩, rfl, rfl, rfl, rfl, by decide, rfl, rfl⟩

theorem test_cmp_fires : Witnessed 0x27 (wantsArith false) (fun sh _ _ _ => sh.cfg.bHold = false) :=
  ⟨⟨0, 1, 0⟩, firing0 1 1 (rec0 0x27 33) {} id, _, _, _, _, _, ⟨rfl, rfl, rfl, ⟨_, _, rfl, rfl, rfl⟩⟩, rfl, rfl, rfl, rfl⟩

theorem test_reduce_fires : Witnessed 0x34 wantsOne (fun sh a _ _ => a.valid = true ∧ bits sh.cfg.mode 5 2 = 0) ∧
    Witnessed 0x34 wantsOne (fun sh a _ _ => a.valid = true ∧ bits sh.cfg.mode 5 2 = 1) ∧
    Witnessed 0x34 wantsOne (fun sh a _ _ => a.valid = true ∧ bits sh.cfg.mode 5 2 = 2) :=
  ⟨⟨⟨0, 1, 0⟩, firing0 1 1 (rec0 0x34 1) {} id, _, _, _, _, _, ⟨rfl, rfl, rfl, ⟨_, _, rfl, rfl, rfl⟩⟩, rfl, rfl, rfl, rfl, rfl⟩,
    ⟨⟨0, 1, 0⟩, firing0 1 1 (rec0 0x34 33) {} id, _, _, _, _, _, ⟨rfl, rfl, rfl, ⟨_, _, rfl, rfl, rfl⟩⟩, rfl, rfl, rfl, rfl, rfl⟩,
    ⟨⟨0, 1, 0⟩, firing0 1 1 (rec0 0x34 65) {} id, _, _, _, _, _, ⟨rfl, rfl, rfl, ⟨_, _, rfl, rfl, rfl⟩⟩, rfl, rfl, rfl, rfl, rfl⟩⟩

theorem test_rng_fires : Witnessed 0x32 (fun _ => (.no, .no, .no)) (fun _ _ _ _ => True) :=
  ⟨⟨0, 1, 0⟩, firing0 1 1 (rec0 0x32 1) {} id, _, _, _, _, _, ⟨rfl, rfl, rfl, ⟨_, _, rfl, rfl, rfl⟩⟩, rfl, rfl, rfl, trivial⟩

theorem test_cvt_fires : Witnessed 0x33 wantsCvt (fun sh _ _ _ => (fmtOf (bits sh.cfg.mode 0 5)).kind ≠ .raw ∧ sh.numeric.format ∈ List.range 11 ∧
    sh.numeric.format ≠ 0 ∧ ¬ perTokenOf sh.numeric.format ≤ 32) :=
  ⟨⟨0, 1, 0⟩, firing0 5 1 (rec0 0x33 1) {} id, _, _, _, _, _, ⟨rfl, rfl, rfl, ⟨_, _, rfl, rfl, rfl⟩⟩, rfl, rfl, rfl, by decide, by decide, by decide, by decide⟩

theorem test_cvt_fires_full : Witnessed 0x33 wantsCvt (fun sh _ _ _ => (fmtOf (bits sh.cfg.mode 0 5)).kind ≠ .raw ∧ sh.numeric.format ∈ List.range 11 ∧
    sh.numeric.format ≠ 0 ∧ perTokenOf sh.numeric.format ≤ 32) :=
  ⟨⟨0, 1, 0⟩, firing0 1 1 (rec0 0x33 2) {} id, _, _, _, _, _, ⟨rfl, rfl, rfl, ⟨_, _, rfl, rfl, rfl⟩⟩, rfl, rfl, rfl, by decide, by decide, by decide, by decide⟩

/-! ## Witnesses: matrix and steering units -/

theorem test_mstream_fires : Witnessed 0x10 wantsMatrix (fun sh a _ _ => a.valid = true ∧ chainPlace sh = 0 ∧ loads sh ∧ ¬ activates sh) :=
  ⟨⟨0, 2, 0⟩, firing0 1 2 { rec0 0x10 1 with panelTokens := 4, chainLen := 2 } {} id, _, _, _, _, _, ⟨rfl, rfl, rfl, ⟨_, _, rfl, rfl, rfl⟩⟩, rfl, rfl, rfl,
    rfl, rfl, ⟨by decide, Or.inr ⟨fun h => absurd h.2.1 (by decide), by decide⟩, fun h => h.2.elim (fun h => h rfl) (fun h => absurd h.2.1 (by decide))⟩,
    fun h => absurd h.2.1 (by decide)⟩

theorem test_mstream_activates : Witnessed 0x10 wantsMatrix (fun sh _ _ _ => chainPlace sh ≠ 0 ∧ sh.bank.chain.length = chainCount sh ∧ activates sh ∧ chainEnds sh) :=
  ⟨⟨0, 2, 0⟩, firing0 1 2 { rec0 0x10 1 with panelTokens := 1, chainLen := 2, fireCount := 8 }
    { fired := 1, shadow := [lastOne], chain := List.replicate 4 none } id, _, _, _, _, _, ⟨rfl, rfl, rfl, ⟨_, _, rfl, rfl, rfl⟩⟩, rfl, rfl, rfl,
    by decide, rfl, ⟨by decide, by decide, trivial⟩, by unfold chainEnds; decide⟩

theorem test_mstreamAcc_fires : Witnessed 0x11 wantsMatrix (fun sh a _ c => a.valid = true ∧ chainPlace sh = 0 ∧ sideToken sh c ≠ none) :=
  ⟨⟨0, 2, 0⟩, firing0 1 2 { rec0 0x11 1 with panelTokens := 4, chainLen := 1 } {} id, _, _, _, _, _, ⟨rfl, rfl, rfl, ⟨_, _, rfl, rfl, rfl⟩⟩, rfl, rfl, rfl,
    rfl, rfl, by unfold sideToken; decide⟩

theorem test_mstreamAcc_packs : Witnessed 0x11 wantsMatrix (fun sh _ _ _ => 32 ≤ sh.bank.packed.length + chainCount sh ∧ chainEnds sh) :=
  ⟨⟨0, 2, 0⟩, firing0 1 2 { rec0 0x11 1 with panelTokens := 4, chainLen := 1 } { packed := List.replicate 28 0 } id, _, _, _, _, _,
    ⟨rfl, rfl, rfl, ⟨_, _, rfl, rfl, rfl⟩⟩, rfl, rfl, rfl, by decide, by unfold chainEnds; decide⟩

theorem test_route_fires : Witnessed 0x40 wantsOne (fun _ a _ _ => a.valid = true) :=
  ⟨⟨0, 7, 0⟩, firing0 1 7 (rec0 0x40 0) {} id, _, _, _, _, _, ⟨rfl, rfl, rfl, ⟨_, _, rfl, rfl, rfl⟩⟩, rfl, rfl, rfl, rfl⟩

theorem test_select_fires : Witnessed 0x41 wantsControl (fun sh a b _ => InStep sh a b ∧ b.valid = true) ∧
    Witnessed 0x41 wantsControl (fun sh a b _ => ¬ InStep sh a b) :=
  ⟨⟨⟨0, 7, 0⟩, firing0 1 7 (rec0 0x41 0) {} id, _, _, _, _, _, ⟨rfl, rfl, rfl, ⟨_, _, rfl, rfl, rfl⟩⟩, rfl, rfl, rfl, by unfold InStep; decide, rfl⟩,
    ⟨⟨0, 7, 0⟩, firing0 1 7 { rec0 0x41 0 with beatOffset := 1 } {} id, _, _, _, _, _, ⟨rfl, rfl, rfl, ⟨_, _, rfl, rfl, rfl⟩⟩, rfl, rfl, rfl,
      by unfold InStep; decide⟩⟩

theorem test_filter_fires : Witnessed 0x42 wantsControl (fun sh a b _ => InStep sh a b ∧ (a.valid && b.valid) = true) :=
  ⟨⟨0, 7, 0⟩, firing0 1 7 (rec0 0x42 0) {} id, _, _, _, _, _, ⟨rfl, rfl, rfl, ⟨_, _, rfl, rfl, rfl⟩⟩, rfl, rfl, rfl, by unfold InStep; decide, rfl⟩

theorem test_compact_fires : Witnessed 0x43 wantsOne (fun _ a _ _ => a.valid = true) :=
  ⟨⟨0, 7, 0⟩, firing0 1 7 (rec0 0x43 0) {} id, _, _, _, _, _, ⟨rfl, rfl, rfl, ⟨_, _, rfl, rfl, rfl⟩⟩, rfl, rfl, rfl, rfl⟩

theorem test_count_fires : Witnessed 0x44 wantsOne (fun sh a _ _ => bit sh.cfg.mode 1 = true ∧ a.last = true) ∧
    Witnessed 0x44 wantsOne (fun sh a _ _ => bit sh.cfg.mode 1 = true ∧ a.last = false) ∧ Witnessed 0x44 wantsOne (fun sh _ _ _ => bit sh.cfg.mode 1 = false) :=
  ⟨⟨⟨0, 7, 0⟩, firing0 1 7 { rec0 0x44 2 with inA := 9 } { own := some lastOne } id, _, _, _, _, _, ⟨rfl, rfl, rfl, ⟨_, _, rfl, rfl, rfl⟩⟩, rfl, rfl, rfl, rfl, rfl⟩,
    ⟨⟨0, 7, 0⟩, firing0 1 7 (rec0 0x44 2) {} id, _, _, _, _, _, ⟨rfl, rfl, rfl, ⟨_, _, rfl, rfl, rfl⟩⟩, rfl, rfl, rfl, rfl, rfl⟩,
    ⟨⟨0, 7, 0⟩, firing0 1 7 (rec0 0x44 0) {} id, _, _, _, _, _, ⟨rfl, rfl, rfl, ⟨_, _, rfl, rfl, rfl⟩⟩, rfl, rfl, rfl, rfl⟩⟩

/-- Tile 0 with a steering unit's set operation, paired with an address unit that pulls two tokens of each stream. -/
def paired (op : Nat) (k : Bank) : State :=
  { firing0 1 7 (rec0 op 0) k id with
    job := some { job0 1 7 (rec0 op 0) with image := { (job0 1 7 (rec0 op 0)).image with
      sets := [{ seq := [0], folds := [[{ op := 0x60, span := 16, fireCount := 4, patA := { mode := 15, count0 := 2, count1 := 1 },
                                          patB := { mode := 15, count0 := 2, count1 := 1 } }] ++ List.replicate 6 { span := 16 } ++ [rec0 op 0]] }] } } }

/-- Hypotheses of a set operation: its output is merged, its keys are still to come, and all outputs have been produced. -/
def SetWitnessed (op : Nat) (p : Shot → Prop) : Prop :=
  ∃ f s sh, f.wf = true ∧ shot? f s = some sh ∧ sh.cfg.op = op ∧
    (sh.set.record (sh.u - 7) sh.f).patA.accesses + (sh.set.record (sh.u - 7) sh.f).patB.accesses = 4 ∧ p sh

theorem test_merge_fires : SetWitnessed 0x45 (fun sh => sh.bank.produced = 0 ∧ sh.bank.outs[sh.bank.produced]? = some lastOne.data) :=
  ⟨⟨0, 7, 0⟩, paired 0x45 { outs := [lastOne.data] }, _, rfl, rfl, rfl, by decide, rfl, rfl⟩

theorem test_union_owes : SetWitnessed 0x46 (fun sh => sh.bank.produced = 3 ∧ sh.bank.outs[sh.bank.produced]? = none) :=
  ⟨⟨0, 7, 0⟩, paired 0x46 { produced := 3 }, _, rfl, rfl, rfl, by decide, rfl, rfl⟩

theorem test_intersect_is_over : SetWitnessed 0x47 (fun sh => sh.bank.produced = 4) :=
  ⟨⟨0, 7, 0⟩, paired 0x47 { produced := 4 }, _, rfl, rfl, rfl, by decide, rfl⟩

/-- Hypotheses of the merge: sorted keys below the width, with tokens enough pulled, or not. -/
def MergeWitnessed (op : SetOp) (r : Record) : Prop :=
  ∃ (pull : Record) (k k' : Bank), r.setOp = op ∧ k.keysA.Pairwise (· ≤ ·) ∧ k.keysB.Pairwise (· ≤ ·) ∧
    (∀ x, x ∈ k.keysA ∨ x ∈ k.keysB → x < 2 ^ keyWidth r) ∧ k.outs.length < pull.patA.accesses + pull.patB.accesses ∧
    min (pull.patA.accesses + pull.patB.accesses) (8 + k.outs.length) ≤ k.pulledA + k.pulledB ∧ k' = ({ pulledA := 2, pulledB := 1 } : Bank) ∧
    ¬ min (pull.patA.accesses + pull.patB.accesses) (8 + k'.outs.length) ≤ k'.pulledA + k'.pulledB

theorem keys_small {w k : Nat} (hw : w = 65536) (h : k ∈ [1, 2] ∨ k ∈ [2, 5]) : k < w := by
  simp at h
  omega

/-- An address unit that pulls two tokens of each stream, and a bank with all four pulled. -/
def pull2 : Record := { patA := { mode := 15, count0 := 2, count1 := 1 }, patB := { mode := 15, count0 := 2, count1 := 1 } }
def two : Bank := { keysA := [1, 2], keysB := [2, 5], pulledA := 2, pulledB := 2 }

theorem test_keys_merge : MergeWitnessed .merge (rec0 0x45 0) ∧ MergeWitnessed .union (rec0 0x46 0) ∧ MergeWitnessed .intersect (rec0 0x47 0) :=
  ⟨⟨pull2, two, _, rfl, by decide, by decide, fun _ h => keys_small rfl h, by decide, by decide, rfl, by decide⟩,
   ⟨pull2, two, _, rfl, by decide, by decide, fun _ h => keys_small rfl h, by decide, by decide, rfl, by decide⟩,
   ⟨pull2, two, _, rfl, by decide, by decide, fun _ h => keys_small rfl h, by decide, by decide, rfl, by decide⟩⟩

/-! ## Witnesses: address units -/

/-- A record of an address unit whose stream A makes four accesses in a mode. -/
def acc0 (mode base : Nat) : Record :=
  { rec0 0x60 0 with patA := { mode := mode, baseLine := base, step0 := 1, count0 := 4, count1 := 1, budget := 5, maxProbes := 3 } }

theorem test_row_fires : WitnessedAccess 1 wantsNone (fun sh _ b _ => reachedCell 1 sh b 31 = some 31) ∧
    WitnessedAccess 2 wantsData (fun _ a _ _ => a.valid = true) :=
  ⟨⟨⟨0, 0, 0⟩, firing0 1 0 (acc0 1 0) {} id, _, _, _, _, _, canonical_firing0 _ _ _ _, ⟨rfl, rfl, rfl, rfl, rfl, ⟨_, _, rfl, rfl, rfl⟩⟩, rfl, rfl, rfl, rfl⟩,
    ⟨⟨0, 0, 0⟩, firing0 1 0 (acc0 2 0) {} id, _, _, _, _, _, canonical_firing0 _ _ _ _, ⟨rfl, rfl, rfl, rfl, rfl, ⟨_, _, rfl, rfl, rfl⟩⟩, rfl, rfl, rfl, rfl⟩⟩

theorem test_column_fires : WitnessedAccess 3 wantsNone (fun sh _ b _ => reachedCell 3 sh b 31 = some 2017) ∧
    WitnessedAccess 4 wantsData (fun _ a _ _ => a.valid = true) :=
  ⟨⟨⟨0, 0, 0⟩, firing0 1 0 (acc0 3 33) {} id, _, _, _, _, _, canonical_firing0 _ _ _ _, ⟨rfl, rfl, rfl, rfl, rfl, ⟨_, _, rfl, rfl, rfl⟩⟩, rfl, rfl, rfl, rfl⟩,
    ⟨⟨0, 0, 0⟩, firing0 1 0 (acc0 4 0) {} id, _, _, _, _, _, canonical_firing0 _ _ _ _, ⟨rfl, rfl, rfl, rfl, rfl, ⟨_, _, rfl, rfl, rfl⟩⟩, rfl, rfl, rfl, rfl⟩⟩

theorem test_strided_fires : WitnessedAccess 5 wantsNone (fun sh _ b _ => reachedCell 5 sh b 31 = some 31) ∧
    WitnessedAccess 6 wantsData (fun _ a _ _ => a.valid = true) :=
  ⟨⟨⟨0, 0, 0⟩, firing0 1 0 (acc0 5 0) {} id, _, _, _, _, _, canonical_firing0 _ _ _ _, ⟨rfl, rfl, rfl, rfl, rfl, ⟨_, _, rfl, rfl, rfl⟩⟩, rfl, rfl, rfl, rfl⟩,
    ⟨⟨0, 0, 0⟩, firing0 1 0 (acc0 6 0) {} id, _, _, _, _, _, canonical_firing0 _ _ _ _, ⟨rfl, rfl, rfl, rfl, rfl, ⟨_, _, rfl, rfl, rfl⟩⟩, rfl, rfl, rfl, rfl⟩⟩

theorem test_indexed_row_fires : WitnessedAccess 7 wantsIndex (fun sh _ b _ => reachedCell 7 sh b 31 = none) ∧
    WitnessedAccess 8 wantsBoth (fun _ a b _ => (a.valid && b.valid) = true) :=
  ⟨⟨⟨0, 0, 0⟩, firing0 1 0 (acc0 7 0) {} id, _, _, _, _, _, canonical_firing0 _ _ _ _, ⟨rfl, rfl, rfl, rfl, rfl, ⟨_, _, rfl, rfl, rfl⟩⟩, rfl, rfl, rfl, rfl⟩,
    ⟨⟨0, 0, 0⟩, firing0 1 0 (acc0 8 0) {} id, _, _, _, _, _, canonical_firing0 _ _ _ _, ⟨rfl, rfl, rfl, rfl, rfl, ⟨_, _, rfl, rfl, rfl⟩⟩, rfl, rfl, rfl, rfl⟩⟩

theorem test_gather_scatter_fire : WitnessedAccess 9 wantsIndex (fun sh _ b _ => reachedCell 9 sh b 0 = some 257) ∧
    WitnessedAccess 10 wantsBoth (fun _ a b _ => (a.valid && b.valid) = true) :=
  ⟨⟨⟨0, 0, 0⟩, firing0 1 0 (acc0 9 0) {} id, _, _, _, _, _, canonical_firing0 _ _ _ _, ⟨rfl, rfl, rfl, rfl, rfl, ⟨_, _, rfl, rfl, rfl⟩⟩, rfl, rfl, rfl, rfl⟩,
    ⟨⟨0, 0, 0⟩, firing0 1 0 (acc0 10 0) {} id, _, _, _, _, _, canonical_firing0 _ _ _ _, ⟨rfl, rfl, rfl, rfl, rfl, ⟨_, _, rfl, rfl, rfl⟩⟩, rfl, rfl, rfl, rfl⟩⟩

/-- A table of 16 entries of 16-bit keys at line 0. -/
theorem test_probe_fires : ∃ f s sh a b e t, Accesses 11 wantsIndex f s sh a b e t ∧ b.data.length = 64 ∧ b.valid = true ∧
    TableFits sh (tableHead sh t).1 (tableHead sh t).2 :=
  ⟨⟨0, 0, 0⟩, firing0 1 0 (acc0 11 0) {} (fun t => { t with pad := [⟨0, 4⟩] }), _, _, _, _, _, ⟨rfl, rfl, rfl, rfl, rfl, ⟨_, _, rfl, rfl, rfl⟩⟩, rfl, rfl,
    by unfold TableFits; decide⟩

theorem test_append_fires : WitnessedAccess 12 wantsData (fun sh a _ _ => a.valid = true ∧
    32 * sh.pattern.baseLine + sh.stream.offset + 2 / 2 * (liveOf 2 a.data).length ≤ 32 * (sh.task.dataTrays * 32)) :=
  ⟨⟨0, 0, 0⟩, firing0 1 0 (acc0 12 63) {} id, _, _, _, _, _, canonical_firing0 _ _ _ _, ⟨rfl, rfl, rfl, rfl, rfl, ⟨_, _, rfl, rfl, rfl⟩⟩, rfl, rfl, rfl, rfl, by decide⟩

theorem test_append_overruns : WitnessedAccess 12 wantsData (fun sh a _ _ => a.valid = true ∧ liveOf 2 a.data ≠ [] ∧
    32 * (sh.task.dataTrays * 32) < 32 * sh.pattern.baseLine + sh.stream.offset + 2 / 2 * (liveOf 2 a.data).length) :=
  ⟨⟨0, 0, 0⟩, firing0 1 0 (acc0 12 63) { streamA := { offset := 1 } } id, _, _, _, _, _, canonical_firing0 _ _ _ _,
    ⟨rfl, rfl, rfl, rfl, rfl, ⟨_, _, rfl, rfl, rfl⟩⟩, rfl, rfl, rfl, rfl, by decide, by decide⟩

theorem test_send_fires : WitnessedAccess 13 wantsSend (fun sh _ _ _ => messageToken sh = 0 ∧ messageToken sh = sh.pattern.msgTokens) :=
  ⟨⟨0, 0, 0⟩, firing0 1 0 (acc0 13 0) {} id, _, _, _, _, _, canonical_firing0 _ _ _ _, ⟨rfl, rfl, rfl, rfl, rfl, ⟨_, _, rfl, rfl, rfl⟩⟩, rfl, rfl, rfl, rfl, rfl⟩

theorem test_send_goes_on : WitnessedAccess 13 wantsSend (fun sh a _ _ => a.valid = true ∧ messageToken sh = 1 ∧ messageToken sh ≠ sh.pattern.msgTokens) :=
  ⟨⟨0, 0, 0⟩, firing0 1 0 { acc0 13 0 with patA := { (acc0 13 0).patA with msgTokens := 2 } } { streamA := { access := 1 } } id, _, _, _, _, _, canonical_firing0 _ _ _ _,
    ⟨rfl, rfl, rfl, rfl, rfl, ⟨_, _, rfl, rfl, rfl⟩⟩, rfl, rfl, rfl, rfl, rfl, by decide⟩

/-- A ring of 4 KiB from pad byte 0 with one message of 4 bytes from task 3, at its first token and at its second. -/
theorem test_take_fires : (∃ f s sh a b e t off, Accesses 14 wantsNone f s sh a b e t ∧ messageToken sh = 0 ∧
      FirstInTakeOrder (t.ring sh.pattern.queue) off ∧ sh.pattern.queue < t.rings.length) ∧
    ∃ f s sh a b e t off, Accesses 14 wantsNone f s sh a b e t ∧ messageToken sh ≠ 0 ∧ sh.stream.takeAt = some off ∧ sh.pattern.queue < t.rings.length :=
  ⟨⟨⟨0, 0, 0⟩, firing0 1 0 (acc0 14 0) {} (fun t => { t with pad := [⟨0, 4⟩, ⟨2, 3⟩, ⟨16, 9⟩], rings := [{ size := 1, wr := 2, msgs := 1, order := [0] }] }), _, _, _, _, _,
      0, ⟨rfl, rfl, rfl, rfl, rfl, ⟨_, _, rfl, rfl, rfl⟩⟩, rfl, ⟨[], [], rfl, by simp, by decide⟩, by decide⟩,
    ⟨⟨0, 0, 0⟩, firing0 1 0 { acc0 14 0 with patA := { (acc0 14 0).patA with msgTokens := 1 } } { streamA := { access := 1, takeAt := some 0 } }
        (fun t => { t with rings := [{ size := 1, wr := 2, msgs := 1 }] }), _, _, _, _, _, 0, ⟨rfl, rfl, rfl, rfl, rfl, ⟨_, _, rfl, rfl, rfl⟩⟩, by decide, rfl, by decide⟩⟩

theorem test_pull_fires : WitnessedAccess 15 wantsNone (fun sh _ _ _ => (0 : Int) ≤ sh.cfg.patA.baseLine ∧ (sh.cfg.patA.baseLine : Int) < sh.task.dataTrays * 32) :=
  ⟨⟨0, 0, 0⟩, firing0 1 0 (acc0 15 63) {} id, _, _, _, _, _, canonical_firing0 _ _ _ _, ⟨rfl, rfl, rfl, rfl, rfl, ⟨_, _, rfl, rfl, rfl⟩⟩, rfl, rfl, rfl, by decide, by decide⟩

/-! ## Witnesses: what every firing does -/

/-- A firing whose output leads to the unit east of it. -/
theorem test_output_has_a_channel : ∃ (sh : Shot) (r : Fired) (o : List Byte × Bool × Bool) (u side lat : Nat), r.out0 = some o ∧
    outChannel sh.u sh.cfg.out0 = some (.neighbour u side, lat) ∧ shot? ⟨0, 1, 0⟩ (firing0 1 1 (rec0 0x20 1) {} id) = some sh :=
  ⟨_, { bank := {}, tile := {}, out0 := some ([], true, false) }, _, _, _, _, rfl, rfl, rfl⟩

/-- A weave command that answers a next state. -/
theorem test_weave_command_runs : ∃ t, exec (.rng ⟨0, 1, 0⟩) (firing0 1 1 (rec0 0x32 1) {} id) = .next t := ⟨_, rfl⟩

/-- An input that is not due, and one of an older configuration. -/
theorem test_absent_and_stale : (∃ f s sh t', f.wf = true ∧ shot? f s = some sh ∧ sh.cfg.op = 0x20 ∧
      fetch sh sh.cfg.inA (wantsArith true sh).1 (s.tile sh.p) = .absent t') ∧
    (∃ f s sh t', f.wf = true ∧ shot? f s = some sh ∧ sh.cfg.op = 0x20 ∧ fetch sh sh.cfg.inA (wantsArith true sh).1 (s.tile sh.p) = .stale t') :=
  ⟨⟨⟨0, 1, 0⟩, firing0 1 1 { rec0 0x20 1 with inA := 1 } {} id, _, _, rfl, rfl, rfl, rfl⟩,
    ⟨⟨0, 1, 0⟩, firing0 1 1 { rec0 0x20 1 with inA := 1 } {} (fun t => { t with channels := [(.neighbour 1 1, [{ avail := 0, token := { epoch := 1 } }])] }), _, _,
      rfl, rfl, rfl, rfl⟩⟩

/-- The second and the third input are not due. -/
theorem test_absent_b_and_c : (∃ f s sh a t1 t', f.wf = true ∧ shot? f s = some sh ∧ sh.cfg.op = 0x20 ∧
      fetch sh sh.cfg.inA (wantsArith true sh).1 (s.tile sh.p) = .got a t1 ∧ fetch sh sh.cfg.inB (wantsArith true sh).2.1 t1 = .absent t') ∧
    (∃ f s sh a b t1 t2 t', f.wf = true ∧ shot? f s = some sh ∧ sh.cfg.op = 0x20 ∧ fetch sh sh.cfg.inA (wantsArith true sh).1 (s.tile sh.p) = .got a t1 ∧
      fetch sh sh.cfg.inB (wantsArith true sh).2.1 t1 = .got b t2 ∧ fetch sh sh.cfg.inC (wantsArith true sh).2.2 t2 = .absent t') :=
  ⟨⟨⟨0, 1, 0⟩, firing0 1 1 { rec0 0x20 1 with inB := 1 } {} id, _, _, _, _, rfl, rfl, rfl, rfl, rfl⟩,
    ⟨⟨0, 1, 0⟩, firing0 1 1 { rec0 0x20 1 with inC := 1 } {} id, _, _, _, _, _, _, rfl, rfl, rfl, rfl, rfl, rfl⟩⟩

/-- Codes of the narrowest and of an 8-bit format that hold finite values, at the ends of their ranges. -/
theorem test_held_codes : (∃ n m e, decode 1 0x3F80 = .fin n m e) ∧ (∃ n m e, decode 16 127 = .fin n m e ∧ (127 : Nat) ≠ 128) ∧ (∃ n m e, decode 5 255 = .fin n m e) :=
  ⟨⟨_, _, _, rfl⟩, ⟨_, _, _, rfl, by decide⟩, ⟨_, _, _, rfl⟩⟩

/-- The sum of two zeros is an exact zero. -/
theorem test_exact_zero : ∃ n e, (Exact.fin true 0 0).add (.fin true 0 0) = .fin n 0 e := ⟨_, _, rfl⟩

/-! ## Small states for the tick -/

/-- A job of two tasks: both fill two lines of loaf 0 and drain two of loaf 1; the second may be stolen. Loaves 0 and 1 are declared. -/
def job1 : Job :=
  { started := true
    decls := [{ count := 2, tensor := 0 }]
    image := {
      taskCount := 2, tensorCount := 1, numerics := [{ format := 1 }], sets := [{ seq := [0], folds := [[]] }, { seq := [0], folds := [[]] }]
      lists := [1] ++ List.replicate 15 0 ++ [0, 0, 0, 0, 32] ++ List.replicate 11 0 ++ [1] ++ List.replicate 15 0 ++ [1, 0, 0, 0, 32] ++ List.replicate 11 0
      tasks := [{ weaveCycles := 64, dataTrays := 2, fillList := 0, drainList := 2, affinity := 1 },
                { weaveCycles := 64, dataTrays := 2, fillList := 0, drainList := 2, configSet := 1, stealable := true }] } }

/-- A running attempt in its run phase, with some tiles; logical tiles 0 to 3 are physical tiles 0 to 3. -/
def runS (ts : List (Nat × Tile)) : State :=
  { State.reset with
    dev := { State.reset.dev with state := .running }
    job := some job1
    att := { running := true, serial := 1, phase := .run, admitted := [{ task := 0, tile := 0, endAt := 100000 }, { task := 1, tile := 1, endAt := 100000 }] }
    tests := { State.reset.tests with tileMap := [0, 1, 2, 3] }
    tiles := ts }

theorem canonical_runS (ts : List (Nat × Tile)) (h : ∀ x ∈ ts, Memory.wf x.2.pad = true) : CanonicalMemory (runS ts) := ⟨h, rfl, by simp [runS, State.reset]⟩

/-- Task 0 on a tile, in a phase. -/
def running (ph : TaskPhase) : TaskRun := { task := 0, phase := ph }

/-! ## Witnesses: the step and the recorder -/

theorem test_reset_is_sound : ∃ s : State, ∃ t c, Sound s ∧ s.pending = [c] ∧ step s = .next t :=
  ⟨{ State.reset with pending := [.timeUtcTick] }, _, .timeUtcTick, ⟨⟨by simp [State.reset], rfl, by simp [State.reset]⟩, ⟨by decide, by decide, by decide, by simp [State.reset],
    by simp [State.reset], by decide, by decide⟩⟩, rfl, rfl⟩

theorem test_command_names_a_unit : (Instr.patrolLine 0x4000 2047 .clean).wf = true ∧ State.reset.hasUnits (.patrolLine 0x4000 2047 .clean) = true := by decide

theorem test_ring_has_room : State.reset.evt.ring.length < 65536 ∧ (Raise.of .hbmUe .device 0 0 0 0).sev.severe = true := by decide

/-- A stored record of a condition. -/
def stored0 (c : Cond) : EventRec := { seq := 1, tick := 0, cycle := 0, raised := Raise.of c .device 0 0 0 0 }

/-- A state whose ring holds 65,536 times one record. -/
def fullRing (e : EventRec) : State := { State.reset with evt := { State.reset.evt with ring := List.replicate 65536 e } }

/-- A full ring of notes, and a severe record that overwrites the oldest of them. -/
theorem test_full_ring : ∃ (s : State) (r : Raise) (v : EventRec), 65536 ≤ s.evt.ring.length ∧ v ∈ s.evt.ring ∧ Severity.code r.sev ≤ Severity.code v.raised.sev ∧
    ∀ x ∈ s.evt.ring, Severity.code r.sev ≤ Severity.code x.raised.sev → v.seq ≤ x.seq :=
  ⟨fullRing (stored0 .dirEccCe), Raise.of .hbmUe .device 0 0 0 0, stored0 .dirEccCe, Nat.le_of_eq List.length_replicate.symm, List.mem_replicate.mpr ⟨by decide, rfl⟩,
    by decide, fun _ h _ => (List.mem_replicate.mp h).2 ▸ Nat.le_refl _⟩

/-- A full ring in which every record is more severe than a note. -/
theorem test_full_ring_severe : ∃ (s : State) (r : Raise), 65536 ≤ s.evt.ring.length ∧ ∀ x ∈ s.evt.ring, Severity.code x.raised.sev < Severity.code r.sev :=
  ⟨fullRing (stored0 .memLost), Raise.of .dirEccCe .device 0 0 0 0, Nat.le_of_eq List.length_replicate.symm,
    fun _ h => (List.mem_replicate.mp h).2 ▸ (by decide : Severity.code (stored0 .memLost).raised.sev < Severity.code (Raise.of .dirEccCe .device 0 0 0 0).sev)⟩

/-! ## Witnesses: tasks and fills -/

theorem test_taskBegin_idle : ∃ s : State, ∃ p k q, p < 1152 ∧ (s.tile p).deque = k :: q ∧ s.inAttempt = true ∧ s.att.broadcast = false ∧ (s.tile p).fenced = false ∧
    (s.tile p).current = none ∧ (s.tile p).runAhead = none :=
  ⟨runS [(1151, { deque := [0] })], 1151, 0, [], by decide⟩

theorem test_taskBegin_behind : ∃ s : State, ∃ p k q r, p < 1152 ∧ (s.tile p).deque = k :: q ∧ s.inAttempt = true ∧ s.att.broadcast = false ∧ (s.tile p).fenced = false ∧
    (s.tile p).current = some r ∧ (s.tile p).runAhead = none ∧ s.fitTogether r.task k = true :=
  ⟨runS [(0, { deque := [1], current := some (running .firing) })], 0, 1, [], running .firing, by decide⟩

theorem test_taskBegin_waits : ∃ s : State, ∃ p k q r, p < 1152 ∧ (s.tile p).deque = k :: q ∧ s.inAttempt = true ∧ s.att.broadcast = false ∧ (s.tile p).fenced = false ∧
    (s.tile p).current = some r ∧ (s.tile p).runAhead = none ∧ s.fitTogether r.task k = false :=
  ⟨{ runS [(0, { deque := [1], current := some (running .firing) })] with
    job := some { job1 with image := { job1.image with tasks := [{ dataTrays := 96 }, { dataTrays := 1 }] } } }, 0, 1, [], running .firing, by decide⟩

theorem test_taskBegin_takes_over : ∃ s : State, ∃ p k q r, p < 1152 ∧ (s.tile p).deque = k :: q ∧ s.inAttempt = true ∧ s.att.broadcast = false ∧ (s.tile p).fenced = false ∧
    (s.tile p).current = none ∧ (s.tile p).runAhead = some r ∧ r.task = k ∧ r.undeclared = none ∧ r.withdrawn = [] :=
  ⟨runS [(0, { deque := [0], runAhead := some { running .filling with ahead := true } })], 0, 0, [], { running .filling with ahead := true }, by decide⟩

/-- Task 0 with line 1 of its first entry on its way, and the request of that line, which lies in frame 5, for a tile and its task. -/
def fillR (task : Nat) : TaskRun := { task := task, fills := [(0, 1)], nextEntry := 1 }

def fillReq (tile task : Nat) : SliceReq := { tile := tile, task := task, fill := (0, 1), frame := 5, j := 1, port := inboundPort tile 0 5 1 }

/-- Tiles 0 and 1 with their runs; the committed version of loaf 0 in a frame, with a backing copy; requests wait at slice 6. -/
def fillS (f back : Nat) (qs : List SliceReq) : State :=
  { runS [(0, { current := some (fillR 0) }), (1, { current := some (fillR 1) })] with
    mem := { State.reset.mem with dir := [(0, { frameC := f })], slices := [(f, { loaf := 0, back := back })], sliceQueues := [(6, qs)] } }

/-- The hypotheses of a line's return in one of those states, with the reads that its array read serves. -/
def FillWitnessed (f : Nat) (s : State) (b : List SliceReq) : Prop :=
  OnItsWay s 0 (fillR 0) (0, 1) ∧ CanonicalMemory s ∧ ((s.image.fills (s.task 0)).getD 0 {}).target (s.tile 0).pad 0 1 = 1 ∧
    ((s.image.fills (s.task 0)).getD 0 {}).loaf = 0 ∧ s.declared 0 = some { count := 2, tensor := 0 } ∧ s.readFrame 0 0 = f ∧ s.committedFrame 0 = f ∧
    servedWith (look [] (RequestOf s 0 (fillR 0) (0, 1) f 1).1 s.mem.sliceQueues) (RequestOf s 0 (fillR 0) (0, 1) f 1).2 = b

theorem fillS_way (f back : Nat) (qs : List SliceReq) : OnItsWay (fillS f back qs) 0 (fillR 0) (0, 1) ∧ CanonicalMemory (fillS f back qs) :=
  ⟨⟨rfl, by simp [fillR], rfl, fun _ h => (by cases h), .inr (show (job1.image.fills (job1.image.tasks.getD 0 {})).length ≤ 1 by decide)⟩, by simp [fillS, runS, Memory.wf, Memory.wfAbove], rfl, by simp [fillS, runS, State.reset]⟩

theorem test_fillLineReturn_slice : FillWitnessed 5 (fillS 5 noFrame [fillReq 0 0]) [fillReq 0 0] ∧ (look {} 5 (fillS 5 noFrame []).mem.slices).back = noFrame ∧
    FillWitnessed 5 (fillS 5 20000 [fillReq 0 0]) [fillReq 0 0] ∧ (look {} 5 (fillS 5 20000 []).mem.slices).back ≠ noFrame :=
  ⟨⟨(fillS_way _ _ _).1, (fillS_way _ _ _).2, by decide, by decide, by decide, by decide, by decide, by decide⟩, by decide,
    ⟨(fillS_way _ _ _).1, (fillS_way _ _ _).2, by decide, by decide, by decide, by decide, by decide, by decide⟩, by decide⟩

theorem test_fillLineReturn_combined : FillWitnessed 5 (fillS 5 noFrame [fillReq 0 0, fillReq 1 1]) [fillReq 0 0, fillReq 1 1] ∧
    ([fillReq 0 0, fillReq 1 1].map (·.tile)).Nodup ∧ OnItsWay (fillS 5 noFrame [fillReq 0 0, fillReq 1 1]) 1 (fillR 1) (0, 1) :=
  ⟨⟨(fillS_way _ _ _).1, (fillS_way _ _ _).2, by decide, by decide, by decide, by decide, by decide, by decide⟩, by decide,
    ⟨rfl, by simp [fillR], rfl, fun _ h => (by cases h), .inr (by decide)⟩⟩

theorem test_fillLineReturn_waits : FillWitnessed 5 (fillS 5 noFrame []) [] :=
  ⟨(fillS_way _ _ _).1, (fillS_way _ _ _).2, by decide, by decide, by decide, by decide, by decide, by decide⟩

theorem test_fillLineReturn_external : FillWitnessed 14336 (fillS 14336 noFrame []) [] :=
  ⟨(fillS_way _ _ _).1, (fillS_way _ _ _).2, by decide, by decide, by decide, by decide, by decide, by decide⟩

theorem test_fillLineReturn_undeclared : OnItsWay { fillS 5 noFrame [] with job := some { job1 with decls := [] } } 0 (fillR 0) (0, 1) ∧
    CanonicalMemory { fillS 5 noFrame [] with job := some { job1 with decls := [] } } ∧
    ({ fillS 5 noFrame [] with job := some { job1 with decls := [] } } : State).declared 0 = none ∧ (fillR 0).undeclared = none :=
  ⟨⟨rfl, by simp [fillR], rfl, fun _ h => (by cases h), .inr (by decide)⟩,
    ⟨by simp [fillS, runS, Memory.wf, Memory.wfAbove], rfl, by simp [fillS, runS, State.reset]⟩, by decide, by decide⟩

theorem test_fillListComplete : ∃ s : State, ∃ p r, p < 1152 ∧ (s.tile p).current = some r ∧ r.phase = .filling ∧ r.fills = [] ∧ r.withdrawn = [] ∧
    (s.image.fills (s.task r.task)).length ≤ r.nextEntry :=
  ⟨runS [(0, { current := some { running .filling with nextEntry := 1 } })], 0, { running .filling with nextEntry := 1 }, by decide⟩

theorem test_runAheadFillIssue : ∃ s : State, ∃ p k, p < 1152 ∧ s.nextFor p = some k ∧ s.inAttempt = true ∧ s.att.phase ≠ .commit ∧ (s.tile p).deque = [] ∧ s.aheadAllowed k = true ∧
    (s.tile p).current = none ∧ (s.tile p).runAhead = none :=
  ⟨{ runS [] with att := { (runS []).att with admitted := [], provisional := [{ task := 1, tile := 0 }] } }, 0, 1, by decide⟩

theorem test_configLoad : ∃ s : State, ∃ p r, p < 1152 ∧ (s.tile p).current = some r ∧ (s.tile p).weaveIdle = true ∧ (s.tile p).resident ≠ some (s.task r.task).configSet :=
  ⟨runS [(0, { current := some (running .filled) })], 0, running .filled, by decide⟩

theorem test_configLoad_parity : ∃ s : State, ∃ p r, p < 1152 ∧ (s.tile p).current = some r ∧ (s.tile p).weaveIdle = true ∧ (s.tile p).resident ≠ some (s.task r.task).configSet ∧
    ¬ HoldsSet (s.tile p) (s.task r.task).configSet ∧ (s.task r.task).configSet ∈ s.mem.configs :=
  ⟨{ runS [(0, { current := some (running .filled) })] with mem := { State.reset.mem with configs := [0] } }, 0, running .filled,
    by decide, by decide, by decide, by decide, fun h => h.elim (by decide) (by decide), by decide⟩

theorem test_runAheadConfigLoad : ∃ s : State, ∃ p k, p < 1152 ∧ s.nextFor p = some k ∧ s.inAttempt = true ∧ s.att.phase ≠ .commit ∧
    ¬ ((s.tile p).slot0 = some (s.task k).configSet ∨ (s.tile p).slot1 = some (s.task k).configSet) :=
  ⟨{ runS [] with att := { (runS []).att with provisional := [{ task := 1, tile := 0 }] } }, 0, 1, by decide⟩

theorem test_runAheadConfigLoad_activates : ∃ s : State, ∃ p k, p < 1152 ∧ s.nextFor p = some k ∧ s.inAttempt = true ∧ s.att.phase ≠ .commit ∧
    ((s.tile p).slot0 = some (s.task k).configSet ∨ (s.tile p).slot1 = some (s.task k).configSet) ∧ (s.tile p).current = none ∧ (s.tile p).deque = [] ∧
    channelsEmpty (s.tile p) = true ∧ (s.tile p).resident ≠ some (s.task k).configSet :=
  ⟨{ runS [(0, { slot1 := some 1 })] with att := { (runS []).att with provisional := [{ task := 1, tile := 0 }] } }, 0, 1, by decide⟩

theorem test_weaveStart : ∃ s : State, ∃ p r, p < 1152 ∧ (s.tile p).current = some r ∧ r.phase = .filled ∧ s.inAttempt = true ∧ s.att.phase = .run ∧ s.att.broadcast = false ∧
    (s.tile p).fenced = false ∧ (s.tile p).resident = some (s.task r.task).configSet ∧ (s.tile p).configBad = false ∧ unmetQueues s (s.tile p) r.task = [] :=
  ⟨runS [(0, { current := some (running .filled), resident := some 0 })], 0, running .filled, by decide⟩

/-! ## Witnesses: the end of a task, messages, stealing -/

theorem test_weaveHoldLimit : ∃ s : State, ∃ p r, p < 1152 ∧ (s.tile p).current = some r ∧ r.phase = .firing ∧ 64 ≤ (s.tile p).weave.holding :=
  ⟨runS [(0, { current := some (running .firing), weave := { holding := 64 } })], 0, running .firing, by decide⟩

theorem test_schedDeviation : ∃ s : State, ∃ p r n, p < 1152 ∧ (s.tile p).current = some r ∧ r.phase = .firing ∧ n ≠ (s.task r.task).weaveCycles :=
  ⟨runS [(0, { current := some (running .firing) })], 0, running .firing, 65, by decide⟩

theorem test_weaveDrainEnd_held : ∃ s : State, ∃ p r, p < 1152 ∧ (s.tile p).current = some r ∧ s.weaveEnded (s.tile p) r = true ∧ channelsEmpty (s.tile p) = true ∧
    WritesInTime s (s.tile p) r ∧ (s.tile p).weave.held ≠ 0 :=
  ⟨runS [(0, { current := some (running .firing), weave := { held := 1 } })], 0, running .firing, by unfold WritesInTime; decide⟩

theorem test_weaveDrainEnd_broadcast : ∃ s : State, ∃ p r, p < 1152 ∧ (s.tile p).current = some r ∧ s.weaveEnded (s.tile p) r = true ∧ channelsEmpty (s.tile p) = true ∧
    WritesInTime s (s.tile p) r ∧ (s.tile p).weave.held = 0 ∧ s.att.broadcast = true :=
  ⟨{ runS [(0, { current := some (running .firing) })] with att := { (runS []).att with broadcast := true } }, 0, running .firing, by unfold WritesInTime; decide⟩

theorem test_drainTimeout : ∃ s : State, ∃ p r, p < 1152 ∧ (s.tile p).current = some r ∧ s.weaveEnded (s.tile p) r = true ∧ channelsEmpty (s.tile p) = false :=
  ⟨runS [(0, { current := some (running .firing), channels := [(.neighbour 1 1, [{ avail := 0, token := {} }])] })], 0, running .firing, by decide⟩

theorem test_drainTimeout_writes : ∃ s : State, ∃ p r, p < 1152 ∧ (s.tile p).current = some r ∧ s.weaveEnded (s.tile p) r = true ∧ ¬ WritesInTime s (s.tile p) r :=
  ⟨runS [(0, { current := some (running .firing), weave := { writesUntil := 70000 } })], 0, running .firing, by unfold WritesInTime; decide⟩

theorem test_drainComplete : ∃ s : State, ∃ p r n, p < 1152 ∧ (s.tile p).current = some r ∧ r.phase = .draining ∧ (s.tile p).runAhead = some n ∧ n.ahead = false ∧
    (s.task r.task).affinity ≠ 0 ∧ s.logical? p = some 3 :=
  ⟨runS [(3, { current := some (running .draining), runAhead := some { running .filled with task := 1 } })], 3, running .draining, { running .filled with task := 1 }, by decide⟩

/-- Task 0 drains two lines of loaf 1, whose pending version is in an external frame. -/
def draining : State :=
  { runS [(0, { current := some (running .firing) })] with mem := { State.reset.mem with dir := [(1, { frameC := 20000, frameP := 20001, ptag := 1 })] } }

theorem test_weaveDrainEnd : ∃ p r e f d, (p < 1152 ∧ (draining.tile p).current = some r ∧ draining.weaveEnded (draining.tile p) r = true ∧
      channelsEmpty (draining.tile p) = true ∧ (draining.tile p).weave.held = 0 ∧ draining.att.broadcast = false) ∧ WritesInTime draining (draining.tile p) r ∧
    (draining.image.drains (draining.task r.task) = [e] ∧ e.kind = 0 ∧ e.line + e.count ≤ 2048 ∧ isTray (draining.numericOf e.tensor).format = false ∧
      isMx (draining.numericOf e.tensor).format = false) ∧
    (draining.declared e.loaf = some d ∧ d.hostIn = false ∧ draining.proxyOf e.loaf = none ∧ draining.pendingFrame e.loaf = some f ∧ 14336 ≤ f) ∧
    (∀ k, look? (e.loaf, k) draining.mem.writers = none) ∧ (∀ k, look? (e.loaf, k) draining.mem.byteWriters = none) ∧ CanonicalMemory draining :=
  ⟨0, running .firing, { loaf := 1, count := 2 }, 20001, { count := 2 }, by decide, by unfold WritesInTime; decide, by decide, by decide, fun _ => rfl, fun _ => rfl,
    ⟨by simp [draining, runS, Memory.wf, Memory.wfAbove], rfl, by simp [draining, runS, State.reset]⟩⟩

theorem test_errorReport : ∃ (s : State) (x : Raise) (l : List Raise) (p : Nat), s.att.reports = x :: l ∧ s.inAttempt = true ∧ s.att.phase ≠ .margin ∧ (x.cls = .replay ∨ x.cls = .job) ∧
    x.src = .tile p ∧ x.cond ∉ [.scaleExhausted, .steerSkew, .schedDeviation, .padParity, .sliceParity, .drainTimeout] ∧ s.evt.ring.length < 65535 :=
  ⟨{ runS [] with att := { (runS []).att with reports := [Raise.of .indexRange (.tile 0) 0 0 0 0] } }, Raise.of .indexRange (.tile 0) 0 0 0 0, [], 0, by decide⟩

theorem test_errorReport_repeat : ∃ (s : State) (x : Raise) (l : List Raise) (p n : Nat), s.att.reports = x :: l ∧ s.inAttempt = true ∧ (x.cond = .schedDeviation ∨ x.cond = .steerSkew) ∧ x.cls = .replay ∧
    x.src = .tile p ∧ look? (p, x.cond) s.tests.struck = some n ∧ s.time.tick ≤ n + 1000 ∧ s.tests.reset = none ∧ ∀ y ∈ s.tests.retiring, y.1 ≠ p :=
  ⟨{ runS [] with
    tests := { (runS []).tests with struck := [((0, .schedDeviation), 0)] }
    att := { (runS []).att with reports := [Raise.of .schedDeviation (.tile 0) 0 0 0 0] }, time := { State.reset.time with tick := 1000 } },
    Raise.of .schedDeviation (.tile 0) 0 0 0 0, [], 0, 0, by decide⟩

theorem test_failureBroadcast : ∃ s : State, s.inAttempt = true ∧ s.att.failed = true ∧ s.att.broadcast = false :=
  ⟨{ runS [] with att := { (runS []).att with failed := true, phase := .margin } }, by decide⟩

theorem test_runPhaseOpen : ∃ s : State, s.inAttempt = true ∧ s.att.phase = .commit := ⟨{ runS [] with att := { (runS []).att with phase := .commit } }, by decide⟩

/-- Two blocked senders wait for each other's rings, as they did a slot before. -/
theorem test_marginOpen : ∃ s : State, s.inAttempt = true ∧ s.att.phase = .run ∧
    ((s.tiles.map (·.1)).map (fun p => cyclesThrough (((s.tiles.map (·.1)).map (waitEdges s)).flatten) p (s.tiles.map (·.1)).length p [])).flatten ≠ [] :=
  ⟨runS [(0, { current := some (running .sending), blockedSend := some (1, 0) }), (1, { current := some { running .sending with task := 1 }, blockedSend := some (0, 0) })],
    by decide +kernel⟩

/-- Tile 0 sends a message of one staging line to task 1 on tile 1; its ring there is `g`. -/
def outbound : TaskRun := { running .sending with messages := [{ destTask := 1, queue := 0, seq := 0, lines := [3] }] }

def senders (blocked : Option (Nat × Nat)) (g : Ring) : State :=
  { runS [(0, { current := some outbound, blockedSend := blocked }), (1, { current := some { running .filling with task := 1 }, rings := [g] })] with
    job := some { job1 with image := { job1.image with tasks := job1.image.tasks.map (fun k => { k with gang := 1 }) } } }

/-- The hypotheses of a write to a ring: the sender's message is the one that the ring's arbiter decides for. -/
def SendWitnessed (s : State) (again : Option Nat) (place : Option Nat) : Prop :=
  ∃ m : Message, Sends s 0 1 outbound m [] ∧ m.queue < (s.tile 1).rings.length ∧ ([0] : List Nat).Nodup ∧ Served s again 0 1 m [0] ∧
    ((s.tile 1).ring m.queue).place (1 + ceilDiv ((m.lines.map (lineAt (s.tile 0).pad)).flatten).length 16) = place

theorem test_messageRingWrite : SendWitnessed (senders none { size := 1 }) none (some 0) ∧ SendWitnessed (senders none { size := 1, wrWrap := true }) none none :=
  ⟨⟨{ destTask := 1, queue := 0, seq := 0, lines := [3] }, by unfold Sends Served; decide⟩,
    ⟨{ destTask := 1, queue := 0, seq := 0, lines := [3] }, by unfold Sends Served; decide⟩⟩

theorem test_ringSendRetry : (SendWitnessed (senders (some (1, 0)) { size := 1 }) (some 0) (some 0) ∧ ((senders (some (1, 0)) { size := 1 }).tile 0).backsOff = true) ∧
    SendWitnessed (senders (some (1, 0)) { size := 1, wrWrap := true }) (some 0) none :=
  ⟨⟨⟨{ destTask := 1, queue := 0, seq := 0, lines := [3] }, by unfold Sends Served; decide⟩, by decide⟩,
    ⟨{ destTask := 1, queue := 0, seq := 0, lines := [3] }, by unfold Sends Served; decide⟩⟩

/-- Tile 1 has task 1 at the tail of its deque, and tile 0 is idle. -/
def thieves (st : Steal) : State :=
  { runS [(0, { steal := st }), (1, { deque := [1], board := { eligible := true, endAt := 90000, depth := 1 } })] with clk := { State.reset.clk with mhz := 2000 } }

theorem test_tileIdle : ∃ s0 : State, ∃ p speed v, p < 1152 ∧ (let s := measureSpeed p speed s0
    s.stealing = true ∧ (s.tile p).idleNow = true ∧ (s.tile p).fenced = false ∧ (s.logical? p).isSome = true ∧ (s.tile p).steal.victim = none ∧
    ({ endAt := if (s.tile p).deque.isEmpty then 0 else s.ownEnd p, eligible := tailEligible s (s.tile p), depth := (s.tile p).deque.length } : BoardEntry) =
      (s.tile p).board ∧ (s.tile p).steal.sent < 8 ∧ s.stealCandidate p = some v) :=
  ⟨thieves { sent := 7 }, 0, 8000, 1, by decide +kernel⟩

/-- The hypotheses of a request that meets tile 1 with task 1 at its tail. -/
def StealWitnessed (s : State) (grant : Bool) : Prop :=
  (s.tile 0).steal.victim = some 1 ∧ (s.tile 0).steal.granted = none ∧ 1 ∉ (s.tile 0).steal.tried ∧ (s.tile 1).deque = [] ++ [1] ∧ mayGrant s 0 1 1 = grant

theorem test_stealReq : StealWitnessed (measureSpeed 1 8000 (thieves { victim := some 1 })) true := by
  unfold StealWitnessed
  decide +kernel

theorem test_stealReq_refused : StealWitnessed (measureSpeed 1 8000 { thieves { victim := some 1 } with att := { (thieves {}).att with phase := .margin } }) false := by
  unfold StealWitnessed
  decide +kernel

theorem test_stealGrant : ∃ s : State, ∃ a k, a < 1152 ∧ (s.tile a).steal.granted = some k := ⟨thieves { granted := some 1 }, 0, 1, by decide⟩

theorem test_stealRefusal : ∃ s : State, ∃ a b, a < 1152 ∧ (s.tile a).steal.victim = some b ∧ (s.tile a).steal.granted = none ∧ b ∈ (s.tile a).steal.tried ∧
    s.stealing = true ∧ (s.tile a).idleNow = true ∧ (s.tile a).steal.sent < 8 ∧ s.stealCandidate a = some 1 :=
  ⟨thieves { victim := some 2, tried := [2], sent := 7 }, 0, 2, by decide⟩

theorem test_stealRefusal_last : ∃ s : State, ∃ a b, a < 1152 ∧ (s.tile a).steal.victim = some b ∧ (s.tile a).steal.granted = none ∧ b ∈ (s.tile a).steal.tried ∧
    s.stealing = true ∧ (s.tile a).idleNow = true ∧ (s.tile a).steal.sent < 8 ∧ s.stealCandidate a = none :=
  ⟨thieves { victim := some 1, tried := [1] }, 0, 1, by decide⟩

/-! ## Small states for the mailboxes -/

/-- Mailbox 1 is the device's, with a command, its LEN and the bytes of its payload that are not zero, in a device state. -/
def given (d : DevState) (cmd len : Nat) (pay : Memory) (f : State → State) : State :=
  f { State.reset with
    dev := { State.reset.dev with state := d, fenumRunning := true }
    host := { State.reset.host with
      mailboxes := [(1, { owner := true, seq := 5, cmd := BitVec.ofNat 16 cmd, len := BitVec.ofNat 16 len, payload := pay })] } }

/-- The same with its DMA begun, some bytes on their way to the host; the host link may write. -/
def moving (d : DevState) (cmd len : Nat) (pay : Memory) (out : List Byte) (f : State → State) : State :=
  f { State.reset with
    dev := { State.reset.dev with state := d, fenumRunning := true }
    host := { State.reset.host with
      busMaster := true
      mailboxes := [(1, { owner := true, seq := 5, cmd := BitVec.ofNat 16 cmd, len := BitVec.ofNat 16 len, payload := pay, wait := some (.dma out) })] } }

/-- One descriptor of a list, the last. -/
def lastSeg (n : Nat) : List Descriptor := [{ addr := 0x1000, bytes := BitVec.ofNat 24 n, last := true, chain := false }]

/-! ## Witnesses: verdicts, boundaries, upkeep -/

theorem test_versions_current : ∃ s : State, ∃ l, s.entryCurrent (s.entry l) = true ∧ (s.entry l).frameP ≠ noFrame :=
  ⟨{ State.reset with att := { serial := 15 }, mem := { State.reset.mem with dir := [(7, { frameC := 20000, frameP := 20001, ptag := 15 })] } }, 7, by decide⟩

theorem test_versions_old : ∃ s : State, ∃ l, (s.entry l).frameP ≠ noFrame ∧ s.entryCurrent (s.entry l) = false ∧
    (s.entry l).ptag.toNat ≠ (s.att.serial + 1) % 16 ∧ ∃ x ∈ s.att.ledger.take 15, x.1 % 16 = (s.entry l).ptag.toNat :=
  ⟨{ State.reset with att := { serial := 16, ledger := [(15, true)] },
                      mem := { State.reset.mem with dir := [(7, { frameC := 20000, frameP := 20001, ptag := 15 })] } }, 7, by decide⟩

theorem test_tickBoundary_goes_on : ∃ s : State, ∃ m, s.ticking = true ∧ 0 < s.time.periodUs ∧
    (scanBoundary (openRings (boundaryActions s.time.periodUs m (judge (atBoundary m s)).2))).ticking = true :=
  ⟨given .standby 0 0 [] id, {}, by decide +kernel⟩

/-- A running attempt that has ended: nothing admitted is unfinished, no message in a ring. -/
def ended (l : List Raise) (fails : Nat) : State :=
  { runS [] with att := { running := true, serial := 1, phase := .margin, raised := l, failures := fails } }

theorem test_judge_contain : ∃ s : State, s.job.isSome = true ∧ s.att.running = true ∧ residue s.tiles = none ∧ s.unfinishedTasks = [] ∧ ∃ r ∈ s.att.raised, r.cls = .contain :=
  ⟨ended [{ Raise.of .padParity (.tile 0) 0 0 0 0 with cls := .contain }] 0, by decide⟩

theorem test_judge_job : ∃ s : State, s.job.isSome = true ∧ s.att.running = true ∧ residue s.tiles = none ∧ s.unfinishedTasks = [] ∧
    (¬ ∃ r ∈ s.att.raised, r.cls = .contain) ∧ ∃ r ∈ s.att.raised, r.cls = .job :=
  ⟨ended [{ Raise.of .padParity (.tile 0) 0 0 0 0 with cls := .job }] 0, by decide⟩

theorem test_judge_third_failure : ∃ s : State, s.job.isSome = true ∧ s.att.running = true ∧ residue s.tiles = none ∧ s.unfinishedTasks = [] ∧
    (¬ ∃ r ∈ s.att.raised, r.cls = .contain) ∧ (¬ ∃ r ∈ s.att.raised, r.cls = .job) ∧ (∃ r ∈ s.att.raised, r.cls = .replay) ∧ 2 ≤ s.att.failures :=
  ⟨ended [{ Raise.of .padParity (.tile 0) 0 0 0 0 with cls := .replay }] 2, by decide⟩

theorem test_judge_replay : ∃ s : State, s.job.isSome = true ∧ s.att.running = true ∧ residue s.tiles = none ∧ s.unfinishedTasks = [] ∧
    (¬ ∃ r ∈ s.att.raised, r.cls = .contain) ∧ (¬ ∃ r ∈ s.att.raised, r.cls = .job) ∧ (∃ r ∈ s.att.raised, r.cls = .replay) ∧ s.att.failures < 2 ∧ s.att.split = false :=
  ⟨ended [{ Raise.of .padParity (.tile 0) 0 0 0 0 with cls := .replay }] 1, by decide⟩

theorem test_judge_commit : ∃ s : State, s.job.isSome = true ∧ s.att.running = true ∧ residue s.tiles = none ∧ s.unfinishedTasks = [] ∧
    (¬ ∃ r ∈ s.att.raised, r.cls = .contain) ∧ (¬ ∃ r ∈ s.att.raised, r.cls = .job) ∧ (¬ ∃ r ∈ s.att.raised, r.cls = .replay) :=
  ⟨ended [] 0, by decide⟩

theorem test_discard_and_tick : (∃ s : State, s.att.split = false ∧ s.att.cur = false ∧ s.att.admitted ≠ []) ∧ ∃ s : State, ∃ j, s.job = some j ∧ s.att.cur = false :=
  ⟨⟨runS [], by decide⟩, ⟨ended [] 0, job1, by decide⟩⟩

theorem test_directorySweep : ∃ s : State, ∃ l, l < 33554432 ∧ s.computing = true ∧ s.entryCurrent (s.entry l) = false ∧ (s.entry l).frameP ≠ noFrame :=
  ⟨given .standby 0 0 [] (fun s => { s with att := { serial := 3, ledger := [(2, true)] }, mem := { s.mem with dir := [(33554431, { frameC := 20000, frameP := 20001, ptag := 2 })] } }),
    33554431, by decide⟩

theorem test_accessDecay : ∃ s : State, s.computing = true ∧ s.pol.decayTicks ≤ s.mem.decaySlots :=
  ⟨given .ready 0 0 [] (fun s => { s with mem := { s.mem with decaySlots := s.pol.decayTicks } }), by decide⟩

theorem test_patrolLine : ∃ s : State, ∃ f j row, s.externalFrame f = true ∧ j < 2048 ∧ s.dev.state ≠ .off ∧ s.dev.state ≠ .halted ∧
    ∃ e ∈ s.mem.rowErrors, e.at_ = { unit := s.lineUnit f j, sub := if 0x800000 ≤ f then (j + (f - 0x800000)) % 2 else (j + (f - 0x4000)) % 64, row := row } ∧ e.addr ≠ 131072 * f + 64 * j ∧ s.time.now < e.time + 86400 * 2000000000 :=
  ⟨given .starting 0 0 [] (fun s => { s with mem := { s.mem with rowErrors := [{ at_ := { unit := .hbm 0, sub := 63, row := 9 }, addr := 0, time := 0 }] } }), 0x4000, 2047, 9, by decide⟩

theorem test_patrolLine_miscorrected : ∃ (s : State) (f j : Nat) (data : List Byte), s.externalFrame f = true ∧ j < 2048 ∧ s.dev.state ≠ .off ∧ s.dev.state ≠ .halted ∧
    data.length = 64 ∧ f < 0x800000 ∧ s.mem.used.contains f = true ∧ CanonicalMemory s :=
  ⟨given .ready 0 0 [] (fun s => { s with mem := { s.mem with used := [0x4000] } }), 0x4000, 2047, List.replicate 64 1, by decide, by decide, by decide, by decide, rfl, by decide,
    by decide, ⟨by simp [given, State.reset], rfl, by simp [given, State.reset, Memory.wf, Memory.wfAbove]⟩⟩

theorem test_patrolLine_idle : ∃ s : State, ∃ f j, s.externalFrame f = true ∧ j < 2048 ∧ s.dev.state ≠ .off ∧ s.dev.state ≠ .halted ∧
    s.frameHeld f = false ∧ s.lostAgain (s.lineUnit f j) = false :=
  ⟨given .standby 0 0 [] id, 0x4000 + 100, 0, by decide⟩

theorem test_ddrWriteCrcError : ∃ s : State, ∃ f j, s.externalFrame f = true ∧ j < 2048 ∧ s.dev.state ≠ .off ∧ s.dev.state ≠ .halted ∧ 0x800000 ≤ f :=
  ⟨given .standby 0 0 [] id, 0x800000, 2047, by decide⟩

theorem test_hbmArbHoldCutoff : ∃ s : State, ∃ k pc, k < 16 ∧ pc < 64 ∧ s.computing = true := ⟨given .running 0 0 [] id, 15, 63, by decide⟩

/-! ## Witnesses: the recorder's commands -/

theorem test_readEvents : ∃ s : State, ∃ mb, Accepted mb 0x60 s ∧ (s.mailbox mb).arg 0 1 ≤ 1 ∧ (s.mailbox mb).arg 1 1 = 0 ∧ 1 ≤ (s.mailbox mb).arg 2 2 ∧
    (s.mailbox mb).arg 2 2 ≤ 62 ∧ (s.mailbox mb).arg 4 4 = 0 :=
  ⟨given .halted 0x60 16 [⟨2, 62⟩] (fun s => { s with evt := { s.evt with ring := [stored0 .hbmUe] } }), 1, by unfold Accepted Given; decide⟩

theorem test_clearEventsNonce : ∃ s : State, ∃ mb, Accepted mb 0x61 s ∧ (s.mailbox mb).subop = 0 := ⟨given .standby 0x61 4 [] id, 1, by unfold Accepted Given; decide⟩

/-- A clear of one record, its KEY_ID the first bytes of an operator key's hash, whatever they are. -/
def clearing : State :=
  given .standby 0x61 140
    ([⟨0, 1⟩, ⟨4, 1⟩, ⟨12, 1⟩, ⟨20, 9⟩] ++ (List.range 8).map (fun i => ⟨36 + i, ((hashBytes (Config.sha384 [1, 2, 3])).take 8).getD i 0⟩))
    (fun s => { s with evt := { s.evt with ring := [stored0 .hbmUe] }, sec := { s.sec with nonceClear := some 9 }, nor := { s.nor with clearKeys := [(0, [1, 2, 3])] } })

theorem clearing_keyId : (clearing.mailbox 1).arg 36 8 = leNat ((hashBytes (Config.sha384 [1, 2, 3])).take 8) := rfl

/-- Every hypothesis but the signature's verdict, which is free: whichever it is, one clause applies. -/
theorem test_clearEventsClear : ∃ s : State, ∃ mb k, Accepted mb 0x61 s ∧ (s.mailbox mb).subop = 1 ∧ (s.mailbox mb).arg 4 8 ≤ (s.mailbox mb).arg 12 8 ∧
    (s.mailbox mb).arg 12 8 ≤ s.eventHead ∧ keyFor s.nor.clearKeys ((s.mailbox mb).arg 36 8) = some k ∧
    s.sec.nonceClear = some (BitVec.ofNat 128 (leNat ((s.mailbox mb).argBytes 20 16))) ∧ s.evt.copying = none := by
  refine ⟨clearing, 1, [1, 2, 3], by unfold Accepted Given; decide, by decide, by decide, by decide, ?_, by decide, rfl⟩
  rw [clearing_keyId]
  simp [keyFor, clearing, given]

theorem test_clearSticky : ∃ s : State, ∃ mb, Accepted mb 0x62 s ∧ 1 ≤ (s.mailbox mb).arg 4 4 ∧ (s.mailbox mb).arg 4 4 ≤ 4024 ∧ (s.mailbox mb).arg 0 4 + (s.mailbox mb).arg 4 4 ≤ 4096 :=
  ⟨given .standby 0x62 9 [⟨0, 0xFF⟩, ⟨1, 0x0F⟩, ⟨4, 1⟩, ⟨8, 0x80⟩] id, 1, by unfold Accepted Given; decide⟩

theorem test_eventPersist : ∃ s : State, s.scanning = true ∧ s.evt.copying = none := ⟨given .standby 0 0 [] id, by decide⟩

theorem test_eventPersistComplete : ∃ s : State, ∃ hi, s.evt.copying = some hi ∧ s.evt.clear = none ∧ s.nor.events.length + (s.unpersisted hi).length ≤ 524288 :=
  ⟨given .standby 0 0 [] (fun s => { s with evt := { s.evt with copying := some 0 } }), 0, rfl, rfl,
    by simp [State.unpersisted, given, State.reset]⟩

/-- A dump of a size, of FATAL evidence or not. -/
def dump0 (fatal : Bool) : Dump := { cause := 1, causeSeq := 1, snapTick := 2, bootSerial := 3, bytes := 4096, fatal := fatal }

theorem test_getDump : (∃ s : State, ∃ mb, Accepted mb 0x63 s ∧ (s.mailbox mb).arg 0 4 ≤ 1 ∧ (s.mailbox mb).arg 4 8 % 4096 = 0 ∧ (s.mailbox mb).arg 20 8 % 16 = 0 ∧
      s.dumpOf ((s.mailbox mb).arg 0 4) = none) ∧
    (∃ s : State, ∃ mb, Accepted mb 0x63 s ∧ (s.mailbox mb).arg 0 4 ≤ 1 ∧ (s.mailbox mb).arg 4 8 % 4096 = 0 ∧ (s.mailbox mb).arg 20 8 = 0 ∧
      s.dumpOf ((s.mailbox mb).arg 0 4) = some (1, dump0 true)) ∧
    (∃ s : State, ∃ mb, Accepted mb 0x63 s ∧ (s.mailbox mb).arg 0 4 = 1 ∧ (s.mailbox mb).arg 4 8 % 4096 = 0 ∧ (s.mailbox mb).arg 20 8 % 16 = 0 ∧ (s.mailbox mb).arg 20 8 ≠ 0 ∧
      s.dumpOf ((s.mailbox mb).arg 0 4) = some (0, dump0 false)) :=
  ⟨⟨given .standby 0x63 28 [] id, 1, by unfold Accepted Given; decide⟩,
    ⟨given .standby 0x63 28 [⟨5, 0x10⟩] (fun s => { s with evt := { s.evt with dump1 := some (dump0 true) } }), 1, by unfold Accepted Given; decide⟩,
    ⟨given .standby 0x63 28 [⟨0, 1⟩, ⟨12, 16⟩, ⟨20, 16⟩] (fun s => { s with nor := { s.nor with dump := some (dump0 false) } }), 1, by unfold Accepted Given; decide⟩⟩

theorem test_getDumpDmaComplete : (∃ s : State, ∃ mb list h data, mb < 16 ∧ h.length = 24 ∧ s.dmaOf mb 0x63 = some (h ++ data) ∧ listFault (some data.length) list 0 0 = none) ∧
    ∃ s : State, ∃ mb list h data, mb < 16 ∧ h.length = 24 ∧ s.dmaOf mb 0x63 = some (h ++ data) ∧ listFault (some data.length) list 0 0 = some 0 :=
  ⟨⟨moving .standby 0x63 28 [] (List.replicate 88 1) id, 1, lastSeg 64, List.replicate 24 1, List.replicate 64 1, by decide⟩,
    ⟨moving .standby 0x63 28 [] (List.replicate 88 1) id, 1, lastSeg 128, List.replicate 24 1, List.replicate 64 1, by decide⟩⟩

theorem test_dumpPersist : (∃ s : State, ∃ slot d, s.evt.dumpDue = some slot ∧ s.hubDump slot = some d ∧ s.evt.persisting = none ∧ s.scanning = true ∧
      d.fatal = false ∧ s.tests.reset = none ∧ s.dev.restarting = false ∧ ∀ x, s.nor.dump = some x → x.fatal = false) ∧
    (∃ s : State, ∃ slot d, s.evt.dumpDue = some slot ∧ s.hubDump slot = some d ∧ s.evt.persisting = none ∧ s.scanning = true ∧
      d.fatal = false ∧ s.tests.reset = none ∧ s.dev.restarting = false ∧ ∃ x, s.nor.dump = some x ∧ x.fatal = true) ∧
    ∃ s : State, s.evt.persisting = some 1 :=
  ⟨⟨given .standby 0 0 [] (fun s => { s with evt := { s.evt with dumpDue := some 1, dump1 := some (dump0 false) } }), 1, dump0 false,
      rfl, rfl, rfl, rfl, rfl, rfl, rfl, fun _ h => nomatch h⟩,
    ⟨given .standby 0 0 [] (fun s => { s with evt := { s.evt with dumpDue := some 1, dump1 := some (dump0 false) }, nor := { s.nor with dump := some (dump0 true) } }), 1, dump0 false,
      rfl, rfl, rfl, rfl, rfl, rfl, rfl, dump0 true, rfl, rfl⟩,
    ⟨given .standby 0 0 [] (fun s => { s with evt := { s.evt with persisting := some 1 } }), rfl⟩⟩

/-! ## Witnesses: refusals, identity, status, policy -/

theorem test_unknownCommand : ∃ s : State, ∃ mb c, Given mb c s ∧ c ∉ knownCommands := ⟨given .standby 0x83 0 [] id, 1, 0x83, by unfold Given; decide⟩

/-- The state of `given` with its mailbox moved to MB00. -/
def inMb00 (s : State) : State := { s with host := { s.host with mailboxes := [(0, s.mailbox 1)] } }

theorem test_mb00_refuses : ∃ s : State, ∃ row ∈ mailboxRows 0 [], Given 0 row.2 s ∧ row.2 ∉ [0x33, 0x70, 0x71] :=
  ⟨inMb00 (given .standby 0x01 0 [] id), (.identify 0, 0x01), by decide, by unfold Given; decide, by decide⟩

theorem test_bad_state : (∃ s : State, ∃ row ∈ mailboxRows 1 [], Given 1 row.2 s ∧ row.2 ∉ [0x33, 0x70, 0x71] ∧ allowedIn (s.mailbox 1) s.dev.state s = false ∧ s.dev.resetBusy = false) ∧
    ∃ s : State, ∃ row ∈ mailboxRows 1 [], Given 1 row.2 s ∧ row.2 ∉ [0x33, 0x70, 0x71] ∧ allowedIn (s.mailbox 1) s.dev.state s = false ∧ s.dev.resetBusy = true ∧
      allowedIn (s.mailbox 1) s.endState s = true :=
  ⟨⟨given .standby 0x31 0 [] id, (.pauseJob 1, 0x31), by decide, by unfold Given; decide, by decide⟩,
    ⟨given .transit 0x20 8 [] (fun s => { s with dev := { s.dev with resetBusy := true } }), (.loadImage 1, 0x20), by decide, by unfold Given; decide, by decide⟩⟩

/-- A command in progress in mailbox 2. -/
def busyWith (cmd : Nat) (s : State) : State :=
  { s with host := { s.host with mailboxes := s.host.mailboxes ++ [(2, { owner := true, cmd := BitVec.ofNat 16 cmd, wait := some .state })] } }

theorem test_busy : (∃ s : State, ∃ row ∈ mailboxRows 1 [], Given 1 row.2 s ∧ row.2 ∉ [0x33, 0x70, 0x71] ∧ allowedIn (s.mailbox 1) s.dev.state s = true ∧ s.dev.tap = none ∧
      changesState (s.mailbox 1) = true ∧ s.changing = true) ∧
    (∃ s : State, ∃ row ∈ mailboxRows 1 [], Given 1 row.2 s ∧ row.2 ∉ [0x33, 0x70, 0x71] ∧ allowedIn (s.mailbox 1) s.dev.state s = true ∧ s.dev.tap = none ∧
      changesState (s.mailbox 1) = false ∧ bulkCommand (s.mailbox 1) = true ∧ s.bulkBusy = true) ∧
    (∃ s : State, ∃ row ∈ mailboxRows 1 [], Given 1 row.2 s ∧ row.2 ∉ [0x33, 0x70, 0x71] ∧ allowedIn (s.mailbox 1) s.dev.state s = true ∧ s.dev.tap = none ∧
      changesState (s.mailbox 1) = false ∧ s.bulkBusy = false ∧ row.2 ≠ 0x40 ∧ lenFits (s.mailbox 1) = false) :=
  ⟨⟨given .running 0x31 0 [] (busyWith 0x31), (.pauseJob 1, 0x31), by decide, by unfold Given; decide, by decide⟩,
    ⟨given .standby 0x20 8 [] (busyWith 0x40), (.loadImage 1, 0x20), by decide, by unfold Given; decide, by decide⟩,
    ⟨given .standby 0x60 15 [] id, (.readEvents 1, 0x60), by decide, by unfold Given; decide, by decide⟩⟩

theorem test_fenced_by_the_tap : ∃ s : State, ∃ row ∈ mailboxRows 1 [], Given 1 row.2 s ∧ row.2 ∉ [0x33, 0x70, 0x71] ∧ allowedIn (s.mailbox 1) s.dev.state s = true ∧
    s.dev.tap.isSome = true ∧ (jobCommand row.2 = true ∨ row.2 = 0x21) :=
  ⟨given .running 0x31 0 [] (fun s => { s with dev := { s.dev with tap := some .extest } }), (.pauseJob 1, 0x31), by decide, by unfold Given; decide, by decide⟩

theorem test_scans : (∃ s : State, ∃ c, Given 0 c s ∧ s.ticking = true ∧ c ∉ knownCommands) ∧
    ∃ s : State, ∃ mb c, Given mb c s ∧ c ∉ knownCommands ∧ s.dev.state = .halted ∧ ∀ k, k ≠ mb → (s.mailbox k).owner = false :=
  ⟨⟨inMb00 (given .standby 0 0 [] id), 0, by unfold Given; decide⟩,
    ⟨given .halted 0xFFFF 0 [] id, 1, 0xFFFF, by unfold Given; decide, by decide, rfl, fun k h => by
      simp [given, State.mailbox, look, Ne.symm h]⟩⟩

theorem test_dma_fails : ∃ s : State, ∃ mb, mb < 16 ∧ s.dev.fenumRunning = true ∧ (∃ out, (s.mailbox mb).wait = some (.dma out)) ∧ (s.mailbox mb).cmd.toNat = 0x63 :=
  ⟨moving .standby 0x63 28 [] [] id, 1, by decide, rfl, ⟨[], rfl⟩, rfl⟩

theorem test_identify : ∃ s : State, ∃ mb, Accepted mb 0x01 s ∧ s.sec.deviceId = true :=
  ⟨given .starting 0x01 0 [] (fun s => { s with sec := { s.sec with deviceId := true } }), 1, by unfold Accepted Given; decide⟩

theorem test_getStatus : (∃ s : State, ∃ mb, Accepted mb 0x02 s ∧ (s.mailbox mb).arg 2 2 = 0 ∧ (s.mailbox mb).arg 0 2 = 0 ∧ (s.mailbox mb).arg 4 4 = 4095) ∧
    ∃ s : State, ∃ mb, Accepted mb 0x02 s ∧ (s.mailbox mb).arg 2 2 = 0 ∧ (s.mailbox mb).arg 0 2 = 8 :=
  ⟨⟨given .standby 0x02 8 [⟨4, 0xFF⟩, ⟨5, 0x0F⟩] id, 1, by unfold Accepted Given; decide⟩, ⟨given .standby 0x02 8 [⟨0, 8⟩] id, 1, by unfold Accepted Given; decide⟩⟩

theorem test_setPolicy : (∃ s : State, ∃ mb, Accepted mb 0x10 s ∧ (∀ x ∈ policyItems (s.mailbox mb), itemFits x = true) ∧ policyItems (s.mailbox mb) ≠ [] ∧ s.job = none) ∧
    ∃ s : State, ∃ mb, Accepted mb 0x10 s ∧ ∃ x, (policyItems (s.mailbox mb))[0]? = some x ∧ itemFits x = false :=
  ⟨⟨given .standby 0x10 8 [⟨0, 0x12⟩, ⟨4, 0xB8⟩, ⟨5, 0x0B⟩] id, 1, by unfold Accepted Given; decide, by decide, by decide, rfl⟩,
    ⟨given .standby 0x10 8 [⟨0, 0xFF⟩, ⟨3, 1⟩] id, 1, by unfold Accepted Given; decide, _, rfl, by decide⟩⟩

/-! ## Witnesses: images, jobs, host loaves, checkpoints -/

/-- `n` bytes, zero but for those listed by offset. -/
def bytesAt (l : List (Nat × Nat)) (n : Nat) : List Byte := (List.range n).map (fun i => BitVec.ofNat 8 (look 0 i l))

theorem test_loadImage : (∃ s : State, ∃ mb, Accepted mb 0x20 s ∧ (s.mailbox mb).arg 0 8 % 16 = 0) ∧ ∃ s : State, ∃ mb, Accepted mb 0x20 s ∧ (s.mailbox mb).arg 0 8 % 16 ≠ 0 :=
  ⟨⟨given .standby 0x20 8 [⟨1, 0x10⟩] id, 1, by unfold Accepted Given; decide⟩, ⟨given .standby 0x20 8 [⟨0, 8⟩] id, 1, by unfold Accepted Given; decide⟩⟩

theorem test_loadImageDma_list : ∃ s : State, ∃ mb list out, mb < 16 ∧ s.dmaOf mb 0x20 = some out ∧ listFault none list 0 0 = some 0 :=
  ⟨moving .standby 0x20 8 [] [] id, 1, lastSeg 63, [], by decide⟩

/-- 256 descriptors of 16,777,152 bytes and one of 81,984: one unit above 4 GiB. -/
def longList : List Descriptor :=
  List.replicate 256 { addr := 0, bytes := 16777152, last := false, chain := false } ++ [{ addr := 0, bytes := 16448, last := true, chain := false }]

theorem length_dmaData (n : Nat) (data : List Byte) : (dmaData n data).length = n := by
  simp [dmaData, List.length_take]
  omega

theorem listBytes_longList : listBytes longList = 4294967360 := by decide +kernel

theorem test_loadImageDma_space : ∃ s : State, ∃ mb list, ∃ data : List Byte, ∃ out, mb < 16 ∧ s.dmaOf mb 0x20 = some out ∧ listFault none list 0 0 = none ∧
    4294967296 < (dmaData (listBytes list) data).length :=
  ⟨moving .standby 0x20 8 [] [] id, 1, longList, [], [], by decide, by decide, by decide +kernel,
    (length_dmaData (listBytes longList) []).symm ▸ listBytes_longList.symm ▸ by decide⟩

theorem test_loadImageDma_version : ∃ s : State, ∃ mb list, ∃ data : List Byte, ∃ out, mb < 16 ∧ s.dmaOf mb 0x20 = some out ∧ listFault none list 0 0 = none ∧
    (dmaData (listBytes list) data).length ≤ 4294967296 ∧ rawLe (dmaData (listBytes list) data) 0 4 = 0x4947544C ∧ rawLe (dmaData (listBytes list) data) 4 2 = 0x0400 ∧
    rawLe (dmaData (listBytes list) data) 6 2 ≠ 4 :=
  ⟨moving .standby 0x20 8 [] [] id, 1, lastSeg 64, bytesAt [(0, 0x4C), (1, 0x54), (2, 0x47), (3, 0x49), (5, 4), (6, 3)] 64, [], by decide⟩

theorem test_loadImageDma_faulty : ∃ s : State, ∃ mb list, ∃ data : List Byte, ∃ out st d, mb < 16 ∧ s.dmaOf mb 0x20 = some out ∧ listFault none list 0 0 = none ∧
    loadImageCheck (dmaData (listBytes list) data) (decide (s.pol.requireSigned = 1)) s.nor.imageKeys = .inl (st, d) ∧ st = stBadArg :=
  ⟨moving .standby 0x20 8 [] [] id, 1, lastSeg 64, bytesAt [(0, 0x4C), (1, 0x54), (2, 0x47), (3, 0x49), (5, 4), (6, 4)] 64, [], _, _, by decide, by decide, by decide, rfl, rfl⟩

/-- The first 624 bytes of an image of one task: header, section table, and the sections up to the task hash. -/
def imageHead : List Byte :=
  bytesAt [(0, 0x4C), (1, 0x54), (2, 0x47), (3, 0x49), (5, 4), (6, 4), (8, 0xC0), (9, 2), (0x12, 8),
    (0x41, 1), (0x48, 64), (0x4C, 1), (0x50, 0x40), (0x51, 1), (0x58, 64), (0x5C, 2), (0x60, 0x80), (0x61, 1), (0x68, 16), (0x6C, 3), (0x70, 0xC0), (0x71, 1), (0x78, 16), (0x7C, 4),
    (0x81, 2), (0x88, 8), (0x8C, 5), (0x90, 0x40), (0x91, 2), (0x9C, 6), (0xA0, 0x40), (0xA1, 2), (0xA8, 128), (0xAC, 7), (0xB0, 0xC0), (0xB1, 2), (0xBC, 8)] 624

/-- The image: its task table is 64 zero bytes, and its report holds their hash, whatever it is. -/
def imageBytes0 : List Byte := imageHead ++ (hashBytes (Config.sha384 (List.replicate 64 0)) ++ List.replicate 32 0)

theorem bytes_of_number (n x : Nat) : (leBytes n x).length = n ∧ leNat (leBytes n x) = x % 256 ^ n := by
  induction n generalizing x with
  | zero => simp [leBytes, leNat, Nat.mod_one]
  | succ n ih =>
    refine ⟨by simp [leBytes, ih], ?_⟩
    have e := Nat.mod_mul (x := x) (a := 256) (b := 256 ^ n)
    simp only [leBytes, leNat, ih, BitVec.toNat_ofNat]
    rw [show (256 : Nat) ^ (n + 1) = 256 * 256 ^ n from Nat.pow_succ', e]

theorem length_imageHead : imageHead.length = 624 := by simp [imageHead, bytesAt]

theorem imageHash : rawLe imageBytes0 624 48 = (Config.sha384 (List.replicate 64 0)).toNat := by
  have hl := (bytes_of_number 48 (Config.sha384 (List.replicate 64 0)).toNat)
  rw [rawLe, imageBytes0, hashBytes, List.drop_append_of_le_length (Nat.le_of_eq length_imageHead.symm), List.drop_eq_nil_of_le (Nat.le_of_eq length_imageHead),
    List.nil_append, List.take_append_of_le_length (Nat.le_of_eq hl.1.symm), List.take_of_length_le (Nat.le_of_eq hl.1), hl.2]
  exact Nat.mod_eq_of_lt (Nat.lt_of_lt_of_eq (BitVec.isLt _) (by decide +kernel))

theorem image_tables : tableFaults imageBytes0 = [] := by decide +kernel

theorem image_digests : digestFaults imageBytes0 (parseImage imageBytes0) = [] := by
  have h1 : (parseImage imageBytes0).taskHash = Config.sha384 (List.replicate 64 0) := by
    have : (parseImage imageBytes0).taskHash = BitVec.ofNat 384 (rawLe imageBytes0 624 48) := by
      have h : ((((List.range 8).map (fun i => let e := sectionAt imageBytes0 i; (e.1, e.2.1))).getD 6 (0, 0)).1 + 0x30) = 624 := by decide +kernel
      exact congrArg (fun n => BitVec.ofNat 384 (rawLe imageBytes0 n 48)) h
    rw [this, imageHash, BitVec.ofNat_toNat, BitVec.setWidth_eq]
  have h2 : (imageBytes0.drop ((parseImage imageBytes0).section 0).1).take ((parseImage imageBytes0).section 0).2 = List.replicate 64 0 := by decide +kernel
  have h3 : ((parseImage imageBytes0).tasks.map (·.weaveCycles)).sum % 2 ^ 64 = rawLe imageBytes0 (((parseImage imageBytes0).section 6).1 + 0x60) 8 := by decide +kernel
  have h4 : maxOf ((parseImage imageBytes0).tasks.map (·.weaveCycles)) = rawLe imageBytes0 (((parseImage imageBytes0).section 6).1 + 0x68) 4 := by decide +kernel
  simp only [digestFaults, h1, h2, h3, h4, ne_eq, not_true_eq_false, decide_false]
  rfl

theorem image_loads : loadImageCheck imageBytes0 false [] = .inr (parseImage imageBytes0) := by
  have hn : ¬ imageBytes0.length > 4294967296 := by decide +kernel
  have hm : ¬ (rawLe imageBytes0 0 4 ≠ 0x4947544C ∨ rawLe imageBytes0 4 2 ≠ 0x0400) := by decide +kernel
  have hg : ¬ rawLe imageBytes0 6 2 ≠ 4 := by decide +kernel
  have hs : ((parseImage imageBytes0).section 7).2 = 0 := by decide +kernel
  rw [loadImageCheck, if_neg hn, if_neg hm, if_neg hg, if_neg (fun h => h image_tables)]
  simp only [hs, if_true, Bool.false_eq_true, if_false]
  rw [if_neg (fun h => h image_digests)]

/-- An image that is loaded. -/
theorem test_loadImageDma_loads : ∃ s : State, ∃ mb list, ∃ data : List Byte, ∃ out im, mb < 16 ∧ s.dmaOf mb 0x20 = some out ∧ listFault none list 0 0 = none ∧
    loadImageCheck (dmaData (listBytes list) data) (decide (s.pol.requireSigned = 1)) s.nor.imageKeys = .inr im := by
  refine ⟨moving .standby 0x20 8 [] [] id, 1, lastSeg 704, imageBytes0, [], parseImage imageBytes0, by decide, by decide, by decide, ?_⟩
  have hl : imageBytes0.length = 704 := by decide +kernel
  have hd : dmaData (listBytes (lastSeg 704)) imageBytes0 = imageBytes0 := by
    have : listBytes (lastSeg 704) = 704 := by decide
    rw [this, dmaData, hl]
    simp [← hl]
  rw [hd]
  exact image_loads

/-- An image of one tensor and one loaf whose records break no rule. -/
def image0 : Image :=
  { sections := [(256, 64), (320, 64), (384, 16), (448, 16), (512, 8), (0, 0), (576, 128), (0, 0)], taskCount := 1, loafCount := 1, tensorCount := 1,
    decls := [{ count := 1 }], numerics := [{ format := 1 }] }

/-- That image is loaded. -/
def loaded (im : Image) (s : State) : State := { s with dev := { s.dev with imageLoaded := some im } }

theorem test_openJob : (∃ s : State, ∃ mb im, Accepted mb 0x21 s ∧ s.dev.imageLoaded = some im ∧ im.collPresent = true ∧ s.fab.plan = none) ∧
    (∃ s : State, ∃ mb im, Accepted mb 0x21 s ∧ s.dev.imageLoaded = some im ∧ (im.collPresent = false ∨ s.fab.plan ≠ none) ∧ imageFaults s.dev.imageRaw im s.fab.plan (openRanges s.fab.proxies) ≠ []) ∧
    (∃ s : State, ∃ mb im, Accepted mb 0x21 s ∧ s.dev.imageLoaded = some im ∧ (im.collPresent = false ∨ s.fab.plan ≠ none) ∧ imageFaults s.dev.imageRaw im s.fab.plan (openRanges s.fab.proxies) = [] ∧
      capacityOk im im.decls s.pol.versionReserve s.nor = false) ∧
    (∃ s : State, ∃ mb im, Accepted mb 0x21 s ∧ s.dev.imageLoaded = some im ∧ (im.collPresent = false ∨ s.fab.plan ≠ none) ∧ imageFaults s.dev.imageRaw im s.fab.plan (openRanges s.fab.proxies) = [] ∧
      capacityOk im im.decls s.pol.versionReserve s.nor = true) :=
  ⟨⟨given .standby 0x21 8 [] (loaded { image0 with collPresent := true }), 1, { image0 with collPresent := true }, by unfold Accepted Given; decide⟩,
    ⟨given .standby 0x21 8 [] (loaded { image0 with tickUs := 7 }), 1, { image0 with tickUs := 7 }, by unfold Accepted Given; decide⟩,
    ⟨given .standby 0x21 8 [] (fun s => { loaded { image0 with loafCount := 33554432, decls := [{ count := 33554432 }] } s with nor := { s.nor with ddrChannels := 0 } }), 1,
      { image0 with loafCount := 33554432, decls := [{ count := 33554432 }] }, by unfold Accepted Given; decide⟩,
    ⟨given .standby 0x21 8 [] (loaded image0), 1, image0, by unfold Accepted Given; decide⟩⟩

/-- A job is open in READY or runs. -/
def open1 (j : Job) (s : State) : State := { s with job := some j }

theorem test_declareLoaves : (∃ s : State, ∃ mb j, Accepted mb 0x22 s ∧ s.job = some j ∧ (s.mailbox mb).arg 4 12 = 0 ∧
      declareAll j.image.tensorCount ((List.range ((s.mailbox mb).arg 0 4)).map (fun i => (s.mailbox mb).arg (16 + 16 * i) 16)) j.decls = .inl 0) ∧
    (∃ s : State, ∃ mb j ds, Accepted mb 0x22 s ∧ s.job = some j ∧ (s.mailbox mb).arg 4 12 = 0 ∧
      declareAll j.image.tensorCount ((List.range ((s.mailbox mb).arg 0 4)).map (fun i => (s.mailbox mb).arg (16 + 16 * i) 16)) j.decls = .inr ds ∧
      capacityOk j.image ds s.pol.jobReserve s.nor = false) ∧
    (∃ s : State, ∃ mb j ds, Accepted mb 0x22 s ∧ s.job = some j ∧ (s.mailbox mb).arg 4 12 = 0 ∧
      declareAll j.image.tensorCount ((List.range ((s.mailbox mb).arg 0 4)).map (fun i => (s.mailbox mb).arg (16 + 16 * i) 16)) j.decls = .inr ds ∧
      capacityOk j.image ds s.pol.jobReserve s.nor = true) :=
  ⟨⟨given .ready 0x22 32 [⟨0, 1⟩] (open1 job1), 1, job1, by unfold Accepted Given; decide⟩,
    ⟨given .ready 0x22 32 [⟨0, 1⟩, ⟨16, 2⟩, ⟨20, 1⟩] (fun s => { open1 { job1 with image := { job1.image with tickUs := 78126 } } s with nor := { s.nor with ddrChannels := 0 } }), 1,
      { job1 with image := { job1.image with tickUs := 78126 } }, _, by unfold Accepted Given; decide, rfl, by decide, rfl, by decide⟩,
    ⟨given .ready 0x22 32 [⟨0, 1⟩, ⟨16, 2⟩, ⟨20, 1⟩] (open1 job1), 1, job1, _, by unfold Accepted Given; decide, rfl, by decide, rfl, by decide⟩⟩

theorem test_declareOne : (∃ tensors r, ∃ ds : List Decl, declBroken (parseDecl r) = false ∧ bits r 56 8 = 0 ∧ bits r 96 32 = 0 ∧ (parseDecl r).tensor < tensors ∧
      ∀ e ∈ ds, declsMeet (parseDecl r) e = false) ∧
    ∃ tensors r, ∃ ds : List Decl, ∃ e, declBroken (parseDecl r) = false ∧ bits r 56 8 = 0 ∧ bits r 96 32 = 0 ∧ (parseDecl r).tensor < tensors ∧
      ds.find? (fun e => declsMeet (parseDecl r) e) = some e ∧ e.first ≠ (parseDecl r).first :=
  ⟨⟨1, 2 + 2 ^ 32, [{ count := 2 }], by decide⟩, ⟨1, 1 + 2 ^ 32, [{ count := 2 }], { count := 2 }, by decide⟩⟩

/-- Two records declare loaves 0 and 1 on their own; 14,337 loaves kept in slices are one too many, whatever the parts (R41). -/
theorem test_declareAll : (∃ tensors rs i, ∃ ds : List Decl, declareEach tensors rs 0 ds = .inl i) ∧
    (∃ tensors rs, ∃ ds ds' : List Decl, declareEach tensors rs 0 ds = .inr ds' ∧ keptLoaves ds' ≤ 14336) ∧
    ∃ tensors rs, ∃ ds ds' : List Decl, declareEach tensors rs 0 ds = .inr ds' ∧ 14336 < keptLoaves ds' :=
  ⟨⟨0, [0], 0, [], by decide⟩, ⟨0, [], [{ count := 14336, keepInSlice := true }], _, rfl, by decide⟩, ⟨0, [], [{ count := 14337, keepInSlice := true }], _, rfl, by decide⟩⟩

/-- Loaves 0 and 1 take the host's data and give it. -/
def hostJob : Job := { job1 with decls := [{ count := 2, hostIn := true, hostOut := true }] }

theorem test_hostArgs : ∃ s : State, ∃ m flag, hostArgs m flag s = none :=
  ⟨given .ready 0x23 24 [] (open1 hostJob), { payload := [⟨0, 1⟩, ⟨4, 0xFF⟩, ⟨5, 7⟩, ⟨8, 1⟩] }, (·.hostIn), by decide⟩

theorem test_hostFill_hostDrain : (∃ s : State, ∃ mb d, Accepted mb 0x23 s ∧ hostArgs (s.mailbox mb) (·.hostIn) s = some d) ∧
    (∃ s : State, ∃ mb, Accepted mb 0x23 s ∧ hostArgs (s.mailbox mb) (·.hostIn) s = none) ∧
    (∃ s : State, ∃ mb d, Accepted mb 0x24 s ∧ hostArgs (s.mailbox mb) (·.hostOut) s = some d) ∧
    (∃ s : State, ∃ mb, ∃ reads : List MemRead, Accepted mb 0x24 s ∧ hostArgs (s.mailbox mb) (·.hostOut) s = none ∧ ∀ r ∈ reads, r.outcome = .clean) :=
  ⟨⟨given .ready 0x23 24 [⟨0, 2⟩, ⟨8, 1⟩] (open1 hostJob), 1, 0, by unfold Accepted Given; decide⟩, ⟨given .running 0x23 24 [⟨0, 1⟩, ⟨8, 1⟩] (open1 hostJob), 1, by unfold Accepted Given; decide⟩,
    ⟨given .ready 0x24 24 [] (open1 hostJob), 1, 8, by unfold Accepted Given; decide⟩,
    ⟨given .running 0x24 24 [⟨4, 0xFF⟩, ⟨5, 7⟩, ⟨8, 1⟩] (open1 hostJob), 1, [], by unfold Accepted Given; decide⟩⟩

theorem test_hostFillDma : (∃ s : State, ∃ mb list out, mb < 16 ∧ s.dmaOf mb 0x23 = some out ∧ listFault (some (64 * (s.mailbox mb).arg 8 8)) list 0 0 = some 0) ∧
    ∃ s : State, ∃ mb list out f, mb < 16 ∧ s.dmaOf mb 0x23 = some out ∧ listFault (some (64 * (s.mailbox mb).arg 8 8)) list 0 0 = none ∧ (s.mailbox mb).owner = true ∧
      (s.mailbox mb).arg 4 4 + (s.mailbox mb).arg 8 8 ≤ 2048 ∧ s.pendingFrame ((s.mailbox mb).arg 0 4) = some f ∧ 14336 ≤ f ∧
      (∀ k, look? ((s.mailbox mb).arg 0 4, k) s.mem.writers = none ∧ look? ((s.mailbox mb).arg 0 4, k) s.mem.byteWriters = none ∧
        ∀ x, look? ((s.mailbox mb).arg 0 4, k) s.mem.filled = some x → x ≤ mb) ∧
      (∀ k ∈ (s.mailbox mb).rangeLoaves, (s.declared k).isSome = true) ∧ CanonicalMemory s :=
  ⟨⟨moving .running 0x23 24 [⟨8, 1⟩] [] id, 1, lastSeg 128, [], by decide⟩,
    ⟨moving .running 0x23 24 [⟨4, 0xFF⟩, ⟨5, 7⟩, ⟨8, 1⟩] [] (fun s => { open1 hostJob s with mem := { s.mem with dir := [(0, { frameC := 20000, frameP := 20001 })] } }), 1, lastSeg 64, [], 20001,
      by decide, by decide, by decide, rfl, by decide, by decide, by decide, fun _ => ⟨rfl, rfl, nofun⟩, by decide,
      ⟨by simp [moving, open1, State.reset], rfl, by simp [moving, open1, State.reset]; decide⟩⟩⟩

theorem test_hostDrainComplete : (∃ s : State, ∃ mb list, ∃ out : List Byte, mb < 16 ∧ s.dmaOf mb 0x24 = some out ∧ listFault (some out.length) list 0 0 = none) ∧
    ∃ s : State, ∃ mb list, ∃ out : List Byte, mb < 16 ∧ s.dmaOf mb 0x24 = some out ∧ listFault (some out.length) list 0 0 = some 0 :=
  ⟨⟨moving .running 0x24 24 [] (List.replicate 64 1) id, 1, lastSeg 64, List.replicate 64 1, by decide⟩, ⟨moving .running 0x24 24 [] (List.replicate 64 1) id, 1, [], List.replicate 64 1, by decide⟩⟩

/-- A job that declares no loaf: its checkpoint stream is 384 bytes. -/
def bareJob : Job := { job1 with decls := [], started := false }

theorem test_checkpoint : (∃ s : State, ∃ mb j d, Accepted mb 0x34 s ∧ s.job = some j ∧ checkpointArgs (s.mailbox mb) j = some d ∧ (s.mailbox mb).mode ≠ 1) ∧
    (∃ s : State, ∃ mb j d, Accepted mb 0x34 s ∧ s.job = some j ∧ checkpointArgs (s.mailbox mb) j = some d ∧ (s.mailbox mb).mode = 1) ∧
    (∃ s : State, ∃ mb j, ∃ reads : List MemRead, Accepted mb 0x34 s ∧ s.job = some j ∧ checkpointArgs (s.mailbox mb) j = none ∧ (s.mailbox mb).mode = 0 ∧
      ∀ r ∈ reads, r.outcome = .clean) ∧
    (∃ s : State, ∃ mb j, Accepted mb 0x34 s ∧ s.job = some j ∧ checkpointArgs (s.mailbox mb) j = none ∧ (s.mailbox mb).mode = 1) :=
  ⟨⟨given .running 0x34 24 [] (open1 job1), 1, job1, 8, by unfold Accepted Given; decide⟩,
    ⟨given .ready 0x34 24 [⟨0, 1⟩, ⟨8, 0x81⟩, ⟨9, 1⟩] (open1 bareJob), 1, bareJob, 8, by unfold Accepted Given; decide⟩,
    ⟨given .running 0x34 24 [⟨8, 0x80⟩, ⟨9, 1⟩] (open1 bareJob), 1, bareJob, [], by unfold Accepted Given; decide⟩,
    ⟨given .ready 0x34 24 [⟨0, 1⟩, ⟨8, 0x80⟩, ⟨9, 1⟩] (open1 bareJob), 1, bareJob, by unfold Accepted Given; decide⟩⟩

/-- The stream of that job. -/
def stream0 : List Byte := bytesAt [(0, 0x43), (1, 0x4B), (2, 0x50), (3, 0x54), (5, 4), (8, 0x80), (9, 1), (0x54, 1)] 384

theorem test_checkpointTransferComplete :
    (∃ s : State, ∃ mb list out j, mb < 16 ∧ s.dmaOf mb 0x34 = some out ∧ s.job = some j ∧ listFault (some ((s.mailbox mb).arg 8 8)) list 0 0 = none ∧ (s.mailbox mb).mode = 0) ∧
    (∃ s : State, ∃ mb list, ∃ data : List Byte, ∃ out j, mb < 16 ∧ s.dmaOf mb 0x34 = some out ∧ s.job = some j ∧ listFault (some ((s.mailbox mb).arg 8 8)) list 0 0 = none ∧
      (s.mailbox mb).mode ≠ 0 ∧ streamRefused j (dmaData ((s.mailbox mb).arg 8 8) data) = true) ∧
    (∃ s : State, ∃ mb list, ∃ data : List Byte, ∃ out j, mb < 16 ∧ s.dmaOf mb 0x34 = some out ∧ s.job = some j ∧ listFault (some ((s.mailbox mb).arg 8 8)) list 0 0 = none ∧
      (s.mailbox mb).mode ≠ 0 ∧ (s.mailbox mb).owner = true ∧ streamRefused j (dmaData ((s.mailbox mb).arg 8 8) data) = false) :=
  ⟨⟨moving .running 0x34 24 [⟨8, 0x80⟩, ⟨9, 1⟩] (List.replicate 384 0) (open1 bareJob), 1, lastSeg 384, List.replicate 384 0, bareJob, by decide +kernel⟩,
    ⟨moving .ready 0x34 24 [⟨0, 1⟩, ⟨8, 0x80⟩, ⟨9, 1⟩] [] (open1 bareJob), 1, lastSeg 384, [], [], bareJob, by decide +kernel⟩,
    ⟨moving .ready 0x34 24 [⟨0, 1⟩, ⟨8, 0x80⟩, ⟨9, 1⟩] [] (open1 bareJob), 1, lastSeg 384, stream0, [], bareJob, by decide +kernel⟩⟩

/-! ## Witnesses: job control -/

theorem test_startJob : (∃ s : State, ∃ mb j, Accepted mb 0x30 s ∧ s.job = some j ∧ j.startAt.isSome = true) ∧
    (∃ s : State, ∃ mb j, Accepted mb 0x30 s ∧ s.job = some j ∧ j.startAt = none ∧ (s.mailbox mb).arg 4 4 = 0) ∧
    (∃ s : State, ∃ mb j, Accepted mb 0x30 s ∧ s.job = some j ∧ j.startAt = none ∧ (s.mailbox mb).arg 4 4 = 1 ∧ (s.mailbox mb).arg 0 4 = 0 ∧ j.restoredAt.isSome = true ∧
      j.restored = true) ∧
    (∃ s : State, ∃ mb j, Accepted mb 0x30 s ∧ s.job = some j ∧ j.startAt = none ∧ (s.mailbox mb).arg 4 4 = 1 ∧ (s.mailbox mb).arg 0 4 = 0 ∧ j.restored = false) :=
  ⟨⟨given .ready 0x30 16 [] (open1 { bareJob with startAt := some (2, 0) }), 1, { bareJob with startAt := some (2, 0) }, by unfold Accepted Given; decide⟩,
    ⟨given .ready 0x30 16 [⟨8, 9⟩] (open1 bareJob), 1, bareJob, by unfold Accepted Given; decide⟩,
    ⟨given .ready 0x30 16 [⟨4, 1⟩] (open1 { bareJob with restored := true, restoredAt := some (3, 0, []) }), 1, { bareJob with restored := true, restoredAt := some (3, 0, []) },
      by unfold Accepted Given; decide⟩,
    ⟨given .ready 0x30 16 [⟨4, 1⟩] (open1 bareJob), 1, bareJob, by unfold Accepted Given; decide⟩⟩

theorem test_resumeJob : (∃ s : State, ∃ mb j, Accepted mb 0x32 s ∧ s.job = some j ∧ j.startAt.isSome = true) ∧
    ∃ s : State, ∃ mb j, Accepted mb 0x32 s ∧ s.job = some j ∧ j.startAt = none :=
  ⟨⟨given .ready 0x32 8 [] (open1 { job1 with paused := true, startAt := some (2, 0) }), 1, { job1 with paused := true, startAt := some (2, 0) }, by unfold Accepted Given; decide⟩,
    ⟨given .ready 0x32 8 [] (open1 { job1 with paused := true }), 1, { job1 with paused := true }, by unfold Accepted Given; decide⟩⟩

theorem test_pauseJob : (∃ s : State, ∃ mb j, Accepted mb 0x31 s ∧ s.job = some j) ∧
    (∃ s : State, ∃ mb j, s.job = some j ∧ j.pausing = some mb ∧ s.dev.state = .running ∧ s.att.phase = .commit ∧ j.collIssued.all (fun c => j.collDone.contains c) = true ∧
      (s.mailbox mb).wait = some .state) ∧
    (∃ s : State, ∃ mb j, s.job = some j ∧ j.pausing = some mb ∧ s.dev.state = .running ∧ s.att.phase = .commit ∧ j.collIssued.all (fun c => j.collDone.contains c) = false) :=
  ⟨⟨given .running 0x31 0 [] (open1 job1), 1, job1, by unfold Accepted Given; decide⟩,
    ⟨given .running 0 0 [] (fun s => busyWith 0x31 (open1 { job1 with pausing := some 2 } s)), 2, { job1 with pausing := some 2 }, by decide⟩,
    ⟨given .running 0 0 [] (fun s => busyWith 0x31 (open1 { job1 with pausing := some 2, collIssued := [0] } s)), 2, { job1 with pausing := some 2, collIssued := [0] }, by decide⟩⟩

theorem test_stopJob_resetCompute : (∃ s : State, ∃ mb c i, Accepted mb c s ∧ (i, c) ∈ [(Instr.stopJob mb, 0x33), (.resetCompute mb, 0x70)] ∧ s.tests.requalify = none ∧ s.tests.reset = none) ∧
    (∃ s : State, ∃ mb c i, Accepted mb c s ∧ (i, c) ∈ [(Instr.stopJob mb, 0x33), (.resetCompute mb, 0x70)] ∧ s.tests.requalify = none ∧ s.tests.reset.isSome = true) :=
  ⟨⟨given .running 0x33 0 [] (fun s => busyWith 0x23 (open1 job1 s)), 1, 0x33, .stopJob 1, by unfold Accepted Given; decide⟩,
    ⟨given .transit 0x70 0 [] (fun s => busyWith 0x33 { s with tests := { s.tests with reset := some { mailbox := some 2 } } }), 1, 0x70, .resetCompute 1, by unfold Accepted Given; decide⟩⟩

theorem test_computeResetComplete : ∃ s : State, ∃ run, s.tests.reset = some run ∧ run.retire = [] ∧ s.dev.restarting = false ∧ s.tests.moves = [] ∧ s.tests.requalify = none ∧
    s.dev.fatalTransit = false ∧ ∀ p ∈ s.defectTiles, s.logical? p = none :=
  ⟨given .transit 0 0 [] (fun s => busyWith 0x33 { s with tests := { s.tests with reset := some { mailbox := some 2 } } }), { mailbox := some 2 }, rfl, rfl, rfl, rfl, rfl, rfl, by decide⟩

/-! ## Witnesses: fabric plans and windows -/

theorem test_fabricPlan : (∃ s : State, ∃ mb, Accepted mb 0x40 s ∧ (s.mailbox mb).arg 0 8 % 16 = 0 ∧ 256 ≤ (s.mailbox mb).arg 8 4 ∧ (s.mailbox mb).arg 8 4 ≤ 1573120 ∧
      (s.mailbox mb).arg 12 4 = 0) ∧
    (∃ s : State, ∃ mb, Accepted mb 0x40 s ∧ (s.mailbox mb).arg 0 8 % 16 = 0 ∧ (s.mailbox mb).arg 8 4 = 255) ∧
    (∃ s : State, ∃ mb, Accepted mb 0x40 s ∧ (s.mailbox mb).arg 0 8 % 16 = 0 ∧ (s.mailbox mb).arg 8 4 = 1573121) :=
  ⟨⟨given .standby 0x40 16 [⟨9, 1⟩] id, 1, by unfold Accepted Given; decide⟩, ⟨given .standby 0x40 16 [⟨8, 0xFF⟩] id, 1, by unfold Accepted Given; decide⟩,
    ⟨given .standby 0x40 16 [⟨8, 1⟩, ⟨9, 1⟩, ⟨10, 24⟩] id, 1, by unfold Accepted Given; decide⟩⟩

/-- A plan of one dimension of two devices: port 0 leads one way, port 1 the other. -/
def plan0 : List Byte :=
  bytesAt [(0, 0x50), (1, 0x4C), (2, 0x41), (3, 0x4E), (5, 1), (0x0C, 1), (0x0E, 32), (0x10, 1), (0x18, 2), (0x48, 1), (0x4C, 2), (0x78, 1), (0x79, 4), (0x7A, 0xE8), (0x7B, 3),
    (0x7C, 8), (0x7E, 8), (0x88, 50)] 256

/-- FABRIC_PLAN's DMA of 256 bytes in progress. -/
def planning (f : State → State) : State := moving .standby 0x40 16 [⟨9, 1⟩] [] f

theorem test_fabricPlanDma : (∃ s : State, ∃ mb, ∃ list data out, mb < 16 ∧ s.dmaOf mb 0x40 = some out ∧ listFault (some (align64 ((s.mailbox mb).arg 8 4))) list 0 0 = none ∧
      planShapeFits ((dmaData (align64 ((s.mailbox mb).arg 8 4)) data).take ((s.mailbox mb).arg 8 4)) = false) ∧
    (∃ s : State, ∃ mb, ∃ list data out, mb < 16 ∧ s.dmaOf mb 0x40 = some out ∧ listFault (some (align64 ((s.mailbox mb).arg 8 4))) list 0 0 = none ∧
      let raw := (dmaData (align64 ((s.mailbox mb).arg 8 4)) data).take ((s.mailbox mb).arg 8 4)
      (planShapeFits raw && planRangesFit (parsePlan raw) && planFitsHere (parsePlan raw) s) = true ∧ s.job.isSome = true ∧
      ∃ old, s.fab.plan = some old ∧ samePlace old (parsePlan raw) = false) ∧
    (∃ s : State, ∃ mb, ∃ list data out, mb < 16 ∧ s.dmaOf mb 0x40 = some out ∧ listFault (some (align64 ((s.mailbox mb).arg 8 4))) list 0 0 = none ∧
      let raw := (dmaData (align64 ((s.mailbox mb).arg 8 4)) data).take ((s.mailbox mb).arg 8 4)
      (planShapeFits raw && planRangesFit (parsePlan raw) && planFitsHere (parsePlan raw) s) = true ∧ s.job = none ∧ s.fab.swap = none) :=
  ⟨⟨planning id, 1, lastSeg 256, [], [], by decide +kernel⟩,
    ⟨planning (fun s => { open1 job1 s with fab := { s.fab with plan := some { address := 1 } } }), 1, lastSeg 256, plan0, [], by decide, by decide, by decide, by decide +kernel, rfl,
      { address := 1 }, rfl, by decide +kernel⟩,
    ⟨planning id, 1, lastSeg 256, plan0, [], by decide, by decide, by decide, by decide +kernel, rfl, rfl⟩⟩

/-- FABRIC_COMMIT stands in the mailbox, with a shadow plan, fabric time locked or not, T_S given. -/
def commits (ts : Byte) (locked : Bool) (f : State → State) : State :=
  given .standby 0x41 8 [⟨0, ts⟩] (fun s => f { s with fab := { s.fab with shadow := some {} }, time := { s.time with locked := locked } })

theorem test_fabricCommit : (∃ s : State, ∃ mb, Accepted mb 0x41 s ∧ s.fab.shadow = none) ∧
    (∃ s : State, ∃ mb pl, Accepted mb 0x41 s ∧ s.fab.shadow = some pl ∧ s.time.locked = false) ∧
    (∃ s : State, ∃ mb pl, Accepted mb 0x41 s ∧ s.fab.shadow = some pl ∧ s.time.locked = true ∧ s.job.isSome = true ∧ s.fab.plan = none) ∧
    (∃ s : State, ∃ mb pl, Accepted mb 0x41 s ∧ s.fab.shadow = some pl ∧ s.time.locked = true ∧ s.job = none ∧ s.committing = true) ∧
    (∃ s : State, ∃ mb pl, Accepted mb 0x41 s ∧ s.fab.shadow = some pl ∧ s.time.locked = true ∧ s.job = none ∧ s.committing = false ∧ (s.mailbox mb).arg 0 8 = s.time.tick + 1) ∧
    (∃ s : State, ∃ mb pl, Accepted mb 0x41 s ∧ s.fab.shadow = some pl ∧ s.time.locked = true ∧ s.job = none ∧ s.committing = false ∧ (s.mailbox mb).arg 0 8 = s.time.tick + 2 ∧
      s.fab.swap = none) :=
  ⟨⟨given .standby 0x41 8 [] id, 1, by unfold Accepted Given; decide⟩, ⟨commits 2 false id, 1, {}, by unfold Accepted Given; decide⟩,
    ⟨commits 2 true (fun s => open1 job1 s), 1, {}, by unfold Accepted Given; decide⟩,
    ⟨commits 2 true (fun s => { s with fab := { s.fab with swap := some { stopAt := 5, swapAt := 6, plan := true } } }), 1, {}, by unfold Accepted Given; decide⟩,
    ⟨commits 1 true id, 1, {}, by unfold Accepted Given; decide⟩, ⟨commits 2 true id, 1, {}, by unfold Accepted Given; decide⟩⟩

/-- WINDOW_OPEN of window 4,095 on loaf 0, local or a proxy binding. -/
def opens (proxy : Bool) (f : State → State) : State :=
  given .ready 0x42 24 [⟨0, 0xFF⟩, ⟨1, if proxy then 0x1F else 0x0F⟩, ⟨7, 2⟩] (fun s => f (open1 job1 s))

theorem test_windowOpen_valid : ∃ s : State, ∃ mb, Accepted mb 0x42 s ∧ bits ((s.mailbox mb).arg 0 24) 0 12 = 4095 ∧ (look {} 4095 s.fab.windows).valid = true :=
  ⟨opens false (fun s => { s with fab := { s.fab with windows := [(4095, { valid := true })] } }), 1, by unfold Accepted Given; decide⟩

theorem test_windowOpen_args : ∃ s : State, ∃ mb, Accepted mb 0x42 s ∧ (look {} 4095 s.fab.windows).valid = false ∧ (look {} 4095 s.fab.windows).closedAt = none ∧ s.proxyBusy 4095 = false ∧
    windowArgs ((s.mailbox mb).arg 0 24) s = some 4 :=
  ⟨opens false (fun s => { s with job := none }), 1, by unfold Accepted Given; decide⟩

theorem test_windowOpen_local : ∃ s : State, ∃ mb, Accepted mb 0x42 s ∧ bit ((s.mailbox mb).arg 0 24) 12 = false ∧ (look {} 4095 s.fab.windows).valid = false ∧
    (look {} 4095 s.fab.windows).closedAt = some 3 ∧ 3 + 256 < s.time.tick ∧ windowArgs ((s.mailbox mb).arg 0 24) s = none :=
  ⟨opens false (fun s => { s with fab := { s.fab with windows := [(4095, { closedAt := some 3 })] }, time := { s.time with tick := 260 } }), 1, by unfold Accepted Given; decide⟩

theorem test_windowOpen_proxy : ∃ s : State, ∃ mb, Accepted mb 0x42 s ∧ bit ((s.mailbox mb).arg 0 24) 12 = true ∧ (look {} 4095 s.fab.proxies).valid = false ∧ s.proxyBusy 4095 = false ∧
    windowArgs ((s.mailbox mb).arg 0 24) s = none :=
  ⟨opens true id, 1, by unfold Accepted Given; decide⟩

/-- WINDOW_CLOSE of window 1. -/
def closes (proxy : Bool) (f : State → State) : State :=
  given .ready 0x43 4 ([⟨0, 1⟩] ++ if proxy then [⟨1, 0x10⟩] else []) (fun s => f (open1 job1 s))

theorem test_windowClose : (∃ s : State, ∃ mb, Accepted mb 0x43 s ∧ bits ((s.mailbox mb).arg 0 4) 13 19 = 0 ∧ bit ((s.mailbox mb).arg 0 4) 12 = false ∧ (look {} 1 s.fab.windows).valid = true) ∧
    (∃ s : State, ∃ mb, Accepted mb 0x43 s ∧ bits ((s.mailbox mb).arg 0 4) 13 19 = 0 ∧ bit ((s.mailbox mb).arg 0 4) 12 = true ∧ (look {} 1 s.fab.proxies).valid = true ∧ s.proxyBusy 1 = true) ∧
    (∃ s : State, ∃ mb, Accepted mb 0x43 s ∧ bits ((s.mailbox mb).arg 0 4) 13 19 = 0 ∧ bit ((s.mailbox mb).arg 0 4) 12 = true ∧ (look {} 1 s.fab.proxies).valid = true ∧ s.proxyBusy 1 = false) ∧
    (∃ s : State, ∃ mb, Accepted mb 0x43 s ∧ bits ((s.mailbox mb).arg 0 4) 13 19 = 0 ∧ bit ((s.mailbox mb).arg 0 4) 12 = false ∧ (look {} 1 s.fab.windows).valid = false) ∧
    (∃ s : State, ∃ mb, Accepted mb 0x43 s ∧ bits ((s.mailbox mb).arg 0 4) 13 19 = 0 ∧ bit ((s.mailbox mb).arg 0 4) 12 = true ∧ (look {} 1 s.fab.proxies).valid = false) :=
  ⟨⟨closes false (fun s => { s with fab := { s.fab with windows := [(1, { valid := true })] } }), 1, by unfold Accepted Given; decide⟩,
    ⟨closes true (fun s => { s with fab := { s.fab with proxies := [(1, { valid := true })], peers := [{ addr := 1, unreplied := [{ seq := 0, packet := {}, proxy := 1, line := 0 }] }] } }), 1,
      by unfold Accepted Given; decide⟩,
    ⟨closes true (fun s => { s with fab := { s.fab with proxies := [(1, { valid := true })] } }), 1, by unfold Accepted Given; decide⟩,
    ⟨closes false id, 1, by unfold Accepted Given; decide⟩, ⟨closes true id, 1, by unfold Accepted Given; decide⟩⟩

/-! ## Witnesses: crumb check, REQUALIFY, firmware -/

theorem test_crumbCheck : (∃ s : State, ∃ mb, Accepted mb 0x50 s ∧ (s.mailbox mb).arg 1 3 = 0) ∧ ∃ s : State, ∃ mb, Accepted mb 0x50 s ∧ (s.mailbox mb).arg 1 3 ≠ 0 :=
  ⟨⟨given .running 0x50 4 [⟨0, 0xFF⟩] id, 1, by unfold Accepted Given; decide⟩, ⟨given .standby 0x50 4 [⟨3, 1⟩] id, 1, by unfold Accepted Given; decide⟩⟩

/-- A sweep of the crumb check over two or three tiles: logical tiles 0 and 1 are physical tiles 0 and 576. -/
def sweeping (tiles : List Nat) (c : Crumb) : State :=
  given .standby 0 0 [] (fun s => { s with clk := { s.clk with mhz := 2000 }, tests := { s.tests with tileMap := tiles, crumb := some c } })

theorem test_crumbCheckBegin : (∃ s : State, ∃ c, s.tests.crumb = some c ∧ c.begun = false ∧ s.computing = true ∧ s.clk.mhz ≠ 0 ∧ s.windowStands = false) ∧
    ∃ s : State, ∃ c, s.tests.crumb = some c ∧ c.begun = false ∧ s.computing = true ∧ s.clk.mhz ≠ 0 ∧ s.windowStands = true :=
  ⟨⟨sweeping [0, 576] {}, {}, by decide⟩, ⟨{ sweeping [0, 576] {} with coll := [{ coll := 0, step := 0, closeTick := 1 }] }, {}, by decide⟩⟩

theorem test_crumbProgram_equal : ∃ s : State, ∃ c a b, s.tests.crumb = some c ∧ c.begun = true ∧ s.clk.mhz ≠ 0 ∧ s.ticking = true ∧ a < 1152 ∧ b < 1152 ∧ a ∈ s.crumbTiles c ∧
    a ∉ c.retired ∧ s.crumbPair a b = true ∧ b ∈ s.crumbTiles c ∧ s.crumbPair b a = true ∧ s.crumbDone { c with programs := put b 1 (put a 1 c.programs) } = false :=
  ⟨sweeping [0, 576] { begun := true }, { begun := true }, 0, 576, by decide +kernel⟩

theorem test_crumbProgram_last : ∃ s : State, ∃ c a b mb, s.tests.crumb = some c ∧ c.begun = true ∧ s.clk.mhz ≠ 0 ∧ s.ticking = true ∧ a < 1152 ∧ b < 1152 ∧ a ∈ s.crumbTiles c ∧
    a ∉ c.retired ∧ s.crumbPair a b = true ∧ b ∈ s.crumbTiles c ∧ s.crumbPair b a = true ∧
    s.crumbDone { c with programs := [a, b].foldl (fun l p => put p (look 0 p l + 1) l) c.programs } = true ∧ s.tests.requalify = none ∧ c.mailbox = some mb :=
  ⟨sweeping [0, 576] { begun := true, mailbox := some 1, programs := [(0, 119999), (576, 119999)] },
    { begun := true, mailbox := some 1, programs := [(0, 119999), (576, 119999)] }, 0, 576, 1, by decide +kernel⟩

/-- A program that drains one word more has another signature. -/
theorem test_signatures_differ : crumbSignature [] ≠ crumbSignature [1] := by decide +kernel

theorem test_crumbProgram_differs : ∃ s : State, ∃ c a b d, s.tests.crumb = some c ∧ c.begun = true ∧ s.clk.mhz ≠ 0 ∧ s.ticking = true ∧ a < 1152 ∧ b < 1152 ∧ a ∈ s.crumbTiles c ∧
    a ∉ c.retired ∧ s.crumbPair a b = true ∧ d < 1152 ∧ (look? d s.tests.reserves).map (·.state) = some .verified ∧ tileDie d ≠ tileDie a ∧ tileDie d ≠ tileDie b ∧
    a ≠ b ∧ a ≠ d ∧ b ≠ d ∧ ∃ q ∈ s.crumbTiles c, q ≠ a ∧ q ≠ b ∧ q ∉ c.retired ∧ look 0 q c.programs < 120000 :=
  ⟨sweeping [0, 576, 1] { begun := true }, { begun := true }, 0, 576, 1151, by decide +kernel⟩

/-- Reserves on three dies. -/
def reserves0 : State := given .standby 0 0 [] (fun s => { s with clk := { s.clk with mhz := 2000 }, tests := { s.tests with reserves := [(0, { programs := 119999, state := .underTest }), (144, {}), (288, {})] } })

theorem test_reserveProgram : ∃ s : State, ∃ a b d, s.clk.mhz ≠ 0 ∧ s.ticking = true ∧ a < 1152 ∧ b < 1152 ∧ s.inReserve a = true ∧ s.inReserve b = true ∧ tileDie a ≠ tileDie b ∧
    d < 1152 ∧ s.inReserve d = true ∧ tileDie d ≠ tileDie a ∧ tileDie d ≠ tileDie b :=
  ⟨reserves0, 0, 144, 288, by decide⟩

theorem test_requalify : (∃ s : State, ∃ mb, Accepted mb 0x51 s ∧ s.clk.tripped = true) ∧ (∃ s : State, ∃ mb, Accepted mb 0x51 s ∧ s.clk.tripped = false ∧ s.dev.resetBusy = true) ∧
    ∃ s : State, ∃ mb, Accepted mb 0x51 s ∧ s.clk.tripped = false ∧ s.dev.resetBusy = false :=
  ⟨⟨given .transit 0x51 0 [] (fun s => { s with clk := { s.clk with tripped := true } }), 1, by unfold Accepted Given; decide⟩,
    ⟨given .transit 0x51 0 [] (fun s => { s with dev := { s.dev with resetBusy := true } }), 1, by unfold Accepted Given; decide⟩,
    ⟨given .standby 0x51 0 [] id, 1, by unfold Accepted Given; decide⟩⟩

theorem test_requalifyTest : ∀ n ∈ [3, 4, 5, 6], ∃ s : State, s.tests.requalify = some (1, n, true) :=
  fun n _ => ⟨given .transit 0 0 [] (fun s => { s with tests := { s.tests with requalify := some (1, n, true) } }), rfl⟩

theorem test_fwStage : (∃ s : State, ∃ mb, Accepted mb 0x80 s ∧ (s.mailbox mb).arg 0 8 = 134217728 ∧ (s.mailbox mb).arg 8 8 % 16 = 0) ∧
    (∃ s : State, ∃ mb, Accepted mb 0x80 s ∧ (s.mailbox mb).arg 0 8 = 134217729) ∧
    (∃ s : State, ∃ mb, Accepted mb 0x80 s ∧ (s.mailbox mb).arg 0 8 ≤ 134217728 ∧ (s.mailbox mb).arg 8 8 % 16 ≠ 0) :=
  ⟨⟨given .standby 0x80 16 [⟨3, 8⟩] id, 1, by unfold Accepted Given; decide⟩, ⟨given .standby 0x80 16 [⟨0, 1⟩, ⟨3, 8⟩] id, 1, by unfold Accepted Given; decide⟩,
    ⟨given .standby 0x80 16 [⟨8, 1⟩] id, 1, by unfold Accepted Given; decide⟩⟩

theorem not_verifies (n : Nor) (p : FwPackage) (h : p.signatureOk = false) : n.verifies p = false := by simp [Nor.verifies, Nor.headerVerifies, h]

/-- A package of 64 zero bytes does not verify; whether one of the right form does is the signature's. -/
theorem test_fwStageDma : (∀ i < 2, ∃ s : State, ∃ mb list out, mb < 16 ∧ s.dmaOf mb 0x80 = some out ∧ listFault (some (align64 ((s.mailbox mb).arg 0 8))) list 0 0 = some i) ∧
    (∃ s : State, ∃ mb, ∃ list data out, mb < 16 ∧ s.dmaOf mb 0x80 = some out ∧ listFault (some (align64 ((s.mailbox mb).arg 0 8))) list 0 0 = none ∧
      s.nor.verifies (parsePackage ((dmaData (align64 ((s.mailbox mb).arg 0 8)) data).take ((s.mailbox mb).arg 0 8))) = false) :=
  ⟨fun i hi => by
      obtain rfl | rfl := (by omega : i = 0 ∨ i = 1)
      · exact ⟨moving .standby 0x80 16 [⟨0, 64⟩] [] id, 1, lastSeg 128, [], by decide⟩
      · exact ⟨moving .standby 0x80 16 [⟨0, 128⟩] [] id, 1, { addr := 0, bytes := 64, last := false, chain := false } :: lastSeg 128, [], by decide⟩, ⟨moving .standby 0x80 16 [⟨0, 64⟩] [] id, 1, lastSeg 64, [], [], by decide, by decide, by decide,
    not_verifies _ _ (by decide +kernel)⟩⟩

/-- The other slot holds a package. -/
def staged (s : State) : State := { s with nor := { s.nor with slotB := some {} } }

theorem test_fwActivate : (∃ s : State, ∃ mb, Accepted mb 0x81 s ∧ (s.mailbox mb).arg 0 4 = 1 ∧ s.otherFw.isSome = true) ∧
    (∃ s : State, ∃ mb, Accepted mb 0x81 s ∧ (s.mailbox mb).arg 0 4 = 1 ∧ s.otherFw = none) ∧
    (∃ s : State, ∃ mb, Accepted mb 0x81 s ∧ (s.mailbox mb).arg 0 4 = 0 ∧ s.dev.resetBusy = true) ∧
    (∃ s : State, ∃ mb, Accepted mb 0x81 s ∧ (s.mailbox mb).arg 0 4 = 0 ∧ s.dev.resetBusy = false ∧ s.otherFw.isSome = true ∧ s.ticking = true) :=
  ⟨⟨given .running 0x81 4 [⟨0, 1⟩] staged, 1, by unfold Accepted Given; decide⟩, ⟨given .running 0x81 4 [⟨0, 1⟩] id, 1, by unfold Accepted Given; decide⟩,
    ⟨given .transit 0x81 4 [] (fun s => { s with dev := { s.dev with resetBusy := true } }), 1, by unfold Accepted Given; decide⟩,
    ⟨given .standby 0x81 4 [] staged, 1, by unfold Accepted Given; decide⟩⟩

theorem test_fenum_restarts : (∃ s : State, s.scanning = true ∧ s.ticking = true ∧ s.dev.fatalTransit = false ∧ s.tests.reset = none ∧ s.dev.fenumFail = false ∧
      (lastHour s.time.now s.dev.restarts).length = 1) ∧
    (∃ s : State, s.scanning = true ∧ s.ticking = true ∧ 2 ≤ (lastHour s.time.now s.dev.restarts).length) ∧ ∃ s : State, s.scanning = true ∧ s.ticking = false :=
  ⟨⟨given .running 0 0 [] (fun s => { s with dev := { s.dev with restarts := [0] } }), by decide⟩, ⟨given .transit 0 0 [] (fun s => { s with dev := { s.dev with restarts := [0, 0] } }), by decide⟩,
    ⟨given .halted 0 0 [] id, by decide⟩⟩

/-- Fenum restarts, with FW_ACTIVATE in mailbox 2 or without. -/
def restarting (mb : Option Nat) (s : State) : State := busyWith 0x81 { s with dev := { s.dev with restarting := true, activating := mb } }

theorem test_firmwareRunning : (∃ s : State, s.dev.restarting = true ∧ s.fab.floodQueue = [] ∧ s.fab.routeStale = false ∧ s.dev.activating = none) ∧
    ∃ s : State, ∃ k, s.dev.restarting = true ∧ s.fab.floodQueue = [] ∧ s.fab.routeStale = false ∧ k < 16 ∧ s.dev.activating = some k ∧ (s.mailbox k).owner = true :=
  ⟨⟨given .transit 0x30 0 [] (restarting none), by decide⟩, ⟨given .transit 0x30 0 [] (restarting (some 2)), 2, by decide⟩⟩

/-! ## Witnesses: shutdown, power, start -/

theorem test_shutdown : (∃ s : State, ∃ mb, Accepted mb 0x71 s ∧ s.tests.shutdown.isSome = true) ∧ (∃ s : State, ∃ mb, Accepted mb 0x71 s ∧ s.tests.shutdown = none ∧ NothingDue s) :=
  ⟨⟨given .transit 0x71 0 [] (fun s => { s with tests := { s.tests with shutdown := some (2, 3) } }), 1, by unfold Accepted Given; decide⟩,
    ⟨given .running 0x71 0 [] (fun s => busyWith 0x31 (open1 job1 s)), 1, by unfold Accepted Given NothingDue; decide⟩⟩

theorem test_shutdownPhases : ∀ n ∈ [1, 2, 3, 4, 5, 6, 7], ∃ s : State, ∃ more : List RowRef, s.tests.shutdown = some (1, n) ∧ s.nor.defects.length < 65536 ∧
    more.all rowExists = true ∧ more ≠ [] :=
  fun n _ => ⟨given .transit 0x71 0 [] (fun s => { s with tests := { s.tests with shutdown := some (1, n) } }), [{ unit := .hbm 15, sub := 63, row := 1 }], rfl, Nat.zero_lt_succ _,
    by decide, nofun⟩

theorem test_fastShutdown : (∃ s : State, s.dev.vaux3 = true ∧ s.nor.syncInFast = true ∧ s.ticking = true) ∧ (∃ s : State, s.dev.vaux3 = true ∧ s.nor.syncInFast = true ∧ s.dev.state = .starting) ∧
    (∃ s : State, s.dev.vaux3 = true ∧ s.nor.syncInFast = true ∧ s.dev.state = .halted ∧ s.dev.fastCause ≠ 0 ∧ s.time.now < s.dev.fastAt + 100000000) ∧
    (∃ s : State, s.dev.vaux3 = true ∧ s.nor.syncInFast = false) :=
  ⟨⟨given .running 0 0 [] (fun s => { s with dev := { s.dev with vaux3 := true }, nor := { s.nor with syncInFast := true } }), by decide⟩,
    ⟨given .starting 0 0 [] (fun s => { s with dev := { s.dev with vaux3 := true }, nor := { s.nor with syncInFast := true } }), by decide⟩,
    ⟨given .halted 0 0 [] (fun s => { s with dev := { s.dev with vaux3 := true, fastCause := 1 }, nor := { s.nor with syncInFast := true }, time := { s.time with now := 99999999 } }), by decide⟩,
    ⟨given .running 0 0 [] (fun s => { s with dev := { s.dev with vaux3 := true } }), by decide⟩⟩

theorem test_vaux3On : (∃ s : State, s.dev.state = .off ∧ s.nor.lifecycle ≠ .retired ∧ s.nor.trial = false ∧ s.nor.bootable s.nor.activeSlot = true) ∧
    (∃ s : State, s.dev.state = .off ∧ s.nor.bootable s.nor.activeSlot = false ∧ s.nor.bootable s.nor.otherSlot = true) ∧
    (∃ s : State, s.dev.state = .off ∧ s.nor.bootable s.nor.activeSlot = false ∧ s.nor.bootable s.nor.otherSlot = false) :=
  ⟨⟨State.reset, by decide⟩, ⟨{ State.reset with nor := { State.reset.nor with slotA := none, slotB := some {} } }, by decide⟩, ⟨{ State.reset with nor := { State.reset.nor with slotA := none } }, by decide⟩⟩

theorem test_vin12 : ∃ s : State, ∃ p, s.dev.state = .starting ∧ s.dev.startStep = 3 ∧ s.nor.activeSlot = some p ∧ s.nor.verifies p = true :=
  ⟨{ State.reset with dev := { State.reset.dev with state := .starting, startStep := 3 } }, {}, by decide⟩

theorem test_vddq : (∃ s : State, s.ticking = false) ∧ ∃ s : State, s.ticking = true := ⟨⟨State.reset, by decide⟩, ⟨given .standby 0 0 [] id, by decide⟩⟩

/-! ## Witnesses: starts and resets -/

/-- A device in STARTING at a step. -/
def startingAt (n : Nat) (f : State → State) : State := f { State.reset with dev := { State.reset.dev with state := .starting, startStep := n, fenumRunning := true, udsOk := true } }

/-- A shutdown record that the conditions of R414 take, but for its MAC. -/
def record0 : ShutdownRecord := { testTime := 5, mapHash := mapHash [], memIdHash := 7 }

theorem test_startTests_warm : ∃ s : State, ∃ id r, s.dev.state = .starting ∧ s.dev.startStep = 10 ∧ s.nor.record = some r ∧ RecordValid r id s :=
  ⟨startingAt 10 (fun s => { s with
      nor := { s.nor with bootSerial := 1, record := some { record0 with mac := Config.recordMac (recordBytes record0) } }, sec := { s.sec with recordKey := true }
      side := { s.side with timeSet := true, timeUtc := 2592004 } }), 7, { record0 with mac := Config.recordMac (recordBytes record0) }, rfl, rfl, rfl,
    rfl, rfl, by decide, rfl, rfl, rfl, rfl, rfl, by decide, by decide, by decide⟩

theorem test_startTests_cold : (∃ s : State, s.dev.state = .starting ∧ s.dev.startStep = 10 ∧ s.nor.record = none) ∧
    ∃ s : State, ∃ id r, s.dev.state = .starting ∧ s.dev.startStep = 10 ∧ s.nor.record = some r ∧ ¬ RecordValid r id s :=
  ⟨⟨startingAt 10 id, rfl, rfl, rfl⟩, ⟨startingAt 10 (fun s => { s with nor := { s.nor with record := some { record0 with result := 2 } } }), 7, { record0 with result := 2 }, rfl, rfl, rfl,
    fun h => absurd h.2.2.1 (by decide)⟩⟩

theorem test_startComplete : (∃ s : State, s.dev.state = .starting ∧ s.dev.startStep = 11 ∧ s.nor.defects = [] ∧ s.tests.retiring = [] ∧ s.dev.udsOk = true ∧ s.nor.lifecycle ≠ .retired ∧
      s.dev.vddqOk = true) ∧
    ∃ s : State, s.dev.state = .starting ∧ s.dev.startStep = 11 ∧ s.nor.defects = [] ∧ s.tests.retiring = [] ∧ s.nor.lifecycle = .retired :=
  ⟨⟨startingAt 11 id, by decide⟩, ⟨startingAt 11 (fun s => { s with nor := { s.nor with lifecycle := .retired } }), by decide⟩⟩

theorem test_device_resets : (∃ s : State, s.dev.state = .off) ∧ (∃ s : State, s.dev.state ≠ .off ∧ s.dev.fastCause ≠ 0 ∧ s.time.now < s.dev.fastAt + 100000000) ∧
    (∃ s : State, s.dev.state ≠ .off ∧ s.dev.fastCause ≠ 0 ∧ s.dev.fastAt + 100000000 = s.time.now) ∧ (∃ s : State, s.dev.state ≠ .off ∧ s.dev.fastCause = 0 ∧ s.dev.resetAfter = false) ∧
    (∃ s : State, s.dev.resetAfter = false ∧ s.dev.state = .starting ∧ s.dev.deviceReset = true ∧ s.dev.startStep = 0 ∧ s.dev.udsOk = true ∧ s.nor.lifecycle ≠ .retired ∧ s.nor.trial = false ∧
      s.nor.bootable s.nor.activeSlot = true) ∧
    (∃ s : State, s.dev.resetAfter = true ∧ s.dev.udsOk = true ∧ s.nor.lifecycle ≠ .retired ∧ s.nor.trial = false ∧ s.nor.bootable s.nor.activeSlot = true) :=
  ⟨⟨State.reset, rfl⟩, ⟨given .halted 0 0 [] (fun s => { s with dev := { s.dev with fastCause := 2 }, time := { s.time with now := 99999999 } }), by decide⟩,
    ⟨given .halted 0 0 [] (fun s => { s with dev := { s.dev with fastCause := 2 }, time := { s.time with now := 100000000 } }), by decide⟩, ⟨given .running 0 0 [] id, by decide⟩,
    ⟨startingAt 0 (fun s => { s with dev := { s.dev with deviceReset := true } }), by decide⟩,
    ⟨given .halted 0 0 [] (fun s => { s with dev := { s.dev with resetAfter := true, udsOk := true } }), by decide⟩⟩

theorem test_tap : (∃ s : State, s.computing = true) ∧ (∃ s : State, s.dev.state = .transit) ∧ (∃ s : State, s.dev.tap = none) ∧
    (∃ s : State, s.dev.tap = some .extest ∧ s.dev.state ≠ .off ∧ s.dev.perstN = false) ∧
    (∃ s : State, s.dev.tap = some .highz ∧ s.dev.state ≠ .off ∧ s.dev.perstN = true ∧ s.dev.udsOk = true ∧ s.nor.lifecycle ≠ .retired ∧ s.nor.trial = false ∧
      s.nor.bootable s.nor.activeSlot = true) :=
  ⟨⟨given .running 0 0 [] id, by decide⟩, ⟨given .transit 0 0 [] id, rfl⟩, ⟨State.reset, rfl⟩, ⟨given .transit 0 0 [] (fun s => { s with dev := { s.dev with tap := some .extest } }), by decide⟩,
    ⟨given .transit 0 0 [] (fun s => { s with dev := { s.dev with tap := some .highz, perstN := true, udsOk := true } }), by decide⟩⟩

theorem test_syncInEdge : (∃ s : State, ∃ pl, s.timePlan = some pl ∧ pl.anchorSrc = true ∧ pl.address = pl.anchor ∧ s.nor.syncInFast = false ∧ s.ticking = true ∧ s.job = none ∧ s.time.locked = false) ∧
    (∃ s : State, s.timePlan = none) ∧ (∃ s : State, s.dev.vaux3 = true ∧ s.side.timeSet = true) :=
  ⟨⟨given .standby 0 0 [] (fun s => { s with fab := { s.fab with shadow := some { anchorSrc := true } } }), { anchorSrc := true }, by decide⟩, ⟨State.reset, rfl⟩,
    ⟨{ State.reset with dev := { State.reset.dev with vaux3 := true }, side := { State.reset.side with timeSet := true } }, by decide⟩⟩

/-- The recovery transfer at a status. -/
def recovering (st len n : Nat) : State :=
  startingAt 2 (fun s => { s with side := { s.side with recStatus := st, recLength := len, recBytes := n, recData := List.replicate n 0 } })

theorem test_recovery : (∃ s : State, ∃ v : Word32, s.side.recStatus = 1 ∧ v.toNat = 134217728 ∧ v ≠ 0) ∧ (∃ s : State, s.side.recStatus = 4) ∧
    (∃ s : State, s.side.recStatus = 2 ∧ s.side.recBytes = s.side.recData.length ∧ s.side.recBytes + 4 = s.side.recLength) ∧
    (∃ s : State, s.side.recStatus = 2 ∧ s.side.recBytes = s.side.recData.length ∧ s.side.recBytes + 4 < s.side.recLength) ∧
    (∃ s : State, s.side.recStatus = 3 ∧ s.nor.verifies (parsePackage s.side.recData) = false ∧ s.dev.state = .starting ∧ s.nor.activeB = false) :=
  ⟨⟨recovering 1 0 0, 134217728, by decide⟩, ⟨recovering 4 0 0, rfl⟩, ⟨recovering 2 8 4, by decide⟩, ⟨recovering 2 9 4, by decide⟩,
    ⟨recovering 3 4 4, rfl, not_verifies _ _ (by decide +kernel), rfl, rfl⟩⟩

/-! ## Witnesses: life cycle and DOE -/

/-- A LIFECYCLE request of a sub-operation with a target and some bytes of operand, in a life-cycle state; its serial number is another device's or this one's. -/
def lifeRequest (sub target n : Nat) (operand : Memory) (serial : BitVec 128) (l : LifeCycle) : State :=
  given .standby 0x82 (4 + 64 + (97 + n) + 96) ([⟨0, BitVec.ofNat 8 sub⟩] ++ (if target = 0 then [] else [⟨36, BitVec.ofNat 8 target⟩]) ++ [⟨44, BitVec.ofNat 8 (97 + n)⟩] ++ operand)
    (fun s => { s with nor := { s.nor with serial := serial, lifecycle := l } })

theorem test_lifecycleGetNonce : ∃ s : State, ∃ mb, Accepted mb 0x82 s ∧ (s.mailbox mb).subop = 0 := ⟨given .transit 0x82 4 [] id, 1, by unfold Accepted Given; decide⟩

/-- A transition that Table 9 lacks. -/
theorem test_lifecycle_bad : ∃ s : State, ∃ mb new, Accepted mb 0x82 s ∧ (s.mailbox mb).subop = 1 ∧ bodyFits (s.mailbox mb) = true ∧ lifeOf (readBody (s.mailbox mb)).target = some new ∧
    transitionOperand new (readBody (s.mailbox mb)).operand = true ∧ bodyReserved (s.mailbox mb) false = none ∧ transitionAllowed s.nor.lifecycle new = false :=
  ⟨lifeRequest 1 1 1 [] 0 .deployed, 1, .provisioned, by unfold Accepted Given; decide⟩

theorem not_authentic (b : Body) (signer : Bool) (s : State) (h : (b.serial == s.nor.serial.toNat) = false) : authentic b signer s = false := by simp [authentic, h]

/-- One that it has, of a request for another device; whether a request for this one is signed well is the signature's. -/
theorem test_lifecycle_transition : ∃ s : State, ∃ mb new, Accepted mb 0x82 s ∧ (s.mailbox mb).subop = 1 ∧ bodyFits (s.mailbox mb) = true ∧ lifeOf (readBody (s.mailbox mb)).target = some new ∧
    transitionOperand new (readBody (s.mailbox mb)).operand = true ∧ bodyReserved (s.mailbox mb) false = none ∧ transitionAllowed s.nor.lifecycle new = true ∧ new ≠ .deployed ∧
    ∀ signer, authentic (readBody (s.mailbox mb)) signer s = false :=
  ⟨lifeRequest 1 3 0 [] 1 .deployed, 1, .returned, by unfold Accepted Given; decide, by decide, by decide, by decide, by decide, by decide, by decide, by decide,
    fun _ => not_authentic _ _ _ (by decide)⟩

/-- The same with a board configuration. -/
theorem test_lifecycle_board : ∃ s : State, ∃ mb new, Accepted mb 0x82 s ∧ (s.mailbox mb).subop = 1 ∧ bodyFits (s.mailbox mb) = true ∧ lifeOf (readBody (s.mailbox mb)).target = some new ∧
    transitionOperand new (readBody (s.mailbox mb)).operand = true ∧ bodyReserved (s.mailbox mb) false = none ∧ transitionAllowed s.nor.lifecycle new = true ∧ new = .deployed ∧
    (parseBoard ((readBody (s.mailbox mb)).operand.drop 97)).isSome = true :=
  ⟨lifeRequest 1 2 113 [⟨262, 8⟩, ⟨263, 4⟩] 1 .provisioned, 1, .deployed, by unfold Accepted Given; decide +kernel⟩

theorem test_lifecycle_installKey : (∃ s : State, ∃ mb, Accepted mb 0x82 s ∧ (s.mailbox mb).subop = 2 ∧ bodyFits (s.mailbox mb) = true ∧ (readBody (s.mailbox mb)).target = 1 ∧
      keyOperand 1 (bit (readBody (s.mailbox mb)).flags 0) (readBody (s.mailbox mb)).operand = true ∧ bodyReserved (s.mailbox mb) true = none ∧ s.nor.lifecycle = .deployed ∧
      (readBody (s.mailbox mb)).index < keySlots 1 ∧ ∀ signer, authentic (readBody (s.mailbox mb)) signer s = false) ∧
    (∃ s : State, ∃ mb, Accepted mb 0x82 s ∧ (s.mailbox mb).subop = 2 ∧ bodyFits (s.mailbox mb) = true ∧ (readBody (s.mailbox mb)).target = 3 ∧
      keyOperand 3 (bit (readBody (s.mailbox mb)).flags 0) (readBody (s.mailbox mb)).operand = true ∧ bodyReserved (s.mailbox mb) true = none ∧ s.nor.lifecycle = .deployed ∧
      (readBody (s.mailbox mb)).index < keySlots 3 ∧ bit (readBody (s.mailbox mb)).flags 0 = false ∧ (parseBoard (readBody (s.mailbox mb)).operand).isSome = true) :=
  ⟨⟨lifeRequest 2 1 97 [] 1 .deployed, 1, by unfold Accepted Given; decide +kernel, by decide, by decide, by decide, by decide +kernel, by decide, by decide, by decide,
      fun _ => not_authentic _ _ _ (by decide)⟩,
    ⟨lifeRequest 2 3 16 [⟨165, 8⟩, ⟨166, 4⟩] 1 .deployed, 1, by unfold Accepted Given; decide⟩⟩

theorem test_lifecycle_debugUnlock : ∃ s : State, ∃ mb, Accepted mb 0x82 s ∧ (s.mailbox mb).subop = 3 ∧ bodyFits (s.mailbox mb) = true ∧ (readBody (s.mailbox mb)).operand = [] ∧
    (readBody (s.mailbox mb)).target = 2 ∧ bodyReserved (s.mailbox mb) false = none ∧ unlockAllowed 2 s.nor.lifecycle = true ∧ ∀ signer, authentic (readBody (s.mailbox mb)) signer s = false :=
  ⟨lifeRequest 3 2 0 [] 1 .blank, 1, by unfold Accepted Given; decide, by decide, by decide, by decide, by decide, by decide, by decide, fun _ => not_authentic _ _ _ (by decide)⟩

/-- The host link is up, with the session in a state. -/
def spdm (f : Secrets → Secrets) : State := given .standby 0 0 [] (fun s => { s with host := { s.host with linkUp := true }, sec := f s.sec })

theorem test_doe : (∃ s : State, s.scanning = true ∧ s.host.linkUp = true ∧ s.sec.spdmVersion = true ∧ s.sec.spdmCaps = true) ∧
    (∃ s : State, s.scanning = true ∧ s.host.linkUp = true ∧ s.sec.spdmVersion = false ∧ s.sec.spdmCaps = false ∧ s.sec.spdmSession = false) ∧
    (∃ s : State, ∃ v, s.scanning = true ∧ s.host.linkUp = true ∧ s.sec.spdmAlgs = true ∧ s.sec.alias_ = true ∧ s.nor.lifecycle ≠ .blank ∧ s.nor.lifecycle ≠ .retired ∧
      measurement s 7 = some v ∧ s.sec.spdmHandshake = true) ∧
    (∃ s : State, s.scanning = true ∧ s.host.linkUp = true ∧ s.sec.spdmSession = true ∧ s.sec.ideKeys = []) ∧
    (∃ s : State, s.scanning = true ∧ s.host.linkUp = true ∧ s.sec.spdmSession = true ∧ 255 ∈ s.sec.ideKeys ∧ 255 ∈ s.sec.ideOn) :=
  ⟨⟨spdm (fun x => { x with spdmVersion := true, spdmCaps := true }), by decide⟩, ⟨spdm id, by decide⟩,
    ⟨spdm (fun x => { x with spdmAlgs := true, alias_ := true, spdmHandshake := true }), _, rfl, rfl, rfl, rfl, by decide, by decide, rfl, rfl⟩,
    ⟨spdm (fun x => { x with spdmSession := true }), by decide⟩, ⟨spdm (fun x => { x with spdmSession := true, ideKeys := [255], ideOn := [255] }), by decide⟩⟩

/-! ## Witnesses: the host link -/

/-- The host link is up; mailbox 15 is the host's. -/
def linked (f : HostLink → HostLink) : State := given .standby 0 0 [] (fun s => { s with host := f { s.host with linkUp := true } })

theorem test_registerWrite : (∃ s : State, ∃ mb off, s.host.linkUp = true ∧ mb < 16 ∧ off < 0x1000 ∧ off % 4 = 0 ∧ (s.mailbox mb).owner = true) ∧
    (∃ s : State, s.host.linkUp = true ∧ (s.mailbox 15).owner = false) ∧ (∀ off ∈ [0, 4, 8, 12, 60, 64, 0xFFC], off < 0x1000 ∧ off % 4 = 0) ∧
    (∃ off, off % 4 ≠ 0 ∧ off < 0x4000000) ∧ (∃ s : State, s.host.linkUp = false) :=
  ⟨⟨linked id, 1, 0xFFC, by decide⟩, ⟨linked id, by decide⟩, by decide, ⟨0x1002, by decide⟩, ⟨State.reset, rfl⟩⟩

theorem test_busMaster : (∃ s : State, ∃ v : Word64, s.host.linkUp = true ∧ v ≠ 0 ∧ s.host.dState = 0) ∧ (∃ s : State, s.host.linkUp = true ∧ s.host.dState ≠ 0) ∧
    ∃ s : State, s.host.linkUp = true ∧ s.host.busMaster = true :=
  ⟨⟨linked id, 1, by decide⟩, ⟨linked (fun h => { h with dState := 3 }), by decide⟩, ⟨linked (fun h => { h with busMaster := true }), by decide⟩⟩

/-- A command that asks for a completion record stands in mailbox 1; the ring has 64 slots. -/
def completing (tail head : Word32) : State :=
  given .standby 0x83 0 [] (fun s => { s with host := { s.host with
    linkUp := true, busMaster := true, crEntries := 64, crTail := tail, crHead := head, mailboxes := s.host.mailboxes.map (fun x => (x.1, { x.2 with completion := true })) } })

/-- The last slot before the phase turns, and a full ring. -/
theorem test_completion : (∃ s : State, ∃ mb c, Given mb c s ∧ c ∉ knownCommands ∧ (s.mailbox mb).completion = true ∧ (s.mailbox mb).interrupt = false ∧ s.host.crEntries ≠ 0 ∧
      s.host.ringError = false ∧ s.host.busMaster = true ∧ s.host.dState = 0 ∧
      (s.host.crTail.toNat + s.host.crEntries.toNat - s.host.crHead.toNat) % s.host.crEntries.toNat + 1 < s.host.crEntries.toNat ∧ s.host.crTail.toNat + 1 = s.host.crEntries.toNat) ∧
    (∃ s : State, ∃ mb c, Given mb c s ∧ c ∉ knownCommands ∧ (s.mailbox mb).completion = true ∧ (s.mailbox mb).interrupt = false ∧ s.host.crEntries ≠ 0 ∧
      s.host.ringError = false ∧ s.host.busMaster = true ∧ s.host.dState = 0 ∧
      s.host.crEntries.toNat ≤ (s.host.crTail.toNat + s.host.crEntries.toNat - s.host.crHead.toNat) % s.host.crEntries.toNat + 1) :=
  ⟨⟨completing 63 1, 1, 0x83, by unfold Given; decide⟩, ⟨completing 63 0, 1, 0x83, by unfold Given; decide⟩⟩

/-- The ring is off, or a record's write has failed. -/
theorem test_completion_off : (∃ s : State, ∃ mb c, Given mb c s ∧ c ∉ knownCommands ∧ (s.mailbox mb).completion = true ∧ s.host.crEntries = 0 ∧ s.host.busMaster = true ∧ s.host.dState = 0) ∧
    ∃ s : State, ∃ mb c, Given mb c s ∧ c ∉ knownCommands ∧ (s.mailbox mb).completion = true ∧ s.host.ringError = true ∧ s.host.busMaster = true ∧ s.host.dState = 0 :=
  ⟨⟨{ completing 0 0 with host := { (completing 0 0).host with crEntries := 0 } }, 1, 0x83, by unfold Given; decide⟩,
    ⟨{ completing 0 0 with host := { (completing 0 0).host with ringError := true } }, 1, 0x83, by unfold Given; decide⟩⟩

theorem test_coalesce : (∃ s : State, s.host.coalescing = 0) ∧ (∃ s : State, s.host.coalescing ≠ 0 ∧ s.host.busMaster = true ∧ s.host.dState = 0) ∧
    ∃ s : State, s.host.coalescing ≠ 0 ∧ s.host.busMaster = false :=
  ⟨⟨linked id, rfl⟩, ⟨linked (fun h => { h with coalescing := 1, busMaster := true }), by decide⟩, ⟨linked (fun h => { h with coalescing := 1 }), by decide⟩⟩

theorem test_hostLinkTrained : ∃ s : State, s.dev.fenumRunning = true ∧ s.dev.perstN = true := ⟨given .starting 0 0 [] (fun s => { s with dev := { s.dev with perstN := true } }), by decide⟩

theorem test_statusPage : (∃ s : State, s.dev.state = .starting ∧ s.scanning = true) ∧ ∃ s : State, s.dev.state = .halted ∧ s.scanning = true :=
  ⟨⟨given .starting 0 0 [] id, by decide⟩, ⟨given .halted 0 0 [] id, by decide⟩⟩

/-! ## Witnesses: clocks, sensors, health -/

theorem test_droopTrip : (∃ s : State, s.clk.mhz = 0) ∧ ∃ s : State, ∃ g, g < 72 ∧ s.clk.mhz ≠ 0 :=
  ⟨⟨State.reset, rfl⟩, ⟨sweeping [] {}, 71, by decide⟩⟩

/-- Power in watts at an interval: above 105 % of the cap of 3,000 W, and below 95 %. -/
theorem test_limiterInterval : (∃ s : State, s.clk.mhz = 0) ∧ (∃ s : State, ∃ w, s.clk.mhz ≠ 0 ∧ s.ticking = true ∧ s.pol.powerCapW * 105 < w * 100 ∧ s.clk.limiterLevel < 3 ∧ s.clk.limiterRaised = false) ∧
    (∃ s : State, ∃ w, s.clk.mhz ≠ 0 ∧ s.ticking = true ∧ w * 100 < s.pol.powerCapW * 95 ∧ s.clk.limiterLevel = 3) :=
  ⟨⟨State.reset, rfl⟩, ⟨sweeping [] {}, 3151, by decide⟩, ⟨{ sweeping [] {} with clk := { (sweeping [] {}).clk with limiterLevel := 3 } }, 2849, by decide⟩⟩

/-- Two sensors of region 0 read 50 °C. -/
def sensors : State :=
  given .standby 0 0 [] (fun s => { s with clk := { s.clk with readings := [(.tile 1, 50), (.tile 2, 50)], suspect := [(0, 0)] }, time := { s.time with now := 2000000000 } })

theorem regions_cool (ex : List Nat) (rs : List (Sensor × Int)) (h : (List.range 72).all (fun g => match regionSensor ex rs g with | some w => decide (w < 110) | none => true) = true) :
    ∀ g < 72, ∀ w, regionSensor ex rs g = some w → w < 110 := by
  intro g hg w hw
  have := List.all_eq_true.mp h g (List.mem_range.mpr hg)
  rw [hw] at this
  simpa using this

/-- The last of the stack sensors and the hub's. -/
theorem test_sensorRead : ∃ s : State, ∃ rs : List (Sensor × Int), s.dev.state ≠ .off ∧ (∀ x ∈ rs, sensorExists x.1 = true) ∧ rs.length = 2 :=
  ⟨sensors, [(.hbm 15, 86), (.hub, 86)], by decide⟩

theorem test_sensorRead_in_order : ∃ s : State, ∃ p v, p < 1152 ∧ s.dev.state ≠ .off ∧ p ∉ s.clk.excluded ∧ 0 ≤ v ∧ v ≤ 150 ∧ -30 ≤ outOfLine s p v ∧ outOfLine s p v ≤ 30 ∧
    ∀ g < 72, ∀ w, regionSensor s.clk.excluded (put (.tile p) v s.clk.readings) g = some w → w < 110 :=
  ⟨sensors, 0, 65, by decide, by decide, by decide, by decide, by decide, by decide +kernel, by decide +kernel, regions_cool _ _ (by decide +kernel)⟩

theorem test_sensorRead_excluded : (∃ s : State, ∃ p, ∃ v : Int, p < 1152 ∧ s.dev.state ≠ .off ∧ p ∉ s.clk.excluded ∧ 150 < v) ∧
    (∃ s : State, ∃ p v, p < 1152 ∧ s.dev.state ≠ .off ∧ p ∉ s.clk.excluded ∧ 0 ≤ v ∧ v ≤ 150 ∧ 30 < outOfLine s p v ∧ ∃ since, look? p s.clk.suspect = some since ∧ since + 2000000000 ≤ s.time.now) :=
  ⟨⟨sensors, 1151, 151, by decide⟩, ⟨sensors, 0, 66, by decide, by decide, by decide, by decide, by decide, by decide +kernel, 0, rfl, by decide⟩⟩

theorem test_sensorRead_other : ∃ s : State, ∃ x, x ∈ (List.range 16).map Sensor.hbm ++ (List.range 8).map Sensor.base ++ (List.range 4).map Sensor.portDie ++ [Sensor.hub] ∧ s.dev.state ≠ .off ∧
    look? x s.clk.readings = some 104 :=
  ⟨{ sensors with clk := { sensors.clk with readings := [(.hbm 15, 104)] } }, .hbm 15, by decide⟩

theorem test_comparator : (∃ s : State, ∃ d, d < 13 ∧ s.dev.state ≠ .off) ∧ ∃ s : State, ∃ d, d < 13 ∧ s.dev.state ≠ .off ∧ 8 ≤ d ∧ s.dev.state = .running :=
  ⟨⟨given .starting 0 0 [] id, 12, by decide⟩, ⟨given .running 0 0 [] id, 8, by decide⟩⟩

theorem test_healthScore : (∃ s : State, s.dev.fenumRunning = false) ∧ ∃ s : State, s.dev.fenumRunning = true ∧ bandFor (1000 - (healthTerms s).sum) ≠ s.health.band :=
  ⟨⟨State.reset, rfl⟩, ⟨given .standby 0 0 [] (fun s => { s with health := { s.health with band := 2 } }), by decide +kernel⟩⟩

/-! ## Witnesses: reserve tiles and moves -/

/-- Clock region 71 has been slow for SLOW_TICKS slots, among some reserves. -/
def slow (l : List (Nat × Reserve)) : State :=
  given .standby 0 0 [] (fun s => { s with clk := { s.clk with regions := [(71, { slowSlots := s.pol.slowTicks })] }, tests := { s.tests with reserves := l, tileMap := [1151] } })

/-- Nine verified reserves outside the region. -/
def nine : List (Nat × Reserve) := (List.range 9).map (fun i => (i, {}))

theorem test_regionSlow : (∃ s : State, ∃ g, g < 72 ∧ s.computing = true ∧ (s.region g).slowSlots < s.pol.slowTicks) ∧
    (∃ s : State, ∃ g, g < 72 ∧ s.computing = true ∧ s.pol.slowTicks ≤ (s.region g).slowSlots ∧ (s.tests.reserves.map (·.1)).Nodup ∧ s.verified < 8) ∧
    (∃ s : State, ∃ g, g < 72 ∧ s.computing = true ∧ s.pol.slowTicks ≤ (s.region g).slowSlots ∧ (s.tests.reserves.map (·.1)).Nodup ∧
      (reservesOutside s g).length = 9 ∧ s.verified = 9 ∧ s.physical 0 = 1151 ∧ tileRegion 1151 = g) :=
  ⟨⟨given .standby 0 0 [] id, 0, by decide⟩, ⟨slow [(1023, {})], 71, by decide⟩, ⟨slow nine, 71, by decide +kernel⟩⟩

/-- The hypothesis of the clause in which moves begin, at its boundary: one logical tile in the region and exactly eight reserves more than it. -/
theorem test_regionSlow_moves : (regionLogical (slow nine) 71).length ≤ (reservesOutside (slow nine) 71).length ∧ (regionLogical (slow nine) 71).length + 8 ≤ (slow nine).verified := by decide +kernel

theorem test_parkedTile : (∃ s : State, ∃ p r, p < 1152 ∧ look? p s.tests.reserves = some r ∧ r.state = .parked ∧ s.pol.slowTicks ≤ (s.region (tileRegion p)).fastSlots) ∧
    (∃ s : State, ∃ p r, p < 1152 ∧ look? p s.tests.reserves = some r ∧ r.state ≠ .parked) ∧
    (∃ s : State, ∃ p r, p < 1152 ∧ look? p s.tests.reserves = some r ∧ (s.region (tileRegion p)).fastSlots < s.pol.slowTicks) ∧ ∃ s : State, ∃ p, p < 1152 ∧ look? p s.tests.reserves = none :=
  ⟨⟨{ slow [(1151, { state := .parked })] with clk := { State.reset.clk with regions := [(71, { fastSlots := 65535 })] } }, 1151, { state := .parked }, by decide⟩,
    ⟨slow [(1151, {})], 1151, {}, by decide⟩, ⟨slow [(1151, { state := .parked })], 1151, { state := .parked }, by decide⟩, ⟨slow [], 0, by decide⟩⟩

theorem test_rotation : ∃ s : State, s.computing = true ∧ s.pol.rotateMin ≠ 0 := ⟨given .standby 0 0 [] id, by decide⟩

theorem test_retire : ∃ s : State, ∃ p l q c, s.logical? p = some l ∧ s.tests.moves.all (fun m => m.source != p) = true ∧ s.tests.retiring = [(p, c)] ∧ chooseReserve s p = some q ∧
    s.nor.defects.length < 65536 :=
  ⟨given .standby 0 0 [] (fun s => { s with tests := { s.tests with tileMap := [0], reserves := [(576, {}), (1, {})], retiring := [(0, .crumbMismatch)] } }), 0, 0, 576, .crumbMismatch, by decide⟩

theorem test_exchange : ∃ s : State, ∃ m, m ∈ s.tests.moves ∧ m.logical < s.tests.tileMap.length ∧ m.source ≠ m.target :=
  ⟨given .standby 0 0 [] (fun s => { s with tests := { s.tests with moves := [{ logical := 1023, source := 1023, target := 1151, kind := .rotation, copied := true }] } }),
    { logical := 1023, source := 1023, target := 1151, kind := .rotation, copied := true }, by decide +kernel⟩

/-! ## Witnesses: ports, flits, fabric time -/

/-- The plan of a ring of four devices, this one at coordinate 0: port 0 leads to 1, port 1 to 3. -/
def ringPlan : Plan := { width := [2], size := [4], dateline := [3], bundle := [1, 2] }

/-- A port that is up and has passed the coordinate check. -/
def upPort : Port := { state := .up, coordOk := true, txLock := 0x1FF, rxLock := 0x1FF }

/-- A running device of that ring, its port 0 as given. -/
def onRing (x : Port) (f : State → State) : State :=
  given .running 0 0 [] (fun s => f { s with
    dev := { s.dev with forwarding := true, transmitters := true }
    fab := { s.fab with plan := some ringPlan, ports := [(0, x), (1, upPort)], bundlePorts := [[0], [1]] } })

/-- A training port whose HELLO round has ended. -/
def greeted : Port := { state := .training, attempts := 2, nonce := 5, peerHello := some {}, peerChain := some 9 }

/-- Every lane that locks is lit by the nominal feed; a lane whose wavelength is dark does not count. -/
theorem test_lit : (∀ tx rx hello start, LitLanes { txLock := tx, rxLock := rx, hello := hello, atHello := start } tx) ∧
    LitLanes { txLock := 0x1FF, rxLock := 0x1FF, hello := true, feed := {} :: List.replicate 8 Feed.nominal } 0x1FE := by
  have h : ∀ k < 9, FeedOk ((List.replicate 9 Feed.nominal).getD k {}) := by unfold FeedOk; decide
  refine ⟨fun tx rx hello start k hk => ⟨fun t => ⟨t, h k hk⟩, And.left⟩, ?_⟩
  unfold LitLanes FeedOk
  decide

/-- Both directions hold at least eight lanes and the HELLO round succeeded, eight lanes received; seven lanes; the start of the HELLO phase, before the round and within it. -/
theorem test_training : (∃ s : State, ∃ p, ∃ tr : Training, p < 24 ∧ LitLanes tr tr.txLock ∧ (s.port p).state = .training ∧ s.dev.transmitters = true ∧ tr.atHello = false ∧
      (8 ≤ popcount9 tr.txLock ∧ 8 ≤ popcount9 tr.rxLock ∧ tr.hello = true ∧ (s.port p).peerHello ≠ none ∧ (s.port p).peerChain ≠ none) ∧ popcount9 tr.rxLock = 8 ∧
      ∃ b, ringPlan.bundleOf p = some b ∧ s.fab.plan = some ringPlan ∧ (s.port p).coordOk = false) ∧
    (∃ s : State, ∃ p, ∃ tr : Training, p < 24 ∧ LitLanes tr tr.txLock ∧ (s.port p).state = .training ∧ s.dev.transmitters = true ∧ tr.atHello = false ∧ popcount9 tr.txLock = 7 ∧
      (s.port p).attempts = 2 ∧ (s.port p).untrainedRecorded = false) ∧
    (∀ nonce ∈ [(0 : BitVec 128), 5], ∃ s : State, ∃ p, ∃ tr : Training, p < 24 ∧ LitLanes tr tr.txLock ∧ (s.port p).state = .training ∧ s.dev.transmitters = true ∧ tr.atHello = true ∧
      8 ≤ popcount9 tr.txLock ∧ 8 ≤ popcount9 tr.rxLock ∧ (s.port p).nonce = nonce) ∧
    (∃ s : State, (s.port 23).state = .down) ∧ (∃ s : State, s.dev.transmitters = false) :=
  ⟨⟨onRing greeted id, 0, { txLock := 0x1FF, rxLock := 0x0FF, hello := true }, by decide, test_lit.1 _ _ _ _, by decide, by decide, by decide, by decide, by decide, 0, by decide⟩,
    ⟨onRing greeted id, 0, { txLock := 0x07F, rxLock := 0x1FF, hello := true }, by decide, test_lit.1 _ _ _ _, by decide⟩,
    fun nonce _ => ⟨onRing { state := .training, nonce := nonce } id, 0, { txLock := 0x1FF, rxLock := 0x1FF, hello := false, atHello := true }, by decide, test_lit.1 _ _ _ _, rfl, rfl, rfl,
      by decide, by decide, rfl⟩,
    ⟨onRing greeted id, by decide⟩, ⟨State.reset, rfl⟩⟩

theorem test_portRetryTimer : ∃ s : State, ∃ p, p < 24 ∧ (s.port p).state = .down ∧ s.dev.transmitters = true := ⟨onRing greeted id, 23, by decide⟩

/-- Lane 7 carries data and lane 8 is spare; the port has gone down twice within the hour. -/
theorem test_lossOfLock : (∃ s : State, ∃ p lane, p < 24 ∧ lane < 9 ∧ (s.port p).state = .up ∧ lane ∈ ((List.range 9).filter (fun i => (s.port p).txLock.getLsbD i)).take 8 ∧
      (lastHour s.time.now (s.port p).downTimes ++ [s.time.now]).length = 3) ∧
    (∃ s : State, ∃ p lane, p < 24 ∧ lane < 9 ∧ (s.port p).state = .up ∧ lane ∉ ((List.range 9).filter (fun i => (s.port p).txLock.getLsbD i)).take 8 ∧
      lane ∉ ((List.range 9).filter (fun i => (s.port p).rxLock.getLsbD i)).take 8) :=
  ⟨⟨onRing { upPort with downTimes := [0, 0] } id, 0, 7, by decide⟩, ⟨onRing upPort id, 0, 8, by decide⟩⟩

/-- The link to a neighbour that another usable port tells of. -/
theorem test_goesDown_floods : ∃ s : State, ∃ p pl b q, s.usablePort p = true ∧ s.fab.plan = some pl ∧ pl.bundleOf p = some b ∧ (pl.address, s.fab.eventNo + 1) ∉ s.fab.seenFloods ∧
    q < 24 ∧ s.usablePort q = true ∧ q ≠ p :=
  ⟨onRing upPort id, 0, ringPlan, 0, 1, by decide⟩

theorem not_helloValid (n : BitVec 128) (h : Hello) (c : BitVec 384) (hn : h.peerNonce ≠ n) : ¬ HelloValid n h c := fun v => hn v.1

/-- An answer to another challenge; whether one to this challenge is signed well is the signature's. -/
theorem test_hello : (∃ s : State, ∃ p, ∃ h : Hello, p < 24 ∧ (s.port p).state = .training ∧ s.dev.transmitters = true ∧ h.peerNonce = 0 ∧ (s.port p).nonce ≠ 0) ∧
    (∃ s : State, ∃ p, ∃ h : Hello, p < 24 ∧ (s.port p).state = .training ∧ s.dev.transmitters = true ∧ h.peerNonce ≠ 0 ∧ (s.port p).peerChain = none) ∧
    (∃ s : State, ∃ p h chain, p < 24 ∧ (s.port p).state = .training ∧ s.dev.transmitters = true ∧ h.peerNonce ≠ 0 ∧ (s.port p).peerChain = some chain ∧
      ¬ HelloValid (s.port p).nonce h chain) :=
  ⟨⟨onRing greeted id, 0, {}, by decide⟩, ⟨onRing { state := .training } id, 0, { peerNonce := 5 }, by decide⟩,
    ⟨onRing greeted id, 0, { peerNonce := 6 }, 9, by decide, rfl, rfl, by decide, rfl, not_helloValid _ _ _ (by decide)⟩⟩

theorem test_helloCert : (∃ s : State, ∃ p, p < 24 ∧ (s.port p).state = .training ∧ s.dev.transmitters = true ∧ (s.port p).peerHello = none) ∧
    (∃ s : State, ∃ p h, p < 24 ∧ (s.port p).state = .training ∧ s.dev.transmitters = true ∧ (s.port p).peerHello = some h ∧ ∀ chain, ¬ HelloValid (s.port p).nonce h chain) :=
  ⟨⟨onRing { state := .training } id, 0, by decide⟩, ⟨onRing greeted id, 0, {}, by decide, rfl, rfl, rfl, fun _ => not_helloValid _ _ _ (by decide)⟩⟩

theorem test_coord : (∃ s : State, ∃ p pl b, ∃ addr : BitVec 24, p < 24 ∧ (s.port p).state = .up ∧ s.fab.plan = some pl ∧ pl.bundleOf p = some b ∧ b / 2 = 0 ∧
      (pl.coord addr.toNat 0 = (pl.coord pl.address 0 + 1) % pl.sizeOf 0) ∧ pl.setCoord addr.toNat 0 0 = pl.setCoord pl.address 0 0) ∧
    (∃ s : State, ∃ p pl b, ∃ addr : BitVec 24, p < 24 ∧ (s.port p).state = .up ∧ s.fab.plan = some pl ∧ pl.bundleOf p = some b ∧ b / 2 = 0 ∧
      pl.coord addr.toNat 0 ≠ (pl.coord pl.address 0 + 1) % pl.sizeOf 0 ∧ pl.coord addr.toNat 0 ≠ (pl.coord pl.address 0 + pl.sizeOf 0 - 1) % pl.sizeOf 0 ∧ (s.port p).coordFailed = false) :=
  ⟨⟨onRing upPort id, 0, ringPlan, 0, 1, by decide⟩, ⟨onRing upPort id, 0, ringPlan, 0, 2, by decide⟩⟩

/-- A whole packet of one flit, with a sequence number and an acknowledgement, arrives with some symbols of a codeword in error, its CRC as sent. -/
def flit0 (fseq fack : BitVec 12) (nak : Bool) : Flit := { fseq := fseq, fack := fack, vc := 11, sop := true, eop := true, nak := nak }

/-- A flit arrives with its own CRC and some symbols of one codeword in error. -/
def arrives (f : Flit) (errors : Nat) : FlitArrival := { flit := f, crc := crc32 (flitBody f), symbolErrors := [errors] }

/-- The checks pass (R256, R257). -/
def Good (a : FlitArrival) : Prop := (∀ e ∈ a.symbolErrors, e ≤ 15) ∧ a.crc = crc32 (flitBody a.flit)

/-- Fifteen symbols in error are corrected, sixteen are not; a flit whose CRC differs is not good. -/
theorem test_good : (∀ f, Good (arrives f 15)) ∧ (∀ f, ¬ Good (arrives f 16)) ∧ ∀ f, ¬ Good { arrives f 0 with crc := ~~~ crc32 (flitBody f) } := by
  refine ⟨fun f => ⟨by simp [arrives], rfl⟩, fun f h => absurd (h.1 16 (by simp [arrives])) (by decide), fun f h => ?_⟩
  have := congrArg (BitVec.getLsbD · 0) h.2
  simp [arrives] at this

/-- A SHORT port with two flits unacknowledged. -/
def shortPort (n : Nat) : Port := { upPort with txSeq := 1, replay := [flit0 4095 0 false, flit0 0 0 false], sameResends := n }

/-- In turn: the checks fail; a flit out of sequence; one in sequence that acknowledges the first of two; one that acknowledges both; an idle flit, which any number suits; a NAK at the 15th and the 16th resend. -/
theorem test_flit_short : (∃ s : State, ∃ p, ∃ a : FlitArrival, p < 24 ∧ (s.port p).state = .up ∧ (s.port p).long = false ∧ ¬ Good a) ∧
    (∃ s : State, ∃ p, ∃ a : FlitArrival, p < 24 ∧ (s.port p).state = .up ∧ (s.port p).long = false ∧ Good a ∧ a.flit.vc ≠ 13 ∧ a.flit.fseq ≠ (s.port p).rxSeq) ∧
    (∃ s : State, ∃ p, ∃ a : FlitArrival, ∃ pre g rest, p < 24 ∧ (s.port p).state = .up ∧ (s.port p).long = false ∧ Good a ∧ a.flit.nak = false ∧ a.flit.fseq = (s.port p).rxSeq ∧
      (s.port p).replay = pre ++ g :: rest ∧ (∀ h ∈ pre, h.fseq ≠ a.flit.fack) ∧ g.fseq = a.flit.fack) ∧
    (∃ s : State, ∃ p, ∃ a : FlitArrival, p < 24 ∧ (s.port p).state = .up ∧ (s.port p).long = false ∧ Good a ∧ a.flit.nak = false ∧ (∀ h ∈ (s.port p).replay, h.fseq ≠ a.flit.fack) ∧
      a.flit.fack = (s.port p).txSeq) ∧
    (∃ s : State, ∃ p, ∃ a : FlitArrival, p < 24 ∧ (s.port p).state = .up ∧ (s.port p).long = false ∧ Good a ∧ a.flit.nak = false ∧ a.flit.vc = 13 ∧ a.flit.fseq ≠ (s.port p).rxSeq) ∧
    (∀ n ∈ [15, 16], ∃ s : State, ∃ p, ∃ a : FlitArrival, ∃ g rest, p < 24 ∧ (s.port p).state = .up ∧ (s.port p).long = false ∧ Good a ∧ a.flit.nak = true ∧
      a.flit.fseq = (s.port p).rxSeq ∧ (s.port p).replay = g :: rest ∧ g.fseq = a.flit.fack ∧ (s.port p).sameResends = n) :=
  ⟨⟨onRing upPort id, 0, arrives (flit0 0 0 false) 16, by decide, rfl, rfl, test_good.2.1 _⟩,
    ⟨onRing upPort id, 0, arrives (flit0 1 0 false) 15, by decide, rfl, rfl, test_good.1 _, by decide, by decide⟩,
    ⟨onRing (shortPort 0) id, 0, arrives (flit0 0 0 false) 15, [flit0 4095 0 false], flit0 0 0 false, [], by decide, rfl, rfl, test_good.1 _, rfl, rfl, rfl, by decide, rfl⟩,
    ⟨onRing (shortPort 0) id, 0, arrives (flit0 0 1 false) 15, by decide, rfl, rfl, test_good.1 _, rfl, by decide, rfl⟩,
    ⟨onRing (shortPort 0) id, 0, arrives { fseq := 7 } 15, by decide, rfl, rfl, test_good.1 _, rfl, rfl, by decide⟩,
    fun n _ => ⟨onRing (shortPort n) id, 0, arrives (flit0 0 4095 true) 15, flit0 4095 0 false, [flit0 0 0 false], by decide, rfl, rfl, test_good.1 _, rfl, rfl, rfl, rfl, rfl⟩⟩

/-- A link-control flit in sequence gives VC 11 two credits. -/
theorem test_flit_credits : ∃ s : State, ∃ p, ∃ a : FlitArrival, ∃ c n, p < 24 ∧ (s.port p).state = .up ∧ (s.port p).long = false ∧ Good a ∧ a.flit.nak = false ∧ a.flit.vc = 12 ∧
    a.flit.fseq = (s.port p).rxSeq ∧ (s.port p).tx = [] ∧ a.flit.credits = [(c, n)] :=
  ⟨onRing upPort id, 0, arrives { vc := 12, credits := [(11, 2)] } 0, 11, 2, by decide, rfl, rfl, ⟨by decide, rfl⟩, rfl, rfl, rfl, rfl, rfl⟩

/-- A LONG port that has dropped flits within the last 10 ms; VC 11 expects number 9. -/
def longPort (n : Nat) : Port := { upPort with long := true, dropTimes := List.replicate n 0, rxSeqVc := [(11, 9)] }

/-- In turn: an idle flit, the expected flit, one that shows a gap in the middle of a packet; the seventh and the eighth drop. -/
theorem test_flit_long : (∃ s : State, ∃ p, ∃ a : FlitArrival, p < 24 ∧ (s.port p).state = .up ∧ (s.port p).long = true ∧ Good a ∧ a.flit.vc = 13) ∧
    (∃ s : State, ∃ p, ∃ a : FlitArrival, p < 24 ∧ (s.port p).state = .up ∧ (s.port p).long = true ∧ Good a ∧ a.flit.vc.toNat < 12 ∧ a.flit.vc.toNat ∉ (s.port p).discardVc ∧
      a.flit.fseq = look 0 a.flit.vc.toNat (s.port p).rxSeqVc ∧ a.flit.sop = true ∧ a.flit.eop = true ∧ a.flit.abort = false) ∧
    (∃ s : State, ∃ p, ∃ a : FlitArrival, p < 24 ∧ (s.port p).state = .up ∧ (s.port p).long = true ∧ Good a ∧ a.flit.vc.toNat < 12 ∧
      a.flit.fseq ≠ look 0 a.flit.vc.toNat (s.port p).rxSeqVc ∧ a.flit.sop = false) ∧
    (∀ n ∈ [6, 7], ∃ s : State, ∃ p, ∃ a : FlitArrival, p < 24 ∧ (s.port p).state = .up ∧ (s.port p).long = true ∧ ¬ Good a ∧
      ((s.port p).dropTimes.filter (fun t => decide (s.time.now < t + 20000000)) ++ [s.time.now]).length = n + 1) := by
  refine ⟨⟨onRing (longPort 0) id, 0, arrives {} 15, by decide, rfl, rfl, test_good.1 _, rfl⟩,
    ⟨onRing (longPort 0) id, 0, arrives (flit0 9 0 false) 15, by decide, rfl, rfl, test_good.1 _, by decide, by decide, rfl, rfl, rfl, rfl⟩,
    ⟨onRing (longPort 0) id, 0, arrives { flit0 8 0 false with sop := false } 15, by decide, rfl, rfl, test_good.1 _, by decide, by decide, rfl⟩, fun n hn => ?_⟩
  refine ⟨onRing (longPort n) id, 0, arrives (flit0 9 0 false) 16, by decide, rfl, rfl, test_good.2.1 _, ?_⟩
  obtain rfl | rfl := (by simpa using hn : n = 6 ∨ n = 7) <;> decide

theorem test_linkControl : (∃ s : State, ∃ p, p < 24 ∧ (s.port p).state = .up ∧ s.timePlan = none) ∧
    (∃ s : State, ∃ p pl, p < 24 ∧ (s.port p).state = .up ∧ s.timePlan = some pl ∧ pl.address = pl.anchor) ∧
    (∃ s : State, ∃ p pl, p < 24 ∧ (s.port p).state = .up ∧ s.timePlan = some pl ∧ pl.address ≠ pl.anchor ∧ s.fab.plan ≠ none ∧ (s.port p).coordOk = true ∧ (s.port p).coordFailed = false ∧
      (s.port 1).state = .up ∧ (s.port 1).peerBudget = some (101, 7) ∧ s.job = none ∧ s.time.locked = false) ∧
    (∃ (pl : Plan) (budget : Nat), 1000 * pl.timeBudget < budget + 400) :=
  ⟨⟨onRing upPort (fun s => { s with fab := { s.fab with plan := none } }), 0, by decide⟩, ⟨onRing upPort id, 0, ringPlan, by decide⟩,
    ⟨onRing upPort (fun s => { s with fab := { s.fab with plan := some { ringPlan with anchor := 1 }, ports := [(0, upPort), (1, { upPort with peerBudget := some (101, 7) })] } }), 0,
      { ringPlan with anchor := 1 }, by decide⟩, ⟨ringPlan, 49601, by decide⟩⟩

/-- Every other up port offers more than 100. -/
theorem test_linkControl_best : ∃ s : State, ∀ q, q ≠ 0 → q < 24 → (s.port q).state = .up → ∀ b, (s.port q).peerBudget = some b → 100 < b.1 := by
  refine ⟨onRing upPort (fun s => { s with fab := { s.fab with ports := [(0, upPort), (1, { upPort with peerBudget := some (101, 7) })] } }), ?_⟩
  have h : (List.range 24).all (fun q => q == 0 || match ((onRing upPort (fun s => { s with fab := { s.fab with ports := [(0, upPort), (1, { upPort with peerBudget := some (101, 7) })] } })).port q).peerBudget with
    | some b => decide (100 < b.1) | none => true) = true := by decide
  intro q h0 hq _ b hb
  have := List.all_eq_true.mp h q (List.mem_range.mpr hq)
  rw [hb] at this
  simpa [h0] using this

/-! ## Witnesses: routing, floods, swaps -/

/-- A packet for a device of the ring, of a type, in a class that its type travels in. -/
def packet0 (dest : BitVec 24) (typ : BitVec 6) : Packet := { dest := dest, src := 3, typ := typ, cls := if typ.toNat < 0x20 then 2 else 0 }

/-- The device forwards, with an exception entry for dimension 0. -/
def routing (l : List Exc) : State := onRing upPort (fun s => { s with fab := { s.fab with plan := some { ringPlan with exceptions := l } } })

/-- A packet that is taken in transit at a device (R261, R307). -/
def Taken (s : State) (k : Packet) : Prop :=
  let typ := k.typ.toNat
  (typ ∈ [0x01, 0x02, 0x03, 0x04, 0x08, 0x20, 0x21] ∨ (0x10 ≤ typ ∧ typ ≤ 0x1F)) ∧ ¬ (0x13 ≤ typ ∧ typ ≤ 0x1F ∧ s.address = some k.dest.toNat) ∧ k.payload.length ≤ 2048 ∧
    (if typ = 0x20 ∨ typ = 0x21 then k.cls = 0 else if 0x10 ≤ typ then k.cls = 1 ∨ k.cls = 2 else k.cls = 2)

/-- An unknown type, a reserved type of a collective for this device, 2,049 bytes, and a class in which the type does not travel. -/
theorem test_transit_refused : ∃ s : State, ∃ p, p < 24 ∧ s.forwards = true ∧ (s.port p).state = .up ∧
    ∀ k ∈ [packet0 1 0x22, packet0 0 0x1F, { packet0 1 1 with payload := List.replicate 2049 0 }, { packet0 1 0x20 with cls := 2 }], ¬ Taken s k := by
  refine ⟨routing [], 1, by decide, by decide, by decide, ?_⟩
  unfold Taken
  decide +kernel

theorem test_transit_no_bundle : ∃ s : State, ∃ p k pl, p < 24 ∧ s.forwards = true ∧ (s.port p).state = .up ∧ Taken s k ∧ s.fab.plan = some pl ∧ pl.bundleOf p = none :=
  ⟨{ routing [] with fab := { (routing []).fab with ports := [(23, upPort)] } }, 23, packet0 1 1, ringPlan, by unfold Taken; decide⟩

theorem test_transit_here : ∃ s : State, ∃ p, ∃ k : Packet, ∃ pl : Plan, p < 24 ∧ s.forwards = true ∧ (s.port p).state = .up ∧ Taken s k ∧ s.fab.plan = some pl ∧
    pl.bundleOf p ≠ none ∧ ∀ i ∈ correction pl k, pl.coord k.dest.toNat i = pl.coord pl.address i :=
  ⟨routing [], 1, { packet0 0 0x12 with payload := List.replicate 2048 0 }, ringPlan, by unfold Taken; decide +kernel⟩

/-- The first differing dimension is dimension 0; the bundle is usable and the flow's port is port 0, and with port 0 down it is not. -/
theorem test_transit : (∃ s : State, ∃ p, ∃ k : Packet, ∃ pl : Plan, p < 24 ∧ s.forwards = true ∧ (s.port p).state = .up ∧ Taken s k ∧ pl.bundleOf p ≠ none ∧ s.fab.plan = some pl ∧ correction pl k = [] ++ 0 :: [] ∧
      pl.coord k.dest.toNat 0 ≠ pl.coord pl.address 0 ∧ pl.exceptions ++ s.fab.computed = [] ∧ s.bundleUsable pl 0 = true ∧ s.portFor 0 k = some 0) ∧
    (∃ s : State, ∃ p, ∃ k : Packet, ∃ pl : Plan, p < 24 ∧ s.forwards = true ∧ (s.port p).state = .up ∧ Taken s k ∧ pl.bundleOf p ≠ none ∧ s.fab.plan = some pl ∧ correction pl k = [] ++ 0 :: [] ∧
      pl.coord k.dest.toNat 0 ≠ pl.coord pl.address 0 ∧ s.bundleUsable pl 0 = false) :=
  ⟨⟨routing [], 1, packet0 2 1, ringPlan, by unfold Taken; decide⟩, ⟨onRing {} id, 1, packet0 2 1, ringPlan, by unfold Taken; decide⟩⟩

/-- An entry that a packet to coordinate 2 matches. -/
def exc0 (action lo hi : Nat) : Exc := { valid := true, action := action, lo := lo, hi := hi, p0 := true, p1 := true }

/-- What a packet of that device meets on the ring with the entry. -/
def Meets (x : Nat × Nat × Nat) (s : State) (p : Nat) (k : Packet) (pl : Plan) (e : Exc) : Prop :=
  p < 24 ∧ s.forwards = true ∧ (s.port p).state = .up ∧ Taken s k ∧ pl.bundleOf p ≠ none ∧ s.fab.plan = some pl ∧ correction pl k = [] ++ 0 :: [] ∧ pl.coord k.dest.toNat 0 = 2 ∧
  pl.coord pl.address 0 = 0 ∧ pl.exceptions ++ s.fab.computed = [] ++ e :: [] ∧ e.valid = true ∧ e.dim = 0 ∧ e.p0 = true ∧
  (if e.lo ≤ e.hi then e.lo ≤ 2 ∧ 2 ≤ e.hi else e.lo ≤ 2 ∨ 2 ≤ e.hi) ∧ e.action = x.1 ∧ k.phase = false

/-- Each action, at the ends of ranges that do and do not wrap. -/
theorem test_transit_exceptions : ∀ x ∈ [(0, 2, 3), (1, 0, 2), (2, 3, 2), (2, 2, 1), (3, 2, 2)], ∃ s p k pl e, Meets x s p k pl e := by
  have h : ∀ x ∈ [(0, 2, 3), (1, 0, 2), (2, 3, 2), (2, 2, 1), (3, 2, 2)],
      Meets x (routing [exc0 x.1 x.2.1 x.2.2]) 1 (packet0 2 1) { ringPlan with exceptions := [exc0 x.1 x.2.1 x.2.2] } (exc0 x.1 x.2.1 x.2.2) := by
    unfold Meets Taken
    decide
  exact fun x hx => ⟨_, _, _, _, _, h x hx⟩

/-- A flood event of device 2, detected at a tick. -/
def flood0 (tick : Nat) : Flood := { device := 2, dim := 0, plus := true, up := false, tick := tick, event := 1 }

theorem test_flood : (∃ s : State, ∃ p, ∃ e : Flood, p < 24 ∧ s.forwards = true ∧ (s.port p).state = .up ∧ (e.device, e.event) ∈ s.fab.seenFloods) ∧
    (∃ s : State, ∃ p, ∃ e : Flood, p < 24 ∧ s.forwards = true ∧ (s.port p).state = .up ∧ (e.device, e.event) ∉ s.fab.seenFloods ∧ s.dev.restarting = true ∧ s.fab.floodQueue.length = 63) ∧
    (∃ s : State, ∃ p, ∃ e : Flood, p < 24 ∧ s.forwards = true ∧ (s.port p).state = .up ∧ (e.device, e.event) ∉ s.fab.seenFloods ∧ s.dev.restarting = true ∧ 64 ≤ s.fab.floodQueue.length) ∧
    (∃ s : State, ∃ p, ∃ e : Flood, ∃ pl, p < 24 ∧ s.forwards = true ∧ (s.port p).state = .up ∧ (e.device, e.event) ∉ s.fab.seenFloods ∧ s.dev.restarting = false ∧ e.noRoute = false ∧
      s.fab.plan = some pl ∧ pl.heal = true ∧ e.tick + pl.floodTicks = s.time.tick) ∧
    (∃ s : State, ∃ p, ∃ e : Flood, ∃ pl, p < 24 ∧ s.forwards = true ∧ (s.port p).state = .up ∧ (e.device, e.event) ∉ s.fab.seenFloods ∧ s.dev.restarting = false ∧ e.noRoute = false ∧
      s.fab.plan = some pl ∧ pl.heal = true ∧ s.time.tick + 1 = e.tick + pl.floodTicks ∧ s.fab.swap = none) :=
  ⟨⟨onRing upPort (fun s => { s with fab := { s.fab with seenFloods := [(2, 1)] } }), 0, flood0 0, by decide⟩,
    ⟨onRing upPort (fun s => { s with dev := { s.dev with restarting := true }, fab := { s.fab with floodQueue := List.replicate 63 (0, flood0 0) } }), 0, flood0 0, by decide⟩,
    ⟨onRing upPort (fun s => { s with dev := { s.dev with restarting := true }, fab := { s.fab with floodQueue := List.replicate 64 (0, flood0 0) } }), 0, flood0 0, by decide⟩,
    ⟨onRing upPort (fun s => { s with time := { s.time with tick := 4 } }), 0, flood0 0, ringPlan, by decide⟩,
    ⟨onRing upPort (fun s => { s with time := { s.time with tick := 3 } }), 0, flood0 0, ringPlan, by decide⟩⟩

/-- A swap of the tables, before or after its stop, at fabric tick 9. -/
def swapping (w : Swap) (stopped : Bool) : State :=
  onRing upPort (fun s => { s with fab := { s.fab with swap := some w, stopped := stopped, shadow := some ringPlan }, time := { s.time with tick := 9 } })

theorem test_swaps : (∃ s : State, s.fab.swap = none) ∧ (∃ s : State, ∃ w, s.fab.swap = some w ∧ w.stopped = false ∧ w.stopAt ≤ s.time.tick ∧ s.ticking = true) ∧
    (∃ s : State, ∃ w mb, s.fab.swap = some w ∧ w.stopped = true ∧ w.swapAt ≤ s.time.tick ∧ s.ticking = true ∧ w.plan = true ∧ s.fab.shadow.isSome = true ∧ w.mailbox = some mb ∧
      (s.mailbox mb).wait = some .swap) ∧
    (∃ s : State, ∃ w pl, s.fab.swap = some w ∧ w.stopped = false ∧ w.stopAt ≤ s.time.tick ∧ s.ticking = true ∧
      (w.plan && !w.formed && decide (w.planAt ≤ s.time.tick) && s.fab.shadow.isSome && !s.dev.restarting) = true ∧ s.fab.shadow = some pl ∧ pl.heal = false) ∧
    (∃ s : State, ∃ w, s.fab.swap = some w ∧ w.stopped = true ∧ w.swapAt ≤ s.time.tick ∧ s.ticking = true ∧ w.plan = false) ∧
    (∃ s : State, s.fab.stopped = false) ∧ (∃ s : State, s.fab.stopped = true ∧ s.fab.swap = none ∧ s.ticking = true ∧ s.coll = []) :=
  ⟨⟨State.reset, rfl⟩, ⟨swapping { stopAt := 9, swapAt := 41 } false, { stopAt := 9, swapAt := 41 }, by decide⟩,
    ⟨{ swapping { stopAt := 8, swapAt := 9, plan := true, mailbox := some 2, stopped := true } true with host := { mailboxes := [(2, { owner := true, wait := some .swap })] } },
      { stopAt := 8, swapAt := 9, plan := true, mailbox := some 2, stopped := true }, 2, by decide⟩,
    ⟨{ swapping { stopAt := 9, swapAt := 41, plan := true, planAt := 9 } false with fab := { (swapping { stopAt := 9, swapAt := 41, plan := true, planAt := 9 } false).fab with
      shadow := some { ringPlan with heal := false } } }, { stopAt := 9, swapAt := 41, plan := true, planAt := 9 }, { ringPlan with heal := false }, by decide⟩,
    ⟨swapping { stopAt := 8, swapAt := 9, stopped := true } true, { stopAt := 8, swapAt := 9, stopped := true }, by decide⟩,
    ⟨State.reset, rfl⟩, ⟨onRing upPort (fun s => { s with fab := { s.fab with stopped := true } }), by decide⟩⟩

theorem test_arbiter_and_fence : (∃ s : State, ∃ p, p < 24 ∧ s.forwards = true) ∧
    ∃ s : State, ∃ p, ∃ k : Packet, p < 24 ∧ (s.port p).state = .up ∧ s.address = some k.dest.toNat ∧ k.cls = 0 :=
  ⟨⟨routing [], 23, by decide⟩, ⟨routing [], 0, packet0 0 0x21, by decide⟩⟩

/-! ## Witnesses: remote operations -/

/-- A request of device 3 with a type, an offset and a number, to window 0 of generation 1. -/
def request0 (typ : BitVec 6) (offset e2e : BitVec 32) : Packet := { dest := 0, src := 3, typ := typ, wgen := 1, offset := offset, e2eSeq := e2e }

/-- Window 0 holds loaf 0 for every peer and every operation; device 3 has an entry in the peer table. -/
def serving (x : Peer) (w : Window) : State :=
  onRing upPort (fun s => { open1 job1 s with fab := { s.fab with windows := [(0, w)], peers := [x] }, mem := { s.mem with dir := [(0, { frameC := 20000, frameP := 20001 })] } })

/-- That window. -/
def window0 : Window := { count := 1, gen := 1, valid := true, ops := 15, peerAll := true }

theorem test_request_turned_away : (∃ s : State, ∃ p : Packet, p.typ.toNat = 1 ∧ s.forwards = true ∧ s.address = some p.dest.toNat ∧ s.shut = true ∧ s.trigrim p.src.toNat = false) ∧
    (∃ s : State, ∃ p : Packet, p.typ.toNat = 1 ∧ s.forwards = true ∧ s.address = some p.dest.toNat ∧ s.shut = true ∧ s.trigrim p.src.toNat = true) ∧
    (∃ s : State, ∃ p : Packet, p.typ.toNat = 1 ∧ s.forwards = true ∧ s.address = some p.dest.toNat ∧ s.shut = false ∧ s.job = none) :=
  ⟨⟨onRing upPort (fun s => { s with dev := { s.dev with resetBusy := true } }), request0 1 0 0, by decide⟩,
    ⟨onRing { upPort with peerHello := some { generation := 3, fabricAddr := 0x80000003 } } (fun s => { s with dev := { s.dev with fenced := true } }), request0 1 0 0, by decide⟩,
    ⟨onRing upPort id, request0 1 0 0, by decide⟩⟩

/-- The peer table is full of other devices. -/
theorem test_request_full : ∃ s : State, ∃ p : Packet, p.typ.toNat = 1 ∧ s.forwards = true ∧ s.address = some p.dest.toNat ∧ s.shut = false ∧ s.job ≠ none ∧ s.peer p.src.toNat = none ∧
    65536 ≤ s.fab.peers.length := by
  refine ⟨onRing upPort (fun s => { open1 job1 s with fab := { s.fab with peers := List.replicate 65536 { addr := 1 } } }), request0 1 0 0, by decide, by decide, by decide, by decide, by decide, ?_,
    Nat.le_of_eq List.length_replicate.symm⟩
  have h : ∀ n : Nat, (List.replicate n ({ addr := 1 } : Peer)).find? (fun x => x.addr == 3) = none := fun n => List.find?_eq_none.mpr fun x hx => by
    rw [(List.mem_replicate.mp hx).2]
    decide
  exact h 65536

theorem test_request_in_turn : (∃ s : State, ∃ p : Packet, ∃ x : Peer, s.peer p.src.toNat = some x ∧ s.shut = false ∧ s.job ≠ none ∧ p.e2eSeq.toNat = x.expected ∧ look? p.window.toNat s.fab.windows = none) ∧
    (∃ s : State, ∃ p : Packet, ∃ x : Peer, ∃ w, s.peer p.src.toNat = some x ∧ s.shut = false ∧ s.job ≠ none ∧ p.e2eSeq.toNat = x.expected ∧ look? p.window.toNat s.fab.windows = some w ∧ w.valid = true ∧ w.gen ≠ p.wgen) ∧
    (∃ s : State, ∃ p : Packet, ∃ x : Peer, ∃ w, s.peer p.src.toNat = some x ∧ s.shut = false ∧ s.job ≠ none ∧ p.e2eSeq.toNat = x.expected ∧ look? p.window.toNat s.fab.windows = some w ∧ w.valid = true ∧ w.gen = p.wgen ∧
      w.ops.getLsbD 3 = false) ∧
    (∃ s : State, ∃ p : Packet, ∃ x : Peer, ∃ w, s.peer p.src.toNat = some x ∧ s.shut = false ∧ s.job ≠ none ∧ p.e2eSeq.toNat = x.expected ∧ look? p.window.toNat s.fab.windows = some w ∧ w.valid = true ∧ w.gen = p.wgen ∧
      w.ops.getLsbD 0 = true ∧ w.peerAll = false ∧ w.peer = p.src.toNat ∧ 2048 * w.count ≤ lineNamed 0 p) :=
  ⟨⟨serving { addr := 3 } window0, { request0 1 0 0 with window := 1 }, { addr := 3 }, by decide⟩,
    ⟨serving { addr := 3 } { window0 with gen := 2 }, request0 1 0 0, { addr := 3 }, { window0 with gen := 2 }, by decide⟩,
    ⟨serving { addr := 3 } { window0 with ops := 7 }, request0 4 0 0, { addr := 3 }, { window0 with ops := 7 }, by decide⟩,
    ⟨serving { addr := 3 } { window0 with peerAll := false, peer := 3 }, request0 1 2048 0, { addr := 3 }, { window0 with peerAll := false, peer := 3 }, by decide⟩⟩

/-- The last line of the window, for each operation; its frame is in HBM4 and nothing has written the line. -/
theorem test_request_taken : ∀ op ∈ [0, 1, 2, 3], ∃ s : State, ∃ p : Packet, ∃ x : Peer, ∃ w f, s.forwards = true ∧ s.address = some p.dest.toNat ∧ s.peer p.src.toNat = some x ∧ s.shut = false ∧ s.job ≠ none ∧
    p.e2eSeq.toNat = x.expected ∧ look? p.window.toNat s.fab.windows = some w ∧ w.valid = true ∧ w.gen = p.wgen ∧ w.ops.getLsbD op = true ∧ w.peerAll = true ∧ lineNamed op p < 2048 * w.count ∧
    s.pendingFrame (w.first + lineNamed op p / 2048) = some f ∧ 14336 ≤ f ∧ look? (w.first + lineNamed op p / 2048, lineNamed op p % 2048) s.mem.writers = none ∧
    s.mem.byteWriters = [] ∧ (opRead op p .clean s).job ≠ none ∧
    s.addAllowed p.src.toNat (w.first + lineNamed op p / 2048) = true := by
  intro op hop
  refine ⟨serving { addr := 3 } window0, request0 1 2047 0, { addr := 3 }, window0, 20001, ?_⟩
  simp only [List.mem_cons, List.mem_nil_iff, or_false] at hop
  rcases hop with h | h | h | h <;> subst h <;> decide

/-- A state in which every stack has lost a line within the last day: another uncorrectable error of one loses the stack, which ends the job (R244). -/
def worn (s : State) : State := { s with mem := { s.mem with uePast := (List.range 16).map (fun k => (Source.hbm k, 0)) } }

/-- The read of a GET that leads to a reset. -/
theorem test_request_read_resets : ∃ s : State, ∃ p : Packet, ∃ o, s.job ≠ none ∧ p.typ.toNat = 2 ∧ (opRead 1 p o s).job = none :=
  ⟨worn (serving { addr := 3 } window0), request0 2 0 0, .uncorrectable 5, by decide +kernel⟩

/-- An ADD to a loaf whose format is not a 16-bit one. -/
theorem test_request_add_refused : ∃ s : State, ∃ x w, s.peer 3 = some x ∧ look? 0 s.fab.windows = some w ∧ w.valid = true ∧ w.ops.getLsbD 2 = true ∧ s.addAllowed 3 (w.first + 0 / 2048) = false :=
  ⟨{ serving { addr := 3 } window0 with job := some { job1 with image := { job1.image with numerics := [{ format := 0 }] } } }, { addr := 3 }, window0, by decide⟩

theorem test_request_out_of_turn : (∃ s : State, ∃ p : Packet, ∃ x : Peer, s.peer p.src.toNat = some x ∧ s.shut = false ∧ s.job ≠ none ∧ x.expected < p.e2eSeq.toNat ∧ p.e2eSeq.toNat + 1 = x.expected + 2 ^ 31) ∧
    (∃ s : State, ∃ p : Packet, ∃ x : Peer, s.peer p.src.toNat = some x ∧ s.shut = false ∧ s.job ≠ none ∧ p.e2eSeq.toNat < x.expected ∧ x.expected < p.e2eSeq.toNat + 2 ^ 31 ∧ s.mem.journal = [] ∧
      look? p.e2eSeq.toNat (inTurn p x).refusals = some 2) ∧
    (∃ s : State, ∃ p : Packet, ∃ x : Peer, s.peer p.src.toNat = some x ∧ s.shut = false ∧ s.job ≠ none ∧ p.e2eSeq.toNat < x.expected ∧ x.expected < p.e2eSeq.toNat + 2 ^ 31 ∧ s.mem.journal = [] ∧
      look? p.e2eSeq.toNat (inTurn p x).refusals = none ∧ look? p.e2eSeq.toNat (inTurn p x).casResults = some 8) :=
  ⟨⟨serving { addr := 3 } window0, request0 1 0 0x7FFFFFFF, { addr := 3 }, by decide⟩,
    ⟨serving { addr := 3, expected := 9, refusals := [(8, 2)] } window0, { request0 1 0 8 with chunk := 7 }, { addr := 3, expected := 9, refusals := [(8, 2)] }, by decide⟩,
    ⟨serving { addr := 3, expected := 9, casResults := [(8, 8)] } window0, { request0 4 0 8 with chunk := 0xFFFFFFFF }, { addr := 3, expected := 9, casResults := [(8, 8)] }, by decide⟩⟩

/-- One operation of this device without a reply. -/
def asking (tries : Nat) : Peer := { addr := 3, retries := tries, unreplied := [{ seq := 8, packet := { request0 1 0 8 with dest := 3, src := 0 }, proxy := 1, line := 0 }] }

theorem test_reply : ∃ s : State, ∃ p : Packet, ∃ x : Peer, ∃ u, p.typ = 8 ∧ s.forwards = true ∧ s.shut = false ∧ s.address = some p.dest.toNat ∧ p.rgen.toNat = s.fab.resetGen % 16 ∧ s.peer p.src.toNat = some x ∧
    x.unreplied.find? (fun u => u.seq == p.e2eSeq.toNat) = some u ∧ x.waiting = [] ∧ s.coll = [] ∧ u.packet.typ = 1 ∧ look? u.proxy s.fab.proxies = some window0 :=
  ⟨{ serving (asking 0) window0 with fab := { (serving (asking 0) window0).fab with proxies := [(1, window0)] } }, request0 8 0 8, asking 0,
    { seq := 8, packet := { request0 1 0 8 with dest := 3, src := 0 }, proxy := 1, line := 0 }, by decide⟩

theorem test_e2eTimeout : (∃ s : State, ∃ a pl x, a < 2 ^ 24 ∧ s.fab.plan = some pl ∧ s.peer a = some x ∧ (∀ u ∈ x.unreplied, s.time.tick < u.sentAt + pl.e2eTimeout)) ∧
    (∃ s : State, ∃ a pl x, a < 2 ^ 24 ∧ s.fab.plan = some pl ∧ s.peer a = some x ∧ s.fab.stopped = false ∧ (∃ u ∈ x.unreplied, u.sentAt + pl.e2eTimeout = s.time.tick) ∧ x.retries + 1 = pl.e2eRetries) ∧
    (∃ s : State, ∃ a pl x, a < 2 ^ 24 ∧ s.fab.plan = some pl ∧ s.peer a = some x ∧ s.fab.stopped = false ∧ (∃ u ∈ x.unreplied, u.sentAt + pl.e2eTimeout = s.time.tick) ∧ x.retries = pl.e2eRetries) :=
  ⟨⟨{ serving (asking 0) window0 with time := { State.reset.time with tick := 7 } }, 3, ringPlan, asking 0, by decide⟩,
    ⟨{ serving (asking 7) window0 with time := { State.reset.time with tick := 8 } }, 3, ringPlan, asking 7, by decide⟩,
    ⟨{ serving (asking 8) window0 with time := { State.reset.time with tick := 8 } }, 3, ringPlan, asking 8, by decide⟩⟩

/-! ## Witnesses: collectives -/

/-- A job with three collective entries on the ring: REDUCE_SCATTER of 1,024 lines, ALL_TO_ALL_V and BARRIER. -/
def collJob : Job :=
  { job1 with
    started := true
    decls := [{ count := 4 }]
    collIssued := [0, 1, 2]
    image := { job1.image with
      collPresent := true
      groups := [{ dimMask := 1 }]
      colls := [{ op := 2, srcLines := 1024, dstLoaf := 1, dstLines := 256, stages := 3 }, { op := 6, algo := 2, dstLoaf := 1, countLoaf := 2, stages := 2 }, { op := 7, algo := 4, stages := 2 }] } }

/-- The running device with that job and some entries begun. -/
def inColl (l : List CollRun) (f : State → State) : State := onRing upPort (fun s => f { open1 collJob s with coll := l })

/-- A collective packet of a rank for an entry, of a type and a chunk. -/
def collPacket (src : BitVec 24) (typ : BitVec 6) (coll : BitVec 16) (chunk : BitVec 32) (payload : List Byte) : Packet :=
  { dest := 0, src := src, typ := typ, cls := 1, coll := coll, chunk := chunk, payload := payload }

theorem test_coll_turned_away : (∃ s : State, ∃ p : Packet, p.typ.toNat = 0x10 ∧ s.forwards = true ∧ s.address = some p.dest.toNat ∧ s.shut = true) ∧
    (∃ s : State, ∃ p : Packet, p.typ.toNat = 0x12 ∧ s.forwards = true ∧ s.address = some p.dest.toNat ∧ s.shut = false ∧ (s.collCtx p.coll.toNat).isNone = true) ∧
    (∃ s : State, ∃ p : Packet, p.typ.toNat = 0x20 ∧ s.forwards = true ∧ s.address = some p.dest.toNat ∧ s.shut = false ∧ (s.collCtx p.coll.toNat).isSome = true ∧
      (p.window.toNat + 4096 - s.step % 4096) % 4096 = 2047) ∧
    (∃ s : State, ∃ p : Packet, p.typ.toNat = 0x20 ∧ s.forwards = true ∧ s.address = some p.dest.toNat ∧ s.shut = false ∧ (s.collCtx p.coll.toNat).isSome = true ∧
      (p.window.toNat + 4096 - s.step % 4096) % 4096 = 2048) :=
  ⟨⟨inColl [] (fun s => { s with dev := { s.dev with fenced := true } }), collPacket 3 0x10 0 0 [], by decide⟩, ⟨inColl [] id, collPacket 3 0x12 3 0 [], by decide⟩,
    ⟨inColl [] id, { collPacket 3 0x20 2 0 [] with window := 2047 }, by decide⟩, ⟨inColl [] id, { collPacket 3 0x20 2 0 [] with window := 2048 }, by decide⟩⟩

/-- A packet of a reserved type for this device, at both ends of the range. -/
theorem test_coll_reserved : ∀ ty ∈ [0x13, 0x1F], ∃ s : State, ∃ p : Packet, p.typ.toNat = ty ∧ s.forwards = true ∧ s.address = some p.dest.toNat :=
  fun ty h => ⟨inColl [] id, collPacket 3 (BitVec.ofNat 6 ty) 0 0 [], by
    obtain rfl | rfl := (by simpa using h : ty = 0x13 ∨ ty = 0x1F) <;> decide⟩

/-- Entries 0 and 2 as this device sees them. -/
def ctx0 : CollCtx :=
  { coll := 0, im := collJob.image, ds := collJob.decls, pl := ringPlan, e := { op := 2, srcLines := 1024, dstLoaf := 1, dstLines := 256, stages := 3 }
    sh := { op := 2, algo := 0, p := 4, r := 0, root := 0, ring := [4], units := 8 } }

def ctx2 : CollCtx :=
  { coll := 2, im := collJob.image, ds := collJob.decls, pl := ringPlan, e := { op := 7, algo := 4, stages := 2 }
    sh := { op := 7, algo := 4, p := 4, r := 0, root := 0, ring := [4], units := 0 } }

/-- A chunk of rank 3 that entry 0 expects in stage 0, and what the entry holds of it. -/
def Expects (s : State) (p : Packet) (ok : CollCtx → Nat × Nat → RecvChunk → Prop) : Prop :=
  ∃ c x size, InStepOf s p 0x10 c ∧ c.e.op ≠ 7 ∧
    (c.rank p.src.toNat).bind (fun q => (c.recvs (p.chunk.toNat / 2 ^ 20)).find? (fun x => x.peer == q)) = some x ∧
    c.recvSize ((s.run c.coll).getD { coll := c.coll, step := s.step }) x = some size ∧ p.chunk.toNat % 2 ^ 20 < Nat.max 1 (c.chunks size.1) ∧
    ok c size ((((s.run c.coll).getD { coll := c.coll, step := s.step }).chunk? p.chunk.toNat p.src.toNat).getD { chunk := p.chunk.toNat, peer := p.src.toNat, epoch := p.epoch })

/-- Chunk 3 is the last of the transfer. -/
theorem test_chunkData_again : ∃ s p, Expects s p (fun _ _ y => y.complete = true) :=
  ⟨inColl [{ coll := 0, step := 0, recv := [{ chunk := 3, peer := 3, complete := true }] }] id, collPacket 3 0x10 0 3 [], _, _, _, ⟨rfl, rfl, rfl, rfl, rfl, rfl⟩, by decide, rfl, rfl, by decide, rfl⟩

theorem test_chunkData_part : ∃ s p, Expects s p (fun c size y => y.complete = false ∧ ∀ d, ¬ Whole (holding y p) (c.chunkBytes size 3) d) :=
  ⟨inColl [] id, collPacket 3 0x10 0 3 (List.replicate 2048 1), _, _, _, ⟨rfl, rfl, rfl, rfl, rfl, rfl⟩, by decide, rfl, rfl, by decide, rfl, fun _ h => absurd h.1 (by decide +kernel)⟩

theorem test_chunkData_whole : ∃ s p, Expects s p (fun c size y => y.complete = false ∧ ∃ d, Whole (holding y p) (c.chunkBytes size 3) d) :=
  ⟨inColl [{ coll := 0, step := 0, recv := [{ chunk := 3, peer := 3, held := [(32, List.replicate 2048 2)] }] }] id, collPacket 3 0x10 0 3 (List.replicate 2048 1), _, _, _,
    ⟨rfl, rfl, rfl, rfl, rfl, rfl⟩, by decide, rfl, rfl, by decide, rfl, _, by decide +kernel, rfl⟩

theorem test_chunkCount : (∃ s : State, ∃ p : Packet, ∃ c : CollCtx, ∃ q, InStepOf s p 0x12 c ∧ c.e.op = 6 ∧ c.rank p.src.toNat = some q ∧ look? q ((s.run c.coll).getD { coll := c.coll, step := s.step }).recvCounts ≠ none) ∧
    ∃ s : State, ∃ p : Packet, ∃ c : CollCtx, ∃ q, InStepOf s p 0x12 c ∧ c.e.op = 6 ∧ c.rank p.src.toNat = some q ∧
      look? q ((s.run c.coll).getD { coll := c.coll, step := s.step }).recvCounts = none ∧ ((s.run c.coll).getD { coll := c.coll, step := s.step }).recv = [] ∧
      ((s.run c.coll).getD { coll := c.coll, step := s.step }).begun = false :=
  ⟨⟨inColl [{ coll := 1, step := 0, recvCounts := [(3, 64)] }] id, collPacket 3 0x12 1 0 [], _, 3, ⟨rfl, rfl, rfl, rfl, rfl, rfl⟩, rfl, by decide, by decide⟩,
    ⟨inColl [] id, collPacket 3 0x12 1 0 [], _, 3, ⟨rfl, rfl, rfl, rfl, rfl, rfl⟩, rfl, by decide, by decide, by decide, by decide⟩⟩

/-- The barrier at a stage, its message sent. -/
def barrierAt (n : Nat) : CollRun := { coll := 2, step := 0, stage := n, begun := true, sent := [{ chunk := n * 2 ^ 20, peer := 1 }] }

theorem test_barrier : (∃ s : State, ∃ p : Packet, ∃ c : CollCtx, ∃ r : CollRun, ∃ x : Xfer, InStepOf s p 0x20 c ∧ c.coll = p.coll.toNat ∧ c.e.op = 7 ∧ s.run c.coll = some r ∧ r.begun = true ∧ r.finished = false ∧
      r.sent.any (fun k => k.chunk / 2 ^ 20 == r.stage) = true ∧ c.recvs r.stage = [x] ∧ x.combine = false ∧ c.rank p.src.toNat = some x.peer ∧ c.addr x.peer = p.src.toNat ∧
      p.chunk.toNat = r.stage * 2 ^ 20 ∧ p.offset = 0 ∧ r.chunk? p.chunk.toNat p.src.toNat = none ∧ r.stage + 1 < c.e.stages ∧
      ∃ w ∈ c.recvs (r.stage + 1), r.chunk? ((r.stage + 1) * 2 ^ 20) (c.addr w.peer) = none) ∧
    ∃ s : State, ∃ p : Packet, ∃ c : CollCtx, ∃ r : CollRun, ∃ x : Xfer, InStepOf s p 0x20 c ∧ c.coll = p.coll.toNat ∧ c.e.op = 7 ∧ s.run c.coll = some r ∧ r.begun = true ∧ r.finished = false ∧
      r.sent.any (fun k => k.chunk / 2 ^ 20 == r.stage) = true ∧ c.recvs r.stage = [x] ∧ x.combine = false ∧ c.rank p.src.toNat = some x.peer ∧ c.addr x.peer = p.src.toNat ∧
      p.chunk.toNat = r.stage * 2 ^ 20 ∧ p.offset = 0 ∧ r.chunk? p.chunk.toNat p.src.toNat = none ∧ r.stage + 1 = c.e.stages :=
  ⟨⟨inColl [barrierAt 0] id, collPacket 3 0x20 2 0 [], _, barrierAt 0, _, ⟨rfl, rfl, rfl, rfl, rfl, rfl⟩, rfl, rfl, rfl, rfl, rfl, rfl, rfl, rfl, by decide, by decide, by decide, rfl, by decide,
      by decide, by decide⟩,
    ⟨inColl [barrierAt 1] id, collPacket 2 0x20 2 0x100000 [], _, barrierAt 1, _, ⟨rfl, rfl, rfl, rfl, rfl, rfl⟩, rfl, rfl, rfl, rfl, rfl, by decide, rfl, rfl, by decide, by decide, by decide, rfl,
      by decide, by decide⟩⟩

/-- Entry 0 has sent chunk 0 to device 1 and had no acknowledgement of it. -/
def unacked (finished : Bool) (n : Nat) : CollRun := { coll := 0, step := 0, begun := true, finished := finished, sent := [{ chunk := 0, peer := 1, reissues := n }] }

/-- What an acknowledgement of that chunk with a status meets. -/
def Acks (s : State) (p : Packet) (r : CollRun) (status : Nat) : Prop :=
  p.typ.toNat = 0x11 ∧ s.forwards = true ∧ s.shut = false ∧ s.address = some p.dest.toNat ∧ s.run p.coll.toNat = some r ∧ p.window.toNat = s.step % 4096 ∧
  (∃ k ∈ r.sent, k.chunk = p.chunk.toNat ∧ k.peer = p.src.toNat ∧ k.acked = false) ∧ leNat ((p.payload.drop 6).take 1) % 16 = status

theorem test_chunkAck : (∀ n ∈ [0, 1, 4, 5, 6, 15], ∃ s : State, ∃ p : Packet, ∃ r : CollRun, Acks s p r n ∧ r.finished = false) ∧
    (∃ s : State, ∃ p : Packet, ∃ r : CollRun, Acks s p r 0 ∧ r.finished = true ∧ r.complete = false ∧
      (r.sent.map (fun k => if k.chunk = p.chunk.toNat ∧ k.peer = p.src.toNat ∧ k.acked = false then { k with acked := true } else k)).all (·.acked) = true) ∧
    (∃ s : State, ∃ p : Packet, ∃ r, s.run p.coll.toNat = some r ∧ p.window.toNat ≠ s.step % 4096) := by
  refine ⟨fun n hn => ⟨inColl [unacked false 0] id, collPacket 1 0x11 0 0 (List.replicate 6 0 ++ [BitVec.ofNat 8 n]), unacked false 0, ?_, rfl⟩,
    ⟨inColl [unacked true 0] id, collPacket 1 0x11 0 0 (List.replicate 7 0), unacked true 0, by unfold Acks; decide⟩,
    ⟨inColl [unacked false 0] id, { collPacket 1 0x11 0 0 [] with window := 1 }, unacked false 0, by decide⟩⟩
  have h : ∀ n ∈ [0, 1, 4, 5, 6, 15], Acks (inColl [unacked false 0] id) (collPacket 1 0x11 0 0 (List.replicate 6 0 ++ [BitVec.ofNat 8 n])) (unacked false 0) n := by
    unfold Acks
    decide
  exact h n hn

theorem test_chunkTimeout : (∃ s : State, ∃ c : CollCtx, ∃ r : CollRun, ∃ k : SentChunk, c.coll < 65535 ∧ s.collCtx c.coll = some c ∧ s.run c.coll = some r ∧ k ∈ r.sent ∧ k.acked = false ∧ (∀ j ∈ r.sent, j.chunk = k.chunk → j.peer = k.peer → j = k) ∧
      s.fab.stopped = true) ∧
    (∃ s : State, ∃ c : CollCtx, ∃ r : CollRun, ∃ k : SentChunk, c.coll < 65535 ∧ s.collCtx c.coll = some c ∧ s.run c.coll = some r ∧ k ∈ r.sent ∧ k.acked = false ∧ (∀ j ∈ r.sent, j.chunk = k.chunk → j.peer = k.peer → j = k) ∧
      ¬ (s.fab.stopped = true ∨ s.fab.swap ≠ none ∨ s.fab.nextSwap ≠ none ∨ s.fab.events ≠ [] ∨ s.fab.floodQueue ≠ []) ∧ k.reissues = 15) ∧
    (∃ s : State, ∃ c : CollCtx, ∃ r : CollRun, ∃ k : SentChunk, c.coll < 65535 ∧ s.collCtx c.coll = some c ∧ s.run c.coll = some r ∧ k ∈ r.sent ∧ k.acked = false ∧ (∀ j ∈ r.sent, j.chunk = k.chunk → j.peer = k.peer → j = k) ∧
      ¬ (s.fab.stopped = true ∨ s.fab.swap ≠ none ∨ s.fab.nextSwap ≠ none ∨ s.fab.events ≠ [] ∨ s.fab.floodQueue ≠ []) ∧ k.reissues = 16) :=
  ⟨⟨inColl [unacked false 0] (fun s => { s with fab := { s.fab with stopped := true } }), ctx0, unacked false 0, { chunk := 0, peer := 1 }, by decide, rfl, by decide, by decide, rfl, by decide, rfl⟩,
    ⟨inColl [unacked false 15] id, ctx0, unacked false 15, { chunk := 0, peer := 1, reissues := 15 }, by decide, rfl, by decide, by decide, rfl, by decide, by decide, rfl⟩,
    ⟨inColl [unacked false 16] id, ctx0, unacked false 16, { chunk := 0, peer := 1, reissues := 16 }, by decide, rfl, by decide, by decide, rfl, by decide, by decide, rfl⟩⟩

theorem test_peerSlow : (∃ s : State, ∃ c : CollCtx, ∃ r : CollRun, c.coll < 65535 ∧ s.collCtx c.coll = some c ∧ s.run c.coll = some r ∧ s.issued c.coll = true ∧ r.complete = false ∧ r.closeTick = s.time.tick) ∧
    ∃ s : State, ∃ c : CollCtx, ∃ r : CollRun, c.coll < 65535 ∧ s.collCtx c.coll = some c ∧ s.run c.coll = some r ∧ r.closeTick = s.time.tick + 1 :=
  ⟨⟨inColl [unacked false 0] id, ctx0, unacked false 0, by decide, rfl, by decide, by decide, rfl, rfl⟩,
    ⟨inColl [{ unacked false 0 with closeTick := 1 }] id, ctx0, { unacked false 0 with closeTick := 1 }, by decide, rfl, by decide, rfl⟩⟩

/-- Entry 0's read of a source line in HBM4 that leads to a reset, and a clean one. -/
theorem test_stage0_reads : (∃ s : State, ∃ c : CollCtx, ∃ r : CollRun, ∃ reads : List MemRead, c.coll < 65535 ∧ s.collCtx c.coll = some c ∧ s.run c.coll = some r ∧ r.begun = false ∧ s.issued c.coll = true ∧
      (sourceReads c reads s).job = none) ∧
    ∃ reads : List MemRead, reads ≠ [] ∧ ∀ m ∈ reads, m.outcome = .clean :=
  ⟨⟨worn (inColl [{ coll := 0, step := 0 }] (fun s => { s with mem := { s.mem with dir := [(0, { frameC := 20000, frameP := 20001 })] } })), ctx0, { coll := 0, step := 0 },
      [{ loaf := 0, line := 0, outcome := .uncorrectable 5 }], by decide, rfl, by decide, rfl, by decide, by decide +kernel⟩, [{ loaf := 0, line := 0, outcome := .clean }], nofun, by simp⟩

theorem test_stage0Start : (∃ s : State, ∃ c : CollCtx, ∃ r : CollRun, c.coll < 65535 ∧ s.collCtx c.coll = some c ∧ s.run c.coll = some r ∧ r.begun = true) ∧
    (∃ s : State, ∃ c : CollCtx, ∃ r : CollRun, c.coll < 65535 ∧ s.collCtx c.coll = some c ∧ s.run c.coll = some r ∧ r.begun = false ∧ s.issued c.coll = true ∧ r.recv = [] ∧ r.stage = 0 ∧ 0 < c.e.stages ∧ c.e.reduces = true) ∧
    (∃ s : State, ∃ c : CollCtx, ∃ r : CollRun, c.coll < 65535 ∧ s.collCtx c.coll = some c ∧ s.run c.coll = some r ∧ r.begun = false ∧ s.issued c.coll = true ∧ r.recv = [] ∧ r.stage = 0 ∧ 0 < c.e.stages ∧ c.e.op = 7 ∧
      c.recvs 0 ≠ [] ∧ s.marksClear r.barrierMarks = true) :=
  ⟨⟨inColl [unacked false 0] id, ctx0, unacked false 0, by decide, rfl, by decide, rfl⟩,
    ⟨inColl [{ coll := 0, step := 0 }] id, ctx0, { coll := 0, step := 0 }, by decide, rfl, by decide, rfl, by decide, rfl, rfl, by decide, by decide⟩,
    ⟨inColl [{ coll := 2, step := 0, barrierMarks := [(1, 5)] }] id, ctx2, { coll := 2, step := 0, barrierMarks := [(1, 5)] }, by decide, rfl, by decide, rfl, by decide, rfl, rfl, by decide, rfl, by decide,
      by decide⟩⟩

/-- Stage 0 of entry 0 with every chunk of rank 3 received. -/
def received (n : Nat) : CollRun := { coll := 0, step := 0, begun := true, recv := (List.range n).map (fun i => { chunk := i, peer := 3, complete := true }) }

theorem test_stageComplete : (∃ s : State, ∃ c : CollCtx, ∃ r : CollRun, c.coll < 65535 ∧ s.collCtx c.coll = some c ∧ s.run c.coll = some r ∧ c.ready r = false) ∧
    (∃ s : State, ∃ c : CollCtx, ∃ r : CollRun, ∃ x : Xfer, c.coll < 65535 ∧ s.collCtx c.coll = some c ∧ s.run c.coll = some r ∧ c.ready r = true ∧ c.e.op ≠ 6 ∧ c.e.op ≠ 7 ∧ c.recvs r.stage = [x] ∧ x.combine = true ∧
      r.stage + 1 < c.reduceStages ∧ x.units.1 < x.units.2) :=
  ⟨⟨inColl [received 3] id, ctx0, received 3, by decide, rfl, by decide, by decide⟩,
    ⟨inColl [received 4] id, ctx0, received 4, _, by decide, rfl, by decide, by decide, by decide, by decide, rfl, by decide, by decide, by decide⟩⟩

/-! ## The check of units refuses what the part does not have -/

/-- A firing of a tile, a unit or a fold slot just beyond the last. -/
def beyond : List Firing := [⟨1152, 0, 0⟩, ⟨0, 32, 0⟩, ⟨0, 0, 8⟩]

/-- Every operation of the weave, for a firing. -/
def weaveCommands (f : Firing) : List Instr :=
  [.mstream f, .mstreamAcc f, .fma f, .mul f, .add f, .sub f, .accum f, .min f, .max f, .cmp f, .iadd f, .isub f, .and f, .or f, .xor f, .shift f, .exp2 f, .log2 f,
    .rcp f, .rsqrt f, .rng f, .cvt f, .reduce f, .route f, .select f, .filter f, .compact f, .count f, .merge f, .union f, .intersect f, .rowRead f false, .rowWrite f,
    .columnRead f false, .columnWrite f, .stridedRead f false, .stridedWrite f, .indexedRowRead f false, .indexedRowWrite f, .gather f false, .scatter f, .probe f false,
    .append f, .send f, .take f false, .pull f false]

theorem test_wf_refuses_firings : (beyond.map weaveCommands).flatten.all (fun i => !i.wf) = true ∧ (weaveCommands ⟨1151, 31, 7⟩).all Instr.wf = true := by decide

/-- The commands of a mailbox, and the ends of their DMA. -/
def mailboxCommands (mb : Nat) : List Instr :=
  [.dmaCompletionTimeout mb, .dmaWaitTimeout mb, .dmaCompletionError (.command mb), .unknownCommand mb, .identify mb, .getStatus mb, .setPolicy mb, .loadImage mb, .openJob mb, .declareLoaves mb, .hostFill mb,
    .hostFillDmaComplete mb [] [], .hostDrain { mb := mb }, .hostDrainComplete mb [], .startJob mb, .pauseJob mb, .resumeJob mb, .stopJob mb, .checkpointSave { mb := mb }, .checkpointRestore mb,
    .checkpointTransferComplete mb [] [], .fabricPlan mb, .fabricCommit mb, .windowOpen mb, .windowCloseLocal mb, .windowCloseProxy mb, .crumbCheck mb, .requalify mb, .readEvents mb,
    .clearEventsNonce mb, .clearEventsClear mb, .clearSticky mb, .getDump mb, .resetCompute mb, .shutdown mb, .fwStage mb, .fwActivate mb, .fwActivateAtBoot mb, .lifecycleGetNonce mb,
    .lifecycleTransition mb, .lifecycleInstallKey mb, .lifecycleDebugUnlock mb, .loadImageDmaComplete mb [] [], .fabricPlanDmaComplete mb [] [], .fwStageDmaComplete mb [] [], .getDumpDmaComplete mb []]

theorem test_wf_refuses_mailboxes : (mailboxCommands 16).all (fun i => !i.wf) = true ∧ (mailboxCommands 15).all Instr.wf = true := by decide

/-- The commands of a port. -/
def portCommands (p : Nat) : List Instr :=
  [.portTrainingAttempt p { txLock := 0, rxLock := 0, hello := false }, .portRetryTimer p, .portLossOfLock p 8, .portIdleTimeout p, .flitReceive p { flit := {}, crc := 0 }, .linkControlFlit p ⟨0, 0⟩ ⟨0, 0⟩ none 0,
    .hello p {}, .helloCert p 0, .coord p 0 0 false, .transitPacket p {}, .portDownFlood p (flood0 0), .portUpFlood p (flood0 0), .fabricArbHoldCutoff p {}, .fenceNotice p {}]

theorem test_wf_refuses_ports : (portCommands 24).all (fun i => !i.wf) = true ∧ (Instr.portLossOfLock 0 9).wf = false ∧ (portCommands 23).all Instr.wf = true := by decide

/-- The commands of a tile. -/
def tileCommands (p : Nat) : List Instr :=
  [.vin12Ready [p], .crumbProgramComplete p 0 [] [] [], .crumbProgramComplete 0 p [] [] [], .crumbProgramComplete 0 0 [] [] [(p, [])], .computeResetComplete [p] [], .taskBegin { tile := p },
    .fillLineReturn p false 0 0 .clean, .fillListComplete p, .weaveStart p false, .weaveHoldLimit p, .schedDeviation p 0, .weaveDrainEnd p none [], .drainTimeout p, .drainComplete p,
    .errorReport (some { Raise.of .padParity (.tile p) 0 0 0 0 with src := .tile p }), .messageRingWrite p 0 false, .messageRingWrite 0 p false, .ringSendRetry { sender := p }, .ringArbHoldCutoff p 0,
    .ringArbHoldCutoff 0 p, .configLoad p {} false, .runAheadConfigLoad { tile := p }, .runAheadFillIssue p, .tileIdle { tile := p }, .stealReq p { tile := 0 }, .stealReq 0 { tile := p }, .stealGrant p, .stealRefusal p, .parkedTileVerified p,
    .reserveProgramComplete p 0 [] [] none, .reserveProgramComplete 0 p [] [] none, .reserveProgramComplete 0 0 [] [] (some (p, [])), .sensorRead [(.tile p, 0)], .startComplete { tiles := [p] },
    .startComplete { sensors := [p] }]

theorem test_wf_refuses_tiles : (tileCommands 1152).all (fun i => !i.wf) = true ∧ (tileCommands 1151).all Instr.wf = true := by decide

theorem test_wf_refuses_others :
    [Instr.thermalComparatorTrip 13, .sensorRead [(.hbm 16, 0)], .sensorRead [(.base 8, 0)], .sensorRead [(.portDie 4, 0)], .startComplete { hbm := [16] }, .startComplete { ddr := [8] },
      .requalifyTestComplete { baseDies := [8] }, .requalifyTestComplete { portDies := [4] }, .shutdownPhaseComplete { ports := [24] } [], .shutdownPhaseComplete {} [⟨.hbm 16, 0, 0⟩], .shutdownPhaseComplete {} [⟨.hbm 0, 64, 0⟩],
      .requalifyTestComplete { rows := [⟨.ddr 8, 0, 0⟩] }, .requalifyTestComplete { rows := [⟨.ddr 0, 2, 0⟩] }, .computeResetComplete [] [.hbm 16],
      .computeResetComplete [] [.ddr 8], .computeResetComplete [] [.device], .directorySweep 33554432 .clean, .regionSlow 72, .tileExchange 1024, .droopTrip 72, .patrolLine 0 2048 .clean,
      .ddrWriteCrcError 0 2048 0, .hbmArbHoldCutoff 16 0, .hbmArbHoldCutoff 0 64, .e2eTimeout 16777216, .chunkTimeout 65535 0 0, .collectiveStage0Start { coll := 65535 }, .collectiveStageComplete 65535,
      .peerSlow 65535].all (fun i => !i.wf) = true ∧
    [Instr.thermalComparatorTrip 12, .sensorRead [(.hbm 15, 0)], .sensorRead [(.base 7, 0)], .sensorRead [(.portDie 3, 0)], .startComplete { hbm := [15] }, .startComplete { ddr := [7] },
      .requalifyTestComplete { baseDies := [7] }, .requalifyTestComplete { portDies := [3] }, .shutdownPhaseComplete { ports := [23] } [⟨.hbm 15, 63, 0⟩], .requalifyTestComplete { rows := [⟨.ddr 7, 1, 0⟩] }, .computeResetComplete [] [.hbm 15],
      .computeResetComplete [] [.ddr 7], .directorySweep 33554431 .clean, .regionSlow 71, .tileExchange 1023, .droopTrip 71, .patrolLine 0 2047 .clean,
      .ddrWriteCrcError 0 2047 0, .hbmArbHoldCutoff 15 63, .e2eTimeout 16777215, .chunkTimeout 65534 0 0, .collectiveStage0Start { coll := 65534 }, .collectiveStageComplete 65534,
      .peerSlow 65534].all Instr.wf = true := by decide

/-! ## Single steps, with results taken from the rules -/

/-- A command at the front of the queue is run and leaves a state for which something holds. -/
def steps (c : Instr) (s : State) (ok : State → Bool) : Bool :=
  match step { s with pending := [c] } with
  | .next t => ok t && t.pending.isEmpty
  | _ => false

/-- VAUX3_ON with good identity and firmware waits for VIN12 at step 3 (R408, R410). -/
theorem test_step_vaux3On : steps (.vaux3On true 2) State.reset (fun t => decide (t.dev.state = .starting) && t.dev.startStep == 3 && t.dev.addrSel == 2 && t.sec.deviceId) = true := by decide +kernel

/-- SYNC_IN falling with the board configuration that ignores it only follows the pin (R465). -/
theorem test_step_syncInLow : steps .syncInLow { State.reset with dev := { State.reset.dev with syncIn := true, vaux3 := true } } (fun t => !t.dev.syncIn && decide (t.dev.state = .off)) = true := by decide

/-- TIME_UTC counts one second (R471). -/
theorem test_step_timeUtcTick :
    steps .timeUtcTick { State.reset with dev := { State.reset.dev with vaux3 := true }, side := { State.reset.side with timeSet := true, timeUtc := 0xFFFFFFFF } } (fun t => t.side.timeUtc == 0x100000000) = true := by
  decide

/-- A ring size that is no power of two disables the ring (R352). -/
theorem test_step_crEntriesWrite : steps (.crEntriesWrite 100) (linked (fun h => { h with crEntries := 64, crTail := 7 })) (fun t => t.host.crEntries == 0 && t.host.crTail == 0) = true := by decide

/-- Command 0x83 is answered NOT_SUPPORTED, and its OWNER is the host again (R323, R325). -/
theorem test_step_unknownCommand : steps (.unknownCommand 1) (given .standby 0x83 0 [] id) (fun t => (t.mailbox 1).status == 6 && !(t.mailbox 1).owner && (t.mailbox 1).seq == 5) = true := by decide +kernel

/-- OPEN_JOB on a good image enters READY (R25, R40). -/
theorem test_step_openJob : steps (.openJob 1) (given .standby 0x21 8 [⟨0, 9⟩] (loaded image0)) (fun t => decide (t.dev.state = .ready) && (t.job.map (·.seed)) == some 9 && (t.mailbox 1).status == 0) = true := by
  decide +kernel

/-- A droop trip counts one stretched period (R387). -/
theorem test_step_droopTrip : steps (.droopTrip 71) (sweeping [] {}) (fun t => (t.region 71).strDroop == 1 && (t.region 70).strDroop == 0) = true := by decide

/-- Above 105 % of the cap the limiter rises by one level (R400). -/
theorem test_step_limiterInterval : steps (.limiterInterval 3151) (sweeping [] {}) (fun t => t.clk.limiterLevel == 1) = true ∧
    steps (.limiterInterval 3150) (sweeping [] {}) (fun t => t.clk.limiterLevel == 0) = true := by decide +kernel

/-- The halved counters (R197). -/
theorem test_step_accessDecay : steps .accessDecay (given .ready 0 0 [] (fun s => { s with mem := { s.mem with decaySlots := 64, dir := [(7, { access := 15 })] } }))
    (fun t => (t.entry 7).access == 7 && t.mem.decaySlots == 0) = true := by decide

/-- The first dimension that differs is corrected in the shorter direction: from 0 to 3 of 4 on port 1, the - direction (R269). -/
theorem test_step_transitPacket : steps (.transitPacket 0 (packet0 3 1)) (routing []) (fun t => t.fab.sent.map (·.1) == [1]) = true := by decide +kernel

/-- A GET of the last line of a window is answered on the link to its sender (R277). -/
theorem test_step_windowGet : steps (.windowGet { packet := request0 2 2047 0 }) (serving { addr := 3 } window0) (fun t => t.fab.sent.map (fun x => (x.1, x.2.typ, x.2.status, x.2.payload.length)) == [(1, 8, 0, 64)]) = true := by
  decide +kernel

/-- A barrier of four ends after two rounds (R303, R314). -/
theorem test_step_barrier : steps (.barrier (collPacket 2 0x20 2 0x100000 [])) (inColl [barrierAt 1] id) (fun t => t.coll.map (·.finished) == [true]) = true := by decide +kernel

/-- Two lanes of an integer addition: 0x0101 + 0x0101 (chapter 3, the table of operations). -/
theorem test_step_iadd : steps (.iadd ⟨0, 1, 0⟩) (firing0 5 1 (rec0 0x28 1) {} id)
    (fun t => ((t.tile 0).channels.map (fun x => x.2.map (fun y => y.token.data.take 2))) == [[[2, 2]]]) = true := by decide +kernel

/-- ROUTE passes its token on (chapter 3, the table of operations). -/
theorem test_step_route : steps (.route ⟨0, 7, 0⟩) { firing0 1 7 { rec0 0x40 0 with out0 := 4 } {} id with pending := [] }
    (fun t => ((t.tile 0).channels.map (fun x => x.2.map (fun y => y.token.data.take 2))) == [[[1, 1]]]) = true := by decide +kernel

end Sys2Proof.Tests
end

section
/-! Tokens of 16-bit lanes and the roundings of a firing's lanes: what the operations of the vector units have in common. -/

namespace Sys2Proof.Machine

open Sys2Proof.Certificates

/-! ## Lanes and bytes -/

@[simp] theorem lanes16_length : ∀ d : List Byte, (lanes16 d).length = d.length / 2
  | [] => rfl
  | [_] => (Nat.div_eq_of_lt (by simp)).symm
  | _ :: _ :: d => by simp only [lanes16, List.length_cons, lanes16_length d]; omega

@[simp] theorem bytes16_length (xs : List Nat) : (bytes16 xs).length = 2 * xs.length := by
  induction xs with
  | nil => rfl
  | cons x xs ih => simp only [bytes16, List.length_cons, ih]; omega

/-- A lane of the bytes of lanes keeps its low 16 bits. -/
theorem lanes16_bytes16 (xs : List Nat) : lanes16 (bytes16 xs) = xs.map (· % 65536) := by
  induction xs with
  | nil => rfl
  | cons x xs ih =>
    simp only [bytes16, lanes16, ih, List.map_cons, BitVec.toNat_ofNat]
    congr 1
    omega

theorem lane_bytes16 (xs : List Nat) (l : Nat) : lane (bytes16 xs) l = xs.getD l 0 % 65536 := by
  rw [lane, lanes16_bytes16]
  exact List.getD_map (f := (· % 65536)) (d := 0) xs

theorem lane_bytes16_map_range (g : Nat → Nat) {l : Nat} (hl : l < 32) : lane (bytes16 ((List.range 32).map g)) l = g l % 65536 := by
  rw [lane_bytes16, List.getD_eq_getElem _ _ (by simpa using hl), List.getElem_map, List.getElem_range]

theorem zeroLine_eq_bytes16 : zeroLine = bytes16 (List.replicate 32 0) := by decide

@[simp] theorem zeroLine_length : zeroLine.length = 64 := List.length_replicate

@[simp] theorem lane_zeroLine (l : Nat) : lane zeroLine l = 0 := by
  rw [zeroLine_eq_bytes16, lane_bytes16, List.getD_eq_getElem?_getD, List.getElem?_getD_replicate_default_eq]

/-- The operand of a whole token has the 32 operand lanes of R101. -/
theorem operand_eq_operandLanes (sh : Shot) {k : Token} (h : k.data.length = 64) : sh.operand k = operandLanes sh k := by
  apply List.ext_getElem
  · simp [Shot.operand, operandLanes, h]
  · intro l h1 h2
    have hl : l < (lanes16 k.data).length := by simpa only [Shot.operand, List.length_map] using h1
    simp only [Shot.operand, operandLanes, operandLane, lane, Record.operandFmt, List.getElem_map, List.getElem_range,
      List.getD_eq_getElem _ _ hl]

/-! ## Roundings -/

/-- A signed code up to the limit of a format has at most 16 bits: read off the table of formats, row by row (R156, R158). -/
theorem withSign_lt_of_le_limit {f mag : Nat} {neg : Bool} (h : mag ≤ (fmtOf f).limit neg) : (fmtOf f).withSign neg mag < 65536 := by
  revert h
  unfold fmtOf
  split <;> cases neg <;> simp [Fmt.limit, Fmt.top, Fmt.withSign] <;> omega

theorem nanCode_lt (f : Nat) : (fmtOf f).nanCode < 65536 := by
  unfold fmtOf
  split <;> decide

theorem infCode_lt (f : Nat) (neg : Bool) :
    (fmtOf f).withSign neg ((2 ^ (fmtOf f).ebits - 1) * 2 ^ (fmtOf f).mbits) < 65536 := by
  unfold fmtOf
  split <;> cases neg <;> decide

/-- A rounding stores a code of at most 16 bits, whatever the format. -/
theorem roundSr_lt (f : Nat) (sat : Bool) (u : Nat) (x : Exact) : (roundSr f sat u x).1 < 65536 := by
  have hlim := fun neg => withSign_lt_of_le_limit (f := f) (Nat.le_refl ((fmtOf f).limit neg))
  cases x with
  | nan =>
    simp only [roundSr]
    split
    · exact nanCode_lt f
    · decide
  | inf neg =>
    simp only [roundSr]
    split
    · decide
    · split
      · exact infCode_lt f neg
      · exact hlim neg
  | fin neg m e =>
    dsimp only [roundSr]
    generalize (if (grid (fmtOf f) m e).2 + u % 4096 ≥ 4096 then _ else _ : Nat) = c
    split
    · exact Nat.zero_lt_succ _
    · split
      · exact withSign_lt_of_le_limit (Nat.zero_le _)
      · split
        · exact hlim neg
        · next h => exact withSign_lt_of_le_limit (Nat.le_of_not_lt h)

@[simp] theorem stored_mod (sh : Shot) (l : Nat) (x : Exact) : stored sh l x % 65536 = stored sh l x :=
  Nat.mod_eq_of_lt (roundSr_lt ..)

/-- Rounding lanes in order stores lane `i` of them with the key of lane `l + i` (R102). -/
theorem roundLanes_stored (sh : Shot) (l : Nat) (xs : List Exact) :
    (sh.roundLanes (outFmt sh.numeric) sh.bank.fired l xs).map (·.1) = xs.mapIdx (fun i x => stored sh (l + i) x) := by
  induction xs generalizing l with
  | nil => rfl
  | cons x xs ih =>
    rw [Shot.roundLanes, List.map_cons, ih, List.mapIdx_cons]
    simp only [Nat.add_assoc, Nat.add_comm 1]
    rfl

/-! ## Firings -/

/-- A firing that happens and finds its tokens acts and completes (R92). -/
theorem fireUnit_eq_finishFiring {op : Nat} {w : Shot → Want × Want × Want} {f : Firing} {s : State} {sh : Shot} {a b c : Token} {t : Tile}
    (act : Shot → Tile → Token → Token → Token → Fired) (h : Fires op w f s sh a b c t) :
    fireUnit op w act f s = .next (finishFiring sh (act sh t a b c) s) := by
  obtain ⟨hwf, hshot, hop, t1, t2, ha, hb, hc⟩ := h
  rw [fireUnit, if_pos ((Laws.Firing.wf_iff f).mp hwf), hshot]
  simp only [if_pos hop, fireWith, ha, hb, hc]

/-- What a firing's action produces, the command that runs it produces. -/
theorem produces_of_fireUnit {op lat : Nat} {w : Shot → Want × Want × Want} {f : Firing} {s : State} {sh : Shot} {a b c : Token} {t : Tile}
    {act : Shot → Tile → Token → Token → Token → Fired} {i : Instr} {k : Bank} {d : List Byte} {valid last : Bool} {n m : Nat}
    {data : List Byte → Prop} (hi : exec i s = fireUnit op w act f s) (h : Fires op w f s sh a b c t)
    (hact : act sh t a b c = Fired.both { bank := k, tile := t, latency := lat, sat := n, nan := m } (d, valid, last)) (hd : data d) :
    Produces i s sh t lat valid last data := by
  refine ⟨_, d, hi.trans (fireUnit_eq_finishFiring act h), ?_⟩
  rw [hact]
  exact ⟨rfl, rfl, rfl, rfl, rfl, hd⟩

theorem produces_mono {i : Instr} {s : State} {sh : Shot} {t : Tile} {lat : Nat} {valid last : Bool} {p q : List Byte → Prop}
    (h : Produces i s sh t lat valid last p) (hpq : ∀ d, p d → q d) : Produces i s sh t lat valid last q := by
  obtain ⟨r, d, hexec, htile, hlat, hconds, h0, h1, hd⟩ := h
  exact ⟨r, d, hexec, htile, hlat, hconds, h0, h1, hpq d hd⟩

end Sys2Proof.Machine
end

section
/-! The vector operations CMP, REDUCE and RNG (R101, R166, R479). -/

namespace Sys2Proof.Machine

open Sys2Proof.Certificates

/-! ## CMP -/

/-- The mask of a comparison: 0xFFFF in the lanes where it holds and 0 in the others. -/
def comparisonMask (sh : Shot) (a b : Token) : List Nat :=
  (List.range 32).map (fun l => if compareLanes (bits sh.cfg.mode 5 2) (operandLane sh a l) (operandLane sh b l) then 0xFFFF else 0)

theorem cmpFire_eq {sh : Shot} {a b : Token} (t : Tile) (c : Token) (ha : a.data.length = 64) (hb : b.data.length = 64)
    (hold : sh.cfg.bHold = false) :
    cmpFire sh t a b c = Fired.both { bank := sh.bank, tile := t, latency := 2 }
      (if a.valid && b.valid then bytes16 (comparisonMask sh a b) else zeroLine, a.valid && b.valid, a.last) := by
  have hmask : ((sh.operand a).zip (sh.operand b)).map (fun x => if compareLanes sh.cfg.option x.1 x.2 then 0xFFFF else 0)
      = comparisonMask sh a b := by
    rw [operand_eq_operandLanes sh ha, operand_eq_operandLanes sh hb, operandLanes, operandLanes, List.zip_map', List.map_map]
    rfl
  simp only [cmpFire, operandB, hold, Bool.false_eq_true, if_false, hmask]
  cases a.valid && b.valid <;> rfl

theorem lane_comparisonMask (sh : Shot) (a b : Token) {l : Nat} (hl : l < 32) : lane (bytes16 (comparisonMask sh a b)) l =
    if compareLanes (bits sh.cfg.mode 5 2) (operandLane sh a l) (operandLane sh b l) then 0xFFFF else 0 := by
  rw [comparisonMask, lane_bytes16_map_range _ hl]
  split <;> rfl

/-! ## REDUCE -/

/-- Neighbours of 2n values are n pairs. -/
theorem pairs_map_range {α : Type} (x : Nat → α) (n : Nat) :
    pairs ((List.range (2 * n)).map x) = (List.range n).map (fun i => (x (2 * i), x (2 * i + 1))) := by
  induction n generalizing x with
  | zero => rfl
  | succ n ih =>
    rw [Nat.mul_succ, List.range_succ_eq_map, List.range_succ_eq_map, List.range_succ_eq_map]
    simpa [pairs, List.map_map, Function.comp_def, Nat.mul_succ] using ih (fun i => x (i + 1 + 1))

/-- From level `j` of its tree on, k more levels of a maximum or minimum leave its root. -/
theorem reduceMax_levels (wantMax : Bool) (x : Nat → Exact) (k j : Nat) :
    reduceMax wantMax k ((List.range (2 ^ k)).map (treeOf (minMax wantMax) x j)) = [treeOf (minMax wantMax) x (j + k) 0] := by
  induction k generalizing j with
  | zero => rfl
  | succ k ih =>
    rw [reduceMax, Nat.pow_succ', pairs_map_range, List.map_map, Nat.add_succ, ← Nat.succ_add]
    exact ih (j + 1)

/-- A level of the sum tree: the rounded sums of the nodes below, with the keys of the lanes from `32 - 2 ^ (k + 1)` on (R479). -/
theorem sumLevel_stored (sh : Shot) (x : Nat → Exact) {j k : Nat} (h : j + k = 4) :
    (sh.roundLanes (outFmt sh.numeric) sh.bank.fired (32 - 2 ^ (k + 1))
        ((pairs ((List.range (2 ^ (k + 1))).map (sumNode sh x j))).map (fun p => p.1.add p.2))).map (·.1)
      = (List.range (2 ^ k)).map
          (fun i => stored sh (32 - 32 / 2 ^ j + i) ((sumNode sh x j (2 * i)).add (sumNode sh x j (2 * i + 1)))) := by
  have hw : 32 / 2 ^ j = 2 ^ (k + 1) := by
    rw [show 32 = 2 ^ (j + (k + 1)) by rw [← Nat.add_assoc, h]; rfl, Nat.pow_add, Nat.mul_div_cancel_left _ (by positivity)]
  rw [roundLanes_stored, Nat.pow_succ', pairs_map_range, hw, Nat.pow_succ']
  apply List.ext_getElem <;> simp

/-- From level `j` of the sum tree on, the last rounding is that of its root, in lane 30. -/
theorem reduceSum_last (sh : Shot) (x : Nat → Exact) {j k : Nat} (h : j + k = 4) :
    (reduceSum sh (outFmt sh.numeric) (k + 1) (32 - 2 ^ (k + 1)) ((List.range (2 ^ (k + 1))).map (sumNode sh x j))).getLast?.map (·.1)
      = some (stored sh 30 ((sumNode sh x 4 0).add (sumNode sh x 4 1))) := by
  induction k generalizing j with
  | zero =>
    obtain rfl : j = 4 := h
    rw [reduceSum, reduceSum, List.append_nil, ← List.getLast?_map, sumLevel_stored sh x (k := 0) rfl]
    rfl
  | succ k ih =>
    have hlevel := sumLevel_stored sh x h
    rw [reduceSum]
    generalize sh.roundLanes _ _ _ _ = q at hlevel ⊢
    have hlen : q.length = 2 ^ (k + 1) := by simpa using congrArg List.length hlevel
    have hnext : q.map (fun p => decode (outFmt sh.numeric) p.1) = (List.range (2 ^ (k + 1))).map (sumNode sh x (j + 1)) := by
      have := congrArg (List.map (decode (outFmt sh.numeric))) hlevel
      rwa [List.map_map, List.map_map] at this
    have hlane : 32 - 2 ^ (k + 1 + 1) + q.length = 32 - 2 ^ (k + 1) := by
      have := Nat.pow_le_pow_right (n := 2) (by decide) (show k + 1 + 1 ≤ 5 by omega)
      rw [Nat.pow_succ] at this ⊢
      omega
    have ih := ih (j := j + 1) (by omega)
    rw [hlane, hnext, List.getLast?_append, Option.map_or, ih, Option.some_or]

/-- The roundings of a firing of REDUCE on these operand lanes, the root's last. -/
def reduceRoundings (sh : Shot) (xs : List Exact) : List (Nat × Mark) :=
  if sh.cfg.option = 0 then reduceSum sh (outFmt sh.numeric) 5 0 xs
  else sh.roundLanes (outFmt sh.numeric) sh.bank.fired 0 ((reduceMax (sh.cfg.option == 1) 5 xs).take 1)

/-- The code that REDUCE puts in lane 0 of a valid token. -/
def reducedCode (sh : Shot) (a : Token) : Nat := ((reduceRoundings sh (sh.operand a)).getLast?.map (·.1)).getD 0

theorem reducedCode_sum {sh : Shot} {a : Token} (ha : a.data.length = 64) (h : bits sh.cfg.mode 5 2 = 0) :
    reducedCode sh a = stored sh 30 ((sumNode sh (operandLane sh a) 4 0).add (sumNode sh (operandLane sh a) 4 1)) := by
  have hlast := reduceSum_last sh (operandLane sh a) (j := 0) (k := 4) rfl
  rw [reducedCode, reduceRoundings, Record.option, if_pos h, operand_eq_operandLanes sh ha]
  exact congrArg (·.getD 0) hlast

theorem reducedCode_minMax {sh : Shot} {a : Token} (ha : a.data.length = 64) (h : bits sh.cfg.mode 5 2 ≠ 0) :
    reducedCode sh a = stored sh 0 (treeOf (minMax (bits sh.cfg.mode 5 2 == 1)) (operandLane sh a) 5 0) := by
  have hroot := reduceMax_levels (sh.cfg.option == 1) (operandLane sh a) 5 0
  rw [reducedCode, reduceRoundings, Record.option, if_neg h, operand_eq_operandLanes sh ha]
  exact congrArg (fun xs => (((sh.roundLanes (outFmt sh.numeric) sh.bank.fired 0 (xs.take 1)).getLast?).map (·.1)).getD 0) hroot

/-- The data of a firing of REDUCE: the code in lane 0 and zero elsewhere, or a bubble's zeros. -/
def reducedData (sh : Shot) (a : Token) : List Byte :=
  if a.valid then bytes16 (reducedCode sh a :: List.replicate 31 0) else zeroLine

@[simp] theorem reducedData_length (sh : Shot) (a : Token) : (reducedData sh a).length = 64 := by
  unfold reducedData
  split <;> simp

theorem lane_reducedData (sh : Shot) (a : Token) (l : Nat) :
    lane (reducedData sh a) l = if a.valid = true ∧ l = 0 then reducedCode sh a % 65536 else 0 := by
  cases hv : a.valid with
  | false => simp [reducedData, hv]
  | true =>
    rw [reducedData, if_pos hv, lane_bytes16]
    cases l with
    | zero => rfl
    | succ l => rw [List.getD_cons_succ, List.getD_eq_getElem?_getD, List.getElem?_getD_replicate_default_eq]; rfl

theorem reduceFire_eq (sh : Shot) (t : Tile) (a b c : Token) : reduceFire sh t a b c =
    Fired.both { bank := sh.bank, tile := t, latency := 6,
                 sat := if a.valid then marks .sat (reduceRoundings sh (sh.operand a)) else 0,
                 nan := if a.valid then marks .nan (reduceRoundings sh (sh.operand a)) else 0 }
      (reducedData sh a, a.valid, a.last) := by
  unfold reduceFire reducedData
  cases a.valid <;> rfl

/-! ## RNG -/

/-- The lanes of a firing of RNG (R166). -/
def randomLanes (sh : Shot) : List Nat :=
  (List.range 32).map (fun l => counterHash sh.seed sh.cfg.tensor 65535 (sh.element sh.bank.fired l) sh.step % 65536)

theorem rngFire_eq (sh : Shot) (t : Tile) (a b c : Token) :
    rngFire sh t a b c = Fired.both { bank := sh.bank, tile := t, latency := 6 } (bytes16 (randomLanes sh), true, false) := rfl

theorem lane_randomLanes (sh : Shot) {l : Nat} (hl : l < 32) : lane (bytes16 (randomLanes sh)) l =
    counterHash sh.seed sh.cfg.tensor 65535 (sh.element sh.bank.fired l) sh.step % 65536 := by
  rw [randomLanes, lane_bytes16_map_range _ hl, Nat.mod_mod]

/-! ## The commands -/

theorem cmp_produces {f : Firing} {s : State} {sh : Shot} {a b c : Token} {t : Tile} (h : Fires 0x27 (wantsArith false) f s sh a b c t)
    (ha : a.data.length = 64) (hb : b.data.length = 64) (hold : sh.cfg.bHold = false) :
    Produces (.cmp f) s sh t 2 (a.valid && b.valid) a.last (fun d => d.length = 64 ∧ ∀ l < 32, lane d l =
      if a.valid && b.valid && compareLanes (bits sh.cfg.mode 5 2) (operandLane sh a l) (operandLane sh b l) then 0xFFFF else 0) := by
  refine produces_of_fireUnit rfl h (cmpFire_eq t c ha hb hold) ?_
  cases a.valid && b.valid with
  | false => simp
  | true => exact ⟨by simp [comparisonMask], fun l hl => by simpa using lane_comparisonMask sh a b hl⟩

theorem reduce_produces {f : Firing} {s : State} {sh : Shot} {a b c : Token} {t : Tile} (h : Fires 0x34 wantsOne f s sh a b c t) :
    Produces (.reduce f) s sh t 6 a.valid a.last (fun d => d = reducedData sh a) :=
  produces_of_fireUnit rfl h (reduceFire_eq sh t a b c) rfl

theorem rng_produces {f : Firing} {s : State} {sh : Shot} {a b c : Token} {t : Tile}
    (h : Fires 0x32 (fun _ => (.no, .no, .no)) f s sh a b c t) :
    Produces (.rng f) s sh t 6 true false (fun d => d.length = 64 ∧ ∀ l < 32, lane d l =
      counterHash sh.seed sh.cfg.tensor 65535 (sh.element sh.bank.fired l) sh.step % 65536) :=
  produces_of_fireUnit rfl h (rngFire_eq sh t a b c) ⟨by simp [randomLanes], fun _ => lane_randomLanes sh⟩

/-- Settles O5: each command's lanes are read off its action; REDUCE by induction on the levels of its tree. -/
theorem compareReduceRandom : Obligations.CompareReduceRandom := by
  unfold Obligations.CompareReduceRandom
  refine ⟨fun _ _ _ _ _ _ _ h ha hb hold => cmp_produces h ha hb hold, ?_, fun _ _ _ _ _ _ _ h => rng_produces h⟩
  intro f s sh a b e t h ha
  refine produces_mono (reduce_produces h) ?_
  rintro _ rfl
  refine ⟨reducedData_length sh a, fun l _ hzero => ?_, fun hv hsum => ?_, fun hv hmax => ?_, fun hv hmin => ?_⟩
  · rw [lane_reducedData, if_neg]
    rintro ⟨hv, rfl⟩
    simp [hv] at hzero
  · rw [lane_reducedData, if_pos ⟨hv, rfl⟩, reducedCode_sum ha hsum, stored_mod]
  · rw [lane_reducedData, if_pos ⟨hv, rfl⟩, reducedCode_minMax ha (by rw [hmax]; decide), hmax, stored_mod]
    rfl
  · rw [lane_reducedData, if_pos ⟨hv, rfl⟩, reducedCode_minMax ha (by rw [hmin]; decide), hmin, stored_mod]
    rfl

end Sys2Proof.Machine
end

section
/-! Runs of collective entries: what stands in the state after a run is stored, and which updates of the state leave the runs alone. -/

namespace Sys2Proof.Machine

/-! ## Storing a run -/

theorem run_some {s : State} {coll : Nat} {r : CollRun} (h : s.run coll = some r) : r.coll = coll ∧ r.step = s.step := by
  simpa using List.find?_some h

theorem runOr_key (s : State) (coll : Nat) : (s.runOr coll).coll = coll ∧ (s.runOr coll).step = s.step := by
  unfold State.runOr
  cases h : s.run coll with
  | none => exact ⟨rfl, rfl⟩
  | some r => exact run_some h

@[simp] theorem setRun_step (s : State) (r : CollRun) : (s.setRun r).step = s.step := rfl

theorem find?_putRun (r : CollRun) (l : List CollRun) :
    (putRun r l).find? (fun x => x.coll == r.coll && x.step == r.step) = some r := by
  induction l with
  | nil => simp [putRun]
  | cons x l ih =>
    by_cases h : x.coll = r.coll ∧ x.step = r.step
    · simp [putRun, h]
    · rw [putRun, if_neg h, List.find?_cons_of_neg (by simpa using h), ih]

/-- A stored run is the run of its entry in its step. -/
theorem run_setRun {s : State} {r : CollRun} {coll : Nat} (hc : r.coll = coll) (hs : r.step = s.step) :
    (s.setRun r).run coll = some r := by
  subst hc
  unfold State.run
  rw [setRun_step, ← hs]
  exact find?_putRun r s.coll

theorem run_onRun {s : State} {coll : Nat} {r : CollRun} (h : s.run coll = some r) (f : CollRun → CollRun) (hc : (f r).coll = r.coll)
    (hs : (f r).step = r.step) : (s.onRun coll f).run coll = some (f r) := by
  obtain ⟨hcoll, hstep⟩ := run_some h
  unfold State.onRun
  rw [h]
  exact run_setRun (hc.trans hcoll) (hs.trans hstep)

theorem onJob_run (s : State) (f : Job → Job) (hf : ∀ j, (f j).step = j.step) (coll : Nat) :
    (s.onJob f).run coll = s.run coll := by
  have hstep : (s.onJob f).step = s.step := by
    unfold State.step State.onJob
    cases s.job with
    | none => rfl
    | some j => exact hf j
  unfold State.run
  rw [hstep]
  rfl

/-! ## Updates that leave the runs alone -/

/-- The update leaves the collective runs and the job. -/
structure LeavesRuns (s t : State) : Prop where
  coll : t.coll = s.coll
  job : t.job = s.job

theorem LeavesRuns.refl (s : State) : LeavesRuns s s := ⟨rfl, rfl⟩

theorem LeavesRuns.trans {s t u : State} (h : LeavesRuns s t) (h' : LeavesRuns t u) : LeavesRuns s u :=
  ⟨h'.coll.trans h.coll, h'.job.trans h.job⟩

theorem LeavesRuns.step {s t : State} (h : LeavesRuns s t) : t.step = s.step := by
  unfold State.step
  rw [h.job]

theorem LeavesRuns.run {s t : State} (h : LeavesRuns s t) (coll : Nat) : t.run coll = s.run coll := by
  unfold State.run
  rw [h.coll, h.step]

theorem each_leavesRuns {α : Type} {f : α → State → State} (hf : ∀ a s, LeavesRuns s (f a s)) (l : List α) (s : State) :
    LeavesRuns s (each f l s) := by
  induction l generalizing s with
  | nil => exact .refl s
  | cons a l ih => exact (hf a s).trans (ih _)

theorem record_leavesRuns (r : Raise) (s : State) : LeavesRuns s (record r s) := by
  have h := record_only r s
  rw [OnlyRecorded] at h
  constructor <;> rw [h]

theorem raise_of_note {r : Raise} (h : r.cls = .note) (s : State) : raise r s = record r s := by
  rw [raise, classEffect, h]

theorem raise_leavesRuns_of_note {r : Raise} (h : r.cls = .note) (s : State) : LeavesRuns s (raise r s) := by
  rw [raise_of_note h]
  exact record_leavesRuns r s

theorem forward_leavesRuns (inPort : Option Nat) (p : Packet) (s : State) : LeavesRuns s (forward inPort p s) := by
  unfold forward
  dsimp only
  split
  · exact ⟨rfl, rfl⟩
  · split
    · exact .refl s
    · refine LeavesRuns.trans ?_ (raise_leavesRuns_of_note rfl _)
      exact ⟨rfl, rfl⟩
    · split
      · exact ⟨rfl, rfl⟩
      · exact ⟨rfl, rfl⟩

theorem inject_leavesRuns (p : Packet) (s : State) : LeavesRuns s (inject p s) := by
  unfold inject
  split
  · exact ⟨rfl, rfl⟩
  · exact forward_leavesRuns none p s

theorem sendChunk_leavesRuns (c : CollCtx) (k : SentChunk) (s : State) : LeavesRuns s (sendChunk c k s) :=
  each_leavesRuns (fun _ => inject_leavesRuns _) _ s

theorem sendAck_leavesRuns (c : CollCtx) (p : Packet) (status : Nat) (s : State) : LeavesRuns s (sendAck c p status s) :=
  inject_leavesRuns _ s

theorem setFrameLine_leavesRuns (f j : Nat) (data : List Byte) (s : State) : LeavesRuns s (s.setFrameLine f j data) := by
  unfold State.setFrameLine
  split <;> exact ⟨rfl, rfl⟩

theorem stageLine_leavesRuns (loaf j : Nat) (data : List Byte) (s : State) : LeavesRuns s (stageLine loaf j data s) := by
  unfold stageLine
  dsimp only
  split
  · exact setFrameLine_leavesRuns ..
  · split
    · exact .refl s
    · refine LeavesRuns.trans ?_ (setFrameLine_leavesRuns ..)
      exact ⟨rfl, rfl⟩

end Sys2Proof.Machine
end

section
/-! Packets of the collective engine that arrive (R288, R305 to R309): where they are turned away, and what a chunk or a count that is received
leaves. -/

namespace Sys2Proof.Machine

open Sys2Proof.Certificates

theorem sendAck_eq_acknowledge (c : CollCtx) (p : Packet) (status : Nat) (s : State) : sendAck c p status s = acknowledge c p status s := rfl

/-- How far a packet's step is ahead of this device's, modulo 4,096 (R309). -/
def stepsAhead (s : State) (p : Packet) : Nat := (p.window.toNat + 4096 - s.step % 4096) % 4096

/-! ## Packets turned away -/

section

variable {p : Packet} {own : CollCtx → State → State} {s : State}

theorem receiveColl_elsewhere (h : s.forwards = false ∨ s.address ≠ some p.dest.toNat) : receiveColl p own s = s := by
  rw [receiveColl, if_pos (by simpa using h)]

theorem receiveColl_here (hf : s.forwards = true) (ha : s.address = some p.dest.toNat) : receiveColl p own s =
    if s.shut then (if s.trigrim p.src.toNat then s else sendBareAck p 4 s)
    else match s.collCtx p.coll.toNat with
      | none => sendBareAck p 1 s
      | some c =>
        if stepsAhead s p = 0 then own c s else if stepsAhead s p < 2048 then sendAck c p 6 s else sendAck c p 0 s := by
  rw [receiveColl, if_neg (by simp [hf, ha])]
  rfl

theorem receiveColl_shut (hf : s.forwards = true) (ha : s.address = some p.dest.toNat) (hs : s.shut = true) :
    receiveColl p own s = if s.trigrim p.src.toNat then s else sendBareAck p 4 s := by
  rw [receiveColl_here hf ha, if_pos hs]

theorem receiveColl_unknown (hf : s.forwards = true) (ha : s.address = some p.dest.toNat) (hs : s.shut = false)
    (hc : s.collCtx p.coll.toNat = none) : receiveColl p own s = sendBareAck p 1 s := by
  rw [receiveColl_here hf ha, if_neg (by simp [hs]), hc]

theorem receiveColl_known {c : CollCtx} (hf : s.forwards = true) (ha : s.address = some p.dest.toNat) (hs : s.shut = false)
    (hc : s.collCtx p.coll.toNat = some c) : receiveColl p own s =
      if stepsAhead s p = 0 then own c s else if stepsAhead s p < 2048 then sendAck c p 6 s else sendAck c p 0 s := by
  rw [receiveColl_here hf ha, if_neg (by simp [hs]), hc]

/-- A packet of the step in progress is the engine's own matter. -/
theorem receiveColl_inStep {c : CollCtx} {ty : Nat} (h : InStepOf s p ty c) : receiveColl p own s = own c s := by
  obtain ⟨-, hf, ha, hs, hc, hw⟩ := h
  rw [receiveColl_known hf ha hs hc, if_pos (by rw [stepsAhead]; omega)]

end

theorem ite_typ_ne (p : Packet) (ty : BitVec 6) (a b : State) :
    (if p.typ ≠ ty then a else b) = if p.typ.toNat = ty.toNat then b else a := by
  by_cases h : p.typ = ty
  · rw [if_neg (not_not.mpr h), if_pos (congrArg BitVec.toNat h)]
  · rw [if_pos h, if_neg (mt BitVec.eq_of_toNat_eq h)]

/-- The three packets of the collective engine go one way: receiving for their own type, and for another type nothing but the count of
the reserved ones, which CHUNK_DATA keeps. -/
theorem exec_collective {p : Packet} {i : Instr} {ty : Nat}
    (h : (i, ty) ∈ [(Instr.chunkData p, 0x10), (.chunkCount p, 0x12), (.barrier p, 0x20)]) (s : State) :
    ∃ own, exec i s = .next (if p.typ.toNat = ty then receiveColl p own s else if ty = 0x10 then countReserved p s else s) := by
  simp only [List.mem_cons, Prod.mk.injEq, List.not_mem_nil, or_false] at h
  obtain ⟨rfl, rfl⟩ | ⟨rfl, rfl⟩ | ⟨rfl, rfl⟩ := h
  · exact ⟨_, congrArg Host.Outcome.next (ite_typ_ne p 0x10 (countReserved p s) _)⟩
  · exact ⟨_, congrArg Host.Outcome.next (ite_typ_ne p 0x12 s _)⟩
  · exact ⟨_, congrArg Host.Outcome.next (ite_typ_ne p 0x20 s _)⟩

theorem countReserved_of_not {p : Packet} {s : State}
    (h : ¬ (0x13 ≤ p.typ.toNat ∧ p.typ.toNat ≤ 0x1F) ∨ s.forwards = false ∨ s.address ≠ some p.dest.toNat) : countReserved p s = s := by
  rw [countReserved, if_neg]
  simp only [Bool.and_eq_true, decide_eq_true_eq]
  rintro ⟨⟨⟨hlo, hhi⟩, hf⟩, ha⟩
  obtain h | h | h := h
  · exact h ⟨hlo, hhi⟩
  · simp [h] at hf
  · exact h ha

theorem countReserved_here {p : Packet} {s : State} (hlo : 0x13 ≤ p.typ.toNat) (hhi : p.typ.toNat ≤ 0x1F) (hf : s.forwards = true)
    (ha : s.address = some p.dest.toNat) : countReserved p s = { s with fab := { s.fab with rsvDrops := s.fab.rsvDrops + 1 } } := by
  rw [countReserved, if_pos (by simp [hlo, hhi, hf, ha])]

section

variable {s : State} {p : Packet} {i : Instr} {ty : Nat}
  (hi : (i, ty) ∈ [(Instr.chunkData p, 0x10), (.chunkCount p, 0x12), (.barrier p, 0x20)])

include hi

theorem collective_elsewhere (h : (p.typ.toNat ≠ ty ∧ ¬ (ty = 0x10 ∧ 0x13 ≤ p.typ.toNat ∧ p.typ.toNat ≤ 0x1F)) ∨ s.forwards = false ∨
    s.address ≠ some p.dest.toNat) : exec i s = .next s := by
  obtain ⟨own, hexec⟩ := exec_collective hi s
  rw [hexec]
  congr 1
  split
  · next ht => exact receiveColl_elsewhere (h.resolve_left (fun h => h.1 ht))
  · split
    · next hty => exact countReserved_of_not (h.imp_left (fun h hr => h.2 ⟨hty, hr⟩))
    · rfl

theorem collective_reserved (hr : ty = 0x10 ∧ 0x13 ≤ p.typ.toNat ∧ p.typ.toNat ≤ 0x1F) (hf : s.forwards = true)
    (ha : s.address = some p.dest.toNat) : exec i s = .next { s with fab := { s.fab with rsvDrops := s.fab.rsvDrops + 1 } } := by
  obtain ⟨own, hexec⟩ := exec_collective hi s
  obtain ⟨rfl, hlo, hhi⟩ := hr
  rw [hexec, if_neg (by omega), if_pos rfl, countReserved_here hlo hhi hf ha]

variable (ht : p.typ.toNat = ty) (hf : s.forwards = true) (ha : s.address = some p.dest.toNat)

include ht hf ha

theorem collective_shut (hs : s.shut = true) : exec i s = .next (if s.trigrim p.src.toNat then s else sendBareAck p 4 s) := by
  obtain ⟨own, hexec⟩ := exec_collective hi s
  rw [hexec, if_pos ht, receiveColl_shut hf ha hs]

theorem collective_unknown (hs : s.shut = false) (hc : s.collCtx p.coll.toNat = none) : exec i s = .next (sendBareAck p 1 s) := by
  obtain ⟨own, hexec⟩ := exec_collective hi s
  rw [hexec, if_pos ht, receiveColl_unknown hf ha hs hc]

theorem collective_ahead {c : CollCtx} (hs : s.shut = false) (hc : s.collCtx p.coll.toNat = some c)
    (hpos : 0 < stepsAhead s p) (hlt : stepsAhead s p < 2048) :
    exec i s = .next (acknowledge c p 6 s) := by
  obtain ⟨own, hexec⟩ := exec_collective hi s
  rw [hexec, if_pos ht, receiveColl_known hf ha hs hc, if_neg (Nat.ne_of_gt hpos), if_pos hlt, sendAck_eq_acknowledge]

theorem collective_behind {c : CollCtx} (hs : s.shut = false) (hc : s.collCtx p.coll.toNat = some c)
    (hge : 2048 ≤ stepsAhead s p) : exec i s = .next (acknowledge c p 0 s) := by
  obtain ⟨own, hexec⟩ := exec_collective hi s
  rw [hexec, if_pos ht, receiveColl_known hf ha hs hc, if_neg (by omega), if_neg (by omega), sendAck_eq_acknowledge]

end

end Sys2Proof.Machine
end

section
/-! Chunks and counts that are received and staged, and what delivers nothing (R305 to R309). -/

namespace Sys2Proof.Machine

open Sys2Proof.Certificates

/-! ## The packets of a chunk -/

theorem assembled_eq_some {y : RecvChunk} {bytes : Nat} {d : List Byte} : y.assembled bytes = some d ↔ Whole y bytes d := by
  unfold RecvChunk.assembled Whole
  dsimp only
  split
  · next h => simp [h, eq_comm]
  · next h => simp [h]

theorem assembled_eq_none {y : RecvChunk} {bytes : Nat} : y.assembled bytes = none ↔ ∀ d, ¬ Whole y bytes d := by
  rw [Option.eq_none_iff_forall_ne_some]
  exact forall_congr' fun d => not_congr assembled_eq_some

/-! ## Staging -/

theorem cutLines_length (b : List Byte) : (cutLines b).length = ceilDiv b.length 64 := by
  simp [cutLines]

/-- Of the run, staging changes nothing but how many lines of its range are in use. -/
theorem stageBytes_leavesRuns {c : CollCtx} {s : State} {r : CollRun} (bytes : List Byte) (h : s.run c.coll = some r) :
    LeavesRuns (s.setRun { r with staged := r.staged + ceilDiv bytes.length 64 }) (stageBytes c bytes s) := by
  unfold stageBytes
  rw [h]
  dsimp only
  rw [List.length_zipIdx, cutLines_length]
  refine each_leavesRuns (fun x t => ?_) _ _
  split
  · exact stageLine_leavesRuns ..
  · exact .refl t

theorem run_stageBytes {c : CollCtx} {s : State} {r : CollRun} (bytes : List Byte) (h : s.run c.coll = some r) :
    (stageBytes c bytes s).run c.coll = some { r with staged := r.staged + ceilDiv bytes.length 64 } := by
  obtain ⟨hc, hs⟩ := run_some h
  rw [(stageBytes_leavesRuns bytes h).run]
  exact run_setRun hc hs

/-! ## Delivery -/

/-- An entry delivers nothing before its stage 0, and a barrier nothing at all. -/
theorem deliverChunk_eq_self {c : CollCtx} {s : State} (y : RecvChunk) (h : ∀ r, s.run c.coll = some r → r.begun = false ∨ c.e.op = 7) :
    deliverChunk c y s = s := by
  unfold deliverChunk
  split
  · rfl
  · next r hr =>
    dsimp only
    split
    · rfl
    · rw [if_pos]
      obtain hb | hop := h r hr
      · simp [hb]
      · simp [hop]

theorem each_eq_self {α σ : Type} {f : α → σ → σ} {s : σ} (h : ∀ a, f a s = s) (l : List α) : each f l s = s := by
  induction l with
  | nil => rfl
  | cons a l ih => rw [each, h a, ih]

theorem deliverAll_eq_self {c : CollCtx} {s : State} (h : ∀ r, s.run c.coll = some r → r.begun = false ∨ c.e.op = 7) :
    deliverAll c s = s := by
  unfold deliverAll
  split
  · rfl
  · exact each_eq_self (fun y => deliverChunk_eq_self y h) _

theorem deliverAll_nil {c : CollCtx} {s : State} (h : ∀ r, s.run c.coll = some r → r.recv = []) : deliverAll c s = s := by
  unfold deliverAll
  split
  · rfl
  · next r hr => rw [h r hr]; rfl

/-! ## A chunk -/

/-- The chunk a packet belongs to, as far as it is held. -/
def CollRun.heldChunk (r : CollRun) (p : Packet) : RecvChunk :=
  (r.chunk? p.chunk.toNat p.src.toNat).getD { chunk := p.chunk.toNat, peer := p.src.toNat, epoch := p.epoch }

/-- What is held of that chunk with the packet. -/
def CollRun.heldAfter (r : CollRun) (p : Packet) : RecvChunk := holding (r.heldChunk p) p

/-- The transfer a packet of a chunk belongs to, by its stage and its sender. -/
def CollCtx.xferOf (c : CollCtx) (p : Packet) : Option Xfer :=
  (c.rank p.src.toNat).bind (fun q => (c.recvs (p.chunk.toNat / 2 ^ 20)).find? (fun x => x.peer == q))

/-- A run that holds this of a chunk. -/
def CollRun.hold (r : CollRun) (y : RecvChunk) : CollRun := { r with recv := putChunk y r.recv }

/-- A chunk all of whose packets are there. -/
def RecvChunk.whole (y : RecvChunk) (d : List Byte) : RecvChunk := { y with complete := true, data := d, held := [] }

section

variable {c : CollCtx} {p : Packet} {s : State} {x : Xfer} (hx : c.xferOf p = some x)

include hx

theorem takeChunk_complete (hy : ((s.runOr c.coll).heldChunk p).complete = true) : takeChunk c p s = acknowledge c p 0 s := by
  unfold CollCtx.xferOf at hx
  unfold takeChunk
  dsimp only
  rw [hx]
  exact if_pos hy

variable {size : Nat × Nat} (hy : ((s.runOr c.coll).heldChunk p).complete = false)
  (hsize : (if c.e.op = 7 then some (0, 0) else c.recvSize (s.runOr c.coll) x) = some size)
  (hk : p.chunk.toNat % 2 ^ 20 < Nat.max 1 (c.chunks size.1))

include hy hsize hk

/-- A packet of a chunk that is not whole yet is held, and the chunk is taken when all its packets are (R308). -/
theorem takeChunk_eq : takeChunk c p s =
    match ((s.runOr c.coll).heldAfter p).assembled (if c.e.op = 7 then 0 else c.chunkBytes size (p.chunk.toNat % 2 ^ 20)) with
    | none => s.setRun ((s.runOr c.coll).hold ((s.runOr c.coll).heldAfter p))
    | some d => deliverAll c (acknowledge c p 0 (stageBytes c d (s.setRun
        ((s.runOr c.coll).hold (((s.runOr c.coll).heldAfter p).whole d))))) := by
  unfold CollCtx.xferOf at hx
  unfold takeChunk
  dsimp only
  rw [hx]
  dsimp only
  rw [hsize]
  dsimp only
  rw [if_pos hk]
  exact if_neg (by rw [← CollRun.heldChunk, hy]; decide)

variable {n : Nat} (hn : (if c.e.op = 7 then 0 else c.chunkBytes size (p.chunk.toNat % 2 ^ 20)) = n)

include hn

theorem takeChunk_part (hw : ∀ d, ¬ Whole ((s.runOr c.coll).heldAfter p) n d) : takeChunk c p s =
    s.setRun ((s.runOr c.coll).hold ((s.runOr c.coll).heldAfter p)) := by
  rw [takeChunk_eq hx hy hsize hk, hn, assembled_eq_none.mpr hw]

theorem takeChunk_whole {d : List Byte} (hw : Whole ((s.runOr c.coll).heldAfter p) n d) : takeChunk c p s =
    deliverAll c (acknowledge c p 0 (stageBytes c d (s.setRun
      ((s.runOr c.coll).hold (((s.runOr c.coll).heldAfter p).whole d))))) := by
  rw [takeChunk_eq hx hy hsize hk, hn, assembled_eq_some.mpr hw]

end

theorem acknowledge_leavesRuns (c : CollCtx) (p : Packet) (status : Nat) (s : State) : LeavesRuns s (acknowledge c p status s) :=
  sendAck_leavesRuns c p status s

/-- The run of an entry after bytes of it are staged and acknowledged. -/
theorem run_acknowledge_stageBytes {c : CollCtx} {s : State} {r : CollRun} (p : Packet) (status : Nat) (bytes : List Byte)
    (hc : r.coll = c.coll) (hs : r.step = s.step) :
    (acknowledge c p status (stageBytes c bytes (s.setRun r))).run c.coll = some { r with staged := r.staged + ceilDiv bytes.length 64 } := by
  rw [(acknowledge_leavesRuns c p status _).run]
  exact run_stageBytes bytes (run_setRun hc hs)

/-! ## CHUNK_DATA -/

theorem exec_chunkData_inStep {s : State} {p : Packet} {c : CollCtx} (h : InStepOf s p 0x10 c) (hop : c.e.op ≠ 7) :
    exec (.chunkData p) s = .next (takeChunk c p s) := by
  have htyp : ¬ p.typ ≠ 0x10 := not_not.mpr (BitVec.eq_of_toNat_eq h.1)
  refine congrArg Host.Outcome.next ?_
  rw [if_neg htyp, receiveColl_inStep h, if_neg hop]

/-- Before its issue an entry holds a whole chunk and delivers nothing of it (R301, R309). -/
theorem deliverAll_of_not_begun {c : CollCtx} {s : State} {r : CollRun} (p : Packet) (status : Nat) (bytes : List Byte)
    (hc : r.coll = c.coll) (hs : r.step = s.step) (hb : r.begun = false) :
    deliverAll c (acknowledge c p status (stageBytes c bytes (s.setRun r))) = acknowledge c p status (stageBytes c bytes (s.setRun r)) := by
  refine deliverAll_eq_self fun r' hr' => .inl ?_
  rw [run_acknowledge_stageBytes p status bytes hc hs] at hr'
  obtain rfl := Option.some.inj hr'
  exact hb

section

variable {s : State} {p : Packet} {c : CollCtx} {x : Xfer} (h : InStepOf s p 0x10 c) (hop : c.e.op ≠ 7) (hx : c.xferOf p = some x)

include h hop hx

theorem exec_chunkData_again (hy : ((s.runOr c.coll).heldChunk p).complete = true) : exec (.chunkData p) s = .next (acknowledge c p 0 s) := by
  rw [exec_chunkData_inStep h hop, takeChunk_complete hx hy]

variable {size : Nat × Nat} (hsize : c.recvSize (s.runOr c.coll) x = some size) (hk : p.chunk.toNat % 2 ^ 20 < Nat.max 1 (c.chunks size.1))
  (hy : ((s.runOr c.coll).heldChunk p).complete = false)

include hsize hk hy

theorem exec_chunkData_part
    (hw : ∀ d, ¬ Whole ((s.runOr c.coll).heldAfter p) (c.chunkBytes size (p.chunk.toNat % 2 ^ 20)) d) :
    exec (.chunkData p) s = .next (s.setRun ((s.runOr c.coll).hold ((s.runOr c.coll).heldAfter p))) := by
  rw [exec_chunkData_inStep h hop, takeChunk_part hx hy ((if_neg hop).trans hsize) hk (if_neg hop) hw]

variable {d : List Byte} (hw : Whole ((s.runOr c.coll).heldAfter p) (c.chunkBytes size (p.chunk.toNat % 2 ^ 20)) d)

include hw

theorem exec_chunkData_whole : exec (.chunkData p) s = .next (deliverAll c (acknowledge c p 0 (stageBytes c d (s.setRun
    ((s.runOr c.coll).hold (((s.runOr c.coll).heldAfter p).whole d)))))) := by
  rw [exec_chunkData_inStep h hop, takeChunk_whole hx hy ((if_neg hop).trans hsize) hk (if_neg hop) hw]

theorem exec_chunkData_early (hb : (s.runOr c.coll).begun = false) : exec (.chunkData p) s = .next (acknowledge c p 0 (stageBytes c d (s.setRun
    ((s.runOr c.coll).hold (((s.runOr c.coll).heldAfter p).whole d))))) := by
  obtain ⟨hcoll, hstep⟩ := runOr_key s c.coll
  rw [exec_chunkData_whole h hop hx hsize hk hy hw, deliverAll_of_not_begun (r := (s.runOr c.coll).hold _) p 0 d hcoll hstep hb]

end

/-! ## CHUNK_COUNT -/

theorem exec_chunkCount_inStep {s : State} {p : Packet} {c : CollCtx} (h : InStepOf s p 0x12 c) :
    exec (.chunkCount p) s = .next (takeCountChunk c p s) := by
  have htyp : ¬ p.typ ≠ 0x12 := not_not.mpr (BitVec.eq_of_toNat_eq h.1)
  refine congrArg Host.Outcome.next ?_
  rw [if_neg htyp, receiveColl_inStep h]

theorem takeCountChunk_known {s : State} {p : Packet} {c : CollCtx} {q : Nat} (hop : c.e.op = 6) (hq : c.rank p.src.toNat = some q)
    (hcount : look? q (s.runOr c.coll).recvCounts ≠ none) : takeCountChunk c p s = acknowledge c p 0 s := by
  unfold takeCountChunk
  dsimp only
  rw [hq]
  dsimp only
  rw [if_neg (not_not.mpr hop)]
  exact if_pos (Option.isSome_iff_ne_none.mpr hcount)

/-- The count of a peer of which nothing waits is kept, staged and acknowledged. -/
theorem takeCountChunk_new {s : State} {p : Packet} {c : CollCtx} {q : Nat} (hop : c.e.op = 6) (hq : c.rank p.src.toNat = some q)
    (hcount : look? q (s.runOr c.coll).recvCounts = none) (hrecv : (s.runOr c.coll).recv = []) (hb : (s.runOr c.coll).begun = false) :
    takeCountChunk c p s = acknowledge c p 0 (stageBytes c (p.payload.take 4) (s.setRun { s.runOr c.coll with
      recvCounts := put q (leNat (p.payload.take 4)) (s.runOr c.coll).recvCounts })) := by
  unfold takeCountChunk
  dsimp only
  rw [hq]
  dsimp only
  rw [if_neg (not_not.mpr hop), CollRun.countOf, hcount, if_neg (by simp), hb, hrecv]
  simp only [List.map_nil, List.filter_nil, each, Bool.false_and, Bool.false_eq_true, if_false, sendAck_eq_acknowledge]

theorem exec_chunkCount_known {s : State} {p : Packet} {c : CollCtx} {q : Nat} (h : InStepOf s p 0x12 c) (hop : c.e.op = 6)
    (hq : c.rank p.src.toNat = some q) (hcount : look? q (s.runOr c.coll).recvCounts ≠ none) :
    exec (.chunkCount p) s = .next (acknowledge c p 0 s) := by
  rw [exec_chunkCount_inStep h, takeCountChunk_known hop hq hcount]

theorem exec_chunkCount_new {s : State} {p : Packet} {c : CollCtx} {q : Nat} (h : InStepOf s p 0x12 c) (hop : c.e.op = 6)
    (hq : c.rank p.src.toNat = some q) (hcount : look? q (s.runOr c.coll).recvCounts = none) (hrecv : (s.runOr c.coll).recv = [])
    (hb : (s.runOr c.coll).begun = false) :
    exec (.chunkCount p) s = .next (acknowledge c p 0 (stageBytes c (p.payload.take 4) (s.setRun { s.runOr c.coll with
      recvCounts := put q (leNat (p.payload.take 4)) (s.runOr c.coll).recvCounts }))) := by
  rw [exec_chunkCount_inStep h, takeCountChunk_new hop hq hcount hrecv hb]

end Sys2Proof.Machine
end

section
/-! Acknowledgements, the timers of chunks, and the windows of entries (R309 to R313). -/

namespace Sys2Proof.Machine

open Sys2Proof.Certificates

/-! ## Conditions -/

theorem condCode_lt (c : Cond) : Cond.code c < 32768 := by
  cases c <;> decide

/-- A condition that is recorded stands in the sticky map (R359). -/
theorem record_sets_cond (r : Raise) (s : State) : (record r s).evt.sticky.getLsbD (Cond.code r.cond) = true := by
  rw [record_sticky r s (condCode_lt r.cond), Raise.stickyBits]
  simp

theorem markFailed_evt {r : Raise} (h : r.cls = .job) (s : State) : (markFailed r s).evt = s.evt := by
  unfold markFailed noteReplay
  rw [h]
  split <;> rfl

theorem peerLost_sticky (peer : Nat) (s : State) : (peerLost peer s).evt.sticky.getLsbD (Cond.code .collPeerLost) = true := by
  have hraise : peerLost peer s = markFailed (Raise.of .collPeerLost .device peer 0 0 0) (record (Raise.of .collPeerLost .device peer 0 0 0) s) := rfl
  rw [hraise, markFailed_evt rfl]
  exact record_sets_cond _ s

/-! ## The end of an entry -/

theorem settleRun_eq_self {coll : Nat} {s : State} {r : CollRun} (hr : s.run coll = some r)
    (h : r.finished = false ∨ r.complete = true ∨ r.sent.all (·.acked) = false) : settleRun coll s = s := by
  unfold settleRun
  rw [hr]
  dsimp only
  rw [if_neg]
  rintro ⟨hf, hc, ha⟩
  obtain h | h | h := h
  · simp [h] at hf
  · simp [h] at hc
  · simp [h] at ha

theorem settleRun_done {coll : Nat} {s : State} {r : CollRun} (hr : s.run coll = some r) (hf : r.finished = true)
    (hc : r.complete = false) (ha : r.sent.all (·.acked) = true) : settleRun coll s =
      (s.setRun { r with complete := true }).onJob (fun j => { j with collDone := j.collDone ++ [coll] }) := by
  unfold settleRun
  rw [hr]
  exact if_pos ⟨hf, by simp [hc], ha⟩

/-- An entry that has finished is complete when every chunk it sent is acknowledged (R312). -/
theorem run_settleRun {coll : Nat} {s : State} {r : CollRun} (hr : s.run coll = some r) (hf : r.finished = true) :
    (settleRun coll s).run coll = some { r with complete := r.complete || r.sent.all (·.acked) } := by
  obtain ⟨hcoll, hstep⟩ := run_some hr
  by_cases hc : r.complete = true
  · rw [settleRun_eq_self hr (.inr (.inl hc)), hr, hc, Bool.true_or, ← hc]
  · rw [Bool.not_eq_true] at hc
    cases ha : r.sent.all (·.acked) with
    | false => rw [settleRun_eq_self hr (.inr (.inr ha)), hr, hc, Bool.or_false, ← hc]
    | true =>
      rw [settleRun_done hr hf hc ha, onJob_run, Bool.or_true]
      · exact run_setRun hcoll hstep
      · exact fun _ => rfl

/-! ## CHUNK_ACK -/

theorem SentChunk.is_iff {k : SentChunk} {chunk peer : Nat} : k.is chunk peer = true ↔ k.chunk = chunk ∧ k.peer = peer ∧ k.acked = false := by
  simp [SentChunk.is, and_assoc]

/-- The run with its chunks changed that an acknowledgement names and that are not acknowledged. -/
def CollRun.onNamed (r : CollRun) (p : Packet) (f : SentChunk → SentChunk) : CollRun :=
  { r with sent := r.sent.map (fun k => if k.chunk = p.chunk.toNat ∧ k.peer = p.src.toNat ∧ k.acked = false then f k else k) }

theorem onNamed_eq (r : CollRun) (p : Packet) (f : SentChunk → SentChunk) :
    { r with sent := r.sent.map (fun k => if k.is p.chunk.toNat p.src.toNat then f k else k) } = r.onNamed p f := by
  rw [CollRun.onNamed, List.map_congr_left]
  exact fun _ _ => if_congr SentChunk.is_iff rfl rfl

/-- The run with an acknowledged chunk released (R310). -/
def CollRun.released (r : CollRun) (p : Packet) : CollRun := r.onNamed p (fun k => { k with acked := true })

/-- The run with the re-issues of a chunk counted from the start, after an answer AHEAD (R309). -/
def CollRun.restarted (r : CollRun) (p : Packet) : CollRun := r.onNamed p (fun k => { k with reissues := 0 })

/-- What the device keeps of a peer's slip and pace after an acknowledgement (R313). -/
def hearPace (p : Packet) (s : State) : State :=
  { s with fab := { s.fab with peerPace := put p.src.toNat (leNat (p.payload.take 4), leNat ((p.payload.drop 4).take 2)) s.fab.peerPace } }

/-- An acknowledgement is one for this device's collective engine. -/
def AckHere (s : State) (p : Packet) : Prop :=
  p.typ.toNat = 0x11 ∧ s.forwards = true ∧ s.shut = false ∧ s.address = some p.dest.toNat

/-- The status of an acknowledgement. -/
def ackStatus (p : Packet) : Nat := leNat ((p.payload.drop 6).take 1) % 16

/-- An acknowledgement matches a chunk of the run that is not acknowledged. -/
def AckMatches (p : Packet) (r : CollRun) : Prop := ∃ k ∈ r.sent, k.chunk = p.chunk.toNat ∧ k.peer = p.src.toNat ∧ k.acked = false

theorem ackMatches_iff {p : Packet} {r : CollRun} : r.sent.any (fun k => k.is p.chunk.toNat p.src.toNat) = true ↔ AckMatches p r := by
  simp only [List.any_eq_true, SentChunk.is_iff, AckMatches]

section

variable {s : State} {p : Packet} (h : AckHere s p)

include h

theorem exec_chunkAck_unknown (hr : s.run p.coll.toNat = none) : exec (.chunkAck p) s = .next (hearPace p s) := by
  obtain ⟨ht, hf, hs, ha⟩ := h
  refine congrArg Host.Outcome.next ?_
  dsimp only
  rw [if_neg (by simp [BitVec.eq_of_toNat_eq (y := (0x11 : BitVec 6)) ht, hf, hs, ha])]
  have hr' : (hearPace p s).run p.coll.toNat = none := hr
  rw [← hearPace, hr']

variable {r : CollRun} (hr : s.run p.coll.toNat = some r)

include hr

theorem exec_chunkAck_run : exec (.chunkAck p) s = .next (
    if p.window.toNat ≠ s.step % 4096 ∨ !r.sent.any (fun k => k.is p.chunk.toNat p.src.toNat) then hearPace p s
    else if ackStatus p = 0 then settleRun p.coll.toNat ((hearPace p s).setRun (r.released p))
    else if ackStatus p = 6 then (hearPace p s).setRun (r.restarted p)
    else peerLost p.src.toNat ((hearPace p s).setRun r)) := by
  obtain ⟨ht, hf, hs, ha⟩ := h
  refine congrArg Host.Outcome.next ?_
  dsimp only
  rw [if_neg (by simp [BitVec.eq_of_toNat_eq (y := (0x11 : BitVec 6)) ht, hf, hs, ha])]
  have hr' : (hearPace p s).run p.coll.toNat = some r := hr
  rw [← hearPace, hr']
  dsimp only
  rw [onNamed_eq r p (fun k => { k with acked := true }), onNamed_eq r p (fun k => { k with reissues := 0 })]
  rfl

theorem exec_chunkAck_other (hno : p.window.toNat ≠ s.step % 4096 ∨ ¬ AckMatches p r) : exec (.chunkAck p) s = .next (hearPace p s) := by
  rw [exec_chunkAck_run h hr, if_pos]
  refine hno.imp_right fun hm => ?_
  rw [Bool.not_eq_true', ← Bool.not_eq_true, ackMatches_iff]
  exact hm

variable (hw : p.window.toNat = s.step % 4096) (hm : AckMatches p r)

include hw hm

theorem exec_chunkAck_match : exec (.chunkAck p) s = .next (
    if ackStatus p = 0 then settleRun p.coll.toNat ((hearPace p s).setRun (r.released p))
    else if ackStatus p = 6 then (hearPace p s).setRun (r.restarted p)
    else peerLost p.src.toNat ((hearPace p s).setRun r)) := by
  rw [exec_chunkAck_run h hr, if_neg]
  rw [ackMatches_iff.mpr hm]
  simp [hw]

/-- An acknowledgement that leaves the entry incomplete releases its chunk and nothing more. -/
theorem exec_chunkAck_ok (hs : ackStatus p = 0) (ho : r.finished = false ∨ r.complete = true ∨
    (r.released p).sent.all (·.acked) = false) : exec (.chunkAck p) s = .next ((hearPace p s).setRun (r.released p)) := by
  obtain ⟨hcoll, hstep⟩ := run_some hr
  rw [exec_chunkAck_match h hr hw hm, if_pos hs, settleRun_eq_self (r := r.released p) ?_ ho]
  exact run_setRun hcoll hstep

/-- The acknowledgement of the last chunk of an entry that has finished completes it (R312). -/
theorem chunkAck_completes (hs : ackStatus p = 0) (hf : r.finished = true) (hc : r.complete = false)
    (ha : (r.released p).sent.all (·.acked) = true) :
    Completes (.chunkAck p) s (fun t => t.run p.coll.toNat = some { r.released p with complete := true } ∧
      t.fab = (hearPace p s).fab ∧ ∀ j, s.job = some j → t.job = some { j with collDone := j.collDone ++ [p.coll.toNat] }) := by
  obtain ⟨hcoll, hstep⟩ := run_some hr
  have hset : ((hearPace p s).setRun (r.released p)).run p.coll.toNat = some (r.released p) := run_setRun hcoll hstep
  refine ⟨_, (exec_chunkAck_match h hr hw hm).trans (congrArg _ ((if_pos hs).trans (settleRun_done hset hf hc ha))), ?_, rfl, fun j hj => ?_⟩
  · rw [onJob_run]
    · exact run_setRun hcoll hstep
    · exact fun _ => rfl
  · exact congrArg (Option.map _) hj

theorem exec_chunkAck_ahead (hs : ackStatus p = 6) :
    exec (.chunkAck p) s = .next ((hearPace p s).setRun (r.restarted p)) := by
  rw [exec_chunkAck_match h hr hw hm, if_neg (by omega), if_pos hs]

theorem chunkAck_loses (h0 : ackStatus p ≠ 0) (h6 : ackStatus p ≠ 6) :
    Completes (.chunkAck p) s (fun t => t.evt.sticky.getLsbD (Cond.code .collPeerLost) = true) :=
  ⟨_, (exec_chunkAck_match h hr hw hm).trans (congrArg _ ((if_neg h0).trans (if_neg h6))), peerLost_sticky _ _⟩

end

/-! ## CHUNK_TIMEOUT -/

/-- An entry of the open job has a run, and the commands may name it. -/
def EntryRuns (s : State) (c : CollCtx) (r : CollRun) : Prop := c.coll < 65535 ∧ s.collCtx c.coll = some c ∧ s.run c.coll = some r

theorem swapPending_iff {s : State} :
    s.swapPending = true ↔ s.fab.swap ≠ none ∨ s.fab.nextSwap ≠ none ∨ s.fab.events ≠ [] ∨ s.fab.floodQueue ≠ [] := by
  simp [State.swapPending, Option.isSome_iff_ne_none, or_assoc]

/-- A chunk of the run is not acknowledged, and no other chunk has its number and its peer. -/
structure Outstanding (r : CollRun) (k : SentChunk) : Prop where
  mem : k ∈ r.sent
  acked : k.acked = false
  only : ∀ j ∈ r.sent, j.chunk = k.chunk → j.peer = k.peer → j = k

theorem Outstanding.is_iff {r : CollRun} {k : SentChunk} (hk : Outstanding r k) {j : SentChunk} (hj : j ∈ r.sent) :
    j.is k.chunk k.peer = true ↔ j = k := by
  rw [SentChunk.is_iff]
  constructor
  · rintro ⟨hc, hp, -⟩
    exact hk.only j hj hc hp
  · rintro rfl
    exact ⟨rfl, rfl, hk.acked⟩

theorem Outstanding.find {r : CollRun} {k : SentChunk} (hk : Outstanding r k) : r.sent.find? (fun j => j.is k.chunk k.peer) = some k := by
  cases hf : r.sent.find? (fun j => j.is k.chunk k.peer) with
  | none => exact absurd ((hk.is_iff hk.mem).mpr rfl) (List.find?_eq_none.mp hf k hk.mem)
  | some j => exact congrArg some ((hk.is_iff (List.mem_of_find?_eq_some hf)).mp (List.find?_some (p := fun j : SentChunk => j.is k.chunk k.peer) hf))

section

variable {s : State} {c : CollCtx} {r : CollRun} {k : SentChunk} (h : EntryRuns s c r) (hk : Outstanding r k)

include h hk

theorem exec_chunkTimeout : exec (.chunkTimeout c.coll k.chunk k.peer) s = .next (
    if s.fab.stopped || s.swapPending then s
    else if 16 ≤ k.reissues then peerLost k.peer s
    else raise (fabRaise .chunkReissue .device 0 0 0 k.peer k.chunk (reissue c k true s)) (reissue c k true s)) := by
  obtain ⟨hu, hc, hr⟩ := h
  show execChunkTimeout c.coll k.chunk k.peer s = _
  unfold execChunkTimeout guardUnit
  rw [if_pos (decide_eq_true hu), hc, hr]
  dsimp only
  rw [hk.find]

theorem exec_chunkTimeout_pending (hp : s.fab.stopped = true ∨ s.swapPending = true) :
    exec (.chunkTimeout c.coll k.chunk k.peer) s = .next s := by
  rw [exec_chunkTimeout h hk, if_pos (by simpa using hp)]

/-- Sending a chunk again advances its epoch and its count in the run (R310). -/
theorem run_reissue : (reissue c k true s).run c.coll = some { r with
    sent := r.sent.map (fun j => if j = k then { k with epoch := k.epoch + 1, beforeStop := false, reissues := k.reissues + 1 } else j) } := by
  obtain ⟨-, -, hr⟩ := h
  unfold reissue
  rw [(sendChunk_leavesRuns ..).run]
  refine (run_onRun hr _ rfl rfl).trans (congrArg (fun l => some { r with sent := l }) ?_)
  exact List.map_congr_left fun j hj => if_congr (hk.is_iff hj) rfl rfl

variable (hp : ¬ (s.fab.stopped = true ∨ s.swapPending = true))

include hp

/-- A chunk that is not acknowledged is sent again at the next epoch, and recorded (R310). -/
theorem chunkTimeout_reissues (hn : k.reissues < 16) : Completes (.chunkTimeout c.coll k.chunk k.peer) s (fun t =>
    t.evt.sticky.getLsbD (Cond.code .chunkReissue) = true ∧ ∃ r', t.run c.coll = some r' ∧
      r'.sent = r.sent.map (fun j => if j = k then { k with epoch := k.epoch + 1, beforeStop := false, reissues := k.reissues + 1 } else j)) := by
  have hexec : exec (.chunkTimeout c.coll k.chunk k.peer) s = .next (record
      (fabRaise .chunkReissue .device 0 0 0 k.peer k.chunk (reissue c k true s)) (reissue c k true s)) := by
    rw [exec_chunkTimeout h hk, if_neg (by simpa using hp), if_neg (by omega), raise_of_note]
    rfl
  exact ⟨_, hexec, record_sets_cond _ _, _, ((record_leavesRuns _ _).run _).trans (run_reissue h hk), rfl⟩

theorem chunkTimeout_loses (hn : 16 ≤ k.reissues) : Completes (.chunkTimeout c.coll k.chunk k.peer) s (fun t =>
    t.evt.sticky.getLsbD (Cond.code .collPeerLost) = true) := by
  refine ⟨peerLost k.peer s, ?_, peerLost_sticky _ _⟩
  rw [exec_chunkTimeout h hk, if_neg (by simpa using hp), if_pos hn]

end

/-! ## PEER_SLOW -/

section

variable {s : State} {c : CollCtx} {r : CollRun} (h : EntryRuns s c r)

include h

theorem exec_peerSlow_open (ho : s.issued c.coll = false ∨ r.complete = true ∨ s.time.tick < r.closeTick) :
    exec (.peerSlow c.coll) s = .next s := by
  obtain ⟨hu, hc, hr⟩ := h
  show execPeerSlow c.coll s = _
  unfold execPeerSlow guardUnit
  rw [if_pos (decide_eq_true hu), hc, hr]
  dsimp only
  rw [if_pos]
  simpa [or_assoc] using ho

/-- A window that closes on an incomplete entry is recorded, and opens for K ticks more (R313). -/
theorem peerSlow_closes (hi : s.issued c.coll = true) (hcomplete : r.complete = false) (ht : r.closeTick ≤ s.time.tick) :
    Completes (.peerSlow c.coll) s (fun t => t.run c.coll = some { r with closeTick := r.closeTick + Nat.max 1 c.e.k } ∧
      t.evt.sticky.getLsbD (Cond.code .peerSlow) = true) := by
  obtain ⟨hu, hc, hr⟩ := h
  obtain ⟨hcoll, hstep⟩ := run_some hr
  show ∃ t, execPeerSlow c.coll s = _ ∧ _
  unfold execPeerSlow guardUnit
  rw [if_pos (decide_eq_true hu), hc, hr]
  dsimp only
  rw [if_neg (by simp [hi, hcomplete, ht]), raise_of_note (by rfl)]
  exact ⟨_, rfl, ((record_leavesRuns _ _).run _).trans (run_setRun hcoll hstep), record_sets_cond _ _⟩

end

end Sys2Proof.Machine
end

section
/-! Stages: what a stage sends, when it is complete, how the next begins, and how a barrier goes on (R302, R303, R312, R314). -/

namespace Sys2Proof.Machine

open Sys2Proof.Certificates

/-! ## Sending a stage -/

/-- The chunks an entry sends in a stage (R302, R310). -/
def CollCtx.stageChunks (c : CollCtx) (r : CollRun) (stage : Nat) : List SentChunk :=
  ((c.sends stage).map (fun x => ((c.sendData r stage x).zipIdx).map
    (fun d => ({ chunk := chunkNo stage d.2, peer := c.addr x.peer, data := d.1 } : SentChunk)))).flatten

theorem chunkNo_zero (stage : Nat) : chunkNo stage 0 = stage * 2 ^ 20 := Nat.add_zero _

/-- A barrier sends one empty chunk to each member of a round. -/
theorem stageChunks_barrier {c : CollCtx} (r : CollRun) (stage : Nat) (hop : c.e.op = 7) :
    c.stageChunks r stage = (c.sends stage).map (fun w => { chunk := stage * 2 ^ 20, peer := c.addr w.peer }) := by
  have hdata : ∀ x, c.sendData r stage x = [[]] := fun x => if_pos hop
  unfold CollCtx.stageChunks
  simp only [hdata, chunkNo, List.zipIdx_singleton, List.map_cons, List.map_nil, Nat.add_zero]
  induction c.sends stage with
  | nil => rfl
  | cons x l ih => rw [List.map_cons, List.map_cons, List.flatten_cons, ih]; rfl

theorem run_sendStage {c : CollCtx} {s : State} {r : CollRun} (stage : Nat) (hr : s.run c.coll = some r) :
    (sendStage c stage s).run c.coll = some { r with sent := r.sent ++ c.stageChunks r stage } := by
  obtain ⟨hcoll, hstep⟩ := run_some hr
  unfold sendStage
  rw [hr]
  dsimp only
  rw [(each_leavesRuns (fun k => sendChunk_leavesRuns c k) _ _).run]
  exact run_setRun hcoll hstep

/-- A stage that begins sends its chunks, but for a barrier's round 0 that waits for replies (R314). -/
theorem run_beginStage {c : CollCtx} {s : State} {r : CollRun} (hr : s.run c.coll = some r) : (beginStage c s).run c.coll =
    some { r with sent := r.sent ++ if c.e.op = 7 ∧ r.stage = 0 ∧ !s.marksClear r.barrierMarks then [] else c.stageChunks r r.stage } := by
  unfold beginStage
  rw [hr]
  dsimp only
  split
  · rw [hr, List.append_nil]
  · exact run_sendStage r.stage hr

/-! ## From one stage to the next -/

theorem run_nextStage_more {c : CollCtx} {s : State} {r : CollRun} (hr : s.run c.coll = some r) (h : r.stage + 1 < c.e.stages) :
    (nextStage c s).run c.coll = some { r with
      stage := r.stage + 1, sent := r.sent ++ c.stageChunks { r with stage := r.stage + 1 } (r.stage + 1) } := by
  obtain ⟨hcoll, hstep⟩ := run_some hr
  have hset : (s.setRun { r with stage := r.stage + 1 }).run c.coll = some { r with stage := r.stage + 1 } := run_setRun hcoll hstep
  unfold nextStage
  rw [hr]
  dsimp only
  rw [if_pos h, run_beginStage hset, if_neg (by simp)]

theorem run_nextStage_last {c : CollCtx} {s : State} {r : CollRun} (hr : s.run c.coll = some r) (h : c.e.stages ≤ r.stage + 1) :
    (nextStage c s).run c.coll = some { r with
      stage := r.stage + 1, finished := true, complete := r.complete || r.sent.all (·.acked) } := by
  obtain ⟨hcoll, hstep⟩ := run_some hr
  have hset : (s.setRun { r with stage := r.stage + 1, finished := true }).run c.coll =
    some { r with stage := r.stage + 1, finished := true } := run_setRun hcoll hstep
  unfold nextStage
  rw [hr]
  dsimp only
  rw [if_neg (by omega)]
  exact run_settleRun hset rfl

theorem completeStage_of_not_ready {c : CollCtx} {s : State} {r : CollRun} (hr : s.run c.coll = some r) (h : c.ready r = false) :
    completeStage c s = s := by
  unfold completeStage
  rw [hr]
  exact if_pos (by simp [h])

theorem completeStage_of_ready {c : CollCtx} {s : State} {r : CollRun} (hr : s.run c.coll = some r) (h : c.ready r = true)
    (hop : c.e.op ≠ 6) : completeStage c s = nextStage c (combineStage c r.stage r (s.setRun (c.keep r))) := by
  unfold completeStage
  rw [hr]
  dsimp only
  rw [if_neg (by simp [h]), if_neg hop]

theorem combineStage_of_plain {c : CollCtx} {stage : Nat} (r : CollRun) (s : State) (h : ∀ x ∈ c.recvs stage, x.combine = false) :
    combineStage c stage r s = s := by
  unfold combineStage
  dsimp only
  rw [List.filter_eq_nil_iff.mpr fun x hx => by simp [h x hx]]

/-! ## Barriers -/

theorem advanceBarrier_of_other {c : CollCtx} (hop : c.e.op ≠ 7) (n : Nat) (s : State) : advanceBarrier c n s = s := by
  cases n with
  | zero => rfl
  | succ n => exact if_neg hop

/-- A barrier whose round lacks its message stands. -/
theorem advanceBarrier_of_not_ready {c : CollCtx} {s : State} {r : CollRun} (hr : s.run c.coll = some r) (h : c.ready r = false) (n : Nat) :
    advanceBarrier c n s = s := by
  induction n with
  | zero => rfl
  | succ n ih => rw [advanceBarrier, completeStage_of_not_ready hr h, ih, ite_self]

/-- A barrier in a round whose message it holds goes on to the next, and stands there when that one lacks its own. -/
theorem advanceBarrier_one {c : CollCtx} {s : State} {r : CollRun} (hop : c.e.op = 7) (hr : (completeStage c s).run c.coll = some r)
    (h : c.ready r = false) (n : Nat) : advanceBarrier c (n + 1) s = completeStage c s := by
  rw [advanceBarrier, if_pos hop, advanceBarrier_of_not_ready hr h]

theorem find?_putChunk (y : RecvChunk) (l : List RecvChunk) :
    (putChunk y l).find? (fun x => x.chunk == y.chunk && x.peer == y.peer) = some y := by
  induction l with
  | nil => simp [putChunk]
  | cons x l ih =>
    by_cases h : x.chunk = y.chunk ∧ x.peer = y.peer
    · simp [putChunk, h]
    · rw [putChunk, if_neg h, List.find?_cons_of_neg (by simpa using h), ih]

theorem find?_putChunk_other {y : RecvChunk} {n a : Nat} (h : y.chunk ≠ n) (l : List RecvChunk) :
    (putChunk y l).find? (fun x => x.chunk == n && x.peer == a) = l.find? (fun x => x.chunk == n && x.peer == a) := by
  induction l with
  | nil => simp [putChunk, h]
  | cons x l ih =>
    by_cases hx : x.chunk = y.chunk ∧ x.peer = y.peer
    · rw [putChunk, if_pos hx, List.find?_cons_of_neg (by simp [h]), List.find?_cons_of_neg (by simp [hx.1, h])]
    · rw [putChunk, if_neg hx, List.find?_cons, List.find?_cons, ih]

theorem chunk?_hold (r : CollRun) (y : RecvChunk) : (r.hold y).chunk? y.chunk y.peer = some y := find?_putChunk y r.recv

theorem chunk?_hold_other (r : CollRun) {y : RecvChunk} {n : Nat} (h : y.chunk ≠ n) (a : Nat) : (r.hold y).chunk? n a = r.chunk? n a :=
  find?_putChunk_other h r.recv

theorem xferDone_barrier {c : CollCtx} (r : CollRun) (stage : Nat) (x : Xfer) (hop : c.e.op = 7) :
    c.xferDone r stage x = (r.chunk? (chunkNo stage 0) (c.addr x.peer)).any (·.complete) := by
  unfold CollCtx.xferDone CollCtx.recvSize CollCtx.chunks
  rw [if_neg (by omega), if_neg (by omega)]
  dsimp only
  rw [if_pos hop]
  cases h : r.chunk? (chunkNo stage 0) (c.addr x.peer) <;> simp [h]

/-- A round lacks the message of a member. -/
theorem ready_eq_false_of_missing {c : CollCtx} {r : CollRun} {w : Xfer} (hop : c.e.op = 7) (hw : w ∈ c.recvs r.stage)
    (h : r.chunk? (chunkNo r.stage 0) (c.addr w.peer) = none) : c.ready r = false := by
  have hall : (c.recvs r.stage).all (c.xferDone r r.stage) = false := by
    rw [List.all_eq_false]
    exact ⟨w, hw, by simp [xferDone_barrier r r.stage w hop, h]⟩
  simp [CollCtx.ready, hall]

theorem ready_eq_false_of_finished {c : CollCtx} {r : CollRun} (h : r.finished = true) : c.ready r = false := by
  simp [CollCtx.ready, h]

/-- A message of a barrier as it is held. -/
def heldMessage (p : Packet) : RecvChunk :=
  { chunk := p.chunk.toNat, peer := p.src.toNat, epoch := p.epoch, complete := true, data := p.payload }

theorem heldChunk_new {r : CollRun} {p : Packet} (h : r.chunk? p.chunk.toNat p.src.toNat = none) :
    r.heldChunk p = { chunk := p.chunk.toNat, peer := p.src.toNat, epoch := p.epoch } := by
  rw [CollRun.heldChunk, h, Option.getD_none]

/-- Of a chunk of which nothing was held one packet is held. -/
theorem heldAfter_new {r : CollRun} {p : Packet} (h : r.chunk? p.chunk.toNat p.src.toNat = none) : r.heldAfter p =
    { chunk := p.chunk.toNat, peer := p.src.toNat, epoch := p.epoch, held := [(p.offset.toNat, p.payload)] } := by
  rw [CollRun.heldAfter, heldChunk_new h]
  simp [holding, put]

/-- One packet at offset 0 is the whole of a chunk without bytes. -/
theorem whole_new {r : CollRun} {p : Packet} (h : r.chunk? p.chunk.toNat p.src.toNat = none) (hoff : p.offset = 0) :
    Whole (r.heldAfter p) 0 p.payload := by
  rw [heldAfter_new h]
  simp [Whole, ceilDiv, look?, hoff, Nat.max]

theorem ready_of_received {c : CollCtx} {r : CollRun} {x : Xfer} (hb : r.begun = true) (hf : r.finished = false) (hrecvs : c.recvs r.stage = [x])
    (hdone : c.xferDone r r.stage x = true) (hsent : r.sent.any (fun k => k.chunk / 2 ^ 20 == r.stage) = true) : c.ready r = true := by
  simp only [CollCtx.ready, hb, hf, hrecvs, hsent, List.all_cons, List.all_nil, hdone]
  simp

/-- A round has its message when it is the one of the one member it waits for. -/
theorem ready_message {c : CollCtx} {r : CollRun} {p : Packet} {x : Xfer} (staged : Nat) (hop : c.e.op = 7) (hb : r.begun = true)
    (hf : r.finished = false) (hsent : r.sent.any (fun k => k.chunk / 2 ^ 20 == r.stage) = true) (hrecvs : c.recvs r.stage = [x])
    (haddr : c.addr x.peer = p.src.toNat) (hchunk : p.chunk.toNat = r.stage * 2 ^ 20) :
    c.ready { r.hold (heldMessage p) with staged := staged } = true := by
  have hdone : c.xferDone { r.hold (heldMessage p) with staged := staged } r.stage x = true := by
    have hkey : (r.hold (heldMessage p)).chunk? (chunkNo r.stage 0) (c.addr x.peer) = some (heldMessage p) := by
      rw [chunkNo_zero, ← hchunk, haddr]
      exact chunk?_hold r (heldMessage p)
    rw [xferDone_barrier _ _ _ hop]
    exact congrArg (Option.any (·.complete)) hkey
  exact ready_of_received hb hf hrecvs hdone hsent

/-- A barrier's message is held, staged and acknowledged. -/
theorem takeChunk_message {s : State} {p : Packet} {c : CollCtx} {r : CollRun} {x : Xfer} (hop : c.e.op = 7) (hr : s.run c.coll = some r)
    (hx : c.xferOf p = some x) (hk : p.chunk.toNat % 2 ^ 20 = 0) (hoff : p.offset = 0) (hnone : r.chunk? p.chunk.toNat p.src.toNat = none) :
    (takeChunk c p s).run c.coll = some { r.hold (heldMessage p) with staged := r.staged + ceilDiv p.payload.length 64 } := by
  obtain ⟨hcoll, hstep⟩ := run_some hr
  have hor : s.runOr c.coll = r := by rw [State.runOr, hr, Option.getD_some]
  rw [takeChunk_whole hx (by rw [hor, heldChunk_new hnone]) (if_pos hop) (by rw [hk, CollCtx.chunks, if_pos hop]; decide) (if_pos hop)
      (by rw [hor]; exact whole_new hnone hoff),
    deliverAll_eq_self fun _ _ => .inr hop, hor, heldAfter_new hnone]
  exact run_acknowledge_stageBytes p 0 p.payload hcoll hstep

section

variable {c : CollCtx} {s : State} {r : CollRun} (hop : c.e.op = 7) (hr : s.run c.coll = some r) (hready : c.ready r = true)
  (hplain : ∀ x ∈ c.recvs r.stage, x.combine = false)

include hop hr hready hplain

theorem completeStage_barrier : completeStage c s = nextStage c (s.setRun (c.keep r)) := by
  rw [completeStage_of_ready hr hready (by omega), combineStage_of_plain _ _ hplain]

/-- The next round of a barrier begins, and waits for its own message. -/
theorem run_advanceBarrier_more {w : Xfer} (n : Nat) (h : r.stage + 1 < c.e.stages) (hw : w ∈ c.recvs (r.stage + 1))
    (hmiss : r.chunk? (chunkNo (r.stage + 1) 0) (c.addr w.peer) = none) :
    (advanceBarrier c (n + 1) s).run c.coll = some { c.keep r with
      stage := r.stage + 1,
      sent := r.sent ++ (c.sends (r.stage + 1)).map (fun w => { chunk := (r.stage + 1) * 2 ^ 20, peer := c.addr w.peer }) } := by
  obtain ⟨hcoll, hstep⟩ := run_some hr
  have hnext := run_nextStage_more (s := s.setRun (c.keep r)) (r := c.keep r) (run_setRun hcoll hstep) h
  rw [stageChunks_barrier _ _ hop, ← completeStage_barrier hop hr hready hplain] at hnext
  rw [advanceBarrier_one hop hnext (ready_eq_false_of_missing hop hw hmiss), hnext]
  rfl

/-- The last round of a barrier finishes the entry. -/
theorem run_advanceBarrier_last (n : Nat) (h : c.e.stages ≤ r.stage + 1) :
    (advanceBarrier c (n + 1) s).run c.coll = some { c.keep r with
      stage := r.stage + 1, finished := true, complete := r.complete || r.sent.all (·.acked) } := by
  obtain ⟨hcoll, hstep⟩ := run_some hr
  have hnext := run_nextStage_last (s := s.setRun (c.keep r)) (r := c.keep r) (run_setRun hcoll hstep) h
  rw [← completeStage_barrier hop hr hready hplain] at hnext
  rw [advanceBarrier_one hop hnext (ready_eq_false_of_finished rfl), hnext]
  rfl

end

/-! ## BARRIER -/

theorem exec_barrier_inStep {s : State} {p : Packet} {c : CollCtx} (h : InStepOf s p 0x20 c) (hop : c.e.op = 7) :
    exec (.barrier p) s = .next (advanceBarrier c (c.e.stages + 1) (takeChunk c p s)) := by
  have htyp : ¬ p.typ ≠ 0x20 := not_not.mpr (BitVec.eq_of_toNat_eq h.1)
  refine congrArg Host.Outcome.next ?_
  rw [if_neg htyp, receiveColl_inStep h, if_pos hop]

/-- A barrier's message arrives that its round waits for. -/
structure Awaits (s : State) (p : Packet) (c : CollCtx) (r : CollRun) (x : Xfer) : Prop where
  op : c.e.op = 7
  run : s.run c.coll = some r
  begun : r.begun = true
  finished : r.finished = false
  sent : r.sent.any (fun k => k.chunk / 2 ^ 20 == r.stage) = true
  recvs : c.recvs r.stage = [x]
  plain : x.combine = false
  rank : c.rank p.src.toNat = some x.peer
  addr : c.addr x.peer = p.src.toNat
  chunk : p.chunk.toNat = r.stage * 2 ^ 20
  offset : p.offset = 0
  missing : r.chunk? p.chunk.toNat p.src.toNat = none

section

variable {s : State} {p : Packet} {c : CollCtx} {r : CollRun} {x : Xfer} (h : Awaits s p c r x)

include h

theorem Awaits.run_takeChunk : (takeChunk c p s).run c.coll = some { r.hold (heldMessage p) with staged := r.staged + ceilDiv p.payload.length 64 } := by
  have hstage : p.chunk.toNat / 2 ^ 20 = r.stage := by rw [h.chunk]; omega
  refine takeChunk_message (x := x) h.op h.run ?_ (by rw [h.chunk]; omega) h.offset h.missing
  rw [CollCtx.xferOf, h.rank, hstage, h.recvs]
  simp

theorem Awaits.ready (staged : Nat) : c.ready { r.hold (heldMessage p) with staged := staged } = true :=
  ready_message staged h.op h.begun h.finished h.sent h.recvs h.addr h.chunk

theorem Awaits.all_plain : ∀ y ∈ c.recvs r.stage, y.combine = false := by
  rw [h.recvs]
  simpa using h.plain

theorem Awaits.barrier_more (hi : InStepOf s p 0x20 c) (hlt : r.stage + 1 < c.e.stages)
    (hmiss : ∃ w ∈ c.recvs (r.stage + 1), r.chunk? ((r.stage + 1) * 2 ^ 20) (c.addr w.peer) = none) :
    Completes (.barrier p) s (fun t => ∃ r', t.run c.coll = some r' ∧ r'.stage = r.stage + 1 ∧ r'.finished = false ∧
      r'.sent = r.sent ++ (c.sends (r.stage + 1)).map (fun w => { chunk := (r.stage + 1) * 2 ^ 20, peer := c.addr w.peer })) := by
  obtain ⟨w, hw, hnone⟩ := hmiss
  have hother : (r.hold (heldMessage p)).chunk? (chunkNo (r.stage + 1) 0) (c.addr w.peer) = none := by
    rw [chunkNo_zero]
    have hne : (heldMessage p).chunk ≠ (r.stage + 1) * 2 ^ 20 := by
      show p.chunk.toNat ≠ (r.stage + 1) * 2 ^ 20
      rw [h.chunk]
      omega
    rw [chunk?_hold_other r hne, hnone]
  exact ⟨_, exec_barrier_inStep hi h.op, _,
    run_advanceBarrier_more h.op h.run_takeChunk (h.ready _) h.all_plain _ hlt hw hother, rfl, h.finished, rfl⟩

theorem Awaits.barrier_last (hi : InStepOf s p 0x20 c) (hlast : r.stage + 1 = c.e.stages) :
    Completes (.barrier p) s (fun t => ∃ r', t.run c.coll = some r' ∧ r'.stage = r.stage + 1 ∧ r'.finished = true ∧
      r'.complete = (r.complete || r.sent.all (·.acked)) ∧ r'.sent = r.sent) :=
  ⟨_, exec_barrier_inStep hi h.op, _,
    run_advanceBarrier_last h.op h.run_takeChunk (h.ready _) h.all_plain _ hlast.ge, rfl, rfl, rfl, rfl⟩

end

end Sys2Proof.Machine
end

section
/-! The beginning of an entry and the combination of a reducing stage (R301 to R304). -/

namespace Sys2Proof.Machine

open Sys2Proof.Certificates

/-! ## COLLECTIVE_STAGE0_START -/

theorem readVersion_clean (w : Reader) (f j loaf : Nat) (s : State) : (readVersion w f j loaf .clean s).1 = s := rfl

/-- Clean reads of the source leave the state. -/
theorem sourceReads_clean {c : CollCtx} {reads : List MemRead} (h : ∀ m ∈ reads, m.outcome = .clean) (s : State) :
    sourceReads c reads s = s := by
  unfold sourceReads hubReads
  induction reads with
  | nil => rfl
  | cons m l ih =>
    rw [each, h m (by simp), readVersion_clean, ite_self]
    exact ih fun m hm => h m (List.mem_cons_of_mem _ hm)

section

variable {s : State} {c : CollCtx} {r : CollRun} (h : EntryRuns s c r) (reads : List MemRead)

include h

theorem exec_stage0Start : exec (.collectiveStage0Start { coll := c.coll, reads := reads }) s = .next (
    if r.begun || !s.issued c.coll then s
    else if (sourceReads c reads s).job.isNone then sourceReads c reads s else startStages c r (sourceReads c reads s)) := by
  obtain ⟨hu, hc, hr⟩ := h
  show execCollectiveStage0Start { coll := c.coll, reads := reads } s = _
  unfold execCollectiveStage0Start guardUnit
  dsimp only
  rw [if_pos (decide_eq_true hu), hc, hr]

theorem exec_stage0Start_idle (hno : r.begun = true ∨ s.issued c.coll = false) :
    exec (.collectiveStage0Start { coll := c.coll, reads := reads }) s = .next s := by
  rw [exec_stage0Start h, if_pos (by simpa using hno)]

variable (hb : r.begun = false) (hi : s.issued c.coll = true)

include hb hi

theorem exec_stage0Start_reset (hj : (sourceReads c reads s).job = none) :
    exec (.collectiveStage0Start { coll := c.coll, reads := reads }) s = .next (sourceReads c reads s) := by
  rw [exec_stage0Start h, if_neg (by simp [hb, hi]), if_pos (by simp [hj])]

theorem exec_stage0Start_begins (hj : (sourceReads c reads s).job ≠ none) :
    exec (.collectiveStage0Start { coll := c.coll, reads := reads }) s = .next (startStages c r (sourceReads c reads s)) := by
  rw [exec_stage0Start h, if_neg (by simp [hb, hi]), if_neg (by simpa using hj)]

theorem exec_stage0Start_clean {reads : List MemRead} (hclean : ∀ m ∈ reads, m.outcome = .clean) :
    exec (.collectiveStage0Start { coll := c.coll, reads := reads }) s = .next (startStages c r s) := by
  have hj : s.job ≠ none := by
    intro hj
    simp [State.issued, hj] at hi
  rw [exec_stage0Start_begins h reads hb hi (by rwa [sourceReads_clean hclean]), sourceReads_clean hclean]

end

theorem deliverOwn_eq_self {c : CollCtx} (h : c.e.reduces = true ∨ c.e.op = 7) (s : State) : deliverOwn c s = s := by
  unfold deliverOwn
  split
  · rfl
  · exact if_pos h

theorem op_of_reduces {e : CollEntry} (h : e.reduces = true) : e.op = 1 ∨ e.op = 2 := by
  simpa [CollEntry.reduces] using h

/-- The run of a reduction whose source is staged, before it sends. -/
def CollRun.withSource (r : CollRun) (source : List (Nat × List Byte)) : CollRun :=
  { r with begun := true, source := source, partials := [], staged := r.staged + ceilDiv ((source.map (·.2)).flatten).length 64 }

/-- Round 0 of a barrier, which window operations before it hold back until their replies (R314). -/
def CollCtx.firstRound (c : CollCtx) (s : State) (r : CollRun) : List SentChunk :=
  if s.marksClear r.barrierMarks then (c.sends 0).map (fun w => { chunk := 0, peer := c.addr w.peer }) else []

section

variable {s : State} {c : CollCtx} {r : CollRun} (hr : s.run c.coll = some r) (hrecv : r.recv = []) (hstages : 0 < c.e.stages)

include hr hrecv hstages

theorem run_startStages_reduces (hstage : r.stage = 0) (hred : c.e.reduces = true) : (startStages c r s).run c.coll =
    some { r.withSource (c.copySource s) with sent := r.sent ++ c.stageChunks (r.withSource (c.copySource s)) 0 } := by
  obtain ⟨hcoll, hstep⟩ := run_some hr
  have h7 : c.e.op ≠ 7 := by have := op_of_reduces hred; omega
  have h6 : c.e.op ≠ 6 := by have := op_of_reduces hred; omega
  have hin : (stageInputs c r s).run c.coll = some (r.withSource (c.copySource s)) := by
    unfold stageInputs
    rw [if_neg h6, if_neg h7]
    dsimp only
    rw [if_pos hred]
    have hset : (s.setRun { r with begun := true, source := c.copySource s, partials := [] }).run c.coll =
      some { r with begun := true, source := c.copySource s, partials := [] } := run_setRun hcoll hstep
    exact run_stageBytes _ hset
  have hnil : ∀ r', (stageInputs c r s).run c.coll = some r' → r'.recv = [] := by
    intro r' hr'
    rw [hin] at hr'
    obtain rfl := Option.some.inj hr'
    exact hrecv
  unfold startStages
  dsimp only
  rw [if_neg h6, deliverOwn_eq_self (.inl hred), deliverAll_nil hnil, if_neg (by omega), advanceBarrier_of_other h7,
    run_beginStage hin, if_neg (fun hc => h7 hc.1), show (r.withSource (c.copySource s)).stage = r.stage from rfl, hstage]
  rfl

theorem run_startStages_barrier (hstage : r.stage = 0) (hop : c.e.op = 7) (hne : c.recvs 0 ≠ []) :
    (startStages c r s).run c.coll = some { r with begun := true, sent := r.sent ++ c.firstRound s r } := by
  obtain ⟨hcoll, hstep⟩ := run_some hr
  obtain ⟨w, hw⟩ := List.exists_mem_of_ne_nil _ hne
  have hin : (stageInputs c r s).run c.coll = some { r with begun := true } := by
    unfold stageInputs
    rw [if_neg (by omega), if_pos hop]
    exact run_setRun hcoll hstep
  have hmarks : (stageInputs c r s).marksClear r.barrierMarks = s.marksClear r.barrierMarks := by
    unfold stageInputs
    rw [if_neg (by omega), if_pos hop]
    rfl
  have hbegin : (beginStage c (stageInputs c r s)).run c.coll = some { r with begun := true, sent := r.sent ++ c.firstRound s r } := by
    refine (run_beginStage hin).trans (congrArg (fun l => some { r with begun := true, sent := r.sent ++ l }) ?_)
    dsimp only
    rw [hmarks, stageChunks_barrier _ _ hop, hstage, Nat.zero_mul, CollCtx.firstRound]
    cases s.marksClear r.barrierMarks with
    | false => exact if_pos ⟨hop, rfl, rfl⟩
    | true => exact if_neg (by simp)
  unfold startStages
  dsimp only
  rw [if_neg (by omega), deliverOwn_eq_self (.inr hop), deliverAll_eq_self fun _ _ => .inr hop, if_neg (by omega),
    advanceBarrier_of_not_ready hbegin, hbegin]
  exact ready_eq_false_of_missing (w := w) hop (by rw [hstage]; exact hw) (by rw [CollRun.chunk?, hrecv]; rfl)

end

theorem stageChunks_zero (c : CollCtx) (r : CollRun) : c.stageChunks r 0 = ((c.sends 0).map (fun x =>
    ((c.sendData r 0 x).zipIdx).map (fun d => ({ chunk := d.2, peer := c.addr x.peer, data := d.1 } : SentChunk)))).flatten := by
  simp only [CollCtx.stageChunks, chunkNo, Nat.zero_mul, Nat.zero_add]

end Sys2Proof.Machine
end

section
/-! The combination of a reducing stage: each unit of its range is this device's own value and the contributions received for it, added and
rounded once (R303, R304). -/

namespace Sys2Proof.Machine

open Sys2Proof.Certificates

theorem look?_put_other {κ α : Type} [DecidableEq κ] (v : α) {k j : κ} (h : j ≠ k) (l : List (κ × α)) : look? j (put k v l) = look? j l := by
  induction l with
  | nil => simp [put, look?, h.symm]
  | cons e l ih =>
    obtain ⟨k', v'⟩ := e
    by_cases hk : k' = k
    · simp [put, look?, hk, h.symm]
    · simp [put, look?, hk, ih]

/-! ## What rounding a unit looks at -/

/-- The states agree in what the rounding of a reduction looks at: the stage's key and the places of elements. -/
structure RoundsAlike (c : CollCtx) (s t : State) : Prop where
  key : ∀ stage, stageKey c stage t = stageKey c stage s
  place : ∀ u, c.elementOf u t = c.elementOf u s

theorem RoundsAlike.trans {c : CollCtx} {s t u : State} (h : RoundsAlike c s t) (h' : RoundsAlike c t u) : RoundsAlike c s u :=
  ⟨fun stage => (h'.key stage).trans (h.key stage), fun v => (h'.place v).trans (h.place v)⟩

theorem setRun_roundsAlike (c : CollCtx) (s : State) (r : CollRun) : RoundsAlike c s (s.setRun r) := ⟨fun _ => rfl, fun _ => rfl⟩

/-- Counts of a result change nothing that a rounding looks at. -/
theorem addCollCounts_roundsAlike (c : CollCtx) (tensor : Nat) (n : TensorCounters) (s : State) : RoundsAlike c s (addCollCounts tensor n s) := by
  unfold addCollCounts
  split
  · exact ⟨fun _ => rfl, fun _ => rfl⟩
  · cases h : s.job with
    | none => constructor <;> intro <;> simp [stageKey, CollCtx.elementOf, State.elementIndex, State.step, State.onJob, h]
    | some j => constructor <;> intro <;> simp [stageKey, CollCtx.elementOf, State.elementIndex, State.step, State.onJob, h]

theorem addCollCounts_run (tensor : Nat) (n : TensorCounters) (s : State) (coll : Nat) : (addCollCounts tensor n s).run coll = s.run coll := by
  unfold addCollCounts
  split
  · rfl
  · rw [onJob_run]
    exact fun _ => rfl

/-! ## One unit -/

/-- This device's own value of a unit: the partial result it holds, or its source. -/
def CollCtx.ownValues (c : CollCtx) (r : CollRun) (u : Nat) : List Exact :=
  match look? u r.partials with
  | some b => unitValues c.e.rFmt 128 b
  | none => unitValues c.srcFmt (c.unitShape true true).1 (look [] u r.source)

/-- The partial result of a unit with some contributions (R304). -/
def CollCtx.partialResult (c : CollCtx) (stage : Nat) (r : CollRun) (s : State) (u : Nat) (vs : List (List Exact)) : List Byte :=
  bytes16 ((roundAll (stageKey c stage s) c.e.rFmt true 0 (c.elementOf u s) (vs.foldl addValues (c.ownValues r u))).map (·.1))

theorem partialResult_congr {c : CollCtx} {s t : State} {r r' : CollRun} (stage u : Nat) (vs : List (List Exact)) (h : RoundsAlike c s t)
    (hp : look? u r'.partials = look? u r.partials) (hs : r'.source = r.source) :
    c.partialResult stage r' t u vs = c.partialResult stage r s u vs := by
  unfold CollCtx.partialResult CollCtx.ownValues
  rw [h.key, h.place, hp, hs]

theorem reduceUnit_bytes {c : CollCtx} {stage : Nat} (u : Nat) (sum : List Exact) (s : State) (h : stage + 1 < c.reduceStages) :
    (reduceUnit c stage u sum s).1 = bytes16 ((roundAll (stageKey c stage s) c.e.rFmt true 0 (c.elementOf u s) sum).map (·.1)) := by
  unfold reduceUnit
  dsimp only
  rw [if_pos h]
  rfl

/-- Before the last reducing stage a unit's combination is held as its partial result, and only counted beside that. -/
theorem combineUnit_partial {c : CollCtx} {stage : Nat} {s : State} {r : CollRun} (x : (Nat × List (List Exact)) × Nat)
    (hr : s.run c.coll = some r) (h : stage + 1 < c.reduceStages) :
    ∃ tensor n, combineUnit c stage x s =
      addCollCounts tensor n (s.setRun { r with partials := put x.1.1 (c.partialResult stage r s x.1.1 x.1.2) r.partials }) := by
  unfold combineUnit
  rw [hr]
  dsimp only
  rw [if_pos h, reduceUnit_bytes _ _ _ h]
  exact ⟨_, _, rfl⟩

/-! ## The units of a stage -/

/-- Units combined one after another, each once: every one of them becomes its partial result, and the rest stays. -/
theorem run_each_combineUnit {c : CollCtx} {stage : Nat} (h : stage + 1 < c.reduceStages) :
    ∀ (xs : List ((Nat × List (List Exact)) × Nat)) {s : State} {r : CollRun}, s.run c.coll = some r → (xs.map (·.1.1)).Nodup →
      ∃ ps, (each (combineUnit c stage) xs s).run c.coll = some { r with partials := ps } ∧
        (∀ u, u ∉ xs.map (·.1.1) → look? u ps = look? u r.partials) ∧
        ∀ x ∈ xs, look? x.1.1 ps = some (c.partialResult stage r s x.1.1 x.1.2) := by
  intro xs
  induction xs with
  | nil => exact fun hr _ => ⟨_, hr, fun _ _ => rfl, by simp⟩
  | cons x xs ih =>
    intro s r hr hnodup
    obtain ⟨hnotin, hrest⟩ := List.nodup_cons.mp hnodup
    obtain ⟨hcoll, hstep⟩ := run_some hr
    obtain ⟨tensor, n, hx⟩ := combineUnit_partial x hr h
    have hrun : (combineUnit c stage x s).run c.coll =
        some { r with partials := put x.1.1 (c.partialResult stage r s x.1.1 x.1.2) r.partials } := by
      rw [hx, addCollCounts_run]
      exact run_setRun hcoll hstep
    have halike : RoundsAlike c s (combineUnit c stage x s) := by
      rw [hx]
      exact (setRun_roundsAlike c s _).trans (addCollCounts_roundsAlike c tensor n _)
    obtain ⟨ps, hps, hout, hin⟩ := ih hrun hrest
    refine ⟨ps, hps, fun u hu => ?_, fun y hy => ?_⟩
    · rw [List.map_cons, List.mem_cons, not_or] at hu
      rw [hout u hu.2, look?_put_other _ hu.1]
    · obtain rfl | hy := List.mem_cons.mp hy
      · rw [hout _ hnotin, look?_put_self]
      · have hne : y.1.1 ≠ x.1.1 := fun heq => hnotin (List.mem_map.mpr ⟨y, hy, heq⟩)
        exact (hin y hy).trans (congrArg some (partialResult_congr stage y.1.1 y.1.2 halike (look?_put_other _ hne _) rfl))

/-- A stage with one contribution combines every unit of its range (R303, R304). -/
theorem run_combineStage {c : CollCtx} {s : State} {r : CollRun} {x : Xfer} (hr : s.run c.coll = some r) (h : r.stage + 1 < c.reduceStages)
    (hx : c.recvs r.stage = [x]) (hc : x.combine = true) :
    ∃ ps, (combineStage c r.stage r s).run c.coll = some { r with partials := ps } ∧ ∀ u, x.units.1 ≤ u → u < x.units.2 → look? u ps =
      some (bytes16 ((roundAll (stageKey c r.stage s) c.e.rFmt true 0 (c.elementOf u s) (unitSum c r x u)).map (·.1))) := by
  have hfilter : (c.recvs r.stage).filter (·.combine) = [x] := by simp [hx, hc]
  unfold combineStage
  dsimp only
  rw [hfilter]
  dsimp only
  obtain ⟨ps, hps, -, hin⟩ := run_each_combineUnit h ((List.range (x.units.2 - x.units.1)).map (fun i =>
    ((x.units.1 + i, [c.recvUnits r r.stage x].map (fun p => unitValues (if x.source then c.srcFmt else c.e.rFmt) (c.unitShape x.combine x.source).1
      (look [] (x.units.1 + i) p))), i * (c.unitShape x.combine x.source).1 / c.e.chunkLines))) hr (by
        rw [List.map_map]
        exact List.nodup_range.map fun i j hij => Nat.add_left_cancel hij)
  refine ⟨ps, hps, fun u hlo hhi => ?_⟩
  obtain ⟨i, rfl⟩ := Nat.exists_eq_add_of_le hlo
  exact hin _ (List.mem_map.mpr ⟨i, List.mem_range.mpr (by omega), rfl⟩)

/-! ## COLLECTIVE_STAGE_COMPLETE -/

theorem exec_stageComplete {s : State} {c : CollCtx} {r : CollRun} (h : EntryRuns s c r) :
    exec (.collectiveStageComplete c.coll) s = .next (completeStage c s) := by
  obtain ⟨hu, hc, -⟩ := h
  show execCollectiveStageComplete c.coll s = _
  unfold execCollectiveStageComplete guardUnit
  rw [if_pos (decide_eq_true hu), hc]

/-- Of a stage that combines all it receives nothing is held beside the result. -/
theorem keep_of_combine {c : CollCtx} {r : CollRun} (h : ∀ x ∈ c.recvs r.stage, x.combine = true) : c.keep r = r := by
  unfold CollCtx.keep
  rw [List.filter_eq_nil_iff.mpr fun x hx => by simp [h x hx]]
  rfl

/-- The run of a stage has moved to the next: its stage and what it holds. -/
theorem run_nextStage {c : CollCtx} {s : State} {r : CollRun} (hr : s.run c.coll = some r) :
    ∃ r', (nextStage c s).run c.coll = some r' ∧ r'.stage = r.stage + 1 ∧ r'.partials = r.partials := by
  by_cases h : r.stage + 1 < c.e.stages
  · exact ⟨_, run_nextStage_more hr h, rfl, rfl⟩
  · exact ⟨_, run_nextStage_last hr (by omega), rfl, rfl⟩

theorem stageComplete_combines {s : State} {c : CollCtx} {r : CollRun} {x : Xfer} (h : EntryRuns s c r) (hready : c.ready r = true)
    (hop : c.e.op ≠ 6) (hx : c.recvs r.stage = [x]) (hc : x.combine = true) (hstage : r.stage + 1 < c.reduceStages) :
    Completes (.collectiveStageComplete c.coll) s (fun t => ∃ r', t.run c.coll = some r' ∧ r'.stage = r.stage + 1 ∧
      ∀ u, x.units.1 ≤ u → u < x.units.2 → look? u r'.partials =
        some (bytes16 ((roundAll (stageKey c r.stage s) c.e.rFmt true 0 (c.elementOf u s) (unitSum c r x u)).map (·.1)))) := by
  obtain ⟨-, -, hr⟩ := id h
  obtain ⟨hcoll, hstep⟩ := run_some hr
  obtain ⟨ps, hps, hunits⟩ := run_combineStage (s := s.setRun r) (run_setRun hcoll hstep) hstage hx hc
  obtain ⟨r', hr', hnext, hheld⟩ := run_nextStage hps
  have hkeep : c.keep r = r := keep_of_combine (by rw [hx]; simpa using hc)
  refine ⟨_, exec_stageComplete h, r', ?_, hnext, fun u hlo hhi => ?_⟩
  · rw [completeStage_of_ready hr hready hop, hkeep, hr']
  · rw [hheld]
    exact hunits u hlo hhi

end Sys2Proof.Machine
end

section
/-! The statement about collectives, assembled from what each command of the engine does. -/

namespace Sys2Proof.Machine

open Sys2Proof.Certificates

/-- Settles O60, command by command: each clause is what the lemmas about its command say. -/
theorem collectivesRun : Obligations.CollectivesRun := by
  unfold Obligations.CollectivesRun
  refine ⟨?turnedAway, ?chunk, ?count, ?barrier, ?ack, ?timeout, ?window, ?start, ?complete⟩
  case turnedAway =>
    exact fun s p i ty hi => ⟨collective_elsewhere hi, collective_reserved hi, fun ht hf ha =>
      ⟨collective_shut hi ht hf ha, collective_unknown hi ht hf ha, fun c hs hc =>
        ⟨collective_ahead hi ht hf ha hs hc, collective_behind hi ht hf ha hs hc⟩⟩⟩
  case chunk =>
    exact fun s p c x size h hop hx hsize hk => ⟨exec_chunkData_again h hop hx, exec_chunkData_part h hop hx hsize hk, fun d hy hw =>
      ⟨exec_chunkData_whole h hop hx hsize hk hy hw, exec_chunkData_early h hop hx hsize hk hy hw⟩⟩
  case count =>
    exact fun s p c q h hop hq => ⟨exec_chunkCount_known h hop hq, exec_chunkCount_new h hop hq⟩
  case barrier =>
    intro s p c r x hi _ hop hr hb hf hsent hrecvs hplain hrank haddr hchunk hoff hmissing
    have h : Awaits s p c r x := ⟨hop, hr, hb, hf, hsent, hrecvs, hplain, hrank, haddr, hchunk, hoff, hmissing⟩
    exact ⟨h.barrier_more hi, h.barrier_last hi⟩
  case ack =>
    intro s p ht hf hs ha chunk peer mine status z
    have h : AckHere s p := ⟨ht, hf, hs, ha⟩
    refine ⟨exec_chunkAck_unknown h, fun r hr => ⟨fun hno => ?_, fun hw hm => ⟨exec_chunkAck_ok h hr hw hm,
      chunkAck_completes h hr hw hm, exec_chunkAck_ahead h hr hw hm, chunkAck_loses h hr hw hm⟩⟩⟩
    exact exec_chunkAck_other h hr (hno.imp_right fun hall ⟨k, hk, hmine⟩ => hall k hk hmine)
  case timeout =>
    intro s c r k hu hc hr hmem hacked honly pending
    have h : EntryRuns s c r := ⟨hu, hc, hr⟩
    have hk : Outstanding r k := ⟨hmem, hacked, honly⟩
    have hpending : pending ↔ s.fab.stopped = true ∨ s.swapPending = true := or_congr_right swapPending_iff.symm
    rw [hpending]
    exact ⟨exec_chunkTimeout_pending h hk, chunkTimeout_reissues h hk, chunkTimeout_loses h hk⟩
  case window =>
    exact fun s c r hu hc hr => ⟨exec_peerSlow_open ⟨hu, hc, hr⟩, peerSlow_closes ⟨hu, hc, hr⟩⟩
  case start =>
    intro s c r reads hu hc hr i clean
    have h : EntryRuns s c r := ⟨hu, hc, hr⟩
    refine ⟨exec_stage0Start_idle h reads, fun hb hi => ⟨fun hclean => sourceReads_clean hclean s, exec_stage0Start_reset h reads hb hi,
        exec_stage0Start_begins h reads hb hi⟩, fun hb hi hclean hrecv hstage hpos hred => ?_, fun hb hi hclean hrecv hstage hpos hop hne => ?_⟩
    · exact ⟨_, exec_stage0Start_clean h hb hi hclean, _, run_startStages_reduces hr hrecv hpos hstage hred, stageChunks_zero _ _⟩
    · exact ⟨_, exec_stage0Start_clean h hb hi hclean, _, run_startStages_barrier hr hrecv hpos hstage hop hne, rfl⟩
  case complete =>
    intro s c r x hu hc hr
    have h : EntryRuns s c r := ⟨hu, hc, hr⟩
    exact ⟨fun hno => by rw [exec_stageComplete h, completeStage_of_not_ready hr hno],
      fun hready h6 _ hx hcombine hstage => stageComplete_combines h hready h6 hx hcombine hstage⟩

end Sys2Proof.Machine
end

section
/-! Where a new record goes, and which record of a full ring it overwrites (R447). -/

namespace Sys2Proof.Machine

/-! ## Severities -/

/-- Only FATAL is as severe as FATAL. -/
theorem eq_fatal_of_code_le {v : Severity} (h : Severity.code v ≤ Severity.code .fatal) : v = .fatal := by
  cases v with
  | fatal => rfl
  | error | warning | notice | info => exact absurd h (by decide)

/-! ## The ring -/

/-- A record of the ring stays in its place unless the new one overwrites its number, which it does of a record no more severe only. -/
theorem writeRecord_getElem? {r : Raise} {s : State} {j : Nat} {x : EventRec} (hx : s.evt.ring[j]? = some x)
    (hkeep : ∀ y ∈ s.evt.ring, y.seq = x.seq → ¬ Severity.code r.sev ≤ Severity.code y.raised.sev) :
    (writeRecord r s).evt.ring[j]? = some x := by
  by_cases hroom : s.evt.ring.length < 65536
  · rw [writeRecord_free r s hroom]
    exact List.getElem?_append_left (List.getElem?_eq_some_iff.mp hx).1 ▸ hx
  · rw [Nat.not_lt] at hroom
    cases hv : victim (Severity.code r.sev) s.evt.ring with
    | none => rw [writeRecord_drop r s hroom hv, hx]
    | some q =>
      obtain ⟨⟨y, hmem, hsev, rfl⟩, -⟩ := (victim_key _ _).1 q hv
      have hne : x.seq ≠ y.seq := fun h => hkeep y hmem h.symm hsev
      rw [writeRecord_full r s hroom _ hv]
      simp [hx, hne]

/-- A FATAL record, no other bearing its number, is overwritten by a FATAL record alone. -/
theorem writeRecord_keeps_fatal {r : Raise} {s : State} {j : Nat} {x : EventRec} (hx : s.evt.ring[j]? = some x) (hr : r.sev ≠ .fatal)
    (hfatal : ∀ y ∈ s.evt.ring, y.seq = x.seq → y.raised.sev = .fatal) : (writeRecord r s).evt.ring[j]? = some x :=
  writeRecord_getElem? hx fun y hmem hseq hle => hr (eq_fatal_of_code_le (hfatal y hmem hseq ▸ hle))

/-- Settles O26: the ring with room, the full ring with a record to overwrite and the full ring without one, each by the form that
`writeRecord` has in it. -/
theorem fullRingKeepsTheSevere : Obligations.FullRingKeepsTheSevere := by
  unfold Obligations.FullRingKeepsTheSevere
  intro s r
  refine ⟨?room, fun hfull => ⟨?overwrite, ?drop⟩, ?fatal⟩
  case room =>
    intro hroom
    rw [writeRecord_free r s hroom]
    exact ⟨rfl, rfl, rfl⟩
  case overwrite =>
    intro v hv hsev hlowest
    rw [writeRecord_full r s hfull _ (victim_some _ _ v hv hsev hlowest)]
    refine ⟨rfl, rfl, List.length_map _, fun j x hx => ?_⟩
    rw [List.getElem?_map, hx]
    rfl
  case drop =>
    intro hsevere
    rw [writeRecord_drop r s hfull (victim_none _ _ hsevere)]
    exact ⟨rfl, rfl, rfl, rfl⟩
  case fatal => exact fun j x hx _ hr hfatal => writeRecord_keeps_fatal hx hr hfatal

end Sys2Proof.Machine
end

section
/-! Commands of the mailboxes: how an accepted command is carried out, and what an answer and a response show of it (R323 to R325). -/

namespace Sys2Proof.Machine

open Sys2Proof.Certificates

variable {mb c : Nat} {s t : State}

/-! ## Bytes -/

@[simp] theorem leBytes_length (n : Nat) : ∀ x, (leBytes n x).length = n := by
  induction n with
  | zero => exact fun _ => rfl
  | succ n ih => exact fun x => congrArg (· + 1) (ih _)

@[simp] theorem eventBytes_length (e : EventRec) : (eventBytes e).length = 64 := by simp [eventBytes]

/-! ## Taking a command -/

/-- An accepted command is handed to its own meaning, on the state in which the scan has taken it (R325). -/
theorem command_accepted {is : Mailbox → Bool} {f : Nat → Mailbox → State → State} (h : Accepted mb c s) (hi : is (s.mailbox mb) = true) :
    command mb is f s = .next (f mb (s.mailbox mb) (taken mb s)) := by
  obtain ⟨⟨hmb, hscan, -, howner, hwait⟩, hrefusal⟩ := h
  rw [command_next mb is f s hmb hscan hi howner hwait]
  rw [taken] at hrefusal ⊢
  rw [hrefusal]

theorem hasCmd_of_accepted (h : Accepted mb c s) : hasCmd c (s.mailbox mb) = true := beq_iff_eq.mpr h.1.2.2.1

/-! ## The command until it is answered -/

/-- The mailbox still holds the command that `s` shows in it, and the other mailboxes are as they were. -/
structure HoldsCommand (mb : Nat) (s t : State) : Prop where
  cmd : (t.mailbox mb).cmd = (s.mailbox mb).cmd
  seq : (t.mailbox mb).seq = (s.mailbox mb).seq
  others : ∀ k, k ≠ mb → t.mailbox k = s.mailbox k

theorem taken_holdsCommand (mb : Nat) (s : State) : HoldsCommand mb s (taken mb s) := by
  refine ⟨?_, ?_, fun k hk => mailbox_onMailbox_ne s _ hk⟩ <;> rw [taken, mailbox_onMailbox]

theorem HoldsCommand.congr {u : State} (h : HoldsCommand mb s t) (hu : ∀ k, u.mailbox k = t.mailbox k) : HoldsCommand mb s u :=
  ⟨hu mb ▸ h.cmd, hu mb ▸ h.seq, fun k hk => (hu k).trans (h.others k hk)⟩

/-- What an answer shows (R323). -/
theorem HoldsCommand.answered (h : HoldsCommand mb s t) (status detail : Nat) : Answered mb status detail s (answer mb status detail t) := by
  refine ⟨?_, ?_, ?_, ?_, ?cmd, ?seq, fun k hk => (answer_mailbox_ne mb _ _ t hk).trans (h.others k hk)⟩ <;> rw [answer_mailbox]
  case cmd => exact h.cmd
  case seq => exact h.seq
  all_goals rfl

/-- What a response shows that fits the payload area (R322, R323). -/
theorem HoldsCommand.responds (h : HoldsCommand mb s t) {bytes : List Byte} (hfits : bytes.length ≤ 4032) :
    Responds mb bytes s (respond mb bytes t) := by
  have hmailbox := respond_mailbox mb bytes t
  rw [List.take_of_length_le hfits] at hmailbox
  refine ⟨⟨?_, ?_, ?_, ?_, ?cmd, ?seq, fun k hk => (respond_mailbox_ne mb _ t hk).trans (h.others k hk)⟩, ?_, ?payload⟩ <;> rw [hmailbox]
  case cmd => exact h.cmd
  case seq => exact h.seq
  case payload => exact Memory.readBytes_writeBytes bytes Memory.nil_wf 0
  all_goals rfl

/-! ## What an answer leaves -/

@[simp] theorem answer_evt (mb status detail : Nat) (s : State) : (answer mb status detail s).evt = s.evt := by rw [answer_host]

@[simp] theorem answer_nor (mb status detail : Nat) (s : State) : (answer mb status detail s).nor = s.nor := by rw [answer_host]

@[simp] theorem respond_evt (mb : Nat) (bytes : List Byte) (s : State) : (respond mb bytes s).evt = s.evt := by rw [respond_host]

@[simp] theorem respond_nor (mb : Nat) (bytes : List Byte) (s : State) : (respond mb bytes s).nor = s.nor := by rw [respond_host]

@[simp] theorem respond_sec (mb : Nat) (bytes : List Byte) (s : State) : (respond mb bytes s).sec = s.sec := by rw [respond_host]

/-- A response changes the host link alone. -/
theorem respond_onlyHost (mb : Nat) (bytes : List Byte) {s t : State} (h : OnlyHost s t) : OnlyHost s (respond mb bytes t) := by
  rw [OnlyHost] at h ⊢
  rw [respond_host, h]

end Sys2Proof.Machine
end

section
/-! What a recording stores, and the copy of records to the NOR event area (R359, R443, R447, R451). -/

namespace Sys2Proof.Machine

/-! ## Recording -/

theorem mem_storeRecord {size : Nat} {e x : EventRec} {ring l : List EventRec} (h : storeRecord size e ring = some l) (hx : x ∈ l) :
    x = e ∨ x ∈ ring := by
  unfold storeRecord at h
  split at h
  · cases h
    exact (List.mem_append.mp hx).symm.imp_left List.mem_singleton.mp
  · split at h
    · cases h
    · cases h
      obtain ⟨y, hy, rfl⟩ := List.mem_map.mp hx
      split
      · exact .inl rfl
      · exact .inr hy

/-- After a recording the ring holds what it held and, perhaps, the record of the next number. -/
theorem mem_writeRecord_ring {r : Raise} {s : State} {x : EventRec} (hx : x ∈ (writeRecord r s).evt.ring) :
    x ∈ s.evt.ring ∨ x.seq = s.evt.headSeq + 1 := by
  unfold writeRecord at hx
  dsimp only at hx
  split at hx
  · exact .inl hx
  · rename_i hstored
    exact (mem_storeRecord hstored hx).symm.imp_right fun h => by rw [h]

/-- The ring after a recording is the ring after its record is written: the sticky bits, the interrupts and the counts leave it. -/
theorem record_evt_ring (r : Raise) (s : State) :
    (record r s).evt.ring = (writeRecord { r with logical := s.logicalField r.src } s).evt.ring := by
  unfold record
  extract_lets r' s1 s2 s3 s4 c5 s5
  have hsticky : s2.evt.ring = s1.evt.ring := (each_setSticky r'.stickyBits s1).1
  have hirq : s3.evt = s2.evt := by
    simp only [s3]
    split
    · exact (irq_same 19 s2).1
    · rfl
  have hhealth : s4.evt = s3.evt := (countHealth_same _ _).1
  have htrip : s5.evt = s4.evt := by simp only [s5]; split <;> rfl
  have hattempt : ∀ u : State, (if u.inAttempt then { u with att := { u.att with raised := u.att.raised ++ [r'] } } else u).evt = u.evt := by
    intro u; split <;> rfl
  rw [hattempt, htrip, hhealth, hirq, hsticky]

theorem mem_record_ring {r : Raise} {s : State} {x : EventRec} (hx : x ∈ (record r s).evt.ring) :
    x ∈ s.evt.ring ∨ x.seq = s.evt.headSeq + 1 := mem_writeRecord_ring (record_evt_ring r s ▸ hx)

theorem record_nor_events (r : Raise) (s : State) : (record r s).nor.events = s.nor.events := by rw [record_only r s]

theorem record_sec (r : Raise) (s : State) : (record r s).sec = s.sec := by rw [record_only r s]

/-! ## The copy to the NOR event area -/

theorem mem_persistOne {e x : EventRec} {n : Nor} (hx : x ∈ (persistOne e n).events) : x = e ∨ x ∈ n.events := by
  unfold persistOne at hx
  split at hx
  · exact .inr hx
  · rename_i hstored
    exact mem_storeRecord hstored hx

/-- What the event area holds after a copy stood in it or was copied. -/
theorem mem_persistEach {x : EventRec} (l : List EventRec) {n : Nor} (hx : x ∈ (each persistOne l n).events) : x ∈ n.events ∨ x ∈ l := by
  induction l generalizing n with
  | nil => exact .inl hx
  | cons e l ih =>
    obtain h | h := ih hx
    · obtain rfl | h := mem_persistOne h
      · exact .inr List.mem_cons_self
      · exact .inl h
    · exact .inr (List.mem_cons_of_mem e h)

/-- A record that is copied changes the event area and its head, and nothing else of the NOR flash. -/
theorem persistOne_only (e : EventRec) (n : Nor) : ∃ events head, persistOne e n = { n with events := events, eventsHead := head } := by
  unfold persistOne
  split
  · exact ⟨_, _, rfl⟩
  · exact ⟨_, _, rfl⟩

theorem persistEach_only (l : List EventRec) (n : Nor) :
    ∃ events head, each persistOne l n = { n with events := events, eventsHead := head } := by
  induction l generalizing n with
  | nil => exact ⟨_, _, rfl⟩
  | cons e l ih =>
    obtain ⟨events, head, hone⟩ := persistOne_only e n
    obtain ⟨events', head', hrest⟩ := ih (persistOne e n)
    refine ⟨events', head', hrest.trans ?_⟩
    rw [hone]

/-- The end of a copy changes the recorder, and in the NOR flash the event area, its head and the sticky map. -/
theorem persistTo_only (hi : Nat) (s : State) : let t := persistTo hi s
    t = { s with evt := t.evt, nor := { s.nor with events := t.nor.events, eventsHead := t.nor.eventsHead, sticky := t.nor.sticky } } := by
  obtain ⟨events, head, hcopied⟩ := persistEach_only (s.unpersisted hi) s.nor
  unfold persistTo
  rw [hcopied]

theorem persistOne_events_of_room {e : EventRec} {n : Nor} (h : n.events.length < 524288) :
    (persistOne e n).events = n.events ++ [e] := by
  rw [persistOne, storeRecord, if_pos h]

/-- With room in the event area for all of them, records that are copied are appended in order. -/
theorem persistEach_events_of_room (l : List EventRec) {n : Nor} (h : n.events.length + l.length ≤ 524288) :
    (each persistOne l n).events = n.events ++ l := by
  induction l generalizing n with
  | nil => exact (List.append_nil _).symm
  | cons e l ih =>
    rw [List.length_cons] at h
    have hone : (persistOne e n).events = n.events ++ [e] := persistOne_events_of_room (by omega)
    rw [each, ih (by rw [hone, List.length_append, List.length_singleton]; omega), hone, List.append_assoc, List.singleton_append]

theorem mem_persistAll_events {s : State} {x : EventRec} (hx : x ∈ (persistAll s).nor.events) : x ∈ s.nor.events ∨ x ∈ s.evt.ring := by
  refine (mem_persistEach _ hx).imp_right fun h => ?_
  rw [State.unpersisted, List.mem_mergeSort] at h
  exact (List.mem_filter.mp h).1

end Sys2Proof.Machine
end

section
/-! What the host reads and clears of the recorder: READ_EVENTS, CLEAR_EVENTS, CLEAR_STICKY, and the copy that makes it last (R348, R358, R359,
R450 to R452). -/

namespace Sys2Proof.Machine

open Sys2Proof.Certificates

variable {mb : Nat} {s : State}

/-! ## READ_EVENTS -/

theorem recordsFrom_length_le (store : List EventRec) (first n : Nat) : (recordsFrom store first n).length ≤ n := List.length_take_le ..

theorem eventList_length (l : List EventRec) : ((l.map eventBytes).flatten).length = 64 * l.length := by
  induction l with
  | nil => rfl
  | cons e l ih => simp only [List.map_cons, List.flatten_cons, List.length_append, eventBytes_length, ih, List.length_cons]; omega

/-- The store that SOURCE names (R450). -/
def sourceStore (m : Mailbox) (s : State) : List EventRec := if m.arg 0 1 = 0 then s.evt.ring else s.nor.events

/-- The response to READ_EVENTS (R450). -/
def readResponse (m : Mailbox) (s : State) : List Byte :=
  leBytes 8 (headOf (sourceStore m s)) ++ leBytes 4 (recordsFrom (sourceStore m s) (m.arg 8 8) (m.arg 2 2)).length ++ leBytes 52 0 ++
    ((recordsFrom (sourceStore m s) (m.arg 8 8) (m.arg 2 2)).map eventBytes).flatten

theorem readResponse_fits {m : Mailbox} (h : m.arg 2 2 ≤ 62) (s : State) : (readResponse m s).length ≤ 4032 := by
  have := recordsFrom_length_le (sourceStore m s) (m.arg 8 8) (m.arg 2 2)
  simp only [readResponse, List.length_append, leBytes_length, eventList_length]
  omega

theorem runReadEvents_of_fits {m : Mailbox} (hsource : m.arg 0 1 ≤ 1) (hrsv : m.arg 1 1 = 0) (hmin : 1 ≤ m.arg 2 2) (hmax : m.arg 2 2 ≤ 62)
    (hrsv' : m.arg 4 4 = 0) (s : State) : runReadEvents mb m s = respond mb (readResponse m s) s := by
  unfold runReadEvents
  dsimp only
  rw [if_neg (by omega), if_neg (by omega), if_neg (by omega), if_neg (by omega)]
  rfl

theorem exec_readEvents (h : Accepted mb 0x60 s) (hsource : (s.mailbox mb).arg 0 1 ≤ 1) (hrsv : (s.mailbox mb).arg 1 1 = 0)
    (hmin : 1 ≤ (s.mailbox mb).arg 2 2) (hmax : (s.mailbox mb).arg 2 2 ≤ 62) (hrsv' : (s.mailbox mb).arg 4 4 = 0) :
    exec (.readEvents mb) s = .next (respond mb (readResponse (s.mailbox mb) s) (taken mb s)) :=
  (command_accepted h (hasCmd_of_accepted h)).trans (congrArg _ (runReadEvents_of_fits hsource hrsv hmin hmax hrsv' _))

/-! ## CLEAR_EVENTS: the nonce -/

/-- The state in which the next free value is the nonce of a clear. -/
def nonceGiven (s : State) : State :=
  { s with freeCtr := s.freeCtr + 1, sec := { s.sec with nonceClear := some (Config.freeValue s.freeCtr) } }

theorem exec_clearEventsNonce (h : Accepted mb 0x61 s) (hsub : (s.mailbox mb).subop = 0) : exec (.clearEventsNonce mb) s =
    .next (respond mb (leBytes 16 (Config.freeValue s.freeCtr).toNat) (nonceGiven (taken mb s))) := by
  show execClearEventsNonce mb s = _
  exact command_accepted h (by simp [hasCmd_of_accepted h, hsub])

/-! ## CLEAR_EVENTS: the clear -/

/-- The state in which the nonce of a clear is spent. -/
def nonceSpent (s : State) : State := { s with sec := { s.sec with nonceClear := none } }

/-- The state without the records of a range, of which a clear is recorded. -/
def withoutRange (first last : Nat) (s : State) : State := { s with
  evt := { s.evt with ring := s.evt.ring.filter (outside first last), clear := none }
  nor := { s.nor with events := s.nor.events.filter (outside first last) } }

/-- The signed bytes of a clear: serial number, nonce and range (R452). -/
def clearSigned (m : Mailbox) (s : State) : List Byte := leBytes 16 s.nor.serial.toNat ++ m.argBytes 20 16 ++ m.argBytes 4 16

/-- The signature of a clear verifies under a key (R348, R452). -/
def clearVerifies (k : List Byte) (m : Mailbox) (s : State) : Bool :=
  Config.ecdsaVerify k (Config.sha384 (clearSigned m s)) (sigOf (m.argBytes 44 96))

theorem outside_iff {first last : Nat} {e : EventRec} : outside first last e = true ↔ e.seq < first ∨ last < e.seq := by simp [outside]

/-- EVENTS_CLEARED is recorded without the records of the range, and the stores are copied, before the answer. -/
theorem applyClear_eq (mb first last : Nat) (key : Word64) (s : State) : ∃ r n, r.cond = .eventsCleared ∧
    applyClear mb first last key s = respond mb (leBytes 8 n) (persistAll (record r (withoutRange first last s))) :=
  ⟨Raise.of .eventsCleared .device first last key.toNat _, _, rfl, rfl⟩

section
variable {r : Raise} {first last : Nat} {e : EventRec}

/-- The ring after a clear: records outside the range, and the one of the clear itself. -/
theorem mem_ring_of_cleared (h : e ∈ (record r (withoutRange first last s)).evt.ring) :
    (e.seq < first ∨ last < e.seq) ∨ e.seq = s.evt.headSeq + 1 :=
  (mem_record_ring h).imp_left fun hmem => outside_iff.mp (List.mem_filter.mp hmem).2

/-- The NOR event area after a clear holds no more of the range than the ring. -/
theorem mem_events_of_cleared (h : e ∈ (persistAll (record r (withoutRange first last s))).nor.events) :
    (e.seq < first ∨ last < e.seq) ∨ e.seq = s.evt.headSeq + 1 := by
  obtain hmem | hmem := mem_persistAll_events h
  · rw [record_nor_events] at hmem
    exact .inl (outside_iff.mp (List.mem_filter.mp hmem).2)
  · exact mem_ring_of_cleared hmem

end

/-- The checks of a clear before its signature, in their order: with all of them kept, the verdict on the signature decides. -/
theorem runClearEventsClear_of_fits {m : Mailbox} {k : List Byte} (hsub : m.subop = 1) (hrange : m.arg 4 8 ≤ m.arg 12 8)
    (hhead : m.arg 12 8 ≤ s.eventHead) (hkey : keyFor s.nor.clearKeys (m.arg 36 8) = some k)
    (hnonce : s.sec.nonceClear = some (BitVec.ofNat 128 (leNat (m.argBytes 20 16)))) :
    runClearEventsClear mb m s =
      if !clearVerifies k m s then answer mb stAuthFail 0 (nonceSpent s)
      else if s.evt.copying.isSome then
        setWait mb .copy { nonceSpent s with
          evt := { s.evt with clear := some (m.arg 4 8, m.arg 12 8, BitVec.ofNat 64 (m.arg 36 8), mb) } }
      else applyClear mb (m.arg 4 8) (m.arg 12 8) (BitVec.ofNat 64 (m.arg 36 8)) (nonceSpent s) := by
  unfold runClearEventsClear
  dsimp only
  rw [if_neg (not_not.mpr hsub), if_neg (by omega), if_neg (by omega), hkey]
  dsimp only
  rw [if_neg (not_not.mpr hnonce)]
  rfl

/-- A clear whose checks up to the signature are kept, in the mailbox in which it stands. -/
structure ClearStands (mb : Nat) (k : List Byte) (s : State) : Prop where
  accepted : Accepted mb 0x61 s
  subop : (s.mailbox mb).subop = 1
  range : (s.mailbox mb).arg 4 8 ≤ (s.mailbox mb).arg 12 8
  head : (s.mailbox mb).arg 12 8 ≤ s.eventHead
  key : keyFor s.nor.clearKeys ((s.mailbox mb).arg 36 8) = some k
  nonce : s.sec.nonceClear = some (BitVec.ofNat 128 (leNat ((s.mailbox mb).argBytes 20 16)))

namespace ClearStands
variable {k : List Byte} (h : ClearStands mb k s)
include h

theorem exec_next : exec (.clearEventsClear mb) s = .next (runClearEventsClear mb (s.mailbox mb) (taken mb s)) := by
  show execClearEventsClear mb s = _
  exact command_accepted h.accepted (by simp [hasCmd_of_accepted h.accepted, h.subop])

theorem exec_bad (hbad : clearVerifies k (s.mailbox mb) s = false) :
    exec (.clearEventsClear mb) s = .next (answer mb stAuthFail 0 (nonceSpent (taken mb s))) := by
  rw [h.exec_next, runClearEventsClear_of_fits (s := taken mb s) h.subop h.range h.head h.key h.nonce, if_pos]
  exact congrArg (!·) hbad

theorem exec_good (hgood : clearVerifies k (s.mailbox mb) s = true) (hcopy : s.evt.copying = none) : exec (.clearEventsClear mb) s =
    .next (applyClear mb ((s.mailbox mb).arg 4 8) ((s.mailbox mb).arg 12 8) (BitVec.ofNat 64 ((s.mailbox mb).arg 36 8))
      (nonceSpent (taken mb s))) := by
  have hverdict : clearVerifies k (s.mailbox mb) (taken mb s) = true := hgood
  have hidle : (taken mb s).evt.copying = none := hcopy
  rw [h.exec_next, runClearEventsClear_of_fits (s := taken mb s) h.subop h.range h.head h.key h.nonce, hverdict, hidle]
  rfl

end ClearStands

/-- The clear that is carried out: answered, its nonce spent, its range gone from both stores but for the new record, EVENTS_CLEARED in the
sticky map of both (R452). -/
theorem applyClear_completes {first last : Nat} {key : Word64} {u : State} (hu : HoldsCommand mb s u) (hevt : u.evt = s.evt)
    (hnonce : u.sec.nonceClear = none) : let t := applyClear mb first last key u
    Answered mb 0 0 s t ∧ t.sec.nonceClear = none ∧
    (∀ e ∈ t.evt.ring, (e.seq < first ∨ last < e.seq) ∨ e.seq = s.evt.headSeq + 1) ∧
    (∀ e ∈ t.nor.events, (e.seq < first ∨ last < e.seq) ∨ e.seq = s.evt.headSeq + 1) ∧
    t.evt.sticky.getLsbD (Cond.code .eventsCleared) = true ∧ t.nor.sticky = t.evt.sticky := by
  obtain ⟨r, n, hcond, happly⟩ := applyClear_eq mb first last key u
  dsimp only
  rw [happly, respond_evt, respond_nor, respond_sec, ← hevt]
  have hholds : HoldsCommand mb s (persistAll (record r (withoutRange first last u))) := hu.congr fun k => record_mailbox r _ k
  refine ⟨(hholds.responds (by simp)).1, ?_, fun e he => mem_ring_of_cleared he, fun e he => mem_events_of_cleared he, ?_, rfl⟩
  · exact (congrArg Secrets.nonceClear (record_sec r _)).trans hnonce
  · exact hcond ▸ record_sets_cond r (withoutRange first last u)

/-! ## CLEAR_STICKY -/

/-- The mask of CLEAR_STICKY, on the whole map (R348). -/
def clearMask (m : Mailbox) : BitVec 32768 := BitVec.ofNat 32768 (m.arg 8 (m.arg 4 4) * 2 ^ (8 * m.arg 0 4))

/-- The state with the bits of a mask cleared. -/
def maskedOff (mask : BitVec 32768) (s : State) : State := { s with evt := { s.evt with sticky := s.evt.sticky &&& ~~~mask } }

/-- How many bits of the map a mask clears. -/
def bitsCleared (mask : BitVec 32768) (s : State) : Nat := countBits 32768 (s.evt.sticky &&& mask).toNat

/-- The raising of CLEAR_STICKY (R444). -/
def stickyClearedRaise (m : Mailbox) (s : State) : Raise :=
  Raise.of .stickyCleared .device (m.arg 0 4) (m.arg 4 4) (bitsCleared (clearMask m) s) 0

theorem runClearSticky_of_fits {m : Mailbox} (hmin : 1 ≤ m.arg 4 4) (hmax : m.arg 4 4 ≤ 4024) (hend : m.arg 0 4 + m.arg 4 4 ≤ 4096)
    (s : State) : runClearSticky mb m s = respond mb (leBytes 4 (bitsCleared (clearMask m) s))
      (record (stickyClearedRaise m s) (maskedOff (clearMask m) s)) := by
  unfold runClearSticky
  dsimp only
  rw [if_neg (by omega), if_neg (by omega), raise_of_note rfl]
  rfl

theorem exec_clearSticky (h : Accepted mb 0x62 s) (hmin : 1 ≤ (s.mailbox mb).arg 4 4) (hmax : (s.mailbox mb).arg 4 4 ≤ 4024)
    (hend : (s.mailbox mb).arg 0 4 + (s.mailbox mb).arg 4 4 ≤ 4096) : exec (.clearSticky mb) s =
      .next (respond mb (leBytes 4 (bitsCleared (clearMask (s.mailbox mb)) s))
        (record (stickyClearedRaise (s.mailbox mb) s) (maskedOff (clearMask (s.mailbox mb)) (taken mb s)))) :=
  (command_accepted h (hasCmd_of_accepted h)).trans (congrArg _ (runClearSticky_of_fits hmin hmax hend _))

/-- The map after a clear: the bits of the mask are gone, and STICKY_CLEARED stands in it (R358, R359). -/
theorem clearSticky_bit (mask : BitVec 32768) (m : Mailbox) (u s : State) {b : Nat} (hb : b < 32768) :
    (record (stickyClearedRaise m u) (maskedOff mask s)).evt.sticky.getLsbD b =
      ((s.evt.sticky.getLsbD b && !mask.getLsbD b) || b == Cond.code .stickyCleared) := by
  rw [record_sticky _ _ hb]
  simp [maskedOff, stickyClearedRaise, Raise.stickyBits, Raise.of, Source.stickyBit, hb, beq_eq_decide]

/-! ## EVENT_PERSIST -/

theorem exec_eventPersist (hscan : s.scanning = true) (hcopy : s.evt.copying = none) : exec (.eventPersist false) s =
    .next { s with evt := { s.evt with copying := some s.evt.headSeq, copyDue := false } } := by
  show execEventPersist false s = _
  simp [execEventPersist, hscan, hcopy]

theorem exec_eventPersistComplete {hi : Nat} (hcopy : s.evt.copying = some hi) (hclear : s.evt.clear = none) :
    exec .eventPersistComplete s = .next (persistTo hi { s with evt := { s.evt with copying := none } }) := by
  show execEventPersistComplete s = _
  unfold execEventPersistComplete
  rw [hcopy]
  dsimp only
  rw [show (persistTo hi { s with evt := { s.evt with copying := none } }).evt.clear = none from hclear]

/-- Settles O40, command by command: each clause is what the lemmas about its command say. -/
theorem eventStores : Obligations.EventStores := by
  unfold Obligations.EventStores
  refine ⟨?read, ?nonce, ?clear, ?sticky, ?persist, ?persisted⟩
  case read =>
    intro s mb h m hsource hrsv hmin hmax hrsv' store l
    exact ⟨_, exec_readEvents h hsource hrsv hmin hmax hrsv', respond_onlyHost _ _ rfl,
      (taken_holdsCommand mb s).responds (readResponse_fits hmax s)⟩
  case nonce =>
    intro s mb h hsub
    have hholds : HoldsCommand mb s (nonceGiven (taken mb s)) := (taken_holdsCommand mb s).congr fun _ => rfl
    refine ⟨_, exec_clearEventsNonce h hsub, hholds.responds (by simp), ?_, ?_⟩
    · rw [respond_sec]
      rfl
    · rw [respond_host]
      rfl
  case clear =>
    intro s mb k h m hsub hrange hhead hkey hnonce signed good
    have hstands : ClearStands mb k s := ⟨h, hsub, hrange, hhead, hkey, hnonce⟩
    have hholds : HoldsCommand mb s (nonceSpent (taken mb s)) := (taken_holdsCommand mb s).congr fun _ => rfl
    refine ⟨fun hgood hcopy => ⟨_, hstands.exec_good hgood hcopy, applyClear_completes hholds rfl rfl⟩, fun hbad => ?_⟩
    exact ⟨_, hstands.exec_bad hbad, hholds.answered 5 0, answer_evt .., answer_nor ..⟩
  case sticky =>
    intro s mb h m hmin hmax hend mask
    refine ⟨_, exec_clearSticky h hmin hmax hend, fun b hb => ?_, ?_⟩
    · rw [respond_evt]
      exact clearSticky_bit _ _ _ _ hb
    · have hholds : HoldsCommand mb s (record (stickyClearedRaise (s.mailbox mb) s) (maskedOff (clearMask (s.mailbox mb)) (taken mb s))) :=
        (taken_holdsCommand mb s).congr fun k => record_mailbox _ _ k
      exact hholds.responds (bytes := leBytes 4 (bitsCleared (clearMask (s.mailbox mb)) s)) (by simp)
  case persist => exact fun s hscan hcopy => exec_eventPersist hscan hcopy
  case persisted =>
    intro s hi hcopy hclear hroom
    refine ⟨_, exec_eventPersistComplete hcopy hclear, ?_, rfl, rfl, ?_⟩
    · exact persistEach_events_of_room (s.unpersisted hi) hroom
    · exact persistTo_only hi { s with evt := { s.evt with copying := none } }

end Sys2Proof.Machine
end
